-- ==== Sys2Proof/Word.lean ====
section
/-! DEFINITION. The machine's words, and the shape of sparse data. -/

namespace Sys2Proof

/-- A 64-bit register, address or memory word. Bit 0 is the least significant bit (R6). -/
abbrev Word := BitVec 64

/-- One byte of memory. -/
abbrev Byte := BitVec 8

/-- Data of large extent, listed by key in rising order with no entry equal to the default; the
operations stand in `Machine/Sparse.lean`. -/
abbrev Sparse (α : Type) := List (Nat × α)

end Sys2Proof
end

