-- ==== Sys2Proof/Syntax.lean ====
section
/-! DEFINITION. The instructions of the AT8: one constructor for each row of the opcode table, with the
operands of an event or the fields of a word. -/

namespace Sys2Proof

/-- The three instruction streams of a core (R224). -/
inductive StreamKind
  | a | x | m
  deriving DecidableEq, Repr

/-- The tile registers' users, and the heads a stall watchdog watches (R235, R316). -/
inductive EngineKind
  | a | x | m | copy
  deriving DecidableEq, Repr

/-- The atomic operations of R382, in the order of field c. -/
inductive AmoOp
  | add | and | or | xor | min | max | minu | maxu | swap | cas | fadd | fmin | fmax
  deriving DecidableEq, Repr

/-- What a link's training measured (R20, R21): the worst-lane margin of each width and rate tried, and the preset. -/
structure TrainReport where
  margins : List (Nat × Nat × Nat)
  preset  : Nat
  deriving DecidableEq, Repr, Inhabited

/-- What verifying one firmware image gives (R28): each signature, the key digests, the image's SVN and
its SHA-384 digest. -/
structure ImageReport where
  rsaOk  : Bool
  slhOk  : Bool
  keysOk : Bool
  svn    : Nat
  digest : Nat
  deriving DecidableEq, Repr, Inhabited

/-- What the training of an internal link in bring-up used and measured (R20, R26): the attempts, the preset and the
margin. -/
structure LinkReport where
  link     : Nat
  attempts : Nat
  preset   : Nat
  margin   : Nat
  deriving DecidableEq, Repr, Inhabited

/-- What bring-up meets (R26): fuses readable, the two firmware images, what the internal links' trainings measured (one
attempt, preset 0 and margin 0 where nothing is reported), the first internal link that fails if any, and the
status-table clear. -/
structure BootReport where
  fuseOk   : Bool
  lodge    : ImageReport
  base     : ImageReport
  links    : List LinkReport
  badLink  : Option Nat
  memOk    : Bool
  deriving DecidableEq, Repr, Inhabited

/-- The errors a remote access meets at its home or on its way (R55, R306). -/
inductive RemoteErr
  | noroute | timeout | stale | owner | poison
  deriving DecidableEq, Repr

/-- What a remote request does at its home (R51, R270, R383); `poison` writes a granule back with poisoned ECC (R323). -/
inductive ReqKind
  | load
  | store (posted : Bool)
  | atomic (op : AmoOp) (returning : Bool) (operand expect : Word)
  | ldf (keep : Bool)
  | ste (keep : Bool)
  | arrive
  | poison
  deriving DecidableEq, Repr, Inhabited

/-- A remote request as it travels (R43, R52, R56): its source device, the source's identifier for it,
what it does, the physical address, the length and data, whether it is ordered, and the DTIME of issue. -/
structure RemoteReq where
  src     : Nat
  id      : Nat
  kind    : ReqKind
  pa      : Nat
  size    : Nat
  data    : List Byte
  ordered : Bool
  time    : Nat
  deriving DecidableEq, Repr, Inhabited

/-- How a remote request completes at its source (R55): with bytes, with bytes of a versioned page, which no cache
keeps (R275), or with an error. -/
inductive RemoteResult
  | data (bytes : List Byte)
  | versioned (bytes : List Byte)
  | err (e : RemoteErr)
  deriving DecidableEq, Repr

/-- What a fabric packet on its way is, as far as a router reads it (R45, R47, R48). -/
inductive PacketClass
  | request | response | noroute | management | arbour
  deriving DecidableEq, Repr, Inhabited

/-- A fabric packet reaching a device on its path (R45, R47, R48): the hops it has made, and the devices its header
still names. -/
structure FabPacket where
  src   : Nat
  dst   : Nat
  hop   : Nat
  route : List Nat
  cls   : PacketClass
  id    : Nat
  time  : Nat
  deriving DecidableEq, Repr, Inhabited

/-- The service class of a request at a pseudo-channel (R75). -/
inductive PcClass
  | normal | deadline (td : Nat) | sweep
  deriving DecidableEq, Repr

/-- Where a request at a pseudo-channel comes from, which gives its class (R75): a Pergola endpoint at a DTIME (R100), a
context save or restore whose save started at a DTIME (R188), the normaliser, or any other source. -/
inductive PcSource
  | other
  | pergola (time : Nat)
  | frame (start : Nat)
  | normaliser
  deriving DecidableEq, Repr

/-- What a request does at its cell (R73, R74). -/
inductive PcAction
  | read (size : Nat)
  | write (data : List Byte)
  | atomic (op : AmoOp) (operand expect : Word)
  | arrive
  | normalise
  deriving DecidableEq, Repr

/-- A request at a pseudo-channel: HBM offset, whether its page is versioned (with the page's base and size, R79), the
writer's core, or 512, and tag (R80), and the tl2 number of the core that it passes, 0 for none (R267). -/
structure PcReq where
  id     : Nat
  src    : PcSource
  off    : Nat
  act    : PcAction
  ver    : Option (Nat × Nat)
  core   : Nat
  tag    : Nat
  num    : Nat := 0
  deriving DecidableEq, Repr

/-- Where an ECC error is found (R323, R91). -/
inductive EccSite
  | cleanLine (pa : Nat)
  | dirtyLine (pa : Nat) (granules : List Nat)
  | committedSlot (off : Nat)
  | tentativeSlot (off : Nat)
  | metadata (off : Nat)
  | scratchpad (core off : Nat)
  | vector (core off : Nat)
  | tile (core off : Nat)
  | queue (core q idx : Nat)
  | hbm (off : Nat)
  deriving DecidableEq, Repr

/-- An Arbour message of 24 bytes (R137). -/
structure ArbMsg where
  w0 : Word
  w1 : Word
  w2 : Word
  deriving DecidableEq, Repr

/-- A domain share of a level-5 launch (R179): the root device, the packet's chain there, its sixteen
words, its enqueue time, and the attempt where it is transactional. -/
structure Share where
  root  : Nat
  chain : Nat
  words : List Word
  enq   : Nat
  dtid  : Nat
  att   : Nat
  td    : Nat
  pflags : BitVec 16
  deriving DecidableEq, Repr, Inhabited

/-- A tile executor's unit (R203): its level and its index at that level. -/
structure TileUnit where
  level : Nat
  index : Nat
  deriving DecidableEq, Repr, Inhabited

/-- A tile word reaching an executor other than by a TISSUE of this device: a level-5 word's copy on a
member (R208), with its issuer and what it carries (R206). -/
structure TileArrival where
  unit   : TileUnit
  word   : BitVec 256
  core   : Nat
  tag    : Nat
  att    : Nat
  strict : Bool
  txn    : Bool
  chain  : Nat
  src    : Nat
  id     : Nat
  dtid   : Option Nat
  key    : Nat
  ctr    : Nat
  deriving DecidableEq, Repr, Inhabited

/-- Which cache a line write-back or eviction concerns (R258). -/
inductive CacheKind
  | l1 (core : Nat) | l2 (quad : Nat) | msc (stack : Nat)
  deriving DecidableEq, Repr

/-- The fields of a tile word after its op code (R345). -/
structure TileWord where
  level  : Nat
  strict : Bool
  txn    : Bool
  async  : Bool
  stop   : Bool
  rsv15  : Bool
  mode   : BitVec 16
  ho     : Nat
  ha     : Nat
  hb     : Nat
  hc     : Nat
  p0     : BitVec 32
  p1     : BitVec 32
  tl     : Nat
  rsv    : BitVec 28
  bar    : Word
  deriving DecidableEq, Repr

/-- The signals an event of the package brings: each event reads the fields its docstring names. A stream
word and a tile word read none of them. -/
structure Input where
  link   : Nat := 0
  die    : Nat := 0
  stack  : Nat := 0
  pc     : Nat := 0
  tag    : Nat := 0
  core   : Nat := 0
  stream : StreamKind := .a
  engine : EngineKind := .a
  slot   : Nat := 0
  chain  : Nat := 0
  dev    : Nat := 0
  node   : Nat := 0
  dtid   : Nat := 0
  att    : Nat := 0
  gid    : Nat := 0
  id     : Nat := 0
  off    : Nat := 0
  n      : Nat := 0
  t      : Nat := 0
  v      : Word := 0
  u      : Word := 0
  wr     : Bool := false
  flag   : Bool := false
  data   : List Byte := []
  vals   : List (BitVec 32) := []
  nats   : List Nat := []
  train  : TrainReport := default
  boot   : BootReport := default
  req    : RemoteReq := default
  result : RemoteResult := .data []
  results : List RemoteResult := []
  err    : Option RemoteErr := none
  pkt    : FabPacket := default
  arr    : List PcReq := []
  site   : EccSite := .hbm 0
  msg    : ArbMsg := ⟨0, 0, 0⟩
  share  : Share := default
  tile   : TileArrival := default
  cache  : CacheKind := .msc 0
  aims   : List (Nat × Nat × Bool × Nat) := []
  deriving DecidableEq, Repr

/-- One constructor for each row of the opcode table: the scalar and matrix-control words
(R334, R337); the vector words (R339, R340); the step words (R341); the tile words (R345); and the
events of the package (chapters 01 to 12), which read what the outside or an autonomous unit brings from
the state's `input`. -/
inductive Instr
  | add (d a b : Nat)
  | sub (d a b : Nat)
  | mul (d a b : Nat)
  | mulh (d a b : Nat)
  | mulhu (d a b : Nat)
  | div (d a b : Nat)
  | divu (d a b : Nat)
  | rem (d a b : Nat)
  | remu (d a b : Nat)
  | and (d a b : Nat)
  | or (d a b : Nat)
  | xor (d a b : Nat)
  | andn (d a b : Nat)
  | orn (d a b : Nat)
  | shl (d a b : Nat)
  | shr (d a b : Nat)
  | sra (d a b : Nat)
  | rol (d a b : Nat)
  | ror (d a b : Nat)
  | min (d a b : Nat)
  | max (d a b : Nat)
  | minu (d a b : Nat)
  | maxu (d a b : Nat)
  | slt (d a b : Nat)
  | sltu (d a b : Nat)
  | seq (d a b : Nat)
  | sel (d a b n : Nat)
  | clz (d a : Nat)
  | ctz (d a : Nat)
  | popc (d a : Nat)
  | brev (d a : Nat)
  | bswap (d a : Nat)
  | bfx (d a b c : Nat)
  | bfi (d a b c : Nat)
  | clmul (d a b : Nat)
  | clmulh (d a b : Nat)
  | fadd (d a b : Nat)
  | fsub (d a b : Nat)
  | fmul (d a b : Nat)
  | fma (d a b c : Nat)
  | fmin (d a b : Nat)
  | fmax (d a b : Nat)
  | fabs (d a : Nat)
  | fneg (d a : Nat)
  | fcmpeq (d a b : Nat)
  | fcmplt (d a b : Nat)
  | fcmple (d a b : Nat)
  | fcvtfi (d a cv : Nat)
  | fcvtif (d a cv : Nat)
  | pcmp (d a b cond : Nat)
  | pand (d a b : Nat)
  | por (d a b : Nat)
  | pnot (d a : Nat)
  | pmov (d a mode : Nat)
  | addi (d a : Nat) (imm : BitVec 16)
  | andi (d a : Nat) (imm : BitVec 16)
  | ori (d a : Nat) (imm : BitVec 16)
  | xori (d a : Nat) (imm : BitVec 16)
  | shli (d a sh : Nat)
  | shri (d a sh : Nat)
  | srai (d a sh : Nat)
  | slti (d a : Nat) (imm : BitVec 16)
  | sltiu (d a : Nat) (imm : BitVec 16)
  | li (d : Nat) (imm : BitVec 16)
  | lui (d : Nat) (imm : BitVec 16)
  | beq (a b : Nat) (off : BitVec 16)
  | bne (a b : Nat) (off : BitVec 16)
  | blt (a b : Nat) (off : BitVec 16)
  | bge (a b : Nat) (off : BitVec 16)
  | bltu (a b : Nat) (off : BitVec 16)
  | bgeu (a b : Nat) (off : BitVec 16)
  | j (off : BitVec 26)
  | jal (off : BitVec 26)
  | jr (d a : Nat) (imm : BitVec 16)
  | loop (d a len : Nat)
  | loops (d a st len : Nat)
  | ldb (d b p : Nat) (post sx : Bool) (off : BitVec 10)
  | ldh (d b p : Nat) (post sx : Bool) (off : BitVec 10)
  | ldw (d b p : Nat) (post sx : Bool) (off : BitVec 10)
  | ldd (d b p : Nat) (post : Bool) (off : BitVec 10)
  | stb (d b p : Nat) (post : Bool) (sc : Nat) (off : BitVec 10)
  | sth (d b p : Nat) (post : Bool) (sc : Nat) (off : BitVec 10)
  | stw (d b p : Nat) (post : Bool) (sc : Nat) (off : BitVec 10)
  | std (d b p : Nat) (post : Bool) (sc : Nat) (off : BitVec 10)
  | ldq (q b p : Nat) (post w : Bool) (off : BitVec 10)
  | stq (q b p : Nat) (post w : Bool) (off : BitVec 10)
  | ldf (d b p : Nat) (post sys keep : Bool) (off : BitVec 10)
  | ste (d b p : Nat) (post sys keep : Bool) (off : BitVec 10)
  | tagset (d b p : Nat) (post : Bool) (off : BitVec 10)
  | tagclr (d b p : Nat) (post : Bool) (off : BitVec 10)
  | rld (d b p : Nat) (post ord : Bool) (off : BitVec 10)
  | rst (d b p : Nat) (post ord : Bool) (off : BitVec 10)
  | rsta (d b p : Nat) (post ord : Bool) (off : BitVec 10)
  | amo (d a b op : Nat)
  | amor (d a b op : Nat)
  | mcst (d a b set : Nat)
  | cpy (d a b sc : Nat)
  | cpyc (d a b sc : Nat)
  | cpyx (a : Nat)
  | cpyq (d a : Nat)
  | lrec (a b lvl : Nat)
  | fence (sc : Nat)
  | rel (sc : Nat)
  | acq (sc : Nat)
  | inv (a : Nat) (all : Bool) (sc : Nat)
  | tlwait (a n : Nat)
  | tlread (d n sel : Nat)
  | barv (d a sc : Nat)
  | bwait (a b sc : Nat)
  | pref (a lvl : Nat)
  | bqpush (a : Nat)
  | bqpop (d : Nat)
  | bqpeek (d : Nat) (nb : Bool)
  | qskip (d a q : Nat) (nb : Bool)
  | qpop (d q n : Nat)
  | qpush (q a : Nat)
  | txbegin (d : Nat)
  | txvote (a : Nat)
  | txwait (d : Nat)
  | txabort
  | txread (d a sel : Nat)
  | trap (imm : BitVec 20)
  | eret
  | csrr (d csr : Nat)
  | csrw (d a csr : Nat)
  | csrs (d a csr : Nat)
  | csrc (d a csr : Nat)
  | exit
  | spawn (d a b : Nat)
  | tissue (d a : Nat)
  | tfence
  | brkd
  | nop
  | mloop (n a fld : Nat)
  | mcfg (a fld : Nat)
  | mgo (d a : Nat)
  | mstat (d sel : Nat)
  | mabort (d : Nat)
  | vadd (vd va vb : Nat) (nf mk : Bool)
  | vsub (vd va vb : Nat) (nf mk : Bool)
  | vmul (vd va vb : Nat) (nf mk : Bool)
  | vfma (vd va vb : Nat) (nf mk : Bool)
  | vfms (vd va vb : Nat) (nf mk : Bool)
  | vfnma (vd va vb : Nat) (nf mk : Bool)
  | vmin (vd va vb : Nat) (nf mk : Bool)
  | vmax (vd va vb : Nat) (nf mk : Bool)
  | vabs (vd va : Nat) (nf mk : Bool)
  | vneg (vd va : Nat) (nf mk : Bool)
  | vrcp (vd va : Nat) (nf mk : Bool)
  | vrsq (vd va : Nat) (nf mk : Bool)
  | vsqrt (vd va : Nat) (nf mk : Bool)
  | vexp2 (vd va : Nat) (nf mk : Bool)
  | vlog2 (vd va : Nat) (nf mk : Bool)
  | vdiv (vd va vb : Nat) (nf mk : Bool)
  | viadd (vd va vb : Nat) (nf mk : Bool)
  | visub (vd va vb : Nat) (nf mk : Bool)
  | vimul (vd va vb : Nat) (nf mk : Bool)
  | vimulh (vd va vb : Nat) (nf mk : Bool)
  | vand (vd va vb : Nat) (nf mk : Bool)
  | vor (vd va vb : Nat) (nf mk : Bool)
  | vxor (vd va vb : Nat) (nf mk : Bool)
  | vshl (vd va vb : Nat) (nf mk : Bool)
  | vshr (vd va vb : Nat) (nf mk : Bool)
  | vsra (vd va vb : Nat) (nf mk : Bool)
  | vimin (vd va vb : Nat) (nf mk : Bool)
  | vimax (vd va vb : Nat) (nf mk : Bool)
  | vcmp (vd va vb : Nat) (nf mk : Bool) (cond : Nat)
  | vsel (vd va vb : Nat) (nf mk : Bool)
  | vcvt (vd va vb : Nat) (nf mk : Bool) (src dst mode : Nat) (sat : Bool)
  | vpack (vd va vb : Nat) (nf mk : Bool) (src dst mode : Nat) (sat : Bool)
  | vunpk (vd va : Nat) (nf mk : Bool) (src dst : Nat) (half : Bool)
  | vperm (vd va vb : Nat) (nf mk : Bool)
  | vshuf (vd va vb : Nat) (nf mk : Bool) (pat k : Nat)
  | vbcast (vd a : Nat) (nf mk : Bool)
  | vreds (vd va : Nat) (nf mk : Bool) (op : Nat)
  | vscan (vd va vb : Nat) (nf mk : Bool) (op : Nat)
  | vclmul (vd va vb : Nat) (nf mk : Bool)
  | vrng (vd va : Nat) (nf mk : Bool)
  | vpop (vd q : Nat) (m : Bool) (n : Nat) (nf : Bool)
  | vpush (q va : Nat) (nf : Bool)
  | vmovt (vd va : Nat) (sfx dir : Bool)
  | vldi (vd : Nat) (nf mk : Bool) (imm : BitVec 32)
  | vshape (a : Nat) (nf : Bool) (ew len : Nat) (tv : Bool) (tsel : Nat)
  | mpush (n : Nat) (nf : Bool)
  | minv (nf : Bool)
  | mpop (nf : Bool)
  | mset (n va : Nat) (nf mk : Bool)
  | bmz (off : BitVec 32)
  | bmnz (off : BitVec 32)
  | vfrd (vd : Nat) (nf : Bool)
  | vfclr
  | mget (n : Nat) (nf : Bool)
  | mldw (p : Bool) (fmt : Nat) (mx s : Bool) (pl : Nat)
  | mmac (p : Bool) (af : Nat) (ac : Bool)
  | mmacs (p : Bool) (af : Nat) (ac : Bool)
  | mdrn (p dt cc ov : Bool)
  | mzero (p ov : Bool)
  | mcmp (p one : Bool) (fmt : Nat) (sc : Bool)
  | mpred (cond lvl : Nat) (and inv : Bool)
  | msync
  | mend
  | mnop
  | tCopy (w : TileWord)
  | tFill (w : TileWord)
  | tEw (w : TileWord)
  | tMap (w : TileWord)
  | tRed (w : TileWord)
  | tScan (w : TileWord)
  | tCvt (w : TileWord)
  | tMma (w : TileWord)
  | tMmas (w : TileWord)
  | tCmp (w : TileWord)
  | tAmax (w : TileWord)
  | tRng (w : TileWord)
  | tOpt (w : TileWord)
  | tAr (w : TileWord)
  | tAg (w : TileWord)
  | tRs (w : TileWord)
  | tBc (w : TileWord)
  | tKern (w : TileWord)
  | tSig (w : TileWord)
  | tWaitev (w : TileWord)
  | linkTrainingDone
  | trainingAttemptTimeout
  | linkLossOfLock
  | internalLossOfLock
  | retrain
  | moduleReset
  | recoveryPackage
  | spdmRequest
  | pwrcapWrite
  | arbiterSample
  | throttleLevelApply
  | junctionTemperature
  | capClear
  | captureWindowEdge
  | captureEvent
  | remoteRequest
  | remoteAck
  | remoteResponse
  | fabricForward
  | requestExpiry
  | linkMapUpdate
  | timeMessageSend
  | timeMessage
  | fabtmoWrite
  | domainDigest
  | pcSelect
  | refreshDue
  | selfRefreshEntry
  | selfRefreshExit
  | eccError
  | statusWriteApply
  | statusWriteComplete
  | tagAllocation
  | normaliserSweepStart
  | normaliserSweepComplete
  | init
  | setacc
  | clracc
  | clrpoison
  | vmcmdIllegal
  | vmcmdComplete
  | register
  | deregister
  | query
  | collectiveIssue
  | chunkArrival
  | markArrival
  | planeCancel
  | slotTmoExpiry
  | collectiveTimeout
  | collectiveCancel
  | collectiveComplete
  | arbourVote
  | arbourNodeTimer
  | arbourDecision
  | attemptDeadline
  | attemptVote
  | attemptSettled
  | registerWrite
  | cxlReset
  | cxlMemAccess
  | ping
  | bind
  | unbind
  | domcfg
  | svnset
  | preempt
  | irtset
  | mbcmdIllegal
  | chainEnable
  | chtailWrite
  | tear
  | kill
  | packetFetch
  | waitPoll
  | packetComplete
  | slotSelect
  | domainShare
  | lateCheck
  | escalationRelease
  | escalationCancel
  | groupRetire
  | groupDrained
  | preemptionPoint
  | preemptTimeout
  | contextSave
  | contextSaveComplete
  | contextRestore
  | schcfgWrite
  | tileWordAccept
  | tileWordStart
  | childWordComplete
  | tileWordComplete
  | tileStop
  | regroupPlacement
  | amaxHistoryWrite
  | waitevPoll
  | queueStallRelease
  | tileAccessPerformed
  | taggedAccessPerformed
  | copyCommandStart
  | copyCommandComplete
  | copyCancelAck
  | nestStart
  | nestEnd
  | tlwaitComplete
  | barrierArrival
  | bwaitComplete
  | invComplete
  | stallWatchdog
  | halt
  | haltMessage
  | resume
  | dbgdataAccess
  | lineWriteBack
  | linkLevelReplay
  | hbmStackTemperature
  | invVc8Message
  deriving DecidableEq, Repr

end Sys2Proof
end

