-- ==== Sys2Proof/WellFormed.lean ====
section
/-! DEFINITION. Which instruction terms the encodings of the spec admit: register numbers inside their
files, selectors inside their lists, format combinations a word accepts; and which event operands name a
thing the package has. -/

namespace Sys2Proof

/-- PMOV's use of its register fields by mode (R359): a predicate number is 0 to 7, a field a mode
reserves is 0. -/
def pmovWf (d a mode : Nat) : Bool :=
  match mode with
  | 0 => decide (d < 8)
  | 1 => decide (a < 8)
  | 2 => decide (a = 0)
  | _ => decide (d = 0)

/-- The FMT, MX, S and PL combinations MLDW accepts (R435). -/
def mldwWf (fmt : Nat) (mx s : Bool) (pl : Nat) : Bool :=
  match fmt with
  | 1 => !mx && !s && decide (pl = 0)
  | 2 => decide (pl = 0)
  | 3 => decide (pl = 0)
  | 4 => mx && decide (pl = 0)
  | 16 => mx && decide (2 ≤ pl ∧ pl ≤ 8)
  | _ => false

/-- The element formats VCVT converts between (R407). -/
def cvtFormat (f : Nat) : Bool := decide (f ≤ 4 ∨ (6 ≤ f ∧ f ≤ 8))

/-- VPACK's format pairs, source first (R408); VUNPK's are the reverse (R409). -/
def packPair (src dst : Nat) : Bool :=
  decide ((src, dst) ∈ [(0, 1), (1, 2), (1, 3), (8, 7), (7, 6)])

/-- A tile word's fields fit their widths (R345). -/
def TileWord.wf (w : TileWord) : Bool :=
  decide (w.level < 8 ∧ w.ho < 65536 ∧ w.ha < 65536 ∧ w.hb < 65536 ∧ w.hc < 65536 ∧ w.tl < 16)

/-- A remote request names a device and a byte range of SPACE 1, inside one 32-byte granule that is no metadata, or
of SPACE 2 (R43, R52, R81); a tagged one acts on SPACE 2 (R270); a store brings its bytes. -/
def RemoteReq.wf (q : RemoteReq) : Bool :=
  let local1 := decide (q.pa / 2 ^ 54 = 1 ∧ q.pa / 2 ^ 39 % 2 ^ 9 = 0 ∧ q.pa / 2 ^ 33 % 64 < 63 ∧ q.pa % 32 + q.size ≤ 32)
  let spad := decide (q.pa / 2 ^ 54 = 2 ∧ q.pa % 2 ^ 21 + q.size ≤ 2 ^ 21)
  decide (q.src < 64 ∧ 0 < q.size) && (match q.kind with
    | .ldf _ => spad && decide (q.size = 8 ∧ q.pa % 8 = 0)
    | .ste _ => spad && decide (q.size = 8 ∧ q.pa % 8 = 0 ∧ q.data.length = 8)
    | .store _ => (local1 || spad) && decide (q.data.length = q.size)
    | .arrive => (local1 || spad) && decide (q.pa % 64 = 0 ∧ q.size = 12)
    | .poison => local1 && decide (q.pa % 32 = 0 ∧ q.size = 32)
    | _ => local1 || spad)

/-- A training report's margins and preset fit their fields (R20). -/
def TrainReport.wf (t : TrainReport) : Bool :=
  t.margins.all (fun m => decide (m.2.2 < 256)) && decide (t.preset ≤ 10)

/-- A boot report tells of internal links only, with values that fit their fields (R19, R20, R26). -/
def BootReport.wf (b : BootReport) : Bool :=
  let inner (i : Nat) : Bool := decide (i < 12 ∨ (58 ≤ i ∧ i < 62))
  b.links.all (fun r => inner r.link && decide (1 ≤ r.attempts ∧ r.attempts ≤ 3 ∧ r.preset ≤ 10 ∧ r.margin < 256)) &&
    b.badLink.all inner

/-- An ECC site names a core, a stack or an offset that exists. -/
def EccSite.wf : EccSite → Bool
  | .scratchpad core off => decide (core < 512 ∧ off < 2 ^ 21)
  | .vector core off => decide (core < 512 ∧ off < 2 ^ 18)
  | .tile core off => decide (core < 512 ∧ off < 40 * 32768)
  | .queue core q _ => decide (core < 512 ∧ q < 8)
  | .cleanLine pa => decide (pa < 2 ^ 56)
  | .dirtyLine pa _ => decide (pa < 2 ^ 56)
  | .committedSlot off => decide (off < 2 ^ 39)
  | .tentativeSlot off => decide (off < 2 ^ 39)
  | .metadata off => decide (off < 2 ^ 39)
  | .hbm off => decide (off < 2 ^ 39)

/-- A cache names a core, a quad or a stack. -/
def CacheKind.wf : CacheKind → Bool
  | .l1 core => decide (core < 512)
  | .l2 quad => decide (quad < 128)
  | .msc stack => decide (stack < 8)

/-- The instruction is well formed: each field lies in the range its encoding admits. -/
def wellFormed : Instr → Bool
  | .add d a b => decide (d < 32 ∧ a < 32 ∧ b < 32)
  | .sub d a b => decide (d < 32 ∧ a < 32 ∧ b < 32)
  | .mul d a b => decide (d < 32 ∧ a < 32 ∧ b < 32)
  | .mulh d a b => decide (d < 32 ∧ a < 32 ∧ b < 32)
  | .mulhu d a b => decide (d < 32 ∧ a < 32 ∧ b < 32)
  | .div d a b => decide (d < 32 ∧ a < 32 ∧ b < 32)
  | .divu d a b => decide (d < 32 ∧ a < 32 ∧ b < 32)
  | .rem d a b => decide (d < 32 ∧ a < 32 ∧ b < 32)
  | .remu d a b => decide (d < 32 ∧ a < 32 ∧ b < 32)
  | .and d a b => decide (d < 32 ∧ a < 32 ∧ b < 32)
  | .or d a b => decide (d < 32 ∧ a < 32 ∧ b < 32)
  | .xor d a b => decide (d < 32 ∧ a < 32 ∧ b < 32)
  | .andn d a b => decide (d < 32 ∧ a < 32 ∧ b < 32)
  | .orn d a b => decide (d < 32 ∧ a < 32 ∧ b < 32)
  | .shl d a b => decide (d < 32 ∧ a < 32 ∧ b < 32)
  | .shr d a b => decide (d < 32 ∧ a < 32 ∧ b < 32)
  | .sra d a b => decide (d < 32 ∧ a < 32 ∧ b < 32)
  | .rol d a b => decide (d < 32 ∧ a < 32 ∧ b < 32)
  | .ror d a b => decide (d < 32 ∧ a < 32 ∧ b < 32)
  | .min d a b => decide (d < 32 ∧ a < 32 ∧ b < 32)
  | .max d a b => decide (d < 32 ∧ a < 32 ∧ b < 32)
  | .minu d a b => decide (d < 32 ∧ a < 32 ∧ b < 32)
  | .maxu d a b => decide (d < 32 ∧ a < 32 ∧ b < 32)
  | .slt d a b => decide (d < 32 ∧ a < 32 ∧ b < 32)
  | .sltu d a b => decide (d < 32 ∧ a < 32 ∧ b < 32)
  | .seq d a b => decide (d < 32 ∧ a < 32 ∧ b < 32)
  | .sel d a b n => decide (d < 32 ∧ a < 32 ∧ b < 32 ∧ n < 8)
  | .clz d a => decide (d < 32 ∧ a < 32)
  | .ctz d a => decide (d < 32 ∧ a < 32)
  | .popc d a => decide (d < 32 ∧ a < 32)
  | .brev d a => decide (d < 32 ∧ a < 32)
  | .bswap d a => decide (d < 32 ∧ a < 32)
  | .bfx d a b c => decide (d < 32 ∧ a < 32 ∧ b < 32 ∧ c < 32)
  | .bfi d a b c => decide (d < 32 ∧ a < 32 ∧ b < 32 ∧ c < 32)
  | .clmul d a b => decide (d < 32 ∧ a < 32 ∧ b < 32)
  | .clmulh d a b => decide (d < 32 ∧ a < 32 ∧ b < 32)
  | .fadd d a b => decide (d < 32 ∧ a < 32 ∧ b < 32)
  | .fsub d a b => decide (d < 32 ∧ a < 32 ∧ b < 32)
  | .fmul d a b => decide (d < 32 ∧ a < 32 ∧ b < 32)
  | .fma d a b c => decide (d < 32 ∧ a < 32 ∧ b < 32 ∧ c < 32)
  | .fmin d a b => decide (d < 32 ∧ a < 32 ∧ b < 32)
  | .fmax d a b => decide (d < 32 ∧ a < 32 ∧ b < 32)
  | .fabs d a => decide (d < 32 ∧ a < 32)
  | .fneg d a => decide (d < 32 ∧ a < 32)
  | .fcmpeq d a b => decide (d < 32 ∧ a < 32 ∧ b < 32)
  | .fcmplt d a b => decide (d < 32 ∧ a < 32 ∧ b < 32)
  | .fcmple d a b => decide (d < 32 ∧ a < 32 ∧ b < 32)
  | .fcvtfi d a cv => decide (d < 32 ∧ a < 32 ∧ cv < 32 ∧ (cv % 8 ≤ 4 ∧ cv < 16))
  | .fcvtif d a cv => decide (d < 32 ∧ a < 32 ∧ cv < 32 ∧ cv % 8 ≤ 4)
  | .pcmp d a b cond => decide (d < 8 ∧ a < 32 ∧ b < 32 ∧ cond < 6)
  | .pand d a b => decide (d < 8 ∧ a < 8 ∧ b < 8)
  | .por d a b => decide (d < 8 ∧ a < 8 ∧ b < 8)
  | .pnot d a => decide (d < 8 ∧ a < 8)
  | .pmov d a mode => decide (d < 32 ∧ a < 32 ∧ mode < 4 ∧ pmovWf d a mode)
  | .addi d a _ => decide (d < 32 ∧ a < 32)
  | .andi d a _ => decide (d < 32 ∧ a < 32)
  | .ori d a _ => decide (d < 32 ∧ a < 32)
  | .xori d a _ => decide (d < 32 ∧ a < 32)
  | .shli d a sh => decide (d < 32 ∧ a < 32 ∧ sh < 64)
  | .shri d a sh => decide (d < 32 ∧ a < 32 ∧ sh < 64)
  | .srai d a sh => decide (d < 32 ∧ a < 32 ∧ sh < 64)
  | .slti d a _ => decide (d < 32 ∧ a < 32)
  | .sltiu d a _ => decide (d < 32 ∧ a < 32)
  | .li d _ => decide (d < 32)
  | .lui d _ => decide (d < 32)
  | .beq a b _ => decide (a < 32 ∧ b < 32)
  | .bne a b _ => decide (a < 32 ∧ b < 32)
  | .blt a b _ => decide (a < 32 ∧ b < 32)
  | .bge a b _ => decide (a < 32 ∧ b < 32)
  | .bltu a b _ => decide (a < 32 ∧ b < 32)
  | .bgeu a b _ => decide (a < 32 ∧ b < 32)
  | .j _ => true
  | .jal _ => true
  | .jr d a _ => decide (d < 32 ∧ a < 32)
  | .loop d a len => decide (d < 32 ∧ a < 32 ∧ len < 65536 ∧ 1 ≤ len)
  | .loops d a st len => decide (d < 32 ∧ a < 32 ∧ st < 8 ∧ len < 8192 ∧ (1 ≤ st ∧ 1 ≤ len))
  | .ldb d b p post _ _ => decide (d < 32 ∧ b < 32 ∧ p < 8 ∧ (post = true → d ≠ b))
  | .ldh d b p post _ _ => decide (d < 32 ∧ b < 32 ∧ p < 8 ∧ (post = true → d ≠ b))
  | .ldw d b p post _ _ => decide (d < 32 ∧ b < 32 ∧ p < 8 ∧ (post = true → d ≠ b))
  | .ldd d b p post _ => decide (d < 32 ∧ b < 32 ∧ p < 8 ∧ (post = true → d ≠ b))
  | .stb d b p _ sc _ => decide (d < 32 ∧ b < 32 ∧ p < 8 ∧ sc < 4)
  | .sth d b p _ sc _ => decide (d < 32 ∧ b < 32 ∧ p < 8 ∧ sc < 4)
  | .stw d b p _ sc _ => decide (d < 32 ∧ b < 32 ∧ p < 8 ∧ sc < 4)
  | .std d b p _ sc _ => decide (d < 32 ∧ b < 32 ∧ p < 8 ∧ sc < 4)
  | .ldq q b p _ _ _ => decide (q < 4 ∧ b < 32 ∧ p < 8)
  | .stq q b p _ _ _ => decide (q < 2 ∧ b < 32 ∧ p < 8)
  | .ldf d b p post _ _ _ => decide (d < 32 ∧ b < 32 ∧ p < 8 ∧ (post = true → d ≠ b))
  | .ste d b p _ _ _ _ => decide (d < 32 ∧ b < 32 ∧ p < 8)
  | .tagset d b p _ _ => decide (d < 32 ∧ b < 32 ∧ p < 8)
  | .tagclr d b p _ _ => decide (d < 32 ∧ b < 32 ∧ p < 8)
  | .rld d b p post _ _ => decide (d < 32 ∧ b < 32 ∧ p < 8 ∧ (post = true → d ≠ b))
  | .rst d b p _ _ _ => decide (d < 32 ∧ b < 32 ∧ p < 8)
  | .rsta d b p _ _ _ => decide (d < 32 ∧ b < 32 ∧ p < 8)
  | .amo d a b op => decide (d < 32 ∧ a < 32 ∧ b < 32 ∧ op < 13 ∧ (op = 9 ∨ d = 0))
  | .amor d a b op => decide (d < 32 ∧ a < 32 ∧ b < 32 ∧ op < 13)
  | .mcst d a b set => decide (d < 32 ∧ a < 32 ∧ b < 32 ∧ set < 8)
  | .cpy d a b sc => decide (d < 32 ∧ a < 32 ∧ b < 32 ∧ sc < 5)
  | .cpyc d a b sc => decide (d < 32 ∧ a < 32 ∧ b < 32 ∧ sc < 5)
  | .cpyx a => decide (a < 32)
  | .cpyq d a => decide (d < 32 ∧ a < 32)
  | .lrec a b lvl => decide (a < 32 ∧ b < 32 ∧ lvl < 6)
  | .fence sc => decide (sc < 5)
  | .rel sc => decide (sc < 5)
  | .acq sc => decide (sc < 5)
  | .inv a _ sc => decide (a < 32 ∧ sc < 5)
  | .tlwait a n => decide (a < 32 ∧ n < 8)
  | .tlread d n sel => decide (d < 32 ∧ n < 8 ∧ sel < 4)
  | .barv d a sc => decide (d < 32 ∧ a < 32 ∧ sc < 5)
  | .bwait a b sc => decide (a < 32 ∧ b < 32 ∧ sc < 5)
  | .pref a lvl => decide (a < 32 ∧ lvl < 3)
  | .bqpush a => decide (a < 32)
  | .bqpop d => decide (d < 32)
  | .bqpeek d _ => decide (d < 32)
  | .qskip d a q _ => decide (d < 32 ∧ a < 32 ∧ q < 4)
  | .qpop d q n => decide (d < 32 ∧ q < 4 ∧ n < 8)
  | .qpush q a => decide (q < 2 ∧ a < 32)
  | .txbegin d => decide (d < 32)
  | .txvote a => decide (a < 32)
  | .txwait d => decide (d < 32)
  | .txabort => true
  | .txread d a sel => decide (d < 32 ∧ a < 32 ∧ sel < 2)
  | .trap _ => true
  | .eret => true
  | .csrr d csr => decide (d < 32 ∧ csr < 1024)
  | .csrw d a csr => decide (d < 32 ∧ a < 32 ∧ csr < 1024)
  | .csrs d a csr => decide (d < 32 ∧ a < 32 ∧ csr < 1024)
  | .csrc d a csr => decide (d < 32 ∧ a < 32 ∧ csr < 1024)
  | .exit => true
  | .spawn d a b => decide (d < 32 ∧ a < 32 ∧ b < 32)
  | .tissue d a => decide (d < 32 ∧ a < 32)
  | .tfence => true
  | .brkd => true
  | .nop => true
  | .mloop n a fld => decide (n < 6 ∧ a < 32 ∧ fld < 5)
  | .mcfg a fld => decide (a < 32 ∧ fld < 7)
  | .mgo d a => decide (d < 32 ∧ a < 32)
  | .mstat d sel => decide (d < 32 ∧ sel < 3)
  | .mabort d => decide (d < 32)
  | .vadd vd va vb _ _ => decide (vd < 128 ∧ va < 128 ∧ vb < 128)
  | .vsub vd va vb _ _ => decide (vd < 128 ∧ va < 128 ∧ vb < 128)
  | .vmul vd va vb _ _ => decide (vd < 128 ∧ va < 128 ∧ vb < 128)
  | .vfma vd va vb _ _ => decide (vd < 128 ∧ va < 128 ∧ vb < 128)
  | .vfms vd va vb _ _ => decide (vd < 128 ∧ va < 128 ∧ vb < 128)
  | .vfnma vd va vb _ _ => decide (vd < 128 ∧ va < 128 ∧ vb < 128)
  | .vmin vd va vb _ _ => decide (vd < 128 ∧ va < 128 ∧ vb < 128)
  | .vmax vd va vb _ _ => decide (vd < 128 ∧ va < 128 ∧ vb < 128)
  | .vabs vd va _ _ => decide (vd < 128 ∧ va < 128)
  | .vneg vd va _ _ => decide (vd < 128 ∧ va < 128)
  | .vrcp vd va _ _ => decide (vd < 128 ∧ va < 128)
  | .vrsq vd va _ _ => decide (vd < 128 ∧ va < 128)
  | .vsqrt vd va _ _ => decide (vd < 128 ∧ va < 128)
  | .vexp2 vd va _ _ => decide (vd < 128 ∧ va < 128)
  | .vlog2 vd va _ _ => decide (vd < 128 ∧ va < 128)
  | .vdiv vd va vb _ _ => decide (vd < 128 ∧ va < 128 ∧ vb < 128)
  | .viadd vd va vb _ _ => decide (vd < 128 ∧ va < 128 ∧ vb < 128)
  | .visub vd va vb _ _ => decide (vd < 128 ∧ va < 128 ∧ vb < 128)
  | .vimul vd va vb _ _ => decide (vd < 128 ∧ va < 128 ∧ vb < 128)
  | .vimulh vd va vb _ _ => decide (vd < 128 ∧ va < 128 ∧ vb < 128)
  | .vand vd va vb _ _ => decide (vd < 128 ∧ va < 128 ∧ vb < 128)
  | .vor vd va vb _ _ => decide (vd < 128 ∧ va < 128 ∧ vb < 128)
  | .vxor vd va vb _ _ => decide (vd < 128 ∧ va < 128 ∧ vb < 128)
  | .vshl vd va vb _ _ => decide (vd < 128 ∧ va < 128 ∧ vb < 128)
  | .vshr vd va vb _ _ => decide (vd < 128 ∧ va < 128 ∧ vb < 128)
  | .vsra vd va vb _ _ => decide (vd < 128 ∧ va < 128 ∧ vb < 128)
  | .vimin vd va vb _ _ => decide (vd < 128 ∧ va < 128 ∧ vb < 128)
  | .vimax vd va vb _ _ => decide (vd < 128 ∧ va < 128 ∧ vb < 128)
  | .vcmp vd va vb _ _ cond => decide (vd < 128 ∧ va < 128 ∧ vb < 128 ∧ cond < 16 ∧ cond ≤ 9)
  | .vsel vd va vb _ _ => decide (vd < 128 ∧ va < 128 ∧ vb < 128)
  | .vcvt vd va vb _ _ src dst mode _ => decide (vd < 128 ∧ va < 128 ∧ vb < 128 ∧ src < 64 ∧ dst < 64 ∧ mode < 8 ∧ (cvtFormat src ∧ cvtFormat dst ∧ src ≠ dst ∧ mode ≤ 4 ∧ (mode = 4 ∨ vb = 0)))
  | .vpack vd va vb _ _ src dst mode _ => decide (vd < 128 ∧ va < 128 ∧ vb < 128 ∧ src < 64 ∧ dst < 64 ∧ mode < 8 ∧ (packPair src dst ∧ mode ≤ 3))
  | .vunpk vd va _ _ src dst _ => decide (vd < 128 ∧ va < 128 ∧ src < 64 ∧ dst < 64 ∧ packPair dst src)
  | .vperm vd va vb _ _ => decide (vd < 128 ∧ va < 128 ∧ vb < 128)
  | .vshuf vd va vb _ _ pat k => decide (vd < 128 ∧ va < 128 ∧ vb < 128 ∧ pat < 16 ∧ k < 4096 ∧ (pat ≤ 5 ∧ (pat < 2 ∨ k = 0)))
  | .vbcast vd a _ _ => decide (vd < 128 ∧ a < 32)
  | .vreds vd va _ _ op => decide (vd < 128 ∧ va < 128 ∧ op < 16 ∧ op ≤ 11)
  | .vscan vd va vb _ _ op => decide (vd < 128 ∧ va < 128 ∧ vb < 128 ∧ op < 16 ∧ (op ≤ 12 ∧ op ≠ 3 ∧ (if op = 12 then vd % 2 = 0 else vb = 0)))
  | .vclmul vd va vb _ _ => decide (vd < 128 ∧ va < 128 ∧ vb < 128)
  | .vrng vd va _ _ => decide (vd < 128 ∧ va < 128)
  | .vpop vd q _ n _ => decide (vd < 128 ∧ q < 4 ∧ n < 8)
  | .vpush q va _ => decide (q < 2 ∧ va < 128)
  | .vmovt vd va _ dir => decide (vd < 128 ∧ va < 128 ∧ (if dir then va % 16 = 0 ∧ vd < 40 else vd % 16 = 0 ∧ va < 40))
  | .vldi vd _ _ _ => decide (vd < 128)
  | .vshape a _ ew len _ tsel => decide (a < 32 ∧ ew < 4 ∧ len < 4096 ∧ tsel < 64 ∧ (a = 0 ∨ len = 0))
  | .mpush n _ => decide (n < 8)
  | .minv _ => true
  | .mpop _ => true
  | .mset n va _ _ => decide (n < 8 ∧ va < 128)
  | .bmz _ => true
  | .bmnz _ => true
  | .vfrd vd _ => decide (vd < 128)
  | .vfclr => true
  | .mget n _ => decide (n < 8)
  | .mldw _ fmt mx s pl => decide (fmt < 64 ∧ pl < 16 ∧ mldwWf fmt mx s pl)
  | .mmac _ af _ => decide (af < 8 ∧ af ≤ 6)
  | .mmacs _ af _ => decide (af < 8 ∧ af ≤ 6)
  | .mdrn _ dt _ ov => decide ((ov = true → dt = true))
  | .mzero _ _ => true
  | .mcmp _ _ fmt _ => decide (fmt < 64 ∧ (1 ≤ fmt ∧ fmt ≤ 4))
  | .mpred cond lvl _ _ => decide (cond < 4 ∧ lvl < 8 ∧ (if cond < 2 then lvl = 0 else lvl ≤ 5))
  | .msync => true
  | .mend => true
  | .mnop => true
  | .tCopy w => w.wf
  | .tFill w => w.wf
  | .tEw w => w.wf
  | .tMap w => w.wf
  | .tRed w => w.wf
  | .tScan w => w.wf
  | .tCvt w => w.wf
  | .tMma w => w.wf
  | .tMmas w => w.wf
  | .tCmp w => w.wf
  | .tAmax w => w.wf
  | .tRng w => w.wf
  | .tOpt w => w.wf
  | .tAr w => w.wf
  | .tAg w => w.wf
  | .tRs w => w.wf
  | .tBc w => w.wf
  | .tKern w => w.wf
  | .tSig w => w.wf
  | .tWaitev w => w.wf
  | .linkTrainingDone => true
  | .trainingAttemptTimeout => true
  | .linkLossOfLock => true
  | .internalLossOfLock => true
  | .retrain => true
  | .moduleReset => true
  | .recoveryPackage => true
  | .spdmRequest => true
  | .pwrcapWrite => true
  | .arbiterSample => true
  | .throttleLevelApply => true
  | .junctionTemperature => true
  | .capClear => true
  | .captureWindowEdge => true
  | .captureEvent => true
  | .remoteRequest => true
  | .remoteAck => true
  | .remoteResponse => true
  | .fabricForward => true
  | .requestExpiry => true
  | .linkMapUpdate => true
  | .timeMessageSend => true
  | .timeMessage => true
  | .fabtmoWrite => true
  | .domainDigest => true
  | .pcSelect => true
  | .refreshDue => true
  | .selfRefreshEntry => true
  | .selfRefreshExit => true
  | .eccError => true
  | .statusWriteApply => true
  | .statusWriteComplete => true
  | .tagAllocation => true
  | .normaliserSweepStart => true
  | .normaliserSweepComplete => true
  | .init => true
  | .setacc => true
  | .clracc => true
  | .clrpoison => true
  | .vmcmdIllegal => true
  | .vmcmdComplete => true
  | .register => true
  | .deregister => true
  | .query => true
  | .collectiveIssue => true
  | .chunkArrival => true
  | .markArrival => true
  | .planeCancel => true
  | .slotTmoExpiry => true
  | .collectiveTimeout => true
  | .collectiveCancel => true
  | .collectiveComplete => true
  | .arbourVote => true
  | .arbourNodeTimer => true
  | .arbourDecision => true
  | .attemptDeadline => true
  | .attemptVote => true
  | .attemptSettled => true
  | .registerWrite => true
  | .cxlReset => true
  | .cxlMemAccess => true
  | .ping => true
  | .bind => true
  | .unbind => true
  | .domcfg => true
  | .svnset => true
  | .preempt => true
  | .irtset => true
  | .mbcmdIllegal => true
  | .chainEnable => true
  | .chtailWrite => true
  | .tear => true
  | .kill => true
  | .packetFetch => true
  | .waitPoll => true
  | .packetComplete => true
  | .slotSelect => true
  | .domainShare => true
  | .lateCheck => true
  | .escalationRelease => true
  | .escalationCancel => true
  | .groupRetire => true
  | .groupDrained => true
  | .preemptionPoint => true
  | .preemptTimeout => true
  | .contextSave => true
  | .contextSaveComplete => true
  | .contextRestore => true
  | .schcfgWrite => true
  | .tileWordAccept => true
  | .tileWordStart => true
  | .childWordComplete => true
  | .tileWordComplete => true
  | .tileStop => true
  | .regroupPlacement => true
  | .amaxHistoryWrite => true
  | .waitevPoll => true
  | .queueStallRelease => true
  | .tileAccessPerformed => true
  | .taggedAccessPerformed => true
  | .copyCommandStart => true
  | .copyCommandComplete => true
  | .copyCancelAck => true
  | .nestStart => true
  | .nestEnd => true
  | .tlwaitComplete => true
  | .barrierArrival => true
  | .bwaitComplete => true
  | .invComplete => true
  | .stallWatchdog => true
  | .halt => true
  | .haltMessage => true
  | .resume => true
  | .dbgdataAccess => true
  | .lineWriteBack => true
  | .linkLevelReplay => true
  | .hbmStackTemperature => true
  | .invVc8Message => true

/-- The signals of an event name things the package has. -/
def inputWf (i : Instr) (x : Input) : Bool :=
  match i with
  | .linkTrainingDone => decide (x.link < 62) && x.train.wf
  | .moduleReset => x.boot.wf
  | .cxlReset => x.boot.wf
  | .recoveryPackage => x.boot.wf
  | .trainingAttemptTimeout => decide (x.link < 62)
  | .linkLossOfLock => decide (x.link < 62)
  | .internalLossOfLock => decide (x.link < 62)
  | .retrain => decide (x.link < 62)
  | .arbiterSample => decide (x.nats.length = 4)
  | .throttleLevelApply => decide (x.die < 4)
  | .junctionTemperature => decide (x.die < 4)
  | .capClear => decide (x.n < 64)
  | .captureWindowEdge => decide (x.n < 64)
  | .captureEvent => decide (x.n < 65536 ∧ x.t < 64)
  | .remoteRequest => x.req.wf && decide (x.link < 62)
  | .fabricForward => decide (x.pkt.src < 64 ∧ x.pkt.dst < 64 ∧ x.pkt.hop ≤ 4 ∧ x.pkt.route.length ≤ 4 ∧ x.pkt.route.all (fun d => decide (d < 64)) = true ∧ x.link < 62)
  | .linkMapUpdate => decide (x.dev < 64)
  | .domainDigest => decide (x.dev < 64)
  | .pcSelect => decide (x.pc < 512 ∧ x.arr.all (fun r => decide (r.off < 2 ^ 39)))
  | .refreshDue => decide (x.pc < 512)
  | .selfRefreshEntry => decide (x.pc < 512)
  | .selfRefreshExit => decide (x.pc < 512)
  | .eccError => x.site.wf
  | .statusWriteApply => decide (x.stack < 8 ∧ x.tag < 64)
  | .statusWriteComplete => decide (x.tag < 64)
  | .normaliserSweepStart => decide (x.stack < 8)
  | .normaliserSweepComplete => decide (x.stack < 8)
  | .chunkArrival => decide (x.stack < 8 ∧ x.link < 4 ∧ x.u.getLsbD 39 = false ∧ x.vals.length = x.u.toNat / 2 ^ 40 % 2 ^ 12)
  | .markArrival => decide (x.stack < 8 ∧ x.link < 4 ∧ x.u.getLsbD 39 = true ∧ x.vals = [])
  | .slotTmoExpiry => decide (x.stack < 8 ∧ x.slot < 256)
  | .collectiveTimeout => decide (x.stack < 8 ∧ x.slot < 256)
  | .collectiveCancel => decide (x.tag < 64)
  | .arbourVote => decide (x.node < 2)
  | .arbourNodeTimer => decide (x.node < 2 ∧ x.dtid < 65536 ∧ x.att < 16)
  | .attemptDeadline => decide (x.dtid < 65536)
  | .attemptVote => decide (x.dtid < 65536)
  | .attemptSettled => decide (x.dtid < 65536)
  | .registerWrite => decide (x.off < 2 ^ 24)
  | .cxlMemAccess => decide (x.off < 2 ^ 39 ∧ x.off % 64 = 0 ∧ (x.wr = true → x.data.length = 64))
  | .chainEnable => decide (x.chain < 4096)
  | .chtailWrite => decide (x.chain < 4096)
  | .tear => decide (x.chain < 4096)
  | .kill => decide (x.chain < 4096)
  | .packetFetch => decide (x.chain < 4096)
  | .waitPoll => decide (x.chain < 4096 ∧ x.n < 4)
  | .slotSelect => decide (x.slot < 256)
  | .domainShare => decide (x.share.root < 64 ∧ x.share.chain < 4096 ∧ x.share.words.length = 16 ∧ x.share.dtid < 65536 ∧ x.share.att < 16)
  | .lateCheck => decide (x.chain < 4096)
  | .escalationRelease => decide (x.chain < 4096)
  | .escalationCancel => decide (x.chain < 4096)
  | .groupRetire => decide (x.gid < 16384)
  | .groupDrained => decide (x.gid < 16384)
  | .preemptionPoint => decide (x.core < 512)
  | .preemptTimeout => decide (x.core < 512)
  | .contextSave => decide (x.slot < 256)
  | .contextSaveComplete => decide (x.slot < 256)
  | .contextRestore => decide (x.slot < 256)
  | .tileWordAccept => decide ((x.flag = true → x.tile.unit.level = 4 ∧ x.tile.unit.index = 0) ∧ x.tile.core < 512 ∧ x.tile.tag < 64 ∧ x.tile.att < 16 ∧ x.tile.chain < 4096 ∧ x.tile.src < 64)
  | .queueStallRelease => decide (x.core < 512)
  | .tileAccessPerformed => decide (x.core < 512)
  | .taggedAccessPerformed => decide (x.core < 512)
  | .copyCommandStart => decide (x.core < 512)
  | .copyCommandComplete => decide (x.core < 512)
  | .copyCancelAck => decide (x.core < 512)
  | .nestStart => decide (x.core < 512)
  | .nestEnd => decide (x.core < 512)
  | .tlwaitComplete => decide (x.core < 512)
  | .barrierArrival => decide (x.off < 2 ^ 56 ∧ x.dev < 64)
  | .bwaitComplete => decide (x.core < 512)
  | .invComplete => decide (x.core < 512)
  | .stallWatchdog => decide (x.core < 512)
  | .halt => decide (x.slot < 256)
  | .haltMessage => decide (x.slot < 256)
  | .lineWriteBack => x.cache.wf
  | .linkLevelReplay => decide (x.link < 62)
  | .hbmStackTemperature => decide (x.stack < 8)
  | .invVc8Message => decide (x.chain < 4096 ∧ x.dev < 64)
  | _ => true

end Sys2Proof
end

