-- ==== Sys2Proof/Decode.lean ====
section
/-! DEFINITION. The decoders of the three streams and of the tile executors, total on any bytes and
rejecting by name, and after them the encoder, both written from the encoding tables of chapter 13. -/

namespace Sys2Proof

/-- Why bytes are no instruction (R338). -/
inductive DecodeError
  | unknownMajor | unknownFunc | unknownVop | unknownStepOp | unknownTileOp
  | reservedField | badOperand | extension | wrongStream | truncated
  deriving DecidableEq, Repr

/-- The `n` bits of `w` from bit `lo` up, as an unsigned integer (R6). -/
def fld (w lo n : Nat) : Nat := w / 2 ^ lo % 2 ^ n

/-- Bytes read as one little-endian integer (R6). -/
def leNat : List Byte → Nat
  | [] => 0
  | b :: bs => b.toNat + 256 * leNat bs

/-- The low `n` bytes of an integer, the least significant first (R6). -/
def leBytes : Nat → Nat → List Byte
  | 0, _ => []
  | n + 1, v => BitVec.ofNat 8 v :: leBytes n (v / 256)

/-- An instruction whose reserved fields are clear (R334, R338, R398). -/
def checked (clear : Bool) (i : Instr) : Except DecodeError Instr :=
  if clear then .ok i else .error .reservedField

/-- A vector word that takes no extension: X must be 0 (R339). -/
def plain (w : Nat) (r : Except DecodeError Instr) : Except DecodeError Instr :=
  if fld w 0 1 = 0 then r else .error .extension

/-- A vector word that requires an extension: X must be 1 (R339). -/
def extended (w : Nat) (r : Except DecodeError Instr) : Except DecodeError Instr :=
  if fld w 0 1 = 1 then r else .error .extension

/-- The Alu group, major 0x00 (R337). -/
def decodeAlu (w : Nat) : Except DecodeError Instr :=
  match fld w 0 6 with
  | 0 => checked (decide (fld w 6 5 = 0)) (.add (fld w 21 5) (fld w 16 5) (fld w 11 5))
  | 1 => checked (decide (fld w 6 5 = 0)) (.sub (fld w 21 5) (fld w 16 5) (fld w 11 5))
  | 2 => checked (decide (fld w 6 5 = 0)) (.mul (fld w 21 5) (fld w 16 5) (fld w 11 5))
  | 3 => checked (decide (fld w 6 5 = 0)) (.mulh (fld w 21 5) (fld w 16 5) (fld w 11 5))
  | 4 => checked (decide (fld w 6 5 = 0)) (.mulhu (fld w 21 5) (fld w 16 5) (fld w 11 5))
  | 5 => checked (decide (fld w 6 5 = 0)) (.div (fld w 21 5) (fld w 16 5) (fld w 11 5))
  | 6 => checked (decide (fld w 6 5 = 0)) (.divu (fld w 21 5) (fld w 16 5) (fld w 11 5))
  | 7 => checked (decide (fld w 6 5 = 0)) (.rem (fld w 21 5) (fld w 16 5) (fld w 11 5))
  | 8 => checked (decide (fld w 6 5 = 0)) (.remu (fld w 21 5) (fld w 16 5) (fld w 11 5))
  | 9 => checked (decide (fld w 6 5 = 0)) (.and (fld w 21 5) (fld w 16 5) (fld w 11 5))
  | 10 => checked (decide (fld w 6 5 = 0)) (.or (fld w 21 5) (fld w 16 5) (fld w 11 5))
  | 11 => checked (decide (fld w 6 5 = 0)) (.xor (fld w 21 5) (fld w 16 5) (fld w 11 5))
  | 12 => checked (decide (fld w 6 5 = 0)) (.andn (fld w 21 5) (fld w 16 5) (fld w 11 5))
  | 13 => checked (decide (fld w 6 5 = 0)) (.orn (fld w 21 5) (fld w 16 5) (fld w 11 5))
  | 14 => checked (decide (fld w 6 5 = 0)) (.shl (fld w 21 5) (fld w 16 5) (fld w 11 5))
  | 15 => checked (decide (fld w 6 5 = 0)) (.shr (fld w 21 5) (fld w 16 5) (fld w 11 5))
  | 16 => checked (decide (fld w 6 5 = 0)) (.sra (fld w 21 5) (fld w 16 5) (fld w 11 5))
  | 17 => checked (decide (fld w 6 5 = 0)) (.rol (fld w 21 5) (fld w 16 5) (fld w 11 5))
  | 18 => checked (decide (fld w 6 5 = 0)) (.ror (fld w 21 5) (fld w 16 5) (fld w 11 5))
  | 19 => checked (decide (fld w 6 5 = 0)) (.min (fld w 21 5) (fld w 16 5) (fld w 11 5))
  | 20 => checked (decide (fld w 6 5 = 0)) (.max (fld w 21 5) (fld w 16 5) (fld w 11 5))
  | 21 => checked (decide (fld w 6 5 = 0)) (.minu (fld w 21 5) (fld w 16 5) (fld w 11 5))
  | 22 => checked (decide (fld w 6 5 = 0)) (.maxu (fld w 21 5) (fld w 16 5) (fld w 11 5))
  | 23 => checked (decide (fld w 6 5 = 0)) (.slt (fld w 21 5) (fld w 16 5) (fld w 11 5))
  | 24 => checked (decide (fld w 6 5 = 0)) (.sltu (fld w 21 5) (fld w 16 5) (fld w 11 5))
  | 25 => checked (decide (fld w 6 5 = 0)) (.seq (fld w 21 5) (fld w 16 5) (fld w 11 5))
  | 26 => .ok (.sel (fld w 21 5) (fld w 16 5) (fld w 11 5) (fld w 6 5))
  | 27 => checked (decide (fld w 6 10 = 0)) (.clz (fld w 21 5) (fld w 16 5))
  | 28 => checked (decide (fld w 6 10 = 0)) (.ctz (fld w 21 5) (fld w 16 5))
  | 29 => checked (decide (fld w 6 10 = 0)) (.popc (fld w 21 5) (fld w 16 5))
  | 30 => checked (decide (fld w 6 10 = 0)) (.brev (fld w 21 5) (fld w 16 5))
  | 31 => checked (decide (fld w 6 10 = 0)) (.bswap (fld w 21 5) (fld w 16 5))
  | 32 => .ok (.bfx (fld w 21 5) (fld w 16 5) (fld w 11 5) (fld w 6 5))
  | 33 => .ok (.bfi (fld w 21 5) (fld w 16 5) (fld w 11 5) (fld w 6 5))
  | 34 => checked (decide (fld w 6 5 = 0)) (.clmul (fld w 21 5) (fld w 16 5) (fld w 11 5))
  | 35 => checked (decide (fld w 6 5 = 0)) (.clmulh (fld w 21 5) (fld w 16 5) (fld w 11 5))
  | _ => .error .unknownFunc

/-- The Fp group, major 0x01 (R337). -/
def decodeFp (w : Nat) : Except DecodeError Instr :=
  match fld w 0 6 with
  | 0 => checked (decide (fld w 6 5 = 0)) (.fadd (fld w 21 5) (fld w 16 5) (fld w 11 5))
  | 1 => checked (decide (fld w 6 5 = 0)) (.fsub (fld w 21 5) (fld w 16 5) (fld w 11 5))
  | 2 => checked (decide (fld w 6 5 = 0)) (.fmul (fld w 21 5) (fld w 16 5) (fld w 11 5))
  | 3 => .ok (.fma (fld w 21 5) (fld w 16 5) (fld w 11 5) (fld w 6 5))
  | 4 => checked (decide (fld w 6 5 = 0)) (.fmin (fld w 21 5) (fld w 16 5) (fld w 11 5))
  | 5 => checked (decide (fld w 6 5 = 0)) (.fmax (fld w 21 5) (fld w 16 5) (fld w 11 5))
  | 6 => checked (decide (fld w 6 10 = 0)) (.fabs (fld w 21 5) (fld w 16 5))
  | 7 => checked (decide (fld w 6 10 = 0)) (.fneg (fld w 21 5) (fld w 16 5))
  | 8 => checked (decide (fld w 6 5 = 0)) (.fcmpeq (fld w 21 5) (fld w 16 5) (fld w 11 5))
  | 9 => checked (decide (fld w 6 5 = 0)) (.fcmplt (fld w 21 5) (fld w 16 5) (fld w 11 5))
  | 10 => checked (decide (fld w 6 5 = 0)) (.fcmple (fld w 21 5) (fld w 16 5) (fld w 11 5))
  | 11 => checked (decide (fld w 11 5 = 0)) (.fcvtfi (fld w 21 5) (fld w 16 5) (fld w 6 5))
  | 12 => checked (decide (fld w 11 5 = 0)) (.fcvtif (fld w 21 5) (fld w 16 5) (fld w 6 5))
  | _ => .error .unknownFunc

/-- The Pred group, major 0x02 (R337). -/
def decodePred (w : Nat) : Except DecodeError Instr :=
  match fld w 0 6 with
  | 0 => .ok (.pcmp (fld w 21 5) (fld w 16 5) (fld w 11 5) (fld w 6 5))
  | 1 => checked (decide (fld w 6 5 = 0)) (.pand (fld w 21 5) (fld w 16 5) (fld w 11 5))
  | 2 => checked (decide (fld w 6 5 = 0)) (.por (fld w 21 5) (fld w 16 5) (fld w 11 5))
  | 3 => checked (decide (fld w 6 10 = 0)) (.pnot (fld w 21 5) (fld w 16 5))
  | 4 => checked (decide (fld w 11 5 = 0)) (.pmov (fld w 21 5) (fld w 16 5) (fld w 6 5))
  | _ => .error .unknownFunc

/-- The Tag group, major 0x25 (R337). -/
def decodeTag (w : Nat) : Except DecodeError Instr :=
  match fld w 10 1 with
  | 0 => checked (decide (fld w 11 1 = 0)) (.tagset (fld w 21 5) (fld w 16 5) (fld w 13 3) (fld w 12 1 == 1) (.ofNat 10 (fld w 0 10)))
  | 1 => checked (decide (fld w 11 1 = 0)) (.tagclr (fld w 21 5) (fld w 16 5) (fld w 13 3) (fld w 12 1 == 1) (.ofNat 10 (fld w 0 10)))
  | _ => .error .unknownFunc

/-- The Rst group, major 0x27 (R337). -/
def decodeRst (w : Nat) : Except DecodeError Instr :=
  match fld w 10 1 with
  | 0 => .ok (.rst (fld w 21 5) (fld w 16 5) (fld w 13 3) (fld w 12 1 == 1) (fld w 11 1 == 1) (.ofNat 10 (fld w 0 10)))
  | 1 => .ok (.rsta (fld w 21 5) (fld w 16 5) (fld w 13 3) (fld w 12 1 == 1) (fld w 11 1 == 1) (.ofNat 10 (fld w 0 10)))
  | _ => .error .unknownFunc

/-- The Amo group, major 0x28 (R337). -/
def decodeAmo (w : Nat) : Except DecodeError Instr :=
  match fld w 0 6 with
  | 0 => .ok (.amo (fld w 21 5) (fld w 16 5) (fld w 11 5) (fld w 6 5))
  | 1 => .ok (.amor (fld w 21 5) (fld w 16 5) (fld w 11 5) (fld w 6 5))
  | _ => .error .unknownFunc

/-- The Mcst group, major 0x29 (R337). -/
def decodeMcst (w : Nat) : Except DecodeError Instr :=
  match fld w 0 6 with
  | 0 => .ok (.mcst (fld w 21 5) (fld w 16 5) (fld w 11 5) (fld w 6 5))
  | _ => .error .unknownFunc

/-- The Copy group, major 0x2A (R337). -/
def decodeCopy (w : Nat) : Except DecodeError Instr :=
  match fld w 0 6 with
  | 0 => .ok (.cpy (fld w 21 5) (fld w 16 5) (fld w 11 5) (fld w 6 5))
  | 1 => .ok (.cpyc (fld w 21 5) (fld w 16 5) (fld w 11 5) (fld w 6 5))
  | 2 => checked (decide (fld w 6 10 = 0 ∧ fld w 21 5 = 0)) (.cpyx (fld w 16 5))
  | 3 => checked (decide (fld w 6 10 = 0)) (.cpyq (fld w 21 5) (fld w 16 5))
  | 4 => checked (decide (fld w 21 5 = 0)) (.lrec (fld w 16 5) (fld w 11 5) (fld w 6 5))
  | _ => .error .unknownFunc

/-- The Sync group, major 0x2B (R337). -/
def decodeSync (w : Nat) : Except DecodeError Instr :=
  match fld w 0 6 with
  | 0 => checked (decide (fld w 11 15 = 0)) (.fence (fld w 6 5))
  | 1 => checked (decide (fld w 11 15 = 0)) (.rel (fld w 6 5))
  | 2 => checked (decide (fld w 11 15 = 0)) (.acq (fld w 6 5))
  | 3 => checked (decide (fld w 21 5 = 0 ∧ fld w 11 5 < 2)) (.inv (fld w 16 5) (fld w 11 5 == 1) (fld w 6 5))
  | 4 => checked (decide (fld w 6 5 = 0 ∧ fld w 21 5 = 0)) (.tlwait (fld w 16 5) (fld w 11 5))
  | 5 => checked (decide (fld w 16 5 = 0)) (.tlread (fld w 21 5) (fld w 11 5) (fld w 6 5))
  | 6 => checked (decide (fld w 11 5 = 0)) (.barv (fld w 21 5) (fld w 16 5) (fld w 6 5))
  | 7 => checked (decide (fld w 21 5 = 0)) (.bwait (fld w 16 5) (fld w 11 5) (fld w 6 5))
  | 8 => checked (decide (fld w 11 5 = 0 ∧ fld w 21 5 = 0)) (.pref (fld w 16 5) (fld w 6 5))
  | _ => .error .unknownFunc

/-- The Queue group, major 0x2C (R337). -/
def decodeQueue (w : Nat) : Except DecodeError Instr :=
  match fld w 0 6 with
  | 0 => checked (decide (fld w 6 10 = 0 ∧ fld w 21 5 = 0)) (.bqpush (fld w 16 5))
  | 1 => checked (decide (fld w 6 15 = 0)) (.bqpop (fld w 21 5))
  | 2 => checked (decide (fld w 11 10 = 0 ∧ fld w 6 5 < 2)) (.bqpeek (fld w 21 5) (fld w 6 5 == 1))
  | 3 => checked (decide (fld w 6 5 < 2)) (.qskip (fld w 21 5) (fld w 16 5) (fld w 11 5) (fld w 6 5 == 1))
  | 4 => checked (decide (fld w 16 5 = 0)) (.qpop (fld w 21 5) (fld w 11 5) (fld w 6 5))
  | 5 => checked (decide (fld w 6 10 = 0)) (.qpush (fld w 21 5) (fld w 16 5))
  | _ => .error .unknownFunc

/-- The Tx group, major 0x2D (R337). -/
def decodeTx (w : Nat) : Except DecodeError Instr :=
  match fld w 0 6 with
  | 0 => checked (decide (fld w 6 15 = 0)) (.txbegin (fld w 21 5))
  | 1 => checked (decide (fld w 6 10 = 0 ∧ fld w 21 5 = 0)) (.txvote (fld w 16 5))
  | 2 => checked (decide (fld w 6 15 = 0)) (.txwait (fld w 21 5))
  | 3 => checked (decide (fld w 6 20 = 0)) (.txabort)
  | 4 => checked (decide (fld w 11 5 = 0)) (.txread (fld w 21 5) (fld w 16 5) (fld w 6 5))
  | _ => .error .unknownFunc

/-- The Sys group, major 0x2E (R337). -/
def decodeSys (w : Nat) : Except DecodeError Instr :=
  match fld w 0 6 with
  | 0 => .ok (.trap (.ofNat 20 (fld w 6 20)))
  | 1 => checked (decide (fld w 6 20 = 0)) (.eret)
  | 2 => checked (decide (fld w 16 5 = 0)) (.csrr (fld w 21 5) (fld w 6 10))
  | 3 => .ok (.csrw (fld w 21 5) (fld w 16 5) (fld w 6 10))
  | 4 => .ok (.csrs (fld w 21 5) (fld w 16 5) (fld w 6 10))
  | 5 => .ok (.csrc (fld w 21 5) (fld w 16 5) (fld w 6 10))
  | 6 => checked (decide (fld w 6 20 = 0)) (.exit)
  | 7 => checked (decide (fld w 6 5 = 0)) (.spawn (fld w 21 5) (fld w 16 5) (fld w 11 5))
  | 8 => checked (decide (fld w 6 10 = 0)) (.tissue (fld w 21 5) (fld w 16 5))
  | 9 => checked (decide (fld w 6 20 = 0)) (.tfence)
  | 10 => checked (decide (fld w 6 20 = 0)) (.brkd)
  | 11 => checked (decide (fld w 6 20 = 0)) (.nop)
  | _ => .error .unknownFunc

/-- The Matrix group, major 0x2F (R337). -/
def decodeMatrix (w : Nat) : Except DecodeError Instr :=
  match fld w 0 6 with
  | 0 => checked (decide (fld w 11 5 = 0)) (.mloop (fld w 21 5) (fld w 16 5) (fld w 6 5))
  | 1 => checked (decide (fld w 11 5 = 0 ∧ fld w 21 5 = 0)) (.mcfg (fld w 16 5) (fld w 6 5))
  | 2 => checked (decide (fld w 6 10 = 0)) (.mgo (fld w 21 5) (fld w 16 5))
  | 3 => checked (decide (fld w 11 10 = 0)) (.mstat (fld w 21 5) (fld w 6 5))
  | 4 => checked (decide (fld w 6 15 = 0)) (.mabort (fld w 21 5))
  | _ => .error .unknownFunc

/-- A scalar word (R334), by its major code (R337). -/
def decodeScalar (w : Nat) : Except DecodeError Instr :=
  match fld w 26 6 with
  | 0 => decodeAlu w
  | 1 => decodeFp w
  | 2 => decodePred w
  | 3 => .ok (.addi (fld w 21 5) (fld w 16 5) (.ofNat 16 (fld w 0 16)))
  | 4 => .ok (.andi (fld w 21 5) (fld w 16 5) (.ofNat 16 (fld w 0 16)))
  | 5 => .ok (.ori (fld w 21 5) (fld w 16 5) (.ofNat 16 (fld w 0 16)))
  | 6 => .ok (.xori (fld w 21 5) (fld w 16 5) (.ofNat 16 (fld w 0 16)))
  | 7 => checked (decide (fld w 6 10 = 0)) (.shli (fld w 21 5) (fld w 16 5) (fld w 0 6))
  | 8 => checked (decide (fld w 6 10 = 0)) (.shri (fld w 21 5) (fld w 16 5) (fld w 0 6))
  | 9 => checked (decide (fld w 6 10 = 0)) (.srai (fld w 21 5) (fld w 16 5) (fld w 0 6))
  | 10 => .ok (.slti (fld w 21 5) (fld w 16 5) (.ofNat 16 (fld w 0 16)))
  | 11 => .ok (.sltiu (fld w 21 5) (fld w 16 5) (.ofNat 16 (fld w 0 16)))
  | 12 => checked (decide (fld w 16 5 = 0)) (.li (fld w 21 5) (.ofNat 16 (fld w 0 16)))
  | 13 => checked (decide (fld w 16 5 = 0)) (.lui (fld w 21 5) (.ofNat 16 (fld w 0 16)))
  | 14 => .ok (.beq (fld w 21 5) (fld w 16 5) (.ofNat 16 (fld w 0 16)))
  | 15 => .ok (.bne (fld w 21 5) (fld w 16 5) (.ofNat 16 (fld w 0 16)))
  | 16 => .ok (.blt (fld w 21 5) (fld w 16 5) (.ofNat 16 (fld w 0 16)))
  | 17 => .ok (.bge (fld w 21 5) (fld w 16 5) (.ofNat 16 (fld w 0 16)))
  | 18 => .ok (.bltu (fld w 21 5) (fld w 16 5) (.ofNat 16 (fld w 0 16)))
  | 19 => .ok (.bgeu (fld w 21 5) (fld w 16 5) (.ofNat 16 (fld w 0 16)))
  | 20 => .ok (.j (.ofNat 26 (fld w 0 26)))
  | 21 => .ok (.jal (.ofNat 26 (fld w 0 26)))
  | 22 => .ok (.jr (fld w 21 5) (fld w 16 5) (.ofNat 16 (fld w 0 16)))
  | 23 => .ok (.loop (fld w 21 5) (fld w 16 5) (fld w 0 16))
  | 24 => .ok (.loops (fld w 21 5) (fld w 16 5) (fld w 13 3) (fld w 0 13))
  | 25 => checked (decide (fld w 11 1 = 0)) (.ldb (fld w 21 5) (fld w 16 5) (fld w 13 3) (fld w 12 1 == 1) (fld w 10 1 == 1) (.ofNat 10 (fld w 0 10)))
  | 26 => checked (decide (fld w 11 1 = 0)) (.ldh (fld w 21 5) (fld w 16 5) (fld w 13 3) (fld w 12 1 == 1) (fld w 10 1 == 1) (.ofNat 10 (fld w 0 10)))
  | 27 => checked (decide (fld w 11 1 = 0)) (.ldw (fld w 21 5) (fld w 16 5) (fld w 13 3) (fld w 12 1 == 1) (fld w 10 1 == 1) (.ofNat 10 (fld w 0 10)))
  | 28 => checked (decide (fld w 10 2 = 0)) (.ldd (fld w 21 5) (fld w 16 5) (fld w 13 3) (fld w 12 1 == 1) (.ofNat 10 (fld w 0 10)))
  | 29 => .ok (.stb (fld w 21 5) (fld w 16 5) (fld w 13 3) (fld w 12 1 == 1) (fld w 10 2) (.ofNat 10 (fld w 0 10)))
  | 30 => .ok (.sth (fld w 21 5) (fld w 16 5) (fld w 13 3) (fld w 12 1 == 1) (fld w 10 2) (.ofNat 10 (fld w 0 10)))
  | 31 => .ok (.stw (fld w 21 5) (fld w 16 5) (fld w 13 3) (fld w 12 1 == 1) (fld w 10 2) (.ofNat 10 (fld w 0 10)))
  | 32 => .ok (.std (fld w 21 5) (fld w 16 5) (fld w 13 3) (fld w 12 1 == 1) (fld w 10 2) (.ofNat 10 (fld w 0 10)))
  | 33 => checked (decide (fld w 11 1 = 0)) (.ldq (fld w 21 5) (fld w 16 5) (fld w 13 3) (fld w 12 1 == 1) (fld w 10 1 == 1) (.ofNat 10 (fld w 0 10)))
  | 34 => checked (decide (fld w 11 1 = 0)) (.stq (fld w 21 5) (fld w 16 5) (fld w 13 3) (fld w 12 1 == 1) (fld w 10 1 == 1) (.ofNat 10 (fld w 0 10)))
  | 35 => .ok (.ldf (fld w 21 5) (fld w 16 5) (fld w 13 3) (fld w 12 1 == 1) (fld w 11 1 == 1) (fld w 10 1 == 1) (.ofNat 10 (fld w 0 10)))
  | 36 => .ok (.ste (fld w 21 5) (fld w 16 5) (fld w 13 3) (fld w 12 1 == 1) (fld w 11 1 == 1) (fld w 10 1 == 1) (.ofNat 10 (fld w 0 10)))
  | 37 => decodeTag w
  | 38 => checked (decide (fld w 10 1 = 0)) (.rld (fld w 21 5) (fld w 16 5) (fld w 13 3) (fld w 12 1 == 1) (fld w 11 1 == 1) (.ofNat 10 (fld w 0 10)))
  | 39 => decodeRst w
  | 40 => decodeAmo w
  | 41 => decodeMcst w
  | 42 => decodeCopy w
  | 43 => decodeSync w
  | 44 => decodeQueue w
  | 45 => decodeTx w
  | 46 => decodeSys w
  | 47 => decodeMatrix w
  | _ => .error .unknownMajor

/-- A vector word with its extension word, if any, in bits [63:32] (R339, R340). -/
def decodeVector (w : Nat) : Except DecodeError Instr :=
  match fld w 24 6 with
  | 0 => plain w (.ok (.vadd (fld w 17 7) (fld w 10 7) (fld w 3 7) (fld w 2 1 == 1) (fld w 1 1 == 1)))
  | 1 => plain w (.ok (.vsub (fld w 17 7) (fld w 10 7) (fld w 3 7) (fld w 2 1 == 1) (fld w 1 1 == 1)))
  | 2 => plain w (.ok (.vmul (fld w 17 7) (fld w 10 7) (fld w 3 7) (fld w 2 1 == 1) (fld w 1 1 == 1)))
  | 3 => plain w (.ok (.vfma (fld w 17 7) (fld w 10 7) (fld w 3 7) (fld w 2 1 == 1) (fld w 1 1 == 1)))
  | 4 => plain w (.ok (.vfms (fld w 17 7) (fld w 10 7) (fld w 3 7) (fld w 2 1 == 1) (fld w 1 1 == 1)))
  | 5 => plain w (.ok (.vfnma (fld w 17 7) (fld w 10 7) (fld w 3 7) (fld w 2 1 == 1) (fld w 1 1 == 1)))
  | 6 => plain w (.ok (.vmin (fld w 17 7) (fld w 10 7) (fld w 3 7) (fld w 2 1 == 1) (fld w 1 1 == 1)))
  | 7 => plain w (.ok (.vmax (fld w 17 7) (fld w 10 7) (fld w 3 7) (fld w 2 1 == 1) (fld w 1 1 == 1)))
  | 8 => plain w (checked (decide (fld w 3 7 = 0)) (.vabs (fld w 17 7) (fld w 10 7) (fld w 2 1 == 1) (fld w 1 1 == 1)))
  | 9 => plain w (checked (decide (fld w 3 7 = 0)) (.vneg (fld w 17 7) (fld w 10 7) (fld w 2 1 == 1) (fld w 1 1 == 1)))
  | 10 => plain w (checked (decide (fld w 3 7 = 0)) (.vrcp (fld w 17 7) (fld w 10 7) (fld w 2 1 == 1) (fld w 1 1 == 1)))
  | 11 => plain w (checked (decide (fld w 3 7 = 0)) (.vrsq (fld w 17 7) (fld w 10 7) (fld w 2 1 == 1) (fld w 1 1 == 1)))
  | 12 => plain w (checked (decide (fld w 3 7 = 0)) (.vsqrt (fld w 17 7) (fld w 10 7) (fld w 2 1 == 1) (fld w 1 1 == 1)))
  | 13 => plain w (checked (decide (fld w 3 7 = 0)) (.vexp2 (fld w 17 7) (fld w 10 7) (fld w 2 1 == 1) (fld w 1 1 == 1)))
  | 14 => plain w (checked (decide (fld w 3 7 = 0)) (.vlog2 (fld w 17 7) (fld w 10 7) (fld w 2 1 == 1) (fld w 1 1 == 1)))
  | 15 => plain w (.ok (.vdiv (fld w 17 7) (fld w 10 7) (fld w 3 7) (fld w 2 1 == 1) (fld w 1 1 == 1)))
  | 16 => plain w (.ok (.viadd (fld w 17 7) (fld w 10 7) (fld w 3 7) (fld w 2 1 == 1) (fld w 1 1 == 1)))
  | 17 => plain w (.ok (.visub (fld w 17 7) (fld w 10 7) (fld w 3 7) (fld w 2 1 == 1) (fld w 1 1 == 1)))
  | 18 => plain w (.ok (.vimul (fld w 17 7) (fld w 10 7) (fld w 3 7) (fld w 2 1 == 1) (fld w 1 1 == 1)))
  | 19 => plain w (.ok (.vimulh (fld w 17 7) (fld w 10 7) (fld w 3 7) (fld w 2 1 == 1) (fld w 1 1 == 1)))
  | 20 => plain w (.ok (.vand (fld w 17 7) (fld w 10 7) (fld w 3 7) (fld w 2 1 == 1) (fld w 1 1 == 1)))
  | 21 => plain w (.ok (.vor (fld w 17 7) (fld w 10 7) (fld w 3 7) (fld w 2 1 == 1) (fld w 1 1 == 1)))
  | 22 => plain w (.ok (.vxor (fld w 17 7) (fld w 10 7) (fld w 3 7) (fld w 2 1 == 1) (fld w 1 1 == 1)))
  | 23 => plain w (.ok (.vshl (fld w 17 7) (fld w 10 7) (fld w 3 7) (fld w 2 1 == 1) (fld w 1 1 == 1)))
  | 24 => plain w (.ok (.vshr (fld w 17 7) (fld w 10 7) (fld w 3 7) (fld w 2 1 == 1) (fld w 1 1 == 1)))
  | 25 => plain w (.ok (.vsra (fld w 17 7) (fld w 10 7) (fld w 3 7) (fld w 2 1 == 1) (fld w 1 1 == 1)))
  | 26 => plain w (.ok (.vimin (fld w 17 7) (fld w 10 7) (fld w 3 7) (fld w 2 1 == 1) (fld w 1 1 == 1)))
  | 27 => plain w (.ok (.vimax (fld w 17 7) (fld w 10 7) (fld w 3 7) (fld w 2 1 == 1) (fld w 1 1 == 1)))
  | 28 => extended w (checked (decide (fld w 36 28 = 0)) (.vcmp (fld w 17 7) (fld w 10 7) (fld w 3 7) (fld w 2 1 == 1) (fld w 1 1 == 1) (fld w 32 4)))
  | 29 => plain w (.ok (.vsel (fld w 17 7) (fld w 10 7) (fld w 3 7) (fld w 2 1 == 1) (fld w 1 1 == 1)))
  | 30 => extended w (checked (decide (fld w 48 16 = 0)) (.vcvt (fld w 17 7) (fld w 10 7) (fld w 3 7) (fld w 2 1 == 1) (fld w 1 1 == 1) (fld w 32 6) (fld w 38 6) (fld w 44 3) (fld w 47 1 == 1)))
  | 31 => extended w (checked (decide (fld w 48 16 = 0)) (.vpack (fld w 17 7) (fld w 10 7) (fld w 3 7) (fld w 2 1 == 1) (fld w 1 1 == 1) (fld w 32 6) (fld w 38 6) (fld w 44 3) (fld w 47 1 == 1)))
  | 32 => extended w (checked (decide (fld w 3 7 = 0 ∧ fld w 44 4 = 0 ∧ fld w 49 15 = 0)) (.vunpk (fld w 17 7) (fld w 10 7) (fld w 2 1 == 1) (fld w 1 1 == 1) (fld w 32 6) (fld w 38 6) (fld w 48 1 == 1)))
  | 33 => plain w (.ok (.vperm (fld w 17 7) (fld w 10 7) (fld w 3 7) (fld w 2 1 == 1) (fld w 1 1 == 1)))
  | 34 => extended w (checked (decide (fld w 48 16 = 0)) (.vshuf (fld w 17 7) (fld w 10 7) (fld w 3 7) (fld w 2 1 == 1) (fld w 1 1 == 1) (fld w 32 4) (fld w 36 12)))
  | 35 => plain w (checked (decide (fld w 3 7 = 0)) (.vbcast (fld w 17 7) (fld w 10 7) (fld w 2 1 == 1) (fld w 1 1 == 1)))
  | 36 => extended w (checked (decide (fld w 3 7 = 0 ∧ fld w 36 28 = 0)) (.vreds (fld w 17 7) (fld w 10 7) (fld w 2 1 == 1) (fld w 1 1 == 1) (fld w 32 4)))
  | 37 => extended w (checked (decide (fld w 36 28 = 0)) (.vscan (fld w 17 7) (fld w 10 7) (fld w 3 7) (fld w 2 1 == 1) (fld w 1 1 == 1) (fld w 32 4)))
  | 38 => plain w (.ok (.vclmul (fld w 17 7) (fld w 10 7) (fld w 3 7) (fld w 2 1 == 1) (fld w 1 1 == 1)))
  | 39 => plain w (checked (decide (fld w 3 7 = 0)) (.vrng (fld w 17 7) (fld w 10 7) (fld w 2 1 == 1) (fld w 1 1 == 1)))
  | 40 => plain w (checked (decide (fld w 1 1 = 0 ∧ fld w 7 3 = 0)) (.vpop (fld w 17 7) (fld w 10 7) (fld w 6 1 == 1) (fld w 3 3) (fld w 2 1 == 1)))
  | 41 => plain w (checked (decide (fld w 1 1 = 0 ∧ fld w 3 7 = 0)) (.vpush (fld w 17 7) (fld w 10 7) (fld w 2 1 == 1)))
  | 42 => plain w (checked (decide (fld w 1 2 = 0 ∧ fld w 5 5 = 0)) (.vmovt (fld w 17 7) (fld w 10 7) (fld w 4 1 == 1) (fld w 3 1 == 1)))
  | 43 => extended w (checked (decide (fld w 3 14 = 0)) (.vldi (fld w 17 7) (fld w 2 1 == 1) (fld w 1 1 == 1) (.ofNat 32 (fld w 32 32))))
  | 44 => extended w (checked (decide (fld w 1 1 = 0 ∧ fld w 3 7 = 0 ∧ fld w 17 7 = 0 ∧ fld w 53 11 = 0)) (.vshape (fld w 10 7) (fld w 2 1 == 1) (fld w 32 2) (fld w 34 12) (fld w 46 1 == 1) (fld w 47 6)))
  | 45 => plain w (checked (decide (fld w 1 1 = 0 ∧ fld w 3 7 = 0 ∧ fld w 17 7 = 0)) (.mpush (fld w 10 7) (fld w 2 1 == 1)))
  | 46 => plain w (checked (decide (fld w 1 1 = 0 ∧ fld w 3 21 = 0)) (.minv (fld w 2 1 == 1)))
  | 47 => plain w (checked (decide (fld w 1 1 = 0 ∧ fld w 3 21 = 0)) (.mpop (fld w 2 1 == 1)))
  | 48 => plain w (checked (decide (fld w 3 7 = 0)) (.mset (fld w 17 7) (fld w 10 7) (fld w 2 1 == 1) (fld w 1 1 == 1)))
  | 49 => extended w (checked (decide (fld w 1 23 = 0)) (.bmz (.ofNat 32 (fld w 32 32))))
  | 50 => extended w (checked (decide (fld w 1 23 = 0)) (.bmnz (.ofNat 32 (fld w 32 32))))
  | 51 => plain w (checked (decide (fld w 1 1 = 0 ∧ fld w 3 14 = 0)) (.vfrd (fld w 17 7) (fld w 2 1 == 1)))
  | 52 => plain w (checked (decide (fld w 1 23 = 0)) (.vfclr))
  | 53 => plain w (checked (decide (fld w 1 1 = 0 ∧ fld w 3 14 = 0)) (.mget (fld w 17 7) (fld w 2 1 == 1)))
  | _ => .error .unknownVop

/-- A step word (R341, R434). -/
def decodeStep (w : Nat) : Except DecodeError Instr :=
  match fld w 28 4 with
  | 0 => checked (decide (fld w 0 15 = 0)) (.mldw (fld w 27 1 == 1) (fld w 21 6) (fld w 20 1 == 1) (fld w 19 1 == 1) (fld w 15 4))
  | 1 => checked (decide (fld w 0 23 = 0)) (.mmac (fld w 27 1 == 1) (fld w 24 3) (fld w 23 1 == 1))
  | 2 => checked (decide (fld w 0 23 = 0)) (.mmacs (fld w 27 1 == 1) (fld w 24 3) (fld w 23 1 == 1))
  | 3 => checked (decide (fld w 0 24 = 0)) (.mdrn (fld w 27 1 == 1) (fld w 26 1 == 1) (fld w 25 1 == 1) (fld w 24 1 == 1))
  | 4 => checked (decide (fld w 0 26 = 0)) (.mzero (fld w 27 1 == 1) (fld w 26 1 == 1))
  | 5 => checked (decide (fld w 0 19 = 0)) (.mcmp (fld w 27 1 == 1) (fld w 26 1 == 1) (fld w 20 6) (fld w 19 1 == 1))
  | 6 => checked (decide (fld w 0 20 = 0 ∧ fld w 27 1 = 0)) (.mpred (fld w 25 2) (fld w 22 3) (fld w 21 1 == 1) (fld w 20 1 == 1))
  | 7 => checked (decide (fld w 0 28 = 0)) (.msync)
  | 8 => checked (decide (fld w 0 28 = 0)) (.mend)
  | 9 => checked (decide (fld w 0 28 = 0)) (.mnop)
  | _ => .error .unknownStepOp

/-- The vector operations that require an extension word (R339): bits [29:24] of the word. -/
def vopExtended (vop : Nat) : Bool :=
  decide (vop ∈ [28, 30, 31, 32, 34, 36, 37, 43, 44, 49, 50])

/-- Whether a vector word takes the extension that its bit 0 announces and breaks no rule of its own: its reserved fields
are 0 (R338, R339). -/
def vectorPair (w : Nat) : Bool :=
  decide (fld w 30 2 = 3 ∧ fld w 0 1 = 1) && vopExtended (fld w 24 6) &&
    (match fld w 24 6 with
     | 32 | 36 => decide (fld w 3 7 = 0)
     | 43 => decide (fld w 3 14 = 0)
     | 44 => decide (fld w 1 1 = 0 ∧ fld w 3 7 = 0 ∧ fld w 17 7 = 0 ∧ fld w 10 7 < 32)
     | 49 | 50 => decide (fld w 1 23 = 0)
     | _ => true)

/-- The CSR numbers and the streams that reach them (R344). -/
def csrListed (k : StreamKind) (n : Nat) : Bool :=
  match k with
  | .x => decide (n ≤ 0x00A ∨ (0x010 ≤ n ∧ n ≤ 0x015) ∨ (0x020 ≤ n ∧ n ≤ 0x023))
  | _ => decide (n ≤ 0x00A ∨ n = 0x012 ∨ n = 0x014 ∨ n = 0x015 ∨ (0x020 ≤ n ∧ n ≤ 0x023))

/-- Whether the A-stream or the X-stream accepts a scalar word of this major and func (R337, R342), and
the queue numbers QSKIP may name there (R392). -/
def scalarAccepted (k : StreamKind) (w : Nat) : Bool :=
  let mj := fld w 26 6
  let fn := fld w 0 6
  match k with
  | .a => decide (mj ≠ 1 ∧ mj ≠ 0x2F ∧ ¬ (mj = 0x2C ∧ (fn = 4 ∨ fn = 5)) ∧ ¬ (mj = 0x2E ∧ (fn = 8 ∨ fn = 9)) ∧
      ¬ (mj = 0x2C ∧ fn = 3 ∧ 2 ≤ fld w 11 5))
  | .x => decide (¬ (0x19 ≤ mj ∧ mj ≤ 0x2A) ∧ mj ≠ 0x2D ∧ ¬ (mj = 0x2E ∧ fn = 7))
  | .m => false

/-- A CSR word names a listed CSR (R344, R473). -/
def csrAccepted (k : StreamKind) (w : Nat) : Bool :=
  decide (fld w 26 6 = 0x2E ∧ 2 ≤ fld w 0 6 ∧ fld w 0 6 ≤ 5 → csrListed k (fld w 6 10) = true)

/-- A decoded term whose fields lie outside their ranges is no instruction (R338). -/
def inRange (r : Except DecodeError Instr) : Except DecodeError Instr :=
  match r with
  | .ok i => if wellFormed i then .ok i else .error .badOperand
  | .error e => .error e

/-- The word a stream decodes, with the word after it for an extension in bits [63:32]: the instruction
and its length in bytes (R334, R339, R341, R342). -/
def decodeWord (k : StreamKind) (w : Nat) : Except DecodeError (Instr × Nat) :=
  match k with
  | .m => (inRange (decodeStep (w % 2 ^ 32))).map (fun i => (i, 4))
  | .a | .x =>
    if fld w 30 2 = 3 then
      if k = .a then .error .wrongStream
      else if vopExtended (fld w 24 6) then (inRange (decodeVector w)).map (fun i => (i, 8))
      else (inRange (decodeVector (w % 2 ^ 32))).map (fun i => (i, 4))
    else if scalarAccepted k w && csrAccepted k w then
      (inRange (decodeScalar (w % 2 ^ 32))).map (fun i => (i, 4))
    else .error .wrongStream

/-- The fields of a tile word (R345). -/
def tileFields (w : Nat) : TileWord where
  level := fld w 8 3
  strict := fld w 11 1 == 1
  txn := fld w 12 1 == 1
  async := fld w 13 1 == 1
  stop := fld w 14 1 == 1
  rsv15 := fld w 15 1 == 1
  mode := .ofNat 16 (fld w 16 16)
  ho := fld w 32 16
  ha := fld w 48 16
  hb := fld w 64 16
  hc := fld w 80 16
  p0 := .ofNat 32 (fld w 96 32)
  p1 := .ofNat 32 (fld w 128 32)
  tl := fld w 160 4
  rsv := .ofNat 28 (fld w 164 28)
  bar := .ofNat 64 (fld w 192 64)

/-- A tile word, by its op code (R341, R345). -/
def decodeTile (w : Nat) : Except DecodeError Instr :=
  match fld w 0 8 with
  | 1 => .ok (.tCopy (tileFields w))
  | 2 => .ok (.tFill (tileFields w))
  | 3 => .ok (.tEw (tileFields w))
  | 4 => .ok (.tMap (tileFields w))
  | 5 => .ok (.tRed (tileFields w))
  | 6 => .ok (.tScan (tileFields w))
  | 7 => .ok (.tCvt (tileFields w))
  | 8 => .ok (.tMma (tileFields w))
  | 9 => .ok (.tMmas (tileFields w))
  | 10 => .ok (.tCmp (tileFields w))
  | 11 => .ok (.tAmax (tileFields w))
  | 12 => .ok (.tRng (tileFields w))
  | 13 => .ok (.tOpt (tileFields w))
  | 16 => .ok (.tAr (tileFields w))
  | 17 => .ok (.tAg (tileFields w))
  | 18 => .ok (.tRs (tileFields w))
  | 19 => .ok (.tBc (tileFields w))
  | 24 => .ok (.tKern (tileFields w))
  | 25 => .ok (.tSig (tileFields w))
  | 26 => .ok (.tWaitev (tileFields w))
  | _ => .error .unknownTileOp

/-- The instruction at the start of a stream's bytes: the instruction and its length in bytes. A vector
operation that takes an extension needs eight bytes (R339). -/
def decode (k : StreamKind) (bs : List Byte) : Except DecodeError (Instr × Nat) :=
  if bs.length < 4 then .error .truncated
  else
    let w0 := leNat (bs.take 4)
    if k = .x ∧ fld w0 30 2 = 3 ∧ vopExtended (fld w0 24 6) = true ∧ fld w0 0 1 = 1 ∧ bs.length < 8 then
      .error .truncated
    else decodeWord k (leNat (bs.take 8))

/-- The bits of a tile word above its op code (R345). -/
def tileBits (w : TileWord) : Nat :=
  w.level * 2 ^ 8 + w.strict.toNat * 2 ^ 11 + w.txn.toNat * 2 ^ 12 + w.async.toNat * 2 ^ 13 +
    w.stop.toNat * 2 ^ 14 + w.rsv15.toNat * 2 ^ 15 + w.mode.toNat * 2 ^ 16 + w.ho * 2 ^ 32 +
    w.ha * 2 ^ 48 + w.hb * 2 ^ 64 + w.hc * 2 ^ 80 + w.p0.toNat * 2 ^ 96 + w.p1.toNat * 2 ^ 128 +
    w.tl * 2 ^ 160 + w.rsv.toNat * 2 ^ 164 + w.bar.toNat * 2 ^ 192

/-- A base with each field added at its place. -/
def fields (base : Nat) : List (Nat × Nat) → Nat
  | [] => base
  | (v, lo) :: fs => v * 2 ^ lo + fields base fs

/-- The words of an instruction as one integer with bit 0 the least significant bit of its first word,
after its length in bytes: the base of its row with each field at its place (R334 to R345). An event is
no word. -/
def encode : Instr → Option (Nat × Nat)
  | .add d a b => some (4, fields 0x0 [(d, 21), (a, 16), (b, 11)])
  | .sub d a b => some (4, fields 0x1 [(d, 21), (a, 16), (b, 11)])
  | .mul d a b => some (4, fields 0x2 [(d, 21), (a, 16), (b, 11)])
  | .mulh d a b => some (4, fields 0x3 [(d, 21), (a, 16), (b, 11)])
  | .mulhu d a b => some (4, fields 0x4 [(d, 21), (a, 16), (b, 11)])
  | .div d a b => some (4, fields 0x5 [(d, 21), (a, 16), (b, 11)])
  | .divu d a b => some (4, fields 0x6 [(d, 21), (a, 16), (b, 11)])
  | .rem d a b => some (4, fields 0x7 [(d, 21), (a, 16), (b, 11)])
  | .remu d a b => some (4, fields 0x8 [(d, 21), (a, 16), (b, 11)])
  | .and d a b => some (4, fields 0x9 [(d, 21), (a, 16), (b, 11)])
  | .or d a b => some (4, fields 0xA [(d, 21), (a, 16), (b, 11)])
  | .xor d a b => some (4, fields 0xB [(d, 21), (a, 16), (b, 11)])
  | .andn d a b => some (4, fields 0xC [(d, 21), (a, 16), (b, 11)])
  | .orn d a b => some (4, fields 0xD [(d, 21), (a, 16), (b, 11)])
  | .shl d a b => some (4, fields 0xE [(d, 21), (a, 16), (b, 11)])
  | .shr d a b => some (4, fields 0xF [(d, 21), (a, 16), (b, 11)])
  | .sra d a b => some (4, fields 0x10 [(d, 21), (a, 16), (b, 11)])
  | .rol d a b => some (4, fields 0x11 [(d, 21), (a, 16), (b, 11)])
  | .ror d a b => some (4, fields 0x12 [(d, 21), (a, 16), (b, 11)])
  | .min d a b => some (4, fields 0x13 [(d, 21), (a, 16), (b, 11)])
  | .max d a b => some (4, fields 0x14 [(d, 21), (a, 16), (b, 11)])
  | .minu d a b => some (4, fields 0x15 [(d, 21), (a, 16), (b, 11)])
  | .maxu d a b => some (4, fields 0x16 [(d, 21), (a, 16), (b, 11)])
  | .slt d a b => some (4, fields 0x17 [(d, 21), (a, 16), (b, 11)])
  | .sltu d a b => some (4, fields 0x18 [(d, 21), (a, 16), (b, 11)])
  | .seq d a b => some (4, fields 0x19 [(d, 21), (a, 16), (b, 11)])
  | .sel d a b n => some (4, fields 0x1A [(d, 21), (a, 16), (b, 11), (n, 6)])
  | .clz d a => some (4, fields 0x1B [(d, 21), (a, 16)])
  | .ctz d a => some (4, fields 0x1C [(d, 21), (a, 16)])
  | .popc d a => some (4, fields 0x1D [(d, 21), (a, 16)])
  | .brev d a => some (4, fields 0x1E [(d, 21), (a, 16)])
  | .bswap d a => some (4, fields 0x1F [(d, 21), (a, 16)])
  | .bfx d a b c => some (4, fields 0x20 [(d, 21), (a, 16), (b, 11), (c, 6)])
  | .bfi d a b c => some (4, fields 0x21 [(d, 21), (a, 16), (b, 11), (c, 6)])
  | .clmul d a b => some (4, fields 0x22 [(d, 21), (a, 16), (b, 11)])
  | .clmulh d a b => some (4, fields 0x23 [(d, 21), (a, 16), (b, 11)])
  | .fadd d a b => some (4, fields 0x4000000 [(d, 21), (a, 16), (b, 11)])
  | .fsub d a b => some (4, fields 0x4000001 [(d, 21), (a, 16), (b, 11)])
  | .fmul d a b => some (4, fields 0x4000002 [(d, 21), (a, 16), (b, 11)])
  | .fma d a b c => some (4, fields 0x4000003 [(d, 21), (a, 16), (b, 11), (c, 6)])
  | .fmin d a b => some (4, fields 0x4000004 [(d, 21), (a, 16), (b, 11)])
  | .fmax d a b => some (4, fields 0x4000005 [(d, 21), (a, 16), (b, 11)])
  | .fabs d a => some (4, fields 0x4000006 [(d, 21), (a, 16)])
  | .fneg d a => some (4, fields 0x4000007 [(d, 21), (a, 16)])
  | .fcmpeq d a b => some (4, fields 0x4000008 [(d, 21), (a, 16), (b, 11)])
  | .fcmplt d a b => some (4, fields 0x4000009 [(d, 21), (a, 16), (b, 11)])
  | .fcmple d a b => some (4, fields 0x400000A [(d, 21), (a, 16), (b, 11)])
  | .fcvtfi d a cv => some (4, fields 0x400000B [(d, 21), (a, 16), (cv, 6)])
  | .fcvtif d a cv => some (4, fields 0x400000C [(d, 21), (a, 16), (cv, 6)])
  | .pcmp d a b cond => some (4, fields 0x8000000 [(d, 21), (a, 16), (b, 11), (cond, 6)])
  | .pand d a b => some (4, fields 0x8000001 [(d, 21), (a, 16), (b, 11)])
  | .por d a b => some (4, fields 0x8000002 [(d, 21), (a, 16), (b, 11)])
  | .pnot d a => some (4, fields 0x8000003 [(d, 21), (a, 16)])
  | .pmov d a mode => some (4, fields 0x8000004 [(d, 21), (a, 16), (mode, 6)])
  | .addi d a imm => some (4, fields 0xC000000 [(d, 21), (a, 16), (imm.toNat, 0)])
  | .andi d a imm => some (4, fields 0x10000000 [(d, 21), (a, 16), (imm.toNat, 0)])
  | .ori d a imm => some (4, fields 0x14000000 [(d, 21), (a, 16), (imm.toNat, 0)])
  | .xori d a imm => some (4, fields 0x18000000 [(d, 21), (a, 16), (imm.toNat, 0)])
  | .shli d a sh => some (4, fields 0x1C000000 [(d, 21), (a, 16), (sh, 0)])
  | .shri d a sh => some (4, fields 0x20000000 [(d, 21), (a, 16), (sh, 0)])
  | .srai d a sh => some (4, fields 0x24000000 [(d, 21), (a, 16), (sh, 0)])
  | .slti d a imm => some (4, fields 0x28000000 [(d, 21), (a, 16), (imm.toNat, 0)])
  | .sltiu d a imm => some (4, fields 0x2C000000 [(d, 21), (a, 16), (imm.toNat, 0)])
  | .li d imm => some (4, fields 0x30000000 [(d, 21), (imm.toNat, 0)])
  | .lui d imm => some (4, fields 0x34000000 [(d, 21), (imm.toNat, 0)])
  | .beq a b off => some (4, fields 0x38000000 [(a, 21), (b, 16), (off.toNat, 0)])
  | .bne a b off => some (4, fields 0x3C000000 [(a, 21), (b, 16), (off.toNat, 0)])
  | .blt a b off => some (4, fields 0x40000000 [(a, 21), (b, 16), (off.toNat, 0)])
  | .bge a b off => some (4, fields 0x44000000 [(a, 21), (b, 16), (off.toNat, 0)])
  | .bltu a b off => some (4, fields 0x48000000 [(a, 21), (b, 16), (off.toNat, 0)])
  | .bgeu a b off => some (4, fields 0x4C000000 [(a, 21), (b, 16), (off.toNat, 0)])
  | .j off => some (4, fields 0x50000000 [(off.toNat, 0)])
  | .jal off => some (4, fields 0x54000000 [(off.toNat, 0)])
  | .jr d a imm => some (4, fields 0x58000000 [(d, 21), (a, 16), (imm.toNat, 0)])
  | .loop d a len => some (4, fields 0x5C000000 [(d, 21), (a, 16), (len, 0)])
  | .loops d a st len => some (4, fields 0x60000000 [(d, 21), (a, 16), (st, 13), (len, 0)])
  | .ldb d b p post sx off => some (4, fields 0x64000000 [(d, 21), (b, 16), (p, 13), (post.toNat, 12), (sx.toNat, 10), (off.toNat, 0)])
  | .ldh d b p post sx off => some (4, fields 0x68000000 [(d, 21), (b, 16), (p, 13), (post.toNat, 12), (sx.toNat, 10), (off.toNat, 0)])
  | .ldw d b p post sx off => some (4, fields 0x6C000000 [(d, 21), (b, 16), (p, 13), (post.toNat, 12), (sx.toNat, 10), (off.toNat, 0)])
  | .ldd d b p post off => some (4, fields 0x70000000 [(d, 21), (b, 16), (p, 13), (post.toNat, 12), (off.toNat, 0)])
  | .stb d b p post sc off => some (4, fields 0x74000000 [(d, 21), (b, 16), (p, 13), (post.toNat, 12), (sc, 10), (off.toNat, 0)])
  | .sth d b p post sc off => some (4, fields 0x78000000 [(d, 21), (b, 16), (p, 13), (post.toNat, 12), (sc, 10), (off.toNat, 0)])
  | .stw d b p post sc off => some (4, fields 0x7C000000 [(d, 21), (b, 16), (p, 13), (post.toNat, 12), (sc, 10), (off.toNat, 0)])
  | .std d b p post sc off => some (4, fields 0x80000000 [(d, 21), (b, 16), (p, 13), (post.toNat, 12), (sc, 10), (off.toNat, 0)])
  | .ldq q b p post w off => some (4, fields 0x84000000 [(q, 21), (b, 16), (p, 13), (post.toNat, 12), (w.toNat, 10), (off.toNat, 0)])
  | .stq q b p post w off => some (4, fields 0x88000000 [(q, 21), (b, 16), (p, 13), (post.toNat, 12), (w.toNat, 10), (off.toNat, 0)])
  | .ldf d b p post sys keep off => some (4, fields 0x8C000000 [(d, 21), (b, 16), (p, 13), (post.toNat, 12), (sys.toNat, 11), (keep.toNat, 10), (off.toNat, 0)])
  | .ste d b p post sys keep off => some (4, fields 0x90000000 [(d, 21), (b, 16), (p, 13), (post.toNat, 12), (sys.toNat, 11), (keep.toNat, 10), (off.toNat, 0)])
  | .tagset d b p post off => some (4, fields 0x94000000 [(d, 21), (b, 16), (p, 13), (post.toNat, 12), (off.toNat, 0)])
  | .tagclr d b p post off => some (4, fields 0x94000400 [(d, 21), (b, 16), (p, 13), (post.toNat, 12), (off.toNat, 0)])
  | .rld d b p post ord off => some (4, fields 0x98000000 [(d, 21), (b, 16), (p, 13), (post.toNat, 12), (ord.toNat, 11), (off.toNat, 0)])
  | .rst d b p post ord off => some (4, fields 0x9C000000 [(d, 21), (b, 16), (p, 13), (post.toNat, 12), (ord.toNat, 11), (off.toNat, 0)])
  | .rsta d b p post ord off => some (4, fields 0x9C000400 [(d, 21), (b, 16), (p, 13), (post.toNat, 12), (ord.toNat, 11), (off.toNat, 0)])
  | .amo d a b op => some (4, fields 0xA0000000 [(d, 21), (a, 16), (b, 11), (op, 6)])
  | .amor d a b op => some (4, fields 0xA0000001 [(d, 21), (a, 16), (b, 11), (op, 6)])
  | .mcst d a b set => some (4, fields 0xA4000000 [(d, 21), (a, 16), (b, 11), (set, 6)])
  | .cpy d a b sc => some (4, fields 0xA8000000 [(d, 21), (a, 16), (b, 11), (sc, 6)])
  | .cpyc d a b sc => some (4, fields 0xA8000001 [(d, 21), (a, 16), (b, 11), (sc, 6)])
  | .cpyx a => some (4, fields 0xA8000002 [(a, 16)])
  | .cpyq d a => some (4, fields 0xA8000003 [(d, 21), (a, 16)])
  | .lrec a b lvl => some (4, fields 0xA8000004 [(a, 16), (b, 11), (lvl, 6)])
  | .fence sc => some (4, fields 0xAC000000 [(sc, 6)])
  | .rel sc => some (4, fields 0xAC000001 [(sc, 6)])
  | .acq sc => some (4, fields 0xAC000002 [(sc, 6)])
  | .inv a all sc => some (4, fields 0xAC000003 [(a, 16), (all.toNat, 11), (sc, 6)])
  | .tlwait a n => some (4, fields 0xAC000004 [(a, 16), (n, 11)])
  | .tlread d n sel => some (4, fields 0xAC000005 [(d, 21), (n, 11), (sel, 6)])
  | .barv d a sc => some (4, fields 0xAC000006 [(d, 21), (a, 16), (sc, 6)])
  | .bwait a b sc => some (4, fields 0xAC000007 [(a, 16), (b, 11), (sc, 6)])
  | .pref a lvl => some (4, fields 0xAC000008 [(a, 16), (lvl, 6)])
  | .bqpush a => some (4, fields 0xB0000000 [(a, 16)])
  | .bqpop d => some (4, fields 0xB0000001 [(d, 21)])
  | .bqpeek d nb => some (4, fields 0xB0000002 [(d, 21), (nb.toNat, 6)])
  | .qskip d a q nb => some (4, fields 0xB0000003 [(d, 21), (a, 16), (q, 11), (nb.toNat, 6)])
  | .qpop d q n => some (4, fields 0xB0000004 [(d, 21), (q, 11), (n, 6)])
  | .qpush q a => some (4, fields 0xB0000005 [(q, 21), (a, 16)])
  | .txbegin d => some (4, fields 0xB4000000 [(d, 21)])
  | .txvote a => some (4, fields 0xB4000001 [(a, 16)])
  | .txwait d => some (4, fields 0xB4000002 [(d, 21)])
  | .txabort => some (4, fields 0xB4000003 [])
  | .txread d a sel => some (4, fields 0xB4000004 [(d, 21), (a, 16), (sel, 6)])
  | .trap imm => some (4, fields 0xB8000000 [(imm.toNat, 6)])
  | .eret => some (4, fields 0xB8000001 [])
  | .csrr d csr => some (4, fields 0xB8000002 [(d, 21), (csr, 6)])
  | .csrw d a csr => some (4, fields 0xB8000003 [(d, 21), (a, 16), (csr, 6)])
  | .csrs d a csr => some (4, fields 0xB8000004 [(d, 21), (a, 16), (csr, 6)])
  | .csrc d a csr => some (4, fields 0xB8000005 [(d, 21), (a, 16), (csr, 6)])
  | .exit => some (4, fields 0xB8000006 [])
  | .spawn d a b => some (4, fields 0xB8000007 [(d, 21), (a, 16), (b, 11)])
  | .tissue d a => some (4, fields 0xB8000008 [(d, 21), (a, 16)])
  | .tfence => some (4, fields 0xB8000009 [])
  | .brkd => some (4, fields 0xB800000A [])
  | .nop => some (4, fields 0xB800000B [])
  | .mloop n a fld => some (4, fields 0xBC000000 [(n, 21), (a, 16), (fld, 6)])
  | .mcfg a fld => some (4, fields 0xBC000001 [(a, 16), (fld, 6)])
  | .mgo d a => some (4, fields 0xBC000002 [(d, 21), (a, 16)])
  | .mstat d sel => some (4, fields 0xBC000003 [(d, 21), (sel, 6)])
  | .mabort d => some (4, fields 0xBC000004 [(d, 21)])
  | .vadd vd va vb nf mk => some (4, fields 0xC0000000 [(vd, 17), (va, 10), (vb, 3), (nf.toNat, 2), (mk.toNat, 1)])
  | .vsub vd va vb nf mk => some (4, fields 0xC1000000 [(vd, 17), (va, 10), (vb, 3), (nf.toNat, 2), (mk.toNat, 1)])
  | .vmul vd va vb nf mk => some (4, fields 0xC2000000 [(vd, 17), (va, 10), (vb, 3), (nf.toNat, 2), (mk.toNat, 1)])
  | .vfma vd va vb nf mk => some (4, fields 0xC3000000 [(vd, 17), (va, 10), (vb, 3), (nf.toNat, 2), (mk.toNat, 1)])
  | .vfms vd va vb nf mk => some (4, fields 0xC4000000 [(vd, 17), (va, 10), (vb, 3), (nf.toNat, 2), (mk.toNat, 1)])
  | .vfnma vd va vb nf mk => some (4, fields 0xC5000000 [(vd, 17), (va, 10), (vb, 3), (nf.toNat, 2), (mk.toNat, 1)])
  | .vmin vd va vb nf mk => some (4, fields 0xC6000000 [(vd, 17), (va, 10), (vb, 3), (nf.toNat, 2), (mk.toNat, 1)])
  | .vmax vd va vb nf mk => some (4, fields 0xC7000000 [(vd, 17), (va, 10), (vb, 3), (nf.toNat, 2), (mk.toNat, 1)])
  | .vabs vd va nf mk => some (4, fields 0xC8000000 [(vd, 17), (va, 10), (nf.toNat, 2), (mk.toNat, 1)])
  | .vneg vd va nf mk => some (4, fields 0xC9000000 [(vd, 17), (va, 10), (nf.toNat, 2), (mk.toNat, 1)])
  | .vrcp vd va nf mk => some (4, fields 0xCA000000 [(vd, 17), (va, 10), (nf.toNat, 2), (mk.toNat, 1)])
  | .vrsq vd va nf mk => some (4, fields 0xCB000000 [(vd, 17), (va, 10), (nf.toNat, 2), (mk.toNat, 1)])
  | .vsqrt vd va nf mk => some (4, fields 0xCC000000 [(vd, 17), (va, 10), (nf.toNat, 2), (mk.toNat, 1)])
  | .vexp2 vd va nf mk => some (4, fields 0xCD000000 [(vd, 17), (va, 10), (nf.toNat, 2), (mk.toNat, 1)])
  | .vlog2 vd va nf mk => some (4, fields 0xCE000000 [(vd, 17), (va, 10), (nf.toNat, 2), (mk.toNat, 1)])
  | .vdiv vd va vb nf mk => some (4, fields 0xCF000000 [(vd, 17), (va, 10), (vb, 3), (nf.toNat, 2), (mk.toNat, 1)])
  | .viadd vd va vb nf mk => some (4, fields 0xD0000000 [(vd, 17), (va, 10), (vb, 3), (nf.toNat, 2), (mk.toNat, 1)])
  | .visub vd va vb nf mk => some (4, fields 0xD1000000 [(vd, 17), (va, 10), (vb, 3), (nf.toNat, 2), (mk.toNat, 1)])
  | .vimul vd va vb nf mk => some (4, fields 0xD2000000 [(vd, 17), (va, 10), (vb, 3), (nf.toNat, 2), (mk.toNat, 1)])
  | .vimulh vd va vb nf mk => some (4, fields 0xD3000000 [(vd, 17), (va, 10), (vb, 3), (nf.toNat, 2), (mk.toNat, 1)])
  | .vand vd va vb nf mk => some (4, fields 0xD4000000 [(vd, 17), (va, 10), (vb, 3), (nf.toNat, 2), (mk.toNat, 1)])
  | .vor vd va vb nf mk => some (4, fields 0xD5000000 [(vd, 17), (va, 10), (vb, 3), (nf.toNat, 2), (mk.toNat, 1)])
  | .vxor vd va vb nf mk => some (4, fields 0xD6000000 [(vd, 17), (va, 10), (vb, 3), (nf.toNat, 2), (mk.toNat, 1)])
  | .vshl vd va vb nf mk => some (4, fields 0xD7000000 [(vd, 17), (va, 10), (vb, 3), (nf.toNat, 2), (mk.toNat, 1)])
  | .vshr vd va vb nf mk => some (4, fields 0xD8000000 [(vd, 17), (va, 10), (vb, 3), (nf.toNat, 2), (mk.toNat, 1)])
  | .vsra vd va vb nf mk => some (4, fields 0xD9000000 [(vd, 17), (va, 10), (vb, 3), (nf.toNat, 2), (mk.toNat, 1)])
  | .vimin vd va vb nf mk => some (4, fields 0xDA000000 [(vd, 17), (va, 10), (vb, 3), (nf.toNat, 2), (mk.toNat, 1)])
  | .vimax vd va vb nf mk => some (4, fields 0xDB000000 [(vd, 17), (va, 10), (vb, 3), (nf.toNat, 2), (mk.toNat, 1)])
  | .vcmp vd va vb nf mk cond => some (8, fields 0xDC000001 [(vd, 17), (va, 10), (vb, 3), (nf.toNat, 2), (mk.toNat, 1), (cond, 32)])
  | .vsel vd va vb nf mk => some (4, fields 0xDD000000 [(vd, 17), (va, 10), (vb, 3), (nf.toNat, 2), (mk.toNat, 1)])
  | .vcvt vd va vb nf mk src dst mode sat => some (8, fields 0xDE000001 [(vd, 17), (va, 10), (vb, 3), (nf.toNat, 2), (mk.toNat, 1), (src, 32), (dst, 38), (mode, 44), (sat.toNat, 47)])
  | .vpack vd va vb nf mk src dst mode sat => some (8, fields 0xDF000001 [(vd, 17), (va, 10), (vb, 3), (nf.toNat, 2), (mk.toNat, 1), (src, 32), (dst, 38), (mode, 44), (sat.toNat, 47)])
  | .vunpk vd va nf mk src dst half => some (8, fields 0xE0000001 [(vd, 17), (va, 10), (nf.toNat, 2), (mk.toNat, 1), (src, 32), (dst, 38), (half.toNat, 48)])
  | .vperm vd va vb nf mk => some (4, fields 0xE1000000 [(vd, 17), (va, 10), (vb, 3), (nf.toNat, 2), (mk.toNat, 1)])
  | .vshuf vd va vb nf mk pat k => some (8, fields 0xE2000001 [(vd, 17), (va, 10), (vb, 3), (nf.toNat, 2), (mk.toNat, 1), (pat, 32), (k, 36)])
  | .vbcast vd a nf mk => some (4, fields 0xE3000000 [(vd, 17), (a, 10), (nf.toNat, 2), (mk.toNat, 1)])
  | .vreds vd va nf mk op => some (8, fields 0xE4000001 [(vd, 17), (va, 10), (nf.toNat, 2), (mk.toNat, 1), (op, 32)])
  | .vscan vd va vb nf mk op => some (8, fields 0xE5000001 [(vd, 17), (va, 10), (vb, 3), (nf.toNat, 2), (mk.toNat, 1), (op, 32)])
  | .vclmul vd va vb nf mk => some (4, fields 0xE6000000 [(vd, 17), (va, 10), (vb, 3), (nf.toNat, 2), (mk.toNat, 1)])
  | .vrng vd va nf mk => some (4, fields 0xE7000000 [(vd, 17), (va, 10), (nf.toNat, 2), (mk.toNat, 1)])
  | .vpop vd q m n nf => some (4, fields 0xE8000000 [(vd, 17), (q, 10), (m.toNat, 6), (n, 3), (nf.toNat, 2)])
  | .vpush q va nf => some (4, fields 0xE9000000 [(q, 17), (va, 10), (nf.toNat, 2)])
  | .vmovt vd va sfx dir => some (4, fields 0xEA000000 [(vd, 17), (va, 10), (sfx.toNat, 4), (dir.toNat, 3)])
  | .vldi vd nf mk imm => some (8, fields 0xEB000001 [(vd, 17), (nf.toNat, 2), (mk.toNat, 1), (imm.toNat, 32)])
  | .vshape a nf ew len tv tsel => some (8, fields 0xEC000001 [(a, 10), (nf.toNat, 2), (ew, 32), (len, 34), (tv.toNat, 46), (tsel, 47)])
  | .mpush n nf => some (4, fields 0xED000000 [(n, 10), (nf.toNat, 2)])
  | .minv nf => some (4, fields 0xEE000000 [(nf.toNat, 2)])
  | .mpop nf => some (4, fields 0xEF000000 [(nf.toNat, 2)])
  | .mset n va nf mk => some (4, fields 0xF0000000 [(n, 17), (va, 10), (nf.toNat, 2), (mk.toNat, 1)])
  | .bmz off => some (8, fields 0xF1000001 [(off.toNat, 32)])
  | .bmnz off => some (8, fields 0xF2000001 [(off.toNat, 32)])
  | .vfrd vd nf => some (4, fields 0xF3000000 [(vd, 17), (nf.toNat, 2)])
  | .vfclr => some (4, fields 0xF4000000 [])
  | .mget n nf => some (4, fields 0xF5000000 [(n, 17), (nf.toNat, 2)])
  | .mldw p fmt mx s pl => some (4, fields 0x0 [(p.toNat, 27), (fmt, 21), (mx.toNat, 20), (s.toNat, 19), (pl, 15)])
  | .mmac p af ac => some (4, fields 0x10000000 [(p.toNat, 27), (af, 24), (ac.toNat, 23)])
  | .mmacs p af ac => some (4, fields 0x20000000 [(p.toNat, 27), (af, 24), (ac.toNat, 23)])
  | .mdrn p dt cc ov => some (4, fields 0x30000000 [(p.toNat, 27), (dt.toNat, 26), (cc.toNat, 25), (ov.toNat, 24)])
  | .mzero p ov => some (4, fields 0x40000000 [(p.toNat, 27), (ov.toNat, 26)])
  | .mcmp p one fmt sc => some (4, fields 0x50000000 [(p.toNat, 27), (one.toNat, 26), (fmt, 20), (sc.toNat, 19)])
  | .mpred cond lvl and inv => some (4, fields 0x60000000 [(cond, 25), (lvl, 22), (and.toNat, 21), (inv.toNat, 20)])
  | .msync => some (4, fields 0x70000000 [])
  | .mend => some (4, fields 0x80000000 [])
  | .mnop => some (4, fields 0x90000000 [])
  | .tCopy w => some (32, 1 + tileBits w)
  | .tFill w => some (32, 2 + tileBits w)
  | .tEw w => some (32, 3 + tileBits w)
  | .tMap w => some (32, 4 + tileBits w)
  | .tRed w => some (32, 5 + tileBits w)
  | .tScan w => some (32, 6 + tileBits w)
  | .tCvt w => some (32, 7 + tileBits w)
  | .tMma w => some (32, 8 + tileBits w)
  | .tMmas w => some (32, 9 + tileBits w)
  | .tCmp w => some (32, 10 + tileBits w)
  | .tAmax w => some (32, 11 + tileBits w)
  | .tRng w => some (32, 12 + tileBits w)
  | .tOpt w => some (32, 13 + tileBits w)
  | .tAr w => some (32, 16 + tileBits w)
  | .tAg w => some (32, 17 + tileBits w)
  | .tRs w => some (32, 18 + tileBits w)
  | .tBc w => some (32, 19 + tileBits w)
  | .tKern w => some (32, 24 + tileBits w)
  | .tSig w => some (32, 25 + tileBits w)
  | .tWaitev w => some (32, 26 + tileBits w)
  | .linkTrainingDone => none
  | .trainingAttemptTimeout => none
  | .linkLossOfLock => none
  | .internalLossOfLock => none
  | .retrain => none
  | .moduleReset => none
  | .recoveryPackage => none
  | .spdmRequest => none
  | .pwrcapWrite => none
  | .arbiterSample => none
  | .throttleLevelApply => none
  | .junctionTemperature => none
  | .capClear => none
  | .captureWindowEdge => none
  | .captureEvent => none
  | .remoteRequest => none
  | .remoteAck => none
  | .remoteResponse => none
  | .fabricForward => none
  | .requestExpiry => none
  | .linkMapUpdate => none
  | .timeMessageSend => none
  | .timeMessage => none
  | .fabtmoWrite => none
  | .domainDigest => none
  | .pcSelect => none
  | .refreshDue => none
  | .selfRefreshEntry => none
  | .selfRefreshExit => none
  | .eccError => none
  | .statusWriteApply => none
  | .statusWriteComplete => none
  | .tagAllocation => none
  | .normaliserSweepStart => none
  | .normaliserSweepComplete => none
  | .init => none
  | .setacc => none
  | .clracc => none
  | .clrpoison => none
  | .vmcmdIllegal => none
  | .vmcmdComplete => none
  | .register => none
  | .deregister => none
  | .query => none
  | .collectiveIssue => none
  | .chunkArrival => none
  | .markArrival => none
  | .planeCancel => none
  | .slotTmoExpiry => none
  | .collectiveTimeout => none
  | .collectiveCancel => none
  | .collectiveComplete => none
  | .arbourVote => none
  | .arbourNodeTimer => none
  | .arbourDecision => none
  | .attemptDeadline => none
  | .attemptVote => none
  | .attemptSettled => none
  | .registerWrite => none
  | .cxlReset => none
  | .cxlMemAccess => none
  | .ping => none
  | .bind => none
  | .unbind => none
  | .domcfg => none
  | .svnset => none
  | .preempt => none
  | .irtset => none
  | .mbcmdIllegal => none
  | .chainEnable => none
  | .chtailWrite => none
  | .tear => none
  | .kill => none
  | .packetFetch => none
  | .waitPoll => none
  | .packetComplete => none
  | .slotSelect => none
  | .domainShare => none
  | .lateCheck => none
  | .escalationRelease => none
  | .escalationCancel => none
  | .groupRetire => none
  | .groupDrained => none
  | .preemptionPoint => none
  | .preemptTimeout => none
  | .contextSave => none
  | .contextSaveComplete => none
  | .contextRestore => none
  | .schcfgWrite => none
  | .tileWordAccept => none
  | .tileWordStart => none
  | .childWordComplete => none
  | .tileWordComplete => none
  | .tileStop => none
  | .regroupPlacement => none
  | .amaxHistoryWrite => none
  | .waitevPoll => none
  | .queueStallRelease => none
  | .tileAccessPerformed => none
  | .taggedAccessPerformed => none
  | .copyCommandStart => none
  | .copyCommandComplete => none
  | .copyCancelAck => none
  | .nestStart => none
  | .nestEnd => none
  | .tlwaitComplete => none
  | .barrierArrival => none
  | .bwaitComplete => none
  | .invComplete => none
  | .stallWatchdog => none
  | .halt => none
  | .haltMessage => none
  | .resume => none
  | .dbgdataAccess => none
  | .lineWriteBack => none
  | .linkLevelReplay => none
  | .hbmStackTemperature => none
  | .invVc8Message => none

/-- The instruction the decoders read from an instruction whose bits are `w`, numbered as the opcode
table numbers them: a tile word where the row is wider than a word and its extension; otherwise the
X-stream's word, or the A-stream's where the X-stream refuses it, or the M-stream's where both refuse
it. -/
def decodeTableWord (nbits w : Nat) : Option Instr :=
  if 64 < nbits then (decodeTile w).toOption
  else
    let bs := leBytes 8 w
    match decode .x bs with
    | .ok (i, _) => some i
    | .error _ =>
      match decode .a bs with
      | .ok (i, _) => some i
      | .error _ =>
        match decode .m bs with
        | .ok (i, _) => some i
        | .error _ => none

/-- Whether the instruction is one an M-stream decodes (R341). -/
def Instr.isStep : Instr → Bool
  | .mldw .. | .mmac .. | .mmacs .. | .mdrn .. | .mzero .. | .mcmp .. | .mpred .. | .msync | .mend
  | .mnop => true
  | _ => false

/-- Whether the term is an event of the package and no word of a stream or executor. -/
def Instr.isEvent (i : Instr) : Bool := (encode i).isNone

end Sys2Proof
end

