-- ==== Sys2Proof/Machine/Sparse.lean ====
section
/-! DEFINITION. Operations on sparse data, bit ranges of integers and lists of bytes. -/

namespace Sys2Proof.Machine

/-- The entry at `k`, the default `d` where none is listed. -/
def sget {α : Type} (d : α) : Sparse α → Nat → α
  | [], _ => d
  | (k', v) :: m, k => if k = k' then v else sget d m k

/-- The list with `v` at `k`, in rising order. -/
def sput {α : Type} : Sparse α → Nat → α → Sparse α
  | [], k, v => [(k, v)]
  | (k', v') :: m, k, v =>
    if k < k' then (k, v) :: (k', v') :: m
    else if k = k' then (k, v) :: m
    else (k', v') :: sput m k v

/-- The list with `v` at `k`, nothing listed where `v` is the default. -/
def sset {α : Type} [DecidableEq α] (d : α) (m : Sparse α) (k : Nat) (v : α) : Sparse α :=
  if v = d then m.filter (fun p => decide (p.1 ≠ k)) else sput m k v

/-- The list with the entry at `k` changed by `f`. -/
def smod {α : Type} (d : α) (m : Sparse α) (k : Nat) (f : α → α) : Sparse α :=
  sput m k (f (sget d m k))

/-- `n` entries from `k` on. -/
def sread {α : Type} (d : α) (m : Sparse α) (k : Nat) : Nat → List α
  | 0 => []
  | n + 1 => sget d m k :: sread d m (k + 1) n

/-- A list of values written from `k` on. -/
def swrite {α : Type} [DecidableEq α] (d : α) (m : Sparse α) (k : Nat) : List α → Sparse α
  | [] => m
  | v :: vs => swrite d (sset d m k v) (k + 1) vs

/-- The keys rise and no entry equals the default. -/
def scanonical {α : Type} [DecidableEq α] (d : α) : Sparse α → Bool
  | [] => true
  | (k, v) :: m => decide (v ≠ d) && m.all (fun p => decide (k < p.1)) && scanonical d m

/-- Bits `hi` down to `lo` of `x` (R15). -/
def bits (x hi lo : Nat) : Nat := x / 2 ^ lo % 2 ^ (hi + 1 - lo)

/-- Bit `i` of `x`. -/
def bit (x i : Nat) : Bool := x / 2 ^ i % 2 == 1

/-- Bytes read as one little-endian integer (R6). -/
def fromBytes : List Byte → Nat
  | [] => 0
  | b :: bs => b.toNat + 256 * fromBytes bs

/-- The low `n` bytes of an integer, least significant first (R6). -/
def toBytes : Nat → Nat → List Byte
  | 0, _ => []
  | n + 1, v => BitVec.ofNat 8 v :: toBytes n (v / 256)

/-- One more, held at `top` (a saturating counter). -/
def satInc (top v : Nat) : Nat := if v < top then v + 1 else v

/-- The sum, held at `top`. -/
def satAdd (top v n : Nat) : Nat := if v + n < top then v + n else top

/-- The first `some` of a list. -/
def firstSome {α β : Type} (f : α → Option β) : List α → Option β
  | [] => none
  | a :: as =>
    match f a with
    | some b => some b
    | none => firstSome f as

/-- The entry of least weight, the earlier of two equals. -/
def leastBy {α : Type} (w : α → Nat) : List α → Option α
  | [] => none
  | a :: as =>
    match leastBy w as with
    | none => some a
    | some b => if w a ≤ w b then some a else some b

/-- The entries of a list that hold, with the rest after them. -/
def updateFirst {α : Type} (p : α → Bool) (f : α → α) : List α → List α
  | [] => []
  | a :: as => if p a then f a :: as else a :: updateFirst p f as

/-- `f` folded over `0 … n - 1`. -/
def upTo {α : Type} (n : Nat) (f : Nat → α → α) (a : α) : α :=
  (List.range n).foldl (fun x i => f i x) a

/-- The whole 64-byte words of a byte list, little-endian. -/
def wordsOf : Nat → List Byte → List Word
  | 0, _ => []
  | n + 1, bs => BitVec.ofNat 64 (fromBytes (bs.take 8)) :: wordsOf n (bs.drop 8)

end Sys2Proof.Machine
end

