-- ==== Sys2Proof/Machine/Num.lean ====
section
/-! DEFINITION. Number formats and arithmetic: exact values, the rounding function of R287 with its
overflow and flag rules, and the operations defined over it (chapter 11). -/

namespace Sys2Proof.Machine

/-- The five flags in the order of R297. -/
abbrev Flags := BitVec 5

def fNV : Flags := 1
def fDZ : Flags := 2
def fOF : Flags := 4
def fUF : Flags := 8
def fNX : Flags := 16

/-- A floating-point format (R278, R279). -/
inductive Fmt
  | fp32 | bf16 | e4m3 | e5m2 | e2m1
  deriving DecidableEq, Repr

/-- The format of a code (R278). -/
def fmtOf (code : Nat) : Option Fmt :=
  match code with
  | 0 => some .fp32
  | 1 => some .bf16
  | 2 => some .e4m3
  | 3 => some .e5m2
  | 4 => some .e2m1
  | _ => none

/-- Mantissa width. -/
def Fmt.m : Fmt → Nat
  | .fp32 => 23 | .bf16 => 7 | .e4m3 => 3 | .e5m2 => 2 | .e2m1 => 1

/-- Exponent width. -/
def Fmt.e : Fmt → Nat
  | .fp32 => 8 | .bf16 => 8 | .e4m3 => 4 | .e5m2 => 5 | .e2m1 => 2

/-- Exponent of the least normal value. -/
def Fmt.emin : Fmt → Int
  | .fp32 => -126 | .bf16 => -126 | .e4m3 => -6 | .e5m2 => -14 | .e2m1 => 0

/-- The code of the greatest finite value. -/
def Fmt.maxCode : Fmt → Nat
  | .fp32 => 0x7F7FFFFF | .bf16 => 0x7F7F | .e4m3 => 0x7E | .e5m2 => 0x7B | .e2m1 => 0x7

/-- The code of infinity, where the format has one. -/
def Fmt.infCode : Fmt → Option Nat
  | .fp32 => some 0x7F800000 | .bf16 => some 0x7F80 | .e5m2 => some 0x7C | .e4m3 => none | .e2m1 => none

/-- The canonical NaN (R279); E2M1's NaN result is 0x7 (R289). -/
def Fmt.nanCode : Fmt → Nat
  | .fp32 => 0x7FC00000 | .bf16 => 0x7FC0 | .e4m3 => 0x7F | .e5m2 => 0x7E | .e2m1 => 0x7

/-- The sign bit's weight. -/
def Fmt.signBit (f : Fmt) : Nat := 2 ^ (f.m + f.e)

/-- An exact value: NaN (signalling or not), an infinity, or `(-1)^neg · m · 2^e`. -/
inductive Fv
  | nan (sig : Bool)
  | inf (neg : Bool)
  | fin (neg : Bool) (m : Nat) (e : Int)
  deriving DecidableEq, Repr

/-- The value of a code (R279, R281). -/
def Fmt.decode (f : Fmt) (c : Nat) : Fv :=
  let neg := bit c (f.m + f.e)
  let ef := bits c (f.m + f.e - 1) f.m
  let mf := c % 2 ^ f.m
  let top := 2 ^ f.e - 1
  let special : Option Fv :=
    match f with
    | .e2m1 => none
    | .e4m3 => if ef = top ∧ mf = 7 then some (.nan false) else none
    | .e5m2 => if ef = top then (if mf = 0 then some (.inf neg) else some (.nan false)) else none
    | .fp32 => if ef = top then (if mf = 0 then some (.inf neg) else some (.nan (!bit c 22))) else none
    | .bf16 => if ef = top then (if mf = 0 then some (.inf neg) else some (.nan (!bit c 6))) else none
  match special with
  | some v => v
  | none =>
    if ef = 0 then .fin neg mf (f.emin - f.m)
    else .fin neg (2 ^ f.m + mf) (f.emin - f.m + ef - 1)

/-- Rounding modes (R288). -/
inductive RMode
  | rne | rtz | rup | rdn | sr
  deriving DecidableEq, Repr

/-- The mode of a code (R288); codes 5 to 7 are refused before use. -/
def rmodeOf (c : Nat) : RMode :=
  match c with
  | 0 => .rne | 1 => .rtz | 2 => .rup | 3 => .rdn | _ => .sr

/-- Whether a value `t + f` with fraction `rem / den` (a little more where `sticky`) rounds up (R287). -/
def roundUp (mode : RMode) (neg : Bool) (t rem den : Nat) (sticky : Bool) (r : Nat) : Bool :=
  if rem = 0 ∧ sticky = false then false
  else
    match mode with
    | .rne => decide (2 * rem > den) || (decide (2 * rem = den) && (sticky || decide (t % 2 = 1)))
    | .rtz => false
    | .rup => !neg
    | .rdn => neg
    | .sr => decide (rem * 2 ^ 32 / den + r ≥ 2 ^ 32)

/-- A code with its sign. -/
def Fmt.signed (f : Fmt) (neg : Bool) (c : Nat) : Nat := if neg then f.signBit + c else c

/-- The result of an overflow (R289): `sat` is 0 SATF or 1 SPECIAL, and FP32 always acts as SPECIAL. -/
def Fmt.overflow (f : Fmt) (neg : Bool) (mode : RMode) (sat : Nat) : Nat :=
  let mx := f.signed neg f.maxCode
  if sat = 0 ∧ f ≠ .fp32 then mx
  else
    let beyond := match f with
      | .e2m1 => mx
      | .e4m3 => f.nanCode
      | _ => f.signed neg (f.infCode.getD 0)
    match mode with
    | .rne | .sr => beyond
    | .rtz => mx
    | .rup => if neg then mx else beyond
    | .rdn => if neg then beyond else mx

/-- The code of an infinite input with its flags (R289). DESIGN CHOICE (log 110): under saturation BF16 gives its greatest
value, as R289 says, also from E5M2, where R290 has a wider format keep infinities. -/
def Fmt.ofInf (f : Fmt) (neg : Bool) (sat : Nat) : Nat × Flags :=
  if sat = 0 ∧ f ≠ .fp32 then (f.signed neg f.maxCode, 0)
  else
    match f with
    | .e4m3 => (f.nanCode, fNV)
    | .e2m1 => (f.signed neg f.maxCode, fNV)
    | _ => (f.signed neg (f.infCode.getD 0), 0)

/-- The code of a NaN input with its flags (R281, R289, R293). -/
def Fmt.ofNan (f : Fmt) (sig : Bool) : Nat × Flags :=
  match f with
  | .e2m1 => (f.nanCode, fNV)
  | _ => (f.nanCode, if sig then fNV else 0)

/-- `m · 2^k` as a quotient and remainder against the divisor: for `k ≥ 0` exact, else shifted down. -/
def shiftDown (m : Nat) (k : Int) : Nat × Nat × Nat :=
  if k ≤ 0 then (m * 2 ^ (-k).toNat, 0, 1) else (m / 2 ^ k.toNat, m % 2 ^ k.toNat, 2 ^ k.toNat)

/-- `round` of R287 on the value `(-1)^neg · m · 2^e`, a little greater in magnitude where `sticky`; `m`
is not 0. -/
def Fmt.roundFin (f : Fmt) (mode : RMode) (sat r : Nat) (neg : Bool) (m : Nat) (e : Int)
    (sticky : Bool) : Nat × Flags :=
  let lg : Int := e + Nat.log2 m
  let qe : Int := max lg f.emin - f.m
  let (t, rem, den) := shiftDown m (qe - e)
  let inexact := decide (rem ≠ 0) || sticky
  let v := t + (roundUp mode neg t rem den sticky r).toNat
  let ef : Int := qe + f.m - f.emin
  let mag : Int := ef * 2 ^ f.m + v
  let nx : Flags := if inexact then fNX else 0
  let uf : Flags := if inexact && decide (lg < f.emin) then fUF else 0
  if mag > f.maxCode then (f.overflow neg mode sat, fOF ||| fNX)
  else (f.signed neg mag.toNat, nx ||| uf)

/-- `round` of R287 with the flags it raises. -/
def Fmt.round (f : Fmt) (mode : RMode) (sat r : Nat) (v : Fv) : Nat × Flags :=
  match v with
  | .nan sig => f.ofNan sig
  | .inf neg => f.ofInf neg sat
  | .fin neg m e => if m = 0 then (f.signed neg 0, 0) else f.roundFin mode sat r neg m e false

/-- round_rne into a format (R287, R288). -/
def Fmt.rne (f : Fmt) (v : Fv) : Nat × Flags := f.round .rne 1 0 v

/-- The canonical NaN with the NV flag of an invalid operation or a signalling operand (R293). -/
def Fmt.invalid (f : Fmt) : Nat × Flags := (f.nanCode, fNV)

/-- Whether a value is a signalling NaN (R281). -/
def Fv.sig : Fv → Bool
  | .nan true => true
  | _ => false

/-- Whether a value is a NaN. -/
def Fv.isNan : Fv → Bool
  | .nan _ => true
  | _ => false

/-- A finite value as a signed integer at exponent `e'`, no greater than its own. -/
def atExp (neg : Bool) (m : Nat) (e e' : Int) : Int :=
  let a : Int := m * 2 ^ (e - e').toNat
  if neg then -a else a

/-- The exact sum of two values; `none` for an invalid operation (R293, R294). -/
def Fv.add (a b : Fv) : Option Fv :=
  match a, b with
  | .nan s, .nan t => some (.nan (s || t))
  | .nan s, _ => some (.nan s)
  | _, .nan s => some (.nan s)
  | .inf x, .inf y => if x = y then some (.inf x) else none
  | .inf x, .fin .. => some (.inf x)
  | .fin .., .inf y => some (.inf y)
  | .fin n1 m1 e1, .fin n2 m2 e2 =>
    let e := min e1 e2
    let v := atExp n1 m1 e1 e + atExp n2 m2 e2 e
    if v = 0 then some (.fin (n1 && n2 && decide (m1 = 0 ∧ m2 = 0)) 0 0)
    else some (.fin (decide (v < 0)) v.natAbs e)

/-- The exact product (R293, R294). -/
def Fv.mul (a b : Fv) : Option Fv :=
  match a, b with
  | .nan s, .nan t => some (.nan (s || t))
  | .nan s, _ => some (.nan s)
  | _, .nan s => some (.nan s)
  | .inf x, .inf y => some (.inf (x != y))
  | .inf x, .fin n m _ => if m = 0 then none else some (.inf (x != n))
  | .fin n m _, .inf y => if m = 0 then none else some (.inf (n != y))
  | .fin n1 m1 e1, .fin n2 m2 e2 => some (.fin (n1 != n2) (m1 * m2) (e1 + e2))

/-- The value with its sign inverted. -/
def Fv.neg : Fv → Fv
  | .nan s => .nan s
  | .inf n => .inf (!n)
  | .fin n m e => .fin (!n) m e

/-- The magnitude. -/
def Fv.abs : Fv → Fv
  | .nan s => .nan s
  | .inf _ => .inf false
  | .fin _ m e => .fin false m e

/-- Whether `a` is less than `b` in the order of the reals with infinities; NaN is refused before use. -/
def Fv.lt (a b : Fv) : Bool :=
  match a, b with
  | .inf x, .inf y => x && !y
  | .inf x, _ => x
  | _, .inf y => !y
  | .fin n1 m1 e1, .fin n2 m2 e2 =>
    let e := min e1 e2
    decide (atExp n1 m1 e1 e < atExp n2 m2 e2 e)
  | _, _ => false

/-- Whether the value is a zero. -/
def Fv.isZero : Fv → Bool
  | .fin _ m _ => decide (m = 0)
  | _ => false

/-- Whether two values are equal, +0 equal to -0; NaN is refused before use. -/
def Fv.eq (a b : Fv) : Bool := !a.isNan && !b.isNan && !a.lt b && !b.lt a

/-- The sign of a value. -/
def Fv.isNeg : Fv → Bool
  | .nan _ => false
  | .inf n => n
  | .fin n _ _ => n

/-- The order of R295: -0 lies below +0. -/
def Fv.below (a b : Fv) : Bool := a.lt b || (a.isZero && b.isZero && a.isNeg && !b.isNeg)

/-- An exact result rounded to a format; none is an invalid operation (R293). -/
def Fmt.finish (f : Fmt) (r : Option Fv) : Nat × Flags :=
  match r with
  | none => f.invalid
  | some v => f.rne v

/-- round_rne(a + b) with its flags. -/
def Fmt.fadd (f : Fmt) (a b : Nat) : Nat × Flags := f.finish ((f.decode a).add (f.decode b))

/-- round_rne(a - b). -/
def Fmt.fsub (f : Fmt) (a b : Nat) : Nat × Flags := f.finish ((f.decode a).add (f.decode b).neg)

/-- round_rne(a · b). -/
def Fmt.fmul (f : Fmt) (a b : Nat) : Nat × Flags := f.finish ((f.decode a).mul (f.decode b))

/-- round_rne(±(a · b) ± c), one rounding of the exact value (R301); a signalling operand raises NV. -/
def Fmt.ffma (f : Fmt) (negP negC : Bool) (a b c : Nat) : Nat × Flags :=
  let va := f.decode a
  let vb := f.decode b
  let vc := f.decode c
  let p := (va.mul vb).map (fun p => if negP then p.neg else p)
  let vc' := if negC then vc.neg else vc
  match p with
  | none => f.invalid
  | some p =>
    if va.isNan || vb.isNan || vc.isNan then f.ofNan (va.sig || vb.sig || vc.sig)
    else f.finish (p.add vc')

/-- The lesser by R295, with NaN rules of R293. -/
def Fmt.fmin (f : Fmt) (a b : Nat) : Nat × Flags :=
  let va := f.decode a
  let vb := f.decode b
  if va.isNan || vb.isNan then f.ofNan (va.sig || vb.sig)
  else (if vb.below va then b else a, 0)

/-- The greater by R295. -/
def Fmt.fmax (f : Fmt) (a b : Nat) : Nat × Flags :=
  let va := f.decode a
  let vb := f.decode b
  if va.isNan || vb.isNan then f.ofNan (va.sig || vb.sig)
  else (if va.below vb then b else a, 0)

/-- The code with its sign bit cleared; a NaN gives the canonical NaN (R281, R361). -/
def Fmt.fabs (f : Fmt) (a : Nat) : Nat × Flags :=
  let va := f.decode a
  if va.isNan then f.ofNan va.sig else (a % f.signBit, 0)

/-- amax of R295: max(|a|, |b|). -/
def Fmt.famax (f : Fmt) (a b : Nat) : Nat × Flags :=
  let x := f.fabs a
  let y := f.fabs b
  let z := f.fmax x.1 y.1
  (z.1, x.2 ||| y.2 ||| z.2)

/-- The code with its sign bit inverted. -/
def Fmt.fneg (f : Fmt) (a : Nat) : Nat × Flags :=
  let va := f.decode a
  if va.isNan then f.ofNan va.sig else (if va.isNeg then a % f.signBit else f.signBit + a % f.signBit, 0)

/-- The comparison a = b with its flags (R293). -/
def Fmt.feq (f : Fmt) (a b : Nat) : Bool × Flags :=
  let va := f.decode a
  let vb := f.decode b
  if va.isNan || vb.isNan then (false, if va.sig || vb.sig then fNV else 0) else (va.eq vb, 0)

/-- The comparison a < b: any NaN raises NV (R293). -/
def Fmt.flt (f : Fmt) (a b : Nat) : Bool × Flags :=
  let va := f.decode a
  let vb := f.decode b
  if va.isNan || vb.isNan then (false, fNV) else (va.lt vb, 0)

/-- The comparison a ≤ b. -/
def Fmt.fle (f : Fmt) (a b : Nat) : Bool × Flags :=
  let va := f.decode a
  let vb := f.decode b
  if va.isNan || vb.isNan then (false, fNV) else (!vb.lt va, 0)

/-- An integer as an exact value. -/
def Fv.ofInt (v : Int) : Fv := .fin (decide (v < 0)) v.natAbs 0

/-- The signed integer of a `w`-bit code. -/
def sx (v w : Nat) : Int :=
  let u := v % 2 ^ w
  if u < 2 ^ (w - 1) then u else (u : Int) - 2 ^ w

/-- The low `w` bits of an integer. -/
def wrap (v : Int) (w : Nat) : Nat := (v % (2 ^ w : Int)).toNat

/-- Conversion of a value to a signed integer of `w` bits (R290), as its `w`-bit code with flags. -/
def toInt (v : Fv) (mode : RMode) (r w : Nat) : Nat × Flags :=
  let lo : Int := -(2 ^ (w - 1) : Int)
  let hi : Int := (2 ^ (w - 1) : Int) - 1
  match v with
  | .nan _ => (0, fNV)
  | .inf n => (wrap (if n then lo else hi) w, fNV)
  | .fin n m e =>
    let (t, rem, den) := shiftDown m (-e)
    let a : Int := t + (roundUp mode n t rem den false r).toNat
    let x := if n then -a else a
    if x < lo then (wrap lo w, fNV)
    else if x > hi then (wrap hi w, fNV)
    else (wrap x w, if rem ≠ 0 then fNX else 0)

/-- The quotient to enough bits for one rounding: mantissa, exponent, sticky. -/
def divFin (m1 : Nat) (e1 : Int) (m2 : Nat) (e2 : Int) : Nat × Int × Bool :=
  let k := 64 + Nat.log2 m2
  let n := m1 * 2 ^ k
  (n / m2, e1 - e2 - k, decide (n % m2 ≠ 0))

/-- round_rne(a / b) (R299). -/
def Fmt.fdiv (f : Fmt) (a b : Nat) : Nat × Flags :=
  let va := f.decode a
  let vb := f.decode b
  match va, vb with
  | .nan s, v => f.ofNan (s || v.sig)
  | v, .nan s => f.ofNan (s || v.sig)
  | .inf _, .inf _ => f.invalid
  | .inf x, .fin n _ _ => (f.signed (x != n) (f.infCode.getD 0), 0)
  | .fin n _ _, .inf y => (f.signed (n != y) 0, 0)
  | .fin n1 m1 e1, .fin n2 m2 e2 =>
    if m2 = 0 then (if m1 = 0 then f.invalid else (f.signed (n1 != n2) (f.infCode.getD 0), fDZ))
    else if m1 = 0 then (f.signed (n1 != n2) 0, 0)
    else
      let (m, e, st) := divFin m1 e1 m2 e2
      f.roundFin .rne 1 0 (n1 != n2) m e st

/-- The integer square root by bits, from bit `k` down. -/
def isqrtBits (n : Nat) : Nat → Nat → Nat
  | 0, r => if (r + 1) * (r + 1) ≤ n then r + 1 else r
  | k + 1, r => isqrtBits n k (if (r + 2 ^ (k + 1)) * (r + 2 ^ (k + 1)) ≤ n then r + 2 ^ (k + 1) else r)

/-- The integer square root. -/
def isqrt (n : Nat) : Nat := isqrtBits n (Nat.log2 n / 2 + 1) 0

/-- The square root of `m · 2^e` to enough bits: mantissa, exponent, sticky. -/
def sqrtFin (m : Nat) (e : Int) : Nat × Int × Bool :=
  let k : Nat := if e % 2 = 0 then 128 else 129
  let n := m * 2 ^ k
  let r := isqrt n
  (r, (e - k) / 2, decide (r * r ≠ n))

/-- round_rne(√a) (R299). -/
def Fmt.fsqrt (f : Fmt) (a : Nat) : Nat × Flags :=
  match f.decode a with
  | .nan s => f.ofNan s
  | .inf n => if n then f.invalid else (f.infCode.getD 0, 0)
  | .fin n m e =>
    if m = 0 then (f.signed n 0, 0)
    else if n then f.invalid
    else
      let (r, x, st) := sqrtFin m e
      f.roundFin .rne 1 0 false r x st

/-- round_rne(1 / a) (R299). -/
def Fmt.frcp (f : Fmt) (a : Nat) : Nat × Flags :=
  match f.decode a with
  | .nan s => f.ofNan s
  | .inf n => (f.signed n 0, 0)
  | .fin n m e =>
    if m = 0 then (f.signed n (f.infCode.getD 0), fDZ)
    else
      let (q, x, st) := divFin 1 0 m e
      f.roundFin .rne 1 0 n q x st

/-- round_rne(1 / √a) (R299): the square root of the reciprocal, both kept exact to a sticky bit. -/
def Fmt.frsq (f : Fmt) (a : Nat) : Nat × Flags :=
  match f.decode a with
  | .nan s => f.ofNan s
  | .inf n => if n then f.invalid else (0, 0)
  | .fin n m e =>
    if m = 0 then (f.signed n (f.infCode.getD 0), fDZ)
    else if n then f.invalid
    else
      -- 1/√(m·2^e) = √(2^k / m) · 2^(-(e + k)/2) with e + k even
      let k : Nat := if e % 2 = 0 then 256 else 257
      let q := 2 ^ k / m
      let r := isqrt q
      f.roundFin .rne 1 0 false r (-(e + k) / 2) (decide (r * r * m ≠ 2 ^ k))

/-- Fixed-point 2^x for a fraction `x / 2^p` in [0, 1): floor of 2^p · 2^x to within `err` units below, by
repeated square roots of 2 (the bits of x from the top). -/
def exp2Bits (p x : Nat) : Nat → Nat → Nat → Nat
  | 0, _, acc => acc
  | k + 1, root, acc =>
    let root' := isqrt (root * 2 ^ p)
    exp2Bits p x k root' (if bit x k then acc * root' / 2 ^ p else acc)

/-- round_rne(2^a) (R299): the significand is formed to `p = 200` bits, each step low by less than one
unit, and a rounding boundary never falls inside the error since no irrational 2^x is that near one. -/
def Fmt.fexp2 (f : Fmt) (a : Nat) : Nat × Flags :=
  match f.decode a with
  | .nan s => f.ofNan s
  | .inf n => (if n then 0 else f.infCode.getD 0, 0)
  | .fin n m e =>
    if m = 0 then f.rne (.fin false 1 0)
    else
      let v : Int := atExp n m e (min e (-150))
      let p : Nat := (-(min e (-150))).toNat
      let i : Int := v / 2 ^ p
      let fr : Nat := (v % (2 ^ p : Int)).toNat
      if i ≥ 128 then (f.overflow false .rne 1, fOF ||| fNX)
      else if i < -400 then (0, fUF ||| fNX)
      else if fr = 0 then f.rne (.fin false 1 i)
      else
        let q := p + 64
        let y := exp2Bits q (fr * 2 ^ 64) q (2 * 2 ^ q) (2 ^ q)
        f.roundFin .rne 1 0 false y (i - q) true

/-- The binary digits of log2 of `y / 2^q` in [1, 2), `k` of them. -/
def log2Bits (q : Nat) : Nat → Nat → Nat → Nat
  | 0, _, acc => acc
  | k + 1, y, acc =>
    let y2 := y * y / 2 ^ q
    if y2 ≥ 2 ^ (q + 1) then log2Bits q k (y2 / 2) (2 * acc + 1) else log2Bits q k y2 (2 * acc)

/-- round_rne(log2 a) (R299): 128 fractional digits formed with 512-bit squares. -/
def Fmt.flog2 (f : Fmt) (a : Nat) : Nat × Flags :=
  match f.decode a with
  | .nan s => f.ofNan s
  | .inf n => if n then f.invalid else (f.infCode.getD 0, 0)
  | .fin n m e =>
    if m = 0 then (f.signed true (f.infCode.getD 0), fDZ)
    else if n then f.invalid
    else
      let lg := Nat.log2 m
      let i : Int := e + lg
      if m = 2 ^ lg then f.rne (Fv.ofInt i)
      else
        let d := log2Bits 512 128 (m * 2 ^ (512 - lg)) 0
        let v : Int := i * 2 ^ 128 + d
        -- a negative value is truncated toward minus infinity: its magnitude is one unit lower, plus a rest
        if v < 0 then f.roundFin .rne 1 0 true (v.natAbs - 1) (-128) true
        else f.roundFin .rne 1 0 false v.natAbs (-128) true

/-- The carry-less product of two integers, the second of `n` bits (R357). -/
def clmulNat (n x y : Nat) : Nat :=
  (List.range n).foldl (fun a i => if bit y i then a ^^^ (x * 2 ^ i) else a) 0

/-- One round of Philox-4x32-10 on key and counter words (R292). -/
def philoxRound (k0 k1 c0 c1 c2 c3 : Nat) : Nat × Nat × Nat × Nat :=
  let p := 0xD2511F53 * c0
  let q := 0xCD9E8D57 * c2
  (q / 2 ^ 32 ^^^ c1 ^^^ k0, q % 2 ^ 32, p / 2 ^ 32 ^^^ c3 ^^^ k1, p % 2 ^ 32)

/-- The rounds still to do, the key moving on between them (R292). -/
def philoxRounds : Nat → Nat → Nat → Nat × Nat × Nat × Nat → Nat × Nat × Nat × Nat
  | 0, _, _, c => c
  | n + 1, k0, k1, (c0, c1, c2, c3) =>
    philoxRounds n ((k0 + 0x9E3779B9) % 2 ^ 32) ((k1 + 0xBB67AE85) % 2 ^ 32) (philoxRound k0 k1 c0 c1 c2 c3)

/-- rbits of R292: 64-bit key, 128-bit counter base, element index. -/
def rbits (key ctr j : Nat) : Nat :=
  let n := (ctr + j / 4) % 2 ^ 128
  let (r0, r1, r2, r3) := philoxRounds 10 (key % 2 ^ 32) (key / 2 ^ 32)
    (n % 2 ^ 32, n / 2 ^ 32 % 2 ^ 32, n / 2 ^ 64 % 2 ^ 32, n / 2 ^ 96)
  match j % 4 with
  | 0 => r0
  | 1 => r1
  | 2 => r2
  | _ => r3

/-- Two values with the flags raised so far, combined by an operation that raises flags. -/
def combine (f : Nat → Nat → Nat × Flags) (a b : Nat × Flags) : Nat × Flags :=
  let r := f a.1 b.1
  (r.1, a.2 ||| b.2 ||| r.2)

/-- The pairwise tree over `2^k` positions from `lo`, an absent half giving the other (R211, R303). -/
def treeNode {α : Type} (f : α → α → α) (x : Nat → Option α) : Nat → Nat → Option α
  | 0, lo => x lo
  | k + 1, lo =>
    match treeNode f x k lo, treeNode f x k (lo + 2 ^ k) with
    | some l, some r => some (f l r)
    | some l, none => some l
    | none, r => r

/-- The exponent of the least power of two that is at least `n`. -/
def ceilLog2 (n : Nat) : Nat := if n ≤ 1 then 0 else Nat.log2 (n - 1) + 1

/-- One rounding of an exact value into a format: a float, or a signed integer of `width` bits (R287,
R290). -/
def convert (dst mode sat r : Nat) (v : Fv) (width : Nat) : Nat × Flags :=
  match fmtOf dst with
  | some f => f.round (rmodeOf mode) sat r v
  | none => toInt v (rmodeOf mode) r width

/-- LINREC's operator on pairs of FP32 codes, the earlier element first (R305). -/
def linrec (a b : Nat × Nat) : (Nat × Nat) × Flags :=
  let p := Fmt.fp32.fmul a.1 b.1
  let q := Fmt.fp32.fmul b.1 a.2
  let t := Fmt.fp32.fadd q.1 b.2
  ((p.1, t.1), p.2 ||| q.2 ||| t.2)

/-- The new value of an atomic's operation on old value `o`, operand `b` and expected value `x` (R382). -/
def amoNew (op : AmoOp) (o b x : Nat) : Nat :=
  match op with
  | .add => (o + b) % 2 ^ 64
  | .and => o &&& b
  | .or => o ||| b
  | .xor => o ^^^ b
  | .min => if sx b 64 < sx o 64 then b else o
  | .max => if sx o 64 < sx b 64 then b else o
  | .minu => if b < o then b else o
  | .maxu => if o < b then b else o
  | .swap => b
  | .cas => if o = x then b else o
  | .fadd => (Fmt.fp32.fadd (o % 2 ^ 32) (b % 2 ^ 32)).1
  | .fmin => (Fmt.fp32.fmin (o % 2 ^ 32) (b % 2 ^ 32)).1
  | .fmax => (Fmt.fp32.fmax (o % 2 ^ 32) (b % 2 ^ 32)).1

/-- The size of an atomic's operand (R382). -/
def amoSize : AmoOp → Nat
  | .fadd | .fmin | .fmax => 4
  | _ => 8

/-- Whether an atomic is a floating-point one (R87). -/
def amoFloat (op : AmoOp) : Bool := decide (amoSize op = 4)

/-- The operation of a field c (R382). -/
def amoOf (c : Nat) : AmoOp :=
  match c with
  | 0 => .add | 1 => .and | 2 => .or | 3 => .xor | 4 => .min | 5 => .max | 6 => .minu | 7 => .maxu
  | 8 => .swap | 9 => .cas | 10 => .fadd | 11 => .fmin | _ => .fmax

end Sys2Proof.Machine
end

