-- ==== Sys2Proof/Config.lean ====
section
/-! DEFINITION. What one device fixes and the spec leaves open: constants without a body, of which no
statement can know a value. -/

namespace Sys2Proof.Config

/-- The security version number fused into the device (R27: reset "fused"). -/
opaque fusedSvn : BitVec 32

/-- The SHA-384 digest of the hub ROM (R31). -/
opaque romDigest : BitVec 384

/-- The SHA-384 digest of the fuse configuration, by fused SVN (R31). -/
opaque fuseDigest : BitVec 32 → BitVec 384

/-- The fused device secret (R31). -/
opaque deviceSecret : BitVec 384

/-- The RSA-3072 identity key derived from the device secret and the digests of the two firmware images (R31). -/
opaque rsaIdentity : BitVec 384 → BitVec 384 → BitVec 384 → BitVec 3072

/-- The SLH-DSA-SHA2-192s identity key derived from the device secret and the digests of the two firmware images
(R31). -/
opaque slhIdentity : BitVec 384 → BitVec 384 → BitVec 384 → BitVec 768

/-- The RSA-3072 signature, under an identity key, of a report's digests and nonce (R31). -/
opaque rsaSign : BitVec 3072 → List (BitVec 384) → Nat → BitVec 3072

/-- The SLH-DSA-SHA2-192s signature, under an identity key, of a report's digests and nonce (R31). -/
opaque slhSign : BitVec 768 → List (BitVec 384) → Nat → BitVec 129792

/-- The credit occupancy of a fabric port in percent, by request number and port (R47: the spec states no
rule for how full a port is). -/
opaque portOccupancy : Nat → Nat → Nat

/-- Whether a waiting request hits an open row when a pseudo-channel picks, by the pick and the request (R76: the spec
does not say which rows are open). -/
opaque rowHit : Nat → Nat → Bool

/-- Whether SWEEP has received less than its share when a pseudo-channel picks, by the pick (R76, R92: the spec counts
it over 10 µs). -/
opaque sweepShort : Nat → Bool

/-- The way that leaves a full set of a cache or TLB, by a number of its own (R250, R251: the spec states no replacement
rule). -/
opaque victim : Nat → Nat

/-- Whether the leaf tiles of a word pass through tile register 32 + `i` on their way to the engines, by word and `i`
(R216: the spec does not say which of the eight a word uses). -/
opaque stagesTile : Nat → Nat → Bool

/-- What a tile unit leaves in a byte of its core's staging reserve, by the run and the place of the byte (R217: the
spec states no value). -/
opaque stagedByte : Nat → Nat → Byte

/-- How a saved frame's part whose inner layout the spec does not give holds its contents: by the part's offset in the
frame, the contents in the order in which R188 names them, and the place of the byte in the part. -/
opaque frameByte : Nat → List Nat → Nat → Byte

/-- The address that the fault record of a collective's OWNER or POISON holds, by its tile word: the spec names no
virtual address for it (R123, R306). -/
opaque collectiveAddr : Nat → Word

/-- The TRAPADDR of a POISON trap for a queue entry or a vector or tile register, by the trap: the spec names no address
for it (R306, R323). -/
opaque poisonAddr : Nat → Word

end Sys2Proof.Config
end

