-- ==== Sys2Proof/Machine/State.lean ====
section
/-! DEFINITION. The state of one AT8 device as plain data, the reasons a step can stop, and the state
after reset. -/

namespace Sys2Proof.Machine

/-! ### The core (chapter 09) -/

/-- One hardware-loop level (R366, R368): body start, end word, index register, trip count, stage count
(0 for LOOP), the index `x` (`i` of a LOOP), and `I0` and `lim` of a LOOPS. `cut` says that a pre-emption request
reached the level: its next pass end lowers `lim` (R369); `refill` that it has drained and stopped, so that it resumes
with start_pass. -/
structure LoopLevel where
  start  : Word
  stop   : Word
  idx    : Nat
  n      : Nat
  stages : Nat
  x      : Nat
  i0     : Nat
  lim    : Nat
  cut    : Bool
  refill : Bool
  deriving DecidableEq, Repr

/-- Whether a stream runs (R224, R186, R187, R315). -/
inductive RunState
  | idle | running | exited | stopped | faulted
  deriving DecidableEq, Repr

/-- What a head word is blocked on (R316); `tag` to `tissue` count for the watchdog, the rest do not. -/
inductive Stall
  | queue | tag | tile | bwait | tlwait | tissue | nest | txn | inv | remote | release | slots
  deriving DecidableEq, Repr

/-- A returning remote access of a stream: the request's identifier, and its response once it has
arrived (R55). -/
structure RemoteWait where
  id     : Nat
  result : Option RemoteResult
  deriving DecidableEq, Repr

/-- A fetch from another device's memory (R342, R55): the request outstanding, the bytes that arrived for
the word at PC, and the error it met. -/
structure Fetch where
  id   : Option Nat := none
  code : List Byte := []
  err  : Option RemoteErr := none
  deriving DecidableEq, Repr

/-- The classes of a tile access (R233): `consume` is .c, `ow` is .o. -/
inductive TileAccess
  | read (consume : Bool)
  | write (ow : Bool)
  | update
  deriving DecidableEq, Repr

/-- An A- or X-stream of a core (R224, R225, R308). `skip` counts the entries that the QSKIP at the PC has discarded while
it waits, `trapSkip` that of the word whose trap is being handled (R307, R392); `want` is the tile access that a VMOVT
waits for (R235). -/
structure StreamSt where
  pc        : Word := 0
  run       : RunState := .idle
  regs      : Sparse Word := []
  preds     : BitVec 8 := 0
  loops     : List LoopLevel := []
  held      : Nat := 0
  trapVec   : Word := 0
  trapCode  : BitVec 8 := 0
  trapSub   : BitVec 3 := 0
  inTrap    : Bool := false
  trapAddr  : Word := 0
  trapPc    : Word := 0
  stall     : Option Stall := none
  stallCnt  : Nat := 0
  wait      : Option RemoteWait := none
  parts     : List Byte := []
  fetch     : Fetch := {}
  skip      : Option Nat := none
  trapSkip  : Option (Word × Nat) := none
  want      : Option (Nat × TileAccess) := none
  preempt   : Bool := false
  deriving DecidableEq, Repr

/-- An entry of a data or branch-outcome queue (R343): its bytes, its null mark, its poison mark. -/
structure QEntry where
  data   : List Byte
  null   : Bool
  poison : Bool
  deriving DecidableEq, Repr

/-- A byte a vector word writes: its place, its value, and the bits of it that are written (R239, R407). -/
structure VByte where
  place : Nat
  val   : Byte
  mask  : Byte
  deriving DecidableEq, Repr

/-- A vector word's writes that later words do not see yet (R239): the bytes by place, and the X-stream
words still to pass. With `early` the tile already holds what was written, as the engines that wait on its bit read it
(R418), and `bytes` are what vector words still see, `bad` the poisoned 8-byte words of the tile as they see them. -/
structure PendingWrite where
  bytes : List VByte
  left  : Nat
  early : Bool := false
  bad   : Sparse Bool := []
  deriving DecidableEq, Repr

/-- A timeline (R267, R391): the numbers completed out of order with their error bit, and the declared
scope of each number. -/
structure Timeline where
  issued   : Nat := 0
  passed   : Nat := 0
  errFirst : Nat := 0
  done     : List (Nat × Bool) := []
  scopes   : List (Nat × Nat) := []
  deriving DecidableEq, Repr

/-- The transaction attributes an access or command carries (R80, R206). -/
structure Carry where
  tag    : Nat
  att    : Nat
  strict : Bool
  deriving DecidableEq, Repr

/-- A copy queue entry: a CPY or CPYC command, or an LREC waiting for the head (R385, R388). -/
inductive CopyCmd
  | copy (num dst src : Nat) (ow consume : Bool) (scope : Nat) (cancellable : Bool) (carry : Carry)
  | lrec (id handle : Nat) (record : BitVec 768)
  deriving DecidableEq, Repr

/-- The records of a running copy command (R350) and the place reached in its start sequence: the waits
of its tile records still to meet (R385). -/
structure CopyRun where
  cmd    : CopyCmd
  dstRec : List (BitVec 768)
  srcRec : List (BitVec 768)
  deriving DecidableEq, Repr

/-- The status of a cancel slot's command (R387). -/
inductive CancelStatus
  | pending | cancelling | cancelled | done
  deriving DecidableEq, Repr

/-- A cached line (R250, R257): valid bytes, dirty bytes, data, the narrowest scope recorded by a store
into it, whether its page is versioned and the view bit (T when `tent`), whether it is local HBM. -/
structure Line where
  valid : BitVec 128
  dirty : BitVec 128
  data  : BitVec 1024
  scope : Nat
  ver   : Bool
  tent  : Bool
  deriving DecidableEq, Repr

/-- A translation held by a TLB (R251): the table root, the page's virtual base, its size in bits, and
its leaf entry. -/
structure TlbEntry where
  root : Nat
  base : Nat
  bits : Nat
  pte  : Word
  deriving DecidableEq, Repr

/-- One level of the matrix loop nest (R426). -/
structure MLevel where
  trip : Nat := 1
  astr : Int := 0
  wstr : Int := 0
  cstr : Int := 0
  dstr : Int := 0
  deriving DecidableEq, Repr

/-- The matrix engine's configuration words (R427, R428). -/
structure MConfig where
  abase  : Nat := 0
  wbase  : Nat := 0
  cbase  : Nat := 0
  dbase  : Nat := 0
  dscale : BitVec 32 := 0x3F800000
  dctl   : BitVec 10 := 0
  plev   : Nat := 0
  deriving DecidableEq, Repr

/-- The weights an MLDW latched (R435, R436). -/
structure Weights where
  fmt  : Nat
  mx   : Bool
  s    : Bool
  pl   : Nat
  addr : Nat
  data : List Byte
  deriving DecidableEq, Repr

/-- What MSTAT returned until a change, and the NaN bit a drain set then (R432). -/
structure MStatus where
  time  : Nat
  nan   : BitVec 40
  state : Word
  setN  : Option Nat
  deriving DecidableEq, Repr

/-- The matrix engine (R425). `body` is the M-section's start, `start` the nest's body start, `ended` says that the last iteration's MEND is over, `first` holds the source
block of a step word whose second access waits, `taken` the tile that its first access has consumed, `hist` what MSTAT returns for four cycles (R432). -/
structure MatrixSt where
  shLoops  : Sparse MLevel := []
  shCfg    : MConfig := {}
  loops    : Sparse MLevel := []
  cfg      : MConfig := {}
  idx      : Sparse Nat := []
  body     : Word := 0
  start    : Word := 0
  pc       : Word := 0
  mp       : Bool := false
  weights  : Option Weights := none
  nan      : BitVec 40 := 0
  syncs    : Nat := 0
  run      : Bool := false
  ended    : Bool := false
  preempt  : Bool := false
  first    : Option (List Byte) := none
  taken    : Option Nat := none
  hist     : List MStatus := []
  aborted  : Bool := false
  abortReq : Bool := false
  fault    : Bool := false
  nest     : Nat := 0
  carry    : Carry := ⟨0, 0, false⟩
  stopped  : Bool := false
  stall    : Bool := false
  stallCnt : Nat := 0
  want     : Option (Nat × TileAccess) := none
  fetch    : Fetch := {}
  deriving DecidableEq, Repr

/-- TXST (R150), with the STRICT of the launch (R142) and the decision of a local transaction whose status write is on its
way (R85, R396). -/
structure TxSt where
  tag    : Nat := 0
  att    : Nat := 0
  kind   : Nat := 0
  gflags : BitVec 16 := 0
  pflags : BitVec 16 := 0
  strict : Bool := false
  outcome : Option Bool := none
  deriving DecidableEq, Repr

/-- The group a core holds (R193 to R195): slot, chain, group ID and incarnation, CODEBASE, table root,
GRPID and LVIDX0 to LVIDX5, and the core's index within its group. -/
structure Placement where
  slot     : Nat
  chain    : Nat
  gid      : Nat
  inc      : Nat
  codeBase : Word
  root     : Nat
  grpid    : Word
  lvidx    : List Word
  index    : Nat
  deriving DecidableEq, Repr

/-- The fault for which a core stopped (R315): cause, sub-code, address. -/
structure CoreFault where
  cause : BitVec 8
  sub   : Nat
  addr  : Word
  deriving DecidableEq, Repr

/-- A core (R224, R225). Places of vector bytes are `2048·r + b`; of tile bytes `32768·t + b`. `staged` is the
model's own: the last run of the core's tile unit, 0 before the first; `kept` holds the places of the staging
reserve written since (R217); `marks` and `mark` are its own too: the last identifier given out as the A-stream pushed
each value that BQA holds, and the one that the X-stream popped last (R481). -/
structure CoreSt where
  a        : StreamSt := {}
  x        : StreamSt := {}
  m        : MatrixSt := {}
  vec      : Sparse Byte := []
  tile     : Sparse Byte := []
  full     : BitVec 40 := 0
  masks    : Sparse (BitVec 2048) := []
  mstack   : List (BitVec 2048) := [BitVec.allOnes 2048]
  pending  : List PendingWrite := []
  coreCfg  : Word := 0
  queues   : Sparse (List QEntry) := []
  marks    : List Nat := []
  mark     : Nat := 0
  vsh      : BitVec 21 := 2048
  vpend    : Bool := false
  sxf      : BitVec 5 := 0
  lanes    : Sparse (BitVec 5) := []
  trapEn   : Word := 0
  frec     : Word := 0
  tls      : Sparse Timeline := []
  spad     : Sparse Byte := []
  staged   : Nat := 0
  kept     : Sparse Bool := []
  tags     : Sparse Bool := []
  spadPois : Sparse Bool := []
  vecPois  : Sparse Bool := []
  tilePois : Sparse Bool := []
  copyQ    : List CopyCmd := []
  copyRun  : Option CopyRun := none
  copyStall : Bool := false
  copyCnt  : Nat := 0
  cancels  : List (Nat × CancelStatus) := []
  l1       : Sparse Line := []
  tlb      : List TlbEntry := []
  txst     : TxSt := {}
  place    : Option Placement := none
  fault    : Option CoreFault := none
  halted   : Bool := false
  deriving DecidableEq, Repr

/-! ### Stacks and versioned memory (chapter 03) -/

/-- A status-table state (R83, R97). -/
inductive TagState
  | free | active | committed | aborted
  deriving DecidableEq, Repr

/-- A mirror entry (R97). -/
structure MirrorEntry where
  state : TagState := .free
  epoch : Nat := 0
  deriving DecidableEq, Repr

/-- Who waits for a status write (R85): an attempt's allocation or decision, a core's TXBEGIN or decision,
or nobody. -/
inductive TagUser
  | attempt (dtid : Nat)
  | core (core : Nat)
  | nobody
  deriving DecidableEq, Repr

/-- A state write on its way to the eight mirrors (R85): the dies that have not applied it. -/
structure StatusWrite where
  tag   : Nat
  state : TagState
  left  : List Nat
  user  : TagUser
  deriving DecidableEq, Repr

/-- A stack's registers and units (R92, R97, R40, R77). -/
structure StackSt where
  slack   : Nat := 500
  rfpost  : Nat := 4
  srcEn   : Bool := true
  srcIdle : Nat := 1000
  started : Nat := 0
  busy    : Bool := false
  lastMs  : Nat := 0
  dlmiss  : Nat := 0
  closed  : Nat := 0
  txbad   : Nat := 0
  hot     : Bool := false
  mirror  : Sparse MirrorEntry := []
  deriving DecidableEq, Repr

/-- A request waiting at a pseudo-channel, with its arrival order (R76). -/
structure PcWaiting where
  req : PcReq
  arr : Nat
  deriving DecidableEq, Repr

/-- What a request performed at its cell returned (R87, R88). -/
inductive PcResult
  | data (bytes : List Byte)
  | done
  | owner | poison | txclosed
  deriving DecidableEq, Repr

/-- A pseudo-channel (R75 to R78): refreshes fallen due, performed and postponed; the DTIME from which its idle timer
runs. -/
structure PcSt where
  queue     : List PcWaiting := []
  next      : Nat := 0
  results   : List (Nat × PcResult) := []
  postponed : Nat := 0
  due       : Nat := 0
  refreshes : Nat := 0
  idleFrom  : Nat := 0
  selfRef   : Bool := false
  deriving DecidableEq, Repr

/-- The maintenance-command registers (R95, R97); `ran` says that the command of GO has run on the stacks. -/
structure VmSt where
  op     : Nat := 0
  acc    : Bool := false
  go     : Bool := false
  ran    : Bool := false
  result : Nat := 0
  addr   : Nat := 0
  count  : Nat := 0
  deriving DecidableEq, Repr

/-- The stacks (R67, R69, R83): cells by key, poisoned granules, region table, master states, status
writes in progress, allocations waiting in order, stacks and pseudo-channels. -/
structure MemSt where
  hbm     : Sparse Byte := []
  poison  : Sparse Bool := []
  irtCode : Sparse Nat := []
  irtPs7  : Sparse Bool := []
  master  : Sparse TagState := []
  writes  : List StatusWrite := []
  waiting : List TagUser := []
  given   : List (Nat × Nat) := []
  vm      : VmSt := {}
  bdies   : Sparse StackSt := []
  pcs     : Sparse PcSt := []
  l2      : Sparse (Sparse Line) := []
  l2tlb   : Sparse (List TlbEntry) := []
  deriving DecidableEq, Repr

/-! ### Domain fabric (chapter 02) -/

/-- What a request of this device does when it completes (R53, R55): resumes a stream's word, passes a
number of tl2 with the error of another of its requests, or reports a copy element. -/
inductive ReqUser
  | stream (core : Nat) (k : StreamKind)
  | tl2 (core num tag : Nat) (err : Option RemoteErr)
  | ack (core : Nat)
  deriving DecidableEq, Repr

/-- How a request stands at its source (R47 to R50): held there, gone along a route (the devices after this one), or
without a route. -/
inductive Way
  | held
  | gone (route : List Nat)
  | unrouted
  deriving DecidableEq, Repr

/-- A request of this device in flight (R49, R50, R53, R56): the access's virtual address, its way, and whether it is an
ordered request that had left when the link map changed. -/
structure Flight where
  req  : RemoteReq
  user : ReqUser
  va   : Word
  way  : Way
  old  : Bool
  deriving DecidableEq, Repr

/-- The fault an executor passes up (R221, R222). -/
structure TileFault where
  cause  : BitVec 8
  sub    : Nat
  level  : Nat
  path   : Nat
  addr   : Word
  elem   : Nat
  handle : Nat
  time   : Nat
  deriving DecidableEq, Repr

/-- A message for the fabric (R45, R48). A link map carries the UP bits of this device's fourteen ports. -/
inductive FabMsg
  | request (q : RemoteReq)
  | response (dst id : Nat) (r : RemoteResult)
  | noroute (dst id : Nat)
  | forwarded (p : FabPacket)
  | linkMap (dst : Nat) (ports : BitVec 14)
  | time (dst : Nat) (t : Word)
  | digest (dst : Nat) (shape : BitVec 6) (mem : Word)
  | inv (dst chain : Nat) (va : Word) (all : Bool)
  | invAck (dst : Nat)
  | halt (dst root chain : Nat)
  | share (dst : Nat) (sh : Share)
  | tile (dst : Nat) (a : TileArrival)
  | report (dst id : Nat) (phase : Nat) (f : Option TileFault) (count : Nat) (skipped : Bool)
      (vals : List (Nat × Nat × Nat))
  | shareEnd (dst chain : Nat) (f : Option TileFault) (count : Nat) (e : Bool)
  | finish (dst id : Nat) (vals : List (Nat × Nat × Nat))
  | stop (dst id : Nat)
  | kill (dst chain : Nat) (tear : Bool)
  | vote (dst node : Nat) (m : ArbMsg)
  | decision (dst : Nat) (node : Option Nat) (m : ArbMsg)
  deriving DecidableEq, Repr

/-- A message that has left, with the route in its header: the devices after this one, none for one that loops back
inside the Pavilion (R44, R47). -/
structure Sent where
  msg   : FabMsg
  route : List Nat
  deriving DecidableEq, Repr

/-- A group ID's life (R58, R59). -/
structure GidSt where
  live     : Bool := false
  used     : Bool := false
  inc      : Nat := 0
  cores    : List Nat := []
  freeAt   : Nat := 0
  deriving DecidableEq, Repr

/-- A multicast region (R66). -/
structure McRegion where
  base  : Nat := 0
  size  : Nat := 16
  valid : Bool := false
  deriving DecidableEq, Repr

/-- The domain fabric (R65, R66, R48, R59, R64): `held` holds the messages that wait for a route or for their turn,
`routes` the detour kept for each destination (R50), `loop` and `back` the requests and the responses that loop back
inside the Pavilion (R44), `late` the responses collected for halted cores (R317), and `tagged` the tagged requests that wait at their target word (R379). -/
structure FabSt where
  x       : Nat := 0
  y       : Nat := 0
  ncm1    : Nat := 0
  nrm1    : Nat := 0
  members : Word := 0
  tmo     : Nat := 100
  thr     : Nat := 75
  detEn   : Bool := true
  stale   : Nat := 0
  expired : Nat := 0
  lock    : Bool := false
  master  : Bool := false
  offset  : Nat := 0
  slew    : Int := 0
  dtset   : Word := 0
  dtime   : Word := 0
  exch    : Nat := 0
  joined  : Bool := false
  mcrep   : Sparse McRegion := []
  map     : Sparse (BitVec 14) := []
  flights : List Flight := []
  sent    : List Sent := []
  held    : List FabMsg := []
  routes  : Sparse (List Nat) := []
  loop    : List RemoteReq := []
  back    : List (Nat × RemoteResult) := []
  late    : List (Nat × RemoteResult) := []
  gids    : Sparse GidSt := []
  tagged  : List RemoteReq := []
  deriving DecidableEq, Repr

/-! ### Package, links and power (chapter 01) -/

/-- A link's state (R20). -/
inductive LinkState
  | down | training | up | degraded | failed
  deriving DecidableEq, Repr

/-- An LSTAT entry (R20); KIND follows from the index (R19). -/
structure LinkSt where
  state    : LinkState := .down
  width    : Nat := 0
  rate     : Nat := 0
  preset   : Nat := 0
  margin   : Nat := 0
  attempts : Nat := 0
  pdev     : Nat := 0
  plink    : Nat := 0
  replays  : Nat := 0
  retrain  : Bool := false
  deriving DecidableEq, Repr

/-- A compute die's throttle and temperature (R34 to R36): level in force, the arbiter's level, periods
below 95 per cent of its share, temperature in hundredths of a degree. -/
structure DieSt where
  level   : Nat := 0
  pending : Nat := 0
  below   : Nat := 0
  temp    : Nat := 0
  deriving DecidableEq, Repr

/-- A capture unit (R37, R38). -/
structure CapSt where
  en     : Bool := false
  freeze : Bool := false
  opened : Bool := false
  src    : Nat := 0
  start  : Nat := 0
  stop   : Nat := 0
  cnt    : Nat := 0
  min    : Nat := 2 ^ 64 - 1
  max    : Nat := 0
  hb     : Nat := 0
  hist   : Sparse Nat := []
  deriving DecidableEq, Repr

/-- A measurement report as it left the device (R31): the five digests, the nonce, the two signatures. -/
structure SpdmReport where
  digests : List (BitVec 384)
  nonce   : Nat
  rsa     : BitVec 3072
  slh     : BitVec 129792
  deriving DecidableEq, Repr

/-- Bring-up, power and links (R20, R26, R27, R33), with the identity keys derived at boot (R31). -/
structure PkgSt where
  links   : Sparse LinkSt := []
  stage   : Nat := 0
  cause   : Nat := 0
  badLink : Nat := 0
  svn     : Nat
  fwSvn   : Nat
  lodgeDg : Nat := 0
  baseDg  : Nat := 0
  lstatRd : List Nat := []
  recover : Bool := false
  rsaKey  : BitVec 3072 := 0
  slhKey  : BitVec 768 := 0
  spdm    : List SpdmReport := []
  cap     : Nat := 120
  power   : Nat := 0
  above   : Nat := 0
  dies    : Sparse DieSt := []
  caps    : Sparse CapSt := []
  deriving DecidableEq, Repr

/-! ### Pergola (chapter 04) -/

/-- A named-buffer entry (R101, R117). -/
structure NbEntry where
  name : Nat
  type : Nat
  tmo  : Nat
  base : Nat
  cap  : Nat
  xo   : Nat
  yo   : Nat
  seqc : Nat
  seqt : Nat
  tag  : Nat
  deriving DecidableEq, Repr

/-- A plane's status of a collective, in R123's order. -/
inductive PlaneStatus
  | mismatch | owner | poison | link | timeout | cancel | ok
  deriving DecidableEq, Repr

/-- A base die's slot (R113 to R116): key, signature, whether marked, when taken, the collective issued locally, the
chunks staged, the phase reached and its chunks received, the value of each position as formed so far, positions
written, the status so far. -/
structure SlotP where
  name    : Nat
  seq     : Nat
  att     : Nat
  sig     : Word
  marked  : Bool
  taken   : Nat
  issued  : Option Nat
  early   : List (Word × Word × List (BitVec 32))
  phase   : Nat
  got     : Nat
  vals    : Sparse (BitVec 32)
  written : Sparse Bool
  status  : PlaneStatus
  deriving DecidableEq, Repr

/-- A collective of this device (R117, R118, R122, R123): its tile word in progress, name, key, kind,
operator, count, root, history, issuer and tag, whether issued, issue time and each plane's status. -/
structure CollSt where
  id     : Nat
  word   : Nat
  name   : Nat
  kind   : Nat
  op     : Nat
  count  : Nat
  root   : Nat
  hist   : Bool
  hidx   : Nat
  hbase  : Nat
  bar    : Word
  core   : Nat
  tag    : Nat
  att    : Nat
  issued : Bool
  seq    : Nat
  time   : Nat
  planes : Sparse (Option PlaneStatus)
  deriving DecidableEq, Repr

/-- A base die's Pergola endpoint (R115, R125). -/
structure PlaneSt where
  slots    : Sparse (Option SlotP) := []
  peak     : Nat := 0
  stale    : Nat := 0
  timeouts : Nat := 0
  mismatch : Nat := 0
  cancels  : Nat := 0
  sent     : List (Nat × Word × Word × List (BitVec 32)) := []
  deriving DecidableEq, Repr

/-- The Pergola (R102, R125). -/
structure PergSt where
  nbt    : List NbEntry := []
  op     : Nat := 0
  go     : Bool := false
  result : Nat := 0
  name   : Nat := 0
  recAddr : Nat := 0
  colls  : List CollSt := []
  planes : Sparse PlaneSt := []
  deriving DecidableEq, Repr

/-! ### Transactions and the Arbour (chapter 05) -/

/-- The states of an attempt (R132). -/
inductive AttState
  | opening | running | stopping | voted | settling | ending
  deriving DecidableEq, Repr

/-- A decision as its receiver keeps it (R136). -/
structure Decision where
  abort : Bool
  flags : BitVec 16
  time  : Nat
  deriving DecidableEq, Repr

/-- An attempt this device takes part in (R127, R132): its DTID and number, the slot and the dispatched
packet, state, tag (0 before allocation), T_d, hardware flags, decision, whether its status write is
complete, whether KILL was asked. -/
structure Attempt where
  dtid    : Nat
  att     : Nat
  slot    : Nat
  packet  : Nat
  state   : AttState
  tag     : Nat
  td      : Nat
  hw      : BitVec 16
  gflags  : BitVec 16
  pflags  : BitVec 16
  dec     : Option Decision
  settled : Bool
  kill    : Bool
  deriving DecidableEq, Repr

/-- An Arbour node's entry (R135). -/
structure NodeEntry where
  dtid  : Nat
  att   : Nat
  td    : Nat
  flags : BitVec 16
  count : Nat
  miss  : Nat
  n     : Nat
  sent  : Bool
  deriving DecidableEq, Repr

/-- An Arbour node (R134, R135, R152), with the sources aimed at it, the sources of its inputs seen so far, and the
attempts that have passed, each with its T_d. -/
structure NodeSt where
  en      : Bool := false
  root    : Bool := false
  expect  : Nat := 0
  pdev    : Nat := 0
  pnode   : Nat := 0
  height  : Nat := 1
  entries : List NodeEntry := []
  inputs  : List (Nat × Nat × Bool × Nat × Bool) := []
  aimed   : List (Nat × Bool × Nat) := []
  passed  : List (Nat × Nat × Nat) := []
  deriving DecidableEq, Repr

/-- The Arbour block and the attempts (R127, R147, R152): `want` is the VALID that the domain record asks for, and
`digest` the time master's (R160). -/
structure ArbSt where
  vdev     : Nat := 0
  vnode    : Nat := 0
  valid    : Bool := false
  want     : Bool := false
  digest   : Option (BitVec 6 × Word) := none
  nodes    : Sparse NodeSt := []
  commits  : Nat := 0
  aborts   : Nat := 0
  timeouts : Nat := 0
  stale    : Nat := 0
  last     : Word := 0
  attempts : List Attempt := []
  counter  : Nat := 0
  hwFlags  : Sparse (BitVec 16) := []
  heldSp   : List (Nat × Nat × List Word) := []
  deriving DecidableEq, Repr

/-! ### Host interface (chapter 06) and scheduling (chapter 07) -/

/-- A packet's head state (R163, R167, R177, R182, R183): words, sequence number, ENQ, waits satisfied,
effective deadline and lateness deadline, escalated and its reason, attempt to run, flags of the last
decision, whether it is a saved packet and in which slot its frames are. -/
structure Head where
  words   : List Word
  seq     : Nat
  enq     : Nat
  waits   : List Bool
  eff     : Option Nat
  late    : Nat
  esc     : Option Bool
  offered : Bool
  att     : Nat
  dtid    : Option Nat
  pflags  : BitVec 16
  saved   : Option Nat
  deriving DecidableEq, Repr

/-- A chain's state (R164). -/
inductive ChainState
  | idle | active | tearing
  deriving DecidableEq, Repr

/-- A launch chain (R162, R164), its undispatched packets, oldest first, of which the first is the head,
and the completions waiting for their order (R170). -/
structure ChainSt where
  en      : Bool := false
  tear    : Bool := false
  kill    : Bool := false
  spawn   : Bool := false
  irq     : Bool := false
  vec     : Nat := 3
  head    : Nat := 0
  tail    : BitVec 32 := 0
  fetched : BitVec 32 := 0
  base    : Nat := 0
  err     : Bool := false
  cw      : Nat := 0
  ev      : Nat := 0
  pt      : Nat := 0
  state   : ChainState := .idle
  errCode : Nat := 0
  errSeq  : Nat := 0
  next    : Nat := 0
  hds     : List Head := []
  done    : List (Nat × Bool × Nat) := []
  fetchErr : Bool := false
  deriving DecidableEq, Repr

/-- A dispatched packet (R170, R180): its chain (that of the root for a share), the root device, its slot, table root,
words, head values, error flag, the tile word it runs, its attempt's DTID, whether all its work is done, whether stopped by KILL,
pre-emption asked, and its groups. -/
structure Packet where
  id      : Nat
  chain   : Nat
  home    : Nat
  slot    : Nat
  root    : Nat
  share   : Bool
  head    : Head
  e       : Bool
  tile    : Option Nat
  dtid    : Option Nat
  att     : Nat
  killed  : Bool
  preempt : Bool
  groups  : List Nat
  done    : Bool
  settled : Bool
  faults  : List (Nat × CoreFault)
  deriving DecidableEq, Repr

/-- A group's place in its life (R186). -/
inductive GroupState
  | running | draining | idle
  deriving DecidableEq, Repr

/-- A group (R193): ID, the packet that placed it, its cores in ascending order, its level, number and
state, and whether it was stopped. -/
structure Group where
  gid     : Nat
  packet  : Nat
  cores   : List Nat
  level   : Nat
  num     : Nat
  total   : Nat
  state   : GroupState
  stopped : Bool
  faulted : Bool
  deriving DecidableEq, Repr

/-- A slot's state (R192). -/
inductive SlotState
  | unbound | free | busy | saving
  deriving DecidableEq, Repr

/-- A bind record (R175). -/
structure BindRec where
  level  : Nat
  dom    : Bool
  save   : Bool
  first  : Nat
  nunits : Nat
  chains : List Nat
  base   : Nat
  deriving DecidableEq, Repr

/-- A core's saved header (R188): what the frame's header holds, kept whole. -/
structure SavedCore where
  core : CoreSt
  pos  : Nat
  recs : Sparse (BitVec 768)
  deriving DecidableEq, Repr

/-- A slot (R175, R192): its record, state, the running packet, UNBIND pending, HELD area with the saved
packet, its cores and the area's base, thermal or debug halt, and its fault record (R222). -/
structure SlotSt where
  bind    : Option BindRec := none
  state   : SlotState := .unbound
  packet  : Option Nat := none
  unbind  : Bool := false
  held    : Option Packet := none
  groups  : List Group := []
  saved   : List SavedCore := []
  heldBase : Nat := 0
  saveT   : Nat := 0
  wantPre : Bool := false
  halted  : Bool := false
  record  : List Word := []
  deriving DecidableEq, Repr

/-- The host interface (R153, R158, R171). -/
structure HostSt where
  intstat : BitVec 4 := 0
  intmask : BitVec 4 := 0
  mbCode  : Nat := 0
  mbGo    : Bool := false
  mbArg   : Sparse Word := []
  mbRsp   : Word := 0
  chains  : Sparse ChainSt := []
  store   : List (Nat × List Word) := []
  msix    : List Nat := []
  mem     : Sparse Byte := []
  cxl     : Option PcResult := none
  deriving DecidableEq, Repr

/-- The scheduler (R177, R183, R192). -/
structure SchedSt where
  prtmo    : Nat := 200
  lateRun  : Nat := 0
  lateCan  : Nat := 0
  escal    : Nat := 0
  preempts : Nat := 0
  esc      : List (Nat × Bool) := []
  clbud    : Sparse Nat := []
  slots    : Sparse SlotSt := []
  shares   : List Share := []
  packets  : List Packet := []
  groups   : List Group := []
  deriving DecidableEq, Repr

/-! ### Tile executors (chapter 08) -/

/-- A child word at an executor below (R202, R203, R205): when it entered that executor's queue, and when it started
there; none before that. -/
structure Kid where
  unit    : TileUnit
  entered : Option Nat
  begun   : Option Nat
  deriving DecidableEq, Repr

/-- A tile word an executor holds (R203 to R207): where it came from and what it carries (`owner`: the packet of its
launch on this device; `txn` and `loc`: whether its issuer is in a transaction and in a local one; `mark`: what the
X-stream had popped from BQA, R481; `entry`: when it entered the queue; `origin` and `far`: the root
device of a member's word and the root's identifier for it; `key`, `ctr`, `hbase`: what the step context block gave
at acceptance, R146, R453), and once it is in progress its records, its child words at the executors below (`kids`), the
leaf tiles that have run in this pass (`ran`), the members still to report (`children`) and those that have no more work
(`gone`), faults
and skipped work, and the partials formed, by output position or line and granule (`vals`, with a scan's running
values in `locs`); `phase` counts the passes of a word whose results the root combines (R212, R214); `img` is the
packet image of a regrouping T.KERN (R468); `begun` numbers its start among the words that executors receive (R205), and
`dead` are the leaf tiles that faulted (R220, R221). -/
structure TileJob where
  id       : Nat
  unit     : TileUnit
  word     : BitVec 256
  core     : Nat
  packet   : Option Nat
  parent   : Option Nat
  member   : Bool
  num      : Nat
  tl       : Nat
  tag      : Nat
  att      : Nat
  strict   : Bool
  loc      : Bool
  txn      : Bool
  chain    : Nat
  root     : Nat
  slot     : Nat
  owner    : Nat
  gid      : Nat
  glevel   : Nat
  mark     : Nat
  entry    : Nat
  accepted : Bool
  img      : List Word
  started  : Bool
  recs     : Sparse (BitVec 768)
  kids     : List Kid
  ran      : List Nat
  children : List Nat
  gone     : List Nat
  executed : Bool
  stop     : Bool
  skipped  : Bool
  fault    : Option TileFault
  count    : Nat
  origin   : Nat
  far      : Nat
  key      : Nat
  ctr      : Nat
  hbase    : Option Word
  phase    : Nat
  vals     : List (Nat × Nat × Nat)
  locs     : List (Nat × Nat)
  begun    : Nat
  dead     : List Nat
  deriving DecidableEq, Repr, Inhabited

/-- An LREC on its way to a shared record table (R388): its core, the executor, the handle, the record. -/
structure Lrec where
  id     : Nat
  core   : Nat
  unit   : TileUnit
  handle : Nat
  record : BitVec 768
  deriving DecidableEq, Repr

/-- The executors (R203): the words held, in order of acceptance, the record tables by level and unit, and
the LRECs that wait for earlier words of their core to start (R388, R482). -/
structure TileSt where
  jobs   : List TileJob := []
  lrecs  : List Lrec := []
  tables : Sparse (Sparse (BitVec 768)) := []
  deriving DecidableEq, Repr

/-! ### Debug (chapter 12) -/

/-- DBGSTAT's source (R319). -/
inductive HaltSrc
  | host | brkd | thermal
  deriving DecidableEq, Repr

/-- The debug block (R319, R321); `far` names, by root and chain, the halted level-5 launches whose share here has no slot
yet (R317). -/
structure DbgSt where
  brkHalt : Bool := false
  slot    : Nat := 0
  state   : Nat := 0
  src     : HaltSrc := .host
  hslot   : Nat := 0
  sel     : BitVec 16 := 0
  ce      : Nat := 0
  ue      : Nat := 0
  thermal : Bool := false
  far     : List (Nat × Nat) := []
  deriving DecidableEq, Repr

/-! ### The machine -/

/-- A turn of the agenda: which agent moves next. An event with its signals, a word of a stream, a tile
word at its executor with the outcomes of its
remote accesses, a time that passes in nanoseconds, a host write to its own memory. -/
inductive Turn
  | event (i : Instr) (x : Input)
  | stream (core : Nat) (k : StreamKind)
  | tile (id : Nat) (results : List RemoteResult)
  | elapse (ns : Nat)
  | hostStore (addr : Nat) (bytes : List Byte)
  deriving DecidableEq, Repr

/-- The stream whose word executes, and the tile word in execution; `waits` says that the turn met an internal link that
trains (R25) or a request that must leave first (R49), and is to be taken again. -/
structure Focus where
  core  : Nat := 0
  kind  : StreamKind := .a
  tile  : Nat := 0
  waits : Bool := false
  deriving DecidableEq, Repr

/-- The state of one AT8 device. `agenda`, `focus`, `input` and `nextId` are the model's own: the turns
to come, the agent in execution, the signals of the event in execution, and the last identifier given. -/
structure State where
  agenda : List Turn
  focus  : Focus
  input  : Input
  nextId : Nat
  pkg    : PkgSt
  fab    : FabSt
  mem    : MemSt
  perg   : PergSt
  arb    : ArbSt
  host   : HostSt
  sched  : SchedSt
  tiles  : TileSt
  cores  : Sparse CoreSt
  dbg    : DbgSt
  deriving DecidableEq, Repr

/-- Why the machine stops with a fault. -/
inductive Fault
  /-- Raised by `step` when the agenda holds an event whose signals name no part of the package
  (`inputWf` fails): safe, since no behaviour of the device is claimed. -/
  | illFormedEvent
  deriving DecidableEq, Repr

/-- Why an instruction has no meaning. -/
inductive Refusal
  /-- Raised by `exec` for an instruction that has no meaning yet: safe, nothing is claimed of it. -/
  | notModelled (mnemonic : String)
  deriving DecidableEq, Repr

/-- The machine right after module reset, before bring-up (R11, R26): every register at the value the
Reset columns give, or the value the assumption log names. -/
def State.reset : State where
  agenda := []
  focus := {}
  input := {}
  nextId := 0
  pkg := { svn := Config.fusedSvn.toNat, fwSvn := Config.fusedSvn.toNat }
  fab := {}
  mem := {}
  perg := {}
  arb := {}
  host := {}
  sched := {}
  tiles := {}
  cores := []
  dbg := {}

end Sys2Proof.Machine
end

