-- ==== Sys2Proof/Machine/Mem.lean ====
section
/-! DEFINITION. The stacks: interleave, cells, poison, metadata words, the status table as a die sees it,
views and versioned writes, base-die atomics and barrier arrivals (chapter 03; R268, R323). -/

namespace Sys2Proof.Machine

/-- What a byte of HBM or host memory that nothing has written reads as: 0 (DESIGN CHOICE, log 3). -/
def memDefault : Byte := 0

/-- An access that fails, by cause (R306). -/
inductive MemErr
  | illegal | align | split | xlate | nodev | remote (e : RemoteErr) | owner | poison | closed | strict
  | barspace
  deriving DecidableEq, Repr

/-- The REMOTE sub-code of an error (R306). -/
def remoteSub : RemoteErr → Nat
  | .noroute => 0 | .timeout => 1 | .stale => 2 | .owner => 3 | .poison => 4

/-- The cause code of a failed access (R306). -/
def MemErr.cause : MemErr → BitVec 8
  | .illegal => 0x01 | .align => 0x02 | .split => 0x03 | .xlate => 0x04 | .nodev => 0x05
  | .remote _ => 0x06 | .owner => 0x07 | .poison => 0x08 | .closed => 0x09 | .strict => 0x0A
  | .barspace => 0x0C

/-- The sub-code of a failed access (R306). -/
def MemErr.sub : MemErr → Nat
  | .remote e => remoteSub e
  | _ => 0

/-- Who accesses versioned memory (R80): core index and tag; a remote access has no core (512) and tag
0. -/
structure Ctx where
  core : Nat
  tag  : Nat
  deriving DecidableEq, Repr

def remoteCtx : Ctx := ⟨512, 0⟩

/-- The kinds of a versioned write (R87). -/
inductive WKind
  | store | iatomic | fatomic | pergola
  deriving DecidableEq, Repr

/-- A physical HBM access: offset, and the versioned page's base and size where its page is versioned
(R79). -/
structure Loc where
  off : Nat
  ver : Option (Nat × Nat)
  deriving DecidableEq, Repr

/-- Stack, pseudo-channel and local address of an offset under a scheme code (R70). -/
def interleave (code : Nat) (ps7 : Bool) (a : Nat) : Nat × Nat × Nat :=
  let k := bits a 38 33 * 2 ^ 24
  match code with
  | 0 => (bits a 10 8, bits a 16 11, k + bits a 32 17 * 2 ^ 8 + bits a 7 0)
  | 1 => (bits a 12 10, bits a 18 13, k + bits a 32 19 * 2 ^ 10 + bits a 9 0)
  | 2 => (bits a 14 12, bits a 20 15, k + bits a 32 21 * 2 ^ 12 + bits a 11 0)
  | 3 => (bits a 18 16, bits a 13 8, k + bits a 32 19 * 2 ^ 10 + bits a 15 14 * 2 ^ 8 + bits a 7 0)
  | 4 => (bits a 32 30, bits a 13 8, k + bits a 29 14 * 2 ^ 8 + bits a 7 0)
  | 5 => (bits a 32 30, bits a 17 12, k + bits a 29 18 * 2 ^ 12 + bits a 11 0)
  | 6 => (bits a 32 30, bits a 29 24, k + bits a 23 0)
  | _ =>
    if ps7 then
      (bits a 29 27, bits a 13 8, k + bits a 32 30 * 2 ^ 21 + bits a 26 14 * 2 ^ 8 + bits a 7 0)
    else
      (bits a 20 18, bits a 13 8, k + bits a 32 21 * 2 ^ 12 + bits a 17 14 * 2 ^ 8 + bits a 7 0)

/-- A cell's key: stack, pseudo-channel, local (R67). -/
def cellKey (c : Nat × Nat × Nat) : Nat := (c.1 * 64 + c.2.1) * 2 ^ 30 + c.2.2

/-- The cell of a local HBM offset under the region table (R69, R70). -/
def MemSt.cell (m : MemSt) (a : Nat) : Nat × Nat × Nat :=
  let k := a / 2 ^ 33
  interleave (sget 0 m.irtCode k) (sget false m.irtPs7 k) a

/-- The stack that holds an offset. -/
def MemSt.stackOf (m : MemSt) (a : Nat) : Nat := (m.cell a).1

/-- One byte at an offset. -/
def MemSt.byte (m : MemSt) (a : Nat) : Byte := sget memDefault m.hbm (cellKey (m.cell a))

/-- `n` bytes from an offset. -/
def MemSt.bytes (m : MemSt) (a n : Nat) : List Byte := (List.range n).map (fun i => m.byte (a + i))

/-- Whether any byte of `[a, a + n)` lies in a poisoned granule (R323). -/
def MemSt.poisoned (m : MemSt) (a n : Nat) : Bool :=
  (List.range n).any (fun i => sget false m.poison (cellKey (m.cell (a + i)) / 32))

/-- One byte written. -/
def MemSt.setByte (m : MemSt) (a : Nat) (b : Byte) : MemSt :=
  { m with hbm := sset memDefault m.hbm (cellKey (m.cell a)) b }

/-- The poison of a granule set or cleared. -/
def MemSt.setPoison (m : MemSt) (a : Nat) (p : Bool) : MemSt :=
  { m with poison := sset false m.poison (cellKey (m.cell a) / 32) p }

/-- Bytes written from an offset, poison left as it stands. -/
def MemSt.putBytes (m : MemSt) (a : Nat) : List Byte → MemSt
  | [] => m
  | b :: bs => (m.setByte a b).putBytes (a + 1) bs

/-- One request's write: the bytes, and a granule's poison cleared where the request writes all 32 of its
bytes (R323). -/
def MemSt.write (m : MemSt) (a : Nat) (bs : List Byte) : MemSt :=
  let m' := m.putBytes a bs
  let lo := (a + 31) / 32
  let hi := (a + bs.length) / 32
  (List.range (hi - lo)).foldl (fun m i => m.setPoison ((lo + i) * 32) false) m'

/-- A die's mirror entry of a tag (R83). -/
def MemSt.mirror (m : MemSt) (st t : Nat) : MirrorEntry := sget {} (sget {} m.bdies st).mirror t

/-- The state of a tag in a die's mirror; tag 0 is FREE (R97). -/
def MemSt.status (m : MemSt) (st t : Nat) : TagState := (m.mirror st t).state

/-- The stack's registers changed. -/
def MemSt.modStack (m : MemSt) (st : Nat) (f : StackSt → StackSt) : MemSt :=
  { m with bdies := smod {} m.bdies st f }

/-- A metadata word (R82). -/
structure Meta where
  cur    : Nat
  tag    : Nat
  owner  : Nat
  acc    : Bool
  poison : Bool
  rsv    : Nat
  deriving DecidableEq, Repr

/-- The fields of a metadata word (R82). -/
def metaOf (w : Nat) : Meta :=
  ⟨bits w 0 0, bits w 6 1, bits w 15 7, bit w 16, bit w 17, bits w 31 18⟩

/-- The metadata word of its fields (R82). -/
def Meta.word (m : Meta) : Nat :=
  m.cur + m.tag * 2 + m.owner * 2 ^ 7 + m.acc.toNat * 2 ^ 16 + m.poison.toNat * 2 ^ 17 + m.rsv * 2 ^ 18

/-- The key of the metadata word of the block whose slot 0 holds an offset (R81). -/
def MemSt.metaKey (m : MemSt) (a : Nat) : Nat :=
  let c := m.cell a
  cellKey (c.1, c.2.1, 63 * 2 ^ 24 + 4 * (c.2.2 / 256))

/-- The metadata word of a block (R81). -/
def MemSt.metaAt (m : MemSt) (a : Nat) : Meta :=
  metaOf (fromBytes (sread memDefault m.hbm (m.metaKey a) 4))

/-- A metadata word written back. -/
def MemSt.putMeta (m : MemSt) (a : Nat) (md : Meta) : MemSt :=
  { m with hbm := swrite memDefault m.hbm (m.metaKey a) (toBytes 4 md.word) }

/-- A hardware flag raised against a tag (R130). -/
def raiseTag (t : Nat) (f : BitVec 16) (s : State) : State :=
  if t = 0 then s
  else { s with arb := { s.arb with hwFlags := smod 0 s.arb.hwFlags t (fun x => x ||| f) } }

/-- The veto flags of R129. -/
def flCORR : BitVec 16 := 0x0100
def flFAULT : BitVec 16 := 0x0200
def flPREEMPT : BitVec 16 := 0x0400
def flTIMEOUT : BitVec 16 := 0x0800
def flMISMATCH : BitVec 16 := 0x1000
def vetoMask : BitVec 16 := 0x1FFF

/-- Whether a tag is live on the device: its master state is ACTIVE (R83). -/
def liveTags (s : State) : List Nat :=
  (List.range 64).filter (fun t => decide (t ≠ 0) && decide (sget .free s.mem.master t = .active))

/-- The memory of the state replaced. -/
def State.withMem (s : State) (m : MemSt) : State := { s with mem := m }

/-- The metadata check error of R91: the word rewritten with POISON, CORR raised for each live tag. -/
def metaError (a : Nat) (s : State) : State :=
  (liveTags s).foldl (fun s t => raiseTag t flCORR s)
    (s.withMem (s.mem.putMeta a ⟨0, 0, 0, (s.mem.metaAt a).acc, true, 0⟩))

/-- The metadata of a block after the check of R91. -/
def checkMeta (a : Nat) (s : State) : State × Meta :=
  if (s.mem.metaAt a).rsv ≠ 0 then
    let s' := metaError a s
    (s', s'.mem.metaAt a)
  else (s, s.mem.metaAt a)

/-- committed_slot of R86 on a die. -/
def committedSlot (m : MemSt) (st : Nat) (md : Meta) : Nat :=
  if md.tag = 0 then md.cur
  else if m.status st md.tag = .committed then md.cur
  else 1 - md.cur

/-- load_slot of R86: the slot, and whether it is the tentative one. -/
def loadSlot (m : MemSt) (st : Nat) (md : Meta) (c : Ctx) : Nat × Bool :=
  if md.tag ≠ 0 ∧ m.status st md.tag = .active ∧ c.tag = md.tag ∧ (md.owner = c.core ∨ md.acc = true) then
    (md.cur, true)
  else (committedSlot m st md, false)

/-- normalise of R87 on a die. -/
def normalise (m : MemSt) (st : Nat) (md : Meta) : Meta :=
  if md.tag ≠ 0 ∧ m.status st md.tag ≠ .active then
    { md with cur := if m.status st md.tag = .aborted then 1 - md.cur else md.cur, tag := 0 }
  else md

/-- An uncorrectable error in a block's committed slot poisons the block (R91). -/
def poisonBlock (a : Nat) (s : State) : State := s.withMem (s.mem.putMeta a { s.mem.metaAt a with poison := true })

/-- A slot's offset of the block holding `a` on a page of size `p` (R79). -/
def slotOff (a p slot : Nat) : Nat := a + slot * p

/-- A versioned load of `n` bytes inside one block (R86): bytes and whether the view is tentative. -/
def versionedLoad (l : Nat) (p n : Nat) (c : Ctx) (s : State) : State × Except MemErr (List Byte × Bool) :=
  let (s, md) := checkMeta l s
  let st := s.mem.stackOf l
  let (slot, tent) := loadSlot s.mem st md c
  let a := slotOff l p slot
  if md.poison then (s, .error .poison)
  else if s.mem.poisoned a n then (if tent then s else poisonBlock l s, .error .poison)
  else (s, .ok (s.mem.bytes a n, tent))

/-- versioned_write of R87 up to the application: the offset to act on. -/
def versionedSlot (l p : Nat) (c : Ctx) (k : WKind) (s : State) : State × Except MemErr Nat :=
  let (s, md) := checkMeta l s
  let st := s.mem.stackOf l
  let active : Bool := decide (md.tag ≠ 0) && decide (s.mem.status st md.tag = .active)
  let b := l / 256 * 256
  if md.poison then (s, .error .poison)
  else if md.acc && k != .iatomic && k != .pergola then (s, .error .owner)
  else if !md.acc && k == .pergola then (s, .error .owner)
  else if c.tag = 0 then
    if active then (s, .error .owner)
    else
      let md := normalise s.mem st md
      (s.withMem (s.mem.putMeta l md), .ok (slotOff l p md.cur))
  else if s.mem.status st c.tag ≠ .active then
    (s.withMem (s.mem.modStack st (fun x => { x with closed := satInc (2 ^ 24 - 1) x.closed })),
      .error .closed)
  else if md.tag = c.tag ∧ active then
    if md.owner ≠ c.core ∧ md.acc = false then (s, .error .owner)
    else (s, .ok (slotOff l p md.cur))
  else if active then (s, .error .owner)
  else
    let md := normalise s.mem st md
    let old := s.mem.bytes (slotOff b p md.cur) 256
    if s.mem.poisoned (slotOff b p md.cur) 256 then
      (s.withMem (s.mem.putMeta l { md with poison := true }), .error .poison)
    else
      let m := s.mem.write (slotOff b p (1 - md.cur)) old
      let md := { md with cur := 1 - md.cur, tag := c.tag, owner := c.core }
      (s.withMem (m.putMeta l md), .ok (slotOff l p md.cur))

/-- A load of `n` bytes inside one granule piece (R72, R86, R323). -/
def cellLoad (l : Loc) (n : Nat) (c : Ctx) (s : State) : State × Except MemErr (List Byte × Bool) :=
  match l.ver with
  | some (_, p) => versionedLoad l.off p n c s
  | none =>
    if s.mem.poisoned l.off n then (s, .error .poison) else (s, .ok (s.mem.bytes l.off n, false))

/-- A store of one piece (R72, R87). -/
def cellStore (l : Loc) (bs : List Byte) (c : Ctx) (k : WKind) (s : State) : State × Except MemErr Unit :=
  match l.ver with
  | some (_, p) =>
    match versionedSlot l.off p c k s with
    | (s, .ok a) => (s.withMem (s.mem.write a bs), .ok ())
    | (s, .error e) => (s, .error e)
  | none => (s.withMem (s.mem.write l.off bs), .ok ())

/-- A read-modify-write of `n` bytes by a function of the old value: the old value (R74, R87). -/
def cellModify (l : Loc) (n : Nat) (f : Nat → Nat) (c : Ctx) (k : WKind) (s : State) :
    State × Except MemErr Nat :=
  let act (a : Nat) (s : State) : State × Except MemErr Nat :=
    if s.mem.poisoned a n then (s, .error .poison)
    else
      let o := fromBytes (s.mem.bytes a n)
      (s.withMem (s.mem.write a (toBytes n (f o))), .ok o)
  match l.ver with
  | some (_, p) =>
    match versionedSlot l.off p c k s with
    | (s', .ok a) =>
      match act a s' with
      | (s', .ok o) => (s', .ok o)
      | (_, .error e) =>
        -- the copy of a first write stands for what the committed slot holds
        let md := s.mem.metaAt l.off
        let own := decide (md.tag ≠ 0 ∧ md.tag = c.tag ∧ s.mem.status (s.mem.stackOf l.off) md.tag = .active)
        (if own then s else poisonBlock l.off s, .error e)
    | (s', .error e) => (s', .error e)
  | none => act l.off s

/-- The barrier word after an arrival (R268), of its first twelve bytes. -/
def arriveWord (w : Nat) : Nat :=
  let expect := bits w 31 0
  let arrived := bits w 63 32
  let phase := bits w 95 64
  if arrived + 1 ≥ expect then expect + ((phase + 1) % 2 ^ 32) * 2 ^ 64
  else expect + (arrived + 1) * 2 ^ 32 + phase * 2 ^ 64

/-- The pieces of `[a, a + n)` cut at multiples of `g` (R272): addresses and lengths. -/
def pieces (g a n : Nat) : List (Nat × Nat) :=
  (List.range (n / g + 2)).filterMap (fun i =>
    let lo := max a ((a / g + i) * g)
    let hi := min (a + n) ((a / g + i + 1) * g)
    if lo < hi then some (lo, hi - lo) else none)

end Sys2Proof.Machine
end

