-- ==== Sys2Proof/Machine/Device.lean ====
section
/-! DEFINITION. Operations shared by the package's events: time, capture events, interrupts, the status
table's writes, hardware flags, messages sent, and access to the parts of the state by index. -/

namespace Sys2Proof.Machine

/-- An instruction's meaning: the state it leads to. An event leaves the state as it stands where its
moment has not come. -/
abbrev Meaning := Host.Outcome State Fault Refusal

/-- `f` where the event's moment has come. -/
def when (c : Bool) (f : State → State) (s : State) : Meaning := .next (if c then f s else s)

/-- DTIME in nanoseconds (R64). -/
def State.now (s : State) : Nat := s.fab.dtime.toNat

/-- A fresh identifier. -/
def State.fresh (s : State) : Nat × State := (s.nextId + 1, { s with nextId := s.nextId + 1 })

def State.core (s : State) (c : Nat) : CoreSt := sget {} s.cores c
def State.setCore (s : State) (c : Nat) (x : CoreSt) : State := { s with cores := sput s.cores c x }
def State.modCore (s : State) (c : Nat) (f : CoreSt → CoreSt) : State := s.setCore c (f (s.core c))
def State.chain (s : State) (c : Nat) : ChainSt := sget {} s.host.chains c
def State.modChain (s : State) (c : Nat) (f : ChainSt → ChainSt) : State :=
  { s with host := { s.host with chains := smod {} s.host.chains c f } }
def State.slot (s : State) (i : Nat) : SlotSt := sget {} s.sched.slots i
def State.modSlot (s : State) (i : Nat) (f : SlotSt → SlotSt) : State :=
  { s with sched := { s.sched with slots := smod {} s.sched.slots i f } }
def State.link (s : State) (i : Nat) : LinkSt := sget {} s.pkg.links i
def State.modLink (s : State) (i : Nat) (f : LinkSt → LinkSt) : State :=
  { s with pkg := { s.pkg with links := smod {} s.pkg.links i f } }
def State.plane (s : State) (i : Nat) : PlaneSt := sget {} s.perg.planes i
def State.modPlane (s : State) (i : Nat) (f : PlaneSt → PlaneSt) : State :=
  { s with perg := { s.perg with planes := smod {} s.perg.planes i f } }
def State.node (s : State) (i : Nat) : NodeSt := sget {} s.arb.nodes i
def State.modNode (s : State) (i : Nat) (f : NodeSt → NodeSt) : State :=
  { s with arb := { s.arb with nodes := smod {} s.arb.nodes i f } }
def State.packet? (s : State) (id : Nat) : Option Packet := s.sched.packets.find? (fun p => p.id == id)
def State.modPacket (s : State) (id : Nat) (f : Packet → Packet) : State :=
  { s with sched := { s.sched with packets := updateFirst (fun p => p.id == id) f s.sched.packets } }
def State.group? (s : State) (gid : Nat) : Option Group := s.sched.groups.find? (fun g => g.gid == gid)
def State.modGroup (s : State) (gid : Nat) (f : Group → Group) : State :=
  { s with sched := { s.sched with groups := updateFirst (fun g => g.gid == gid) f s.sched.groups } }
def State.attempt? (s : State) (dtid : Nat) : Option Attempt :=
  s.arb.attempts.find? (fun a => a.dtid == dtid)
def State.modAttempt (s : State) (dtid : Nat) (f : Attempt → Attempt) : State :=
  { s with arb := { s.arb with attempts := updateFirst (fun a => a.dtid == dtid) f s.arb.attempts } }
def State.job? (s : State) (id : Nat) : Option TileJob := s.tiles.jobs.find? (fun j => j.id == id)
def State.modJob (s : State) (id : Nat) (f : TileJob → TileJob) : State :=
  { s with tiles := { s.tiles with jobs := updateFirst (fun j => j.id == id) f s.tiles.jobs } }
def State.coll? (s : State) (id : Nat) : Option CollSt := s.perg.colls.find? (fun c => c.id == id)
def State.modColl (s : State) (id : Nat) (f : CollSt → CollSt) : State :=
  { s with perg := { s.perg with colls := updateFirst (fun c => c.id == id) f s.perg.colls } }

/-- This device's index (R41). -/
def State.self (s : State) : Nat := 8 * s.fab.y + s.fab.x

/-- Whether a device is a member (R41). -/
def State.isMember (s : State) (d : Nat) : Bool := decide (d < 64) && s.fab.members.getLsbD d

/-- The members in ascending device index (R203). -/
def State.members (s : State) : List Nat := (List.range 64).filter s.isMember

/-- A message sent on the fabric, with the route in its header (R47). -/
def State.send (s : State) (m : FabMsg) (route : List Nat) : State :=
  { s with fab := { s.fab with sent := s.fab.sent ++ [⟨m, route⟩] } }

/-- The bin of a value (R39). -/
def capBin (hb v : Nat) : Nat :=
  let base := bits hb 31 0
  if v < base then 0 else min 15 ((v - base) / 2 ^ bits hb 37 32)

/-- A capture unit after an event of value `v` (R39). -/
def capRecord (u : CapSt) (v : Nat) : CapSt :=
  let top := 2 ^ 64 - 1
  { u with cnt := satInc top u.cnt, min := min u.min v, max := max u.max v,
           hist := smod 0 u.hist (capBin u.hb v) (satInc top) }

/-- OPEN of a unit at a time (R37, R38). -/
def CapSt.openAt (u : CapSt) (t : Nat) : Bool := u.en && decide (u.start ≤ t ∧ (u.stop = 0 ∨ t < u.stop))

/-- OPEN of every unit as DTIME now stands: it is renewed wherever DTIME moves (R38). -/
def refreshWindows (s : State) : State :=
  { s with pkg := { s.pkg with caps := s.pkg.caps.map (fun p => (p.1, { p.2 with opened := p.2.openAt s.now })) } }

/-- An event of a source reaches every unit that watches it: EN with DTIME in the window, not frozen (R38, R39).
DESIGN CHOICE (log 86): an event of no die, stack or link (codes 2 and 9) has the selection 0. -/
def capture (code sel v : Nat) (s : State) : State :=
  { s with pkg := { s.pkg with caps := s.pkg.caps.map (fun p =>
      if p.2.opened && !p.2.freeze && decide (bits p.2.src 15 0 = code ∧ bits p.2.src 21 16 = sel) then
        (p.1, capRecord p.2 v) else p) } }

/-- An interrupt cause set, with its MSI-X message (R158): THERMAL and LINKFAIL raise vector 2 whatever
the mask holds. -/
def raiseInt (i : Nat) (s : State) : State :=
  let h := s.host
  let vec := if i = 0 then [0] else if i = 1 then [1] else [2]
  let on := decide (2 ≤ i) || h.intmask.getLsbD i
  { s with host := { h with intstat := h.intstat ||| BitVec.ofNat 4 (2 ^ i),
                            msix := if on then h.msix ++ vec else h.msix } }

/-- The free tags that may be given: FREE in the master with no state write of theirs still spreading
(R85). -/
def freeTags (s : State) : List Nat :=
  (List.range 64).filter (fun t => decide (t ≠ 0) && decide (sget .free s.mem.master t = .free) &&
    s.mem.writes.all (fun w => w.tag != t))

/-- Whether R84 lists the pair of a state and the state an event asks for. -/
def tagMove (a b : TagState) : Bool :=
  match a, b with
  | .free, .active | .active, .committed | .active, .aborted | .committed, .free | .aborted, .free => true
  | _, _ => false

/-- A state write leaves the Pavilion for all eight mirrors (R85); a pairing R84 does not list is ignored
and counted on every die. -/
def statusWrite (t : Nat) (st : TagState) (u : TagUser) (s : State) : State :=
  if tagMove (sget .free s.mem.master t) st then
    s.withMem { s.mem with master := sput s.mem.master t st,
                           writes := s.mem.writes ++ [⟨t, st, List.range 8, u⟩] }
  else
    s.withMem (upTo 8 (fun i m => m.modStack i (fun x => { x with txbad := satInc 65535 x.txbad })) s.mem)

/-- A die's mirror takes a state: at a settlement EPOCH becomes the die's STARTED (R84). -/
def MemSt.applyMirror (m : MemSt) (die t : Nat) (st : TagState) : MemSt :=
  m.modStack die (fun x =>
    let e := sget {} x.mirror t
    let epoch := if st = .committed ∨ st = .aborted then x.started else e.epoch
    { x with mirror := sput x.mirror t ⟨st, epoch⟩ })

/-- Every versioned line leaves an L1 (R90, R275). -/
def dropVersioned (c : CoreSt) : CoreSt := { c with l1 := c.l1.filter (fun p => !p.2.ver) }

/-- Collectives outstanding under a tag are cancelled later by their endpoints (R119); a tag newly given
starts with no hardware flag. -/
def clearFlags (t : Nat) (s : State) : State :=
  { s with arb := { s.arb with hwFlags := sput s.arb.hwFlags t 0 } }

/-- The number of sweeps a die has completed (R92). -/
def StackSt.completed (x : StackSt) : Nat :=
  if x.busy then (x.started + 2 ^ 32 - 1) % 2 ^ 32 else x.started

/-- Whether sweep EPOCH + 1 of a die has completed, modulo 2^32 (R84, R97). -/
def sweptPast (x : StackSt) (t : Nat) : Bool :=
  let e := sget {} x.mirror t
  decide ((e.state = .committed ∨ e.state = .aborted) ∧
    (x.completed + 2 ^ 33 - (e.epoch + 1)) % 2 ^ 32 < 2 ^ 31)

/-- The settled tags whose sweeps have completed become FREE (R84, R94). -/
def freeSettled (s : State) : State :=
  (List.range 64).foldl (fun s t =>
    if t ≠ 0 ∧ (sget .free s.mem.master t = .committed ∨ sget .free s.mem.master t = .aborted) ∧
        (s.mem.writes.all (fun w => w.tag != t)) = true ∧
        ((List.range 8).all (fun d => sweptPast (sget {} s.mem.bdies d) t)) = true then
      statusWrite t .free .nobody s
    else s) s

/-- Whether any tag is settled: the condition under which sweeps run (R92). -/
def anySettled (s : State) : Bool :=
  (List.range 64).any (fun t => decide (t ≠ 0) &&
    decide (sget .free s.mem.master t = .committed ∨ sget .free s.mem.master t = .aborted))

/-- The stream of a core. -/
def CoreSt.stream (c : CoreSt) : StreamKind → StreamSt
  | .a => c.a
  | _ => c.x

def CoreSt.setStream (c : CoreSt) (k : StreamKind) (x : StreamSt) : CoreSt :=
  match k with
  | .a => { c with a := x }
  | _ => { c with x := x }

/-- Whether a place lies in the staging reserve (R217): scratchpad offsets, then tile bytes from 2^21 on. -/
def inReserve (i : Nat) : Bool :=
  decide ((0x180000 ≤ i ∧ i < 0x200000) ∨ (2 ^ 21 + 32 * 32768 ≤ i ∧ i < 2 ^ 21 + 40 * 32768))

/-- Whether a place holds what the core's tile unit left there (R217). -/
def CoreSt.isStaged (c : CoreSt) (i : Nat) : Bool :=
  decide (c.staged ≠ 0) && inReserve i && !sget false c.kept i

/-- A scratchpad byte. -/
def CoreSt.spadByte (c : CoreSt) (o : Nat) : Byte :=
  if c.isStaged o then Config.stagedByte c.staged o else sget 0 c.spad o

/-- A tile byte. -/
def CoreSt.tileByte (c : CoreSt) (i : Nat) : Byte :=
  if c.isStaged (2 ^ 21 + i) then Config.stagedByte c.staged (2 ^ 21 + i) else sget 0 c.tile i

/-- A scratchpad byte written. -/
def CoreSt.setSpad (c : CoreSt) (o : Nat) (b : Byte) : CoreSt :=
  { c with
    spad := sset 0 c.spad o b,
    kept := if c.isStaged o then sput c.kept o true else c.kept }

/-- A tile byte written. -/
def CoreSt.setTile (c : CoreSt) (i : Nat) (b : Byte) : CoreSt :=
  { c with
    tile := sset 0 c.tile i b,
    kept := if c.isStaged (2 ^ 21 + i) then sput c.kept (2 ^ 21 + i) true else c.kept }

/-- The core's tile unit runs: the staging reserve holds what it leaves (R217). -/
def CoreSt.stage (c : CoreSt) (run : Nat) : CoreSt := { c with staged := run + 1, kept := [] }

/-- A vector byte written, or from place 2^18 on a tile byte: the bits of its mask. -/
def CoreSt.putPlace (c : CoreSt) (p : VByte) : CoreSt :=
  if p.place < 2 ^ 18 then
    { c with vec := sset 0 c.vec p.place ((sget 0 c.vec p.place &&& ~~~p.mask) ||| (p.val &&& p.mask)) }
  else
    let i := p.place - 2 ^ 18
    c.setTile i ((c.tileByte i &&& ~~~p.mask) ||| (p.val &&& p.mask))

/-- The poisoned 8-byte words that a write of some bytes covers whole are poisoned no longer (R323); the
first word of the places stands `base` words on. -/
def unpoison (base : Nat) (p : Sparse Bool) (bs : List VByte) : Sparse Bool :=
  p.filter (fun e => !(List.range 8).all (fun i =>
    bs.any (fun b => b.place == (base + e.1) * 8 + i && b.mask == 0xFF)))

/-- Bytes written take effect. -/
def CoreSt.putPlaces (c : CoreSt) (bs : List VByte) : CoreSt :=
  { bs.foldl CoreSt.putPlace c with
    vecPois := unpoison 0 c.vecPois bs, tilePois := unpoison (2 ^ 15) c.tilePois bs }

/-- Pending vector writes take effect, oldest first; where a later VMOVT has written the tile, its bytes stand. -/
def CoreSt.flushAll : List PendingWrite → CoreSt → CoreSt
  | [], c => c
  | w :: rest, c =>
    let over' (b : VByte) : Bool := rest.any (fun e => e.early && e.bytes.any (fun x => x.place == b.place))
    CoreSt.flushAll rest (if w.early then c else c.putPlaces (w.bytes.filter (fun b => !over' b)))

/-- Every pending vector write takes effect (R241). -/
def CoreSt.flush (c : CoreSt) : CoreSt := { CoreSt.flushAll c.pending c with pending := [] }

/-- The operations a timeline has passed, given the numbers completed out of order: PASSED rises over each
number that is done (R267), and ERRFIRST keeps the least number with its error bit (R391). -/
def Timeline.advance (t : Timeline) : Nat → Timeline
  | 0 => t
  | n + 1 =>
    match t.done.find? (fun p => p.1 == t.passed + 1) with
    | some p =>
      Timeline.advance { t with passed := t.passed + 1, done := t.done.filter (fun q => q.1 != p.1) } n
    | none => t

/-- A timeline after operation `n` completes, with its error bit (R267, R391). -/
def Timeline.complete (t : Timeline) (n : Nat) (err : Bool) : Timeline :=
  let ef := if err ∧ (t.errFirst = 0 ∨ n < t.errFirst) then n else t.errFirst
  Timeline.advance { t with done := t.done ++ [(n, err)], errFirst := ef } (t.done.length + 1)

/-- A timeline after the next number is given, with its declared scope (R267). -/
def Timeline.issue (t : Timeline) (scope : Nat) : Timeline :=
  { t with issued := t.issued + 1, scopes := t.scopes ++ [(t.issued + 1, scope)] }

def CoreSt.tl (c : CoreSt) (n : Nat) : Timeline := sget {} c.tls n
def CoreSt.setTl (c : CoreSt) (n : Nat) (t : Timeline) : CoreSt := { c with tls := sput c.tls n t }

/-- The fields of a fault record (R222, R314). -/
structure Rec where
  cause  : BitVec 8
  sub    : Nat := 0
  level  : Nat := 1
  count  : Nat := 1
  op     : Nat := 0
  top    : Nat := 1
  stop   : Bool := false
  path   : Nat := 0
  addr   : Word := 0
  elem   : Nat := 2 ^ 64 - 1
  handle : Nat := 0xFFFF
  time   : Nat := 0
  deriving DecidableEq, Repr

/-- The eight words of a record (R222). -/
def Rec.words (r : Rec) : List Nat :=
  [r.cause.toNat + r.level * 2 ^ 8 + r.sub * 2 ^ 11 + r.count * 2 ^ 16 + r.op * 2 ^ 32 + r.top * 2 ^ 40 +
     r.stop.toNat * 2 ^ 43,
   r.path % 2 ^ 56, r.addr.toNat, r.elem, r.handle, r.time, 0, 0]

/-- Scratchpad words written whole: their poison clears (R323). -/
def CoreSt.spadWrite (c : CoreSt) (off : Nat) (bs : List Byte) : CoreSt :=
  let lo := (off + 7) / 8
  let hi := (off + bs.length) / 8
  { (bs.zipIdx off).foldl (fun c p => c.setSpad p.2 p.1) c with
    spadPois := (List.range (hi - lo)).foldl (fun p i => sset false p (lo + i) false) c.spadPois }

/-- `n` scratchpad bytes. -/
def CoreSt.spadBytes (c : CoreSt) (off n : Nat) : List Byte := (List.range n).map (fun i => c.spadByte (off + i))

/-- The first poisoned byte among `n` scratchpad bytes from an offset. -/
def CoreSt.spadBad (c : CoreSt) (off n : Nat) : Option Nat :=
  (c.spadPois.find? (fun e => e.2 && decide (off / 8 ≤ e.1 ∧ e.1 * 8 < off + n))).map (fun e => max off (e.1 * 8))

/-- The tag of the scratchpad word that holds an offset: full or empty (R248). -/
def CoreSt.tagAt (c : CoreSt) (off : Nat) : Bool := sget false c.tags (off / 8)

/-- The tag of a scratchpad word set (R248). -/
def CoreSt.setTag (c : CoreSt) (off : Nat) (full : Bool) : CoreSt := { c with tags := sset false c.tags (off / 8) full }

/-- A record written at timeline `n`'s entry of the core's area: an entry that holds a record only has
its COUNT raised (R313, R314). -/
def CoreSt.record (c : CoreSt) (n : Nat) (r : Rec) : CoreSt :=
  if c.frec.getLsbD 0 then
    let at' := (bits c.frec.toNat 20 9 * 512 + 64 * n) % 2 ^ 21
    let w0 := fromBytes (c.spadBytes at' 8)
    if w0 % 256 = 0 then c.spadWrite at' ((r.words).flatMap (toBytes 8))
    else
      let cnt := satAdd 65535 (bits w0 31 16) r.count
      c.spadWrite (at' + 2) (toBytes 2 cnt)
  else c

/-- Whether a cause and sub-code mean POISON, met here or at another device (R306). -/
def isPoison (cause : BitVec 8) (sub : Nat) : Bool := decide (cause = 0x08 ∨ (cause = 0x06 ∧ sub = 4))

/-- POISON read under a tag raises CORR against it (R130, R323). -/
def raiseCorr (tag : Nat) (cause : BitVec 8) (sub : Nat) (s : State) : State :=
  if isPoison cause sub then raiseTag tag flCORR s else s

/-- A timeline entry of a core completes: its record is written where it failed (R314), and the flag
FAULT, with CORR for POISON, is raised against the tag it carried (R130). -/
def completeTl (core n num tag : Nat) (err : Option Rec) (s : State) : State :=
  let s := s.modCore core (fun c =>
    let c := c.setTl n ((c.tl n).complete num err.isSome)
    match err with
    | some r => c.record n r
    | none => c)
  match err with
  | none => s
  | some r => raiseTag tag (if isPoison r.cause r.sub then flFAULT ||| flCORR else flFAULT) s

end Sys2Proof.Machine
end

