-- ==== Sys2Proof/Machine/Ports.lean ====
section
/-! DEFINITION. Ports, virtual channels, routes, and the messages that leave or wait for a route (R42 to R50, R64). -/

namespace Sys2Proof.Machine

/-- Coordinates of a device index (R41). -/
def devX (d : Nat) : Nat := d % 8
def devY (d : Nat) : Nat := d / 8

/-- The fabric port of device `d` that leads to device `e` of its row or column (R42). -/
def portTo (d e : Nat) : Nat :=
  if devY d = devY e then (if devX e < devX d then devX e else devX e - 1)
  else 7 + (if devY e < devY d then devY e else devY e - 1)

/-- The device that port `p` of device `d` leads to, where it lies inside the shape and holds a member
(R42). -/
def portPartner (s : State) (d p : Nat) : Option Nat :=
  let e :=
    if p < 7 then
      let x := if p < devX d then p else p + 1
      if x ≤ s.fab.ncm1 then some (8 * devY d + x) else none
    else
      let y := if p - 7 < devY d then p - 7 else p - 7 + 1
      if y ≤ s.fab.nrm1 then some (8 * y + devX d) else none
  match e with
  | some e => if s.isMember e then some e else none
  | none => none

/-- Whether a link state carries traffic. -/
def LinkState.carries (l : LinkState) : Bool := l == .up || l == .degraded

/-- The up bits of this device's own fabric ports. -/
def ownPorts (s : State) : BitVec 14 :=
  BitVec.ofNat 14 (((List.range 14).map (fun p => if (s.link (12 + p)).state.carries then 2 ^ p else 0)).sum)

/-- Whether port `p` of device `d` is UP in the domain link map (R47, R48). -/
def portUp (s : State) (d p : Nat) : Bool :=
  (if d = s.self then ownPorts s else sget 0 s.fab.map d).getLsbD p

/-- A route without the stops equal to the one before: a hop whose coordinate already matches is left out
(R46). -/
def tidyRoute (src : Nat) (l : List Nat) : List Nat :=
  (l.foldl (fun (a : Nat × List Nat) d => if d = a.1 then a else (d, a.2 ++ [d])) (src, [])).2

/-- The minimal route: at most one row hop, then at most one column hop (R46). -/
def minimalRoute (src dst : Nat) : List Nat := tidyRoute src [8 * devY src + devX dst, dst]

/-- The candidate routes of R46 in order, each with its item number, as the devices after the source: the minimal
route, then those of items 2 to 5, of which one with a zero-length or repeated hop is skipped. -/
def candidates (s : State) (src dst : Nat) : List (Nat × List Nat) :=
  let pt (y x : Nat) : Nat := 8 * y + x
  let xs := devX src
  let ys := devY src
  let xd := devX dst
  let yd := devY dst
  let xi := (List.range (s.fab.ncm1 + 1)).filter (fun x => decide (x ≠ xs ∧ x ≠ xd))
  let yi := (List.range (s.fab.nrm1 + 1)).filter (fun y => decide (y ≠ ys ∧ y ≠ yd))
  let others : List (Nat × List Nat) :=
    (2, [pt yd xs, dst]) :: xi.map (fun x => (3, [pt ys x, pt ys xd, dst])) ++
      yi.map (fun y => (4, [pt ys xd, pt y xd, dst])) ++
      xi.flatMap (fun x => yi.map (fun y => (5, [pt ys x, pt ys xd, pt y xd, dst])))
  (1, minimalRoute src dst) :: others.filter (fun c => decide ((src :: c.2).Nodup))

/-- Whether every hop of a route is UP. -/
def routeUp (s : State) : Nat → List Nat → Bool
  | _, [] => true
  | d, e :: l => portUp s d (portTo d e) && s.isMember e && routeUp s e l

/-- The first-hop port of a route. -/
def firstPort (src : Nat) (l : List Nat) : Nat := portTo src (l.headD src)

/-- The candidates from this device whose links are all UP, within `hops` hops (R47, R48). -/
def upRoutes (s : State) (dst hops : Nat) : List (Nat × List Nat) :=
  (candidates s s.self dst).filter (fun c => routeUp s s.self c.2 && decide (c.2.length ≤ hops))

/-- The route an unordered request or a response takes from this device, as the devices after it (R47): none where
no candidate is UP within `hops` hops. The traffic of this device to itself loops back inside the Pavilion (R44). -/
def pickRoute (s : State) (dst hops : Nat) : Option (List Nat) :=
  if dst = s.self then some []
  else
    match upRoutes s dst hops with
    | [] => none
    | c :: up =>
      let occ := Config.portOccupancy s.nextId
      if c.1 = 1 ∧ s.fab.detEn ∧ min 100 s.fab.thr ≤ occ (firstPort s.self c.2) then
        (leastBy (fun c => occ (firstPort s.self c.2)) ((c :: up).filter (fun c => decide (c.1 ≤ 3)))).map (fun c => c.2)
      else some c.2

/-- The route of an ordered request or of Arbour traffic (R50): the minimal route while all its links are UP, else the
detour kept for the destination until the link map changes, else the first UP candidate. -/
def pickOrdered (s : State) (dst hops : Nat) : Option (List Nat) :=
  if dst = s.self then some []
  else
    match upRoutes s dst hops with
    | [] => none
    | c :: _ =>
      if c.1 = 1 then some c.2
      else
        match s.fab.routes.find? (fun p => p.1 == dst) with
        | some (_, r) => if routeUp s s.self r && decide (r.length ≤ hops) then some r else some c.2
        | none => some c.2

/-- The device a SPACE 1 or 2 address names (R43). -/
def paDev (pa : Nat) : Nat := bits pa 53 48

/-- The destination of a message. -/
def FabMsg.dst : FabMsg → Nat
  | .request q => paDev q.pa
  | .response d _ _ => d
  | .noroute d _ => d
  | .forwarded p => p.dst
  | .linkMap d _ => d
  | .time d _ => d
  | .digest d _ _ => d
  | .inv d .. => d
  | .invAck d => d
  | .halt d .. => d
  | .share d _ => d
  | .tile d _ => d
  | .report d .. => d
  | .shareEnd d .. => d
  | .finish d .. => d
  | .stop d _ => d
  | .kill d _ _ => d
  | .vote d _ _ => d
  | .decision d _ _ => d

/-- The virtual channel a message leaves on (R45): requests on 0 to 3 and responses on 4 to 7 by hop, management on 8,
the Arbour on 9. -/
def FabMsg.vc : FabMsg → Nat
  | .vote .. | .decision .. => 9
  | .request _ => 0
  | .response .. | .noroute .. => 4
  | .forwarded p =>
    match p.cls with
    | .request => p.hop - 1
    | .response | .noroute => 4 + (p.hop - 1)
    | .management => 8
    | .arbour => 9
  | _ => 8

/-- The hops a message may still make (R48). -/
def FabMsg.hops : FabMsg → Nat
  | .forwarded p => 4 - p.hop
  | _ => 4

/-- The route a VC 8 or VC 9 message takes from this device: the minimal one for a time message (R64), or where that has
a DOWN link the first detour (R23); the ordered one for the Arbour (R50); else that of an unordered request (R47). -/
def FabMsg.route (s : State) (m : FabMsg) : Option (List Nat) :=
  match m with
  | .time d _ => if d = s.self then some [] else ((upRoutes s d 4).head?).map (fun c => c.2)
  | m => if m.vc = 9 then pickOrdered s m.dst m.hops else pickRoute s m.dst m.hops

/-- Whether messages of a virtual channel to a device wait here for a route (R48). -/
def State.waiting (s : State) (vc dst : Nat) : Bool :=
  s.fab.held.any (fun k => decide (8 ≤ k.vc) && k.vc == vc && k.dst == dst)

/-- A message waits at this device (R48, R50). -/
def State.hold (s : State) (m : FabMsg) : State := { s with fab := { s.fab with held := s.fab.held ++ [m] } }

/-- A VC 8 or VC 9 message leaves for its device; it waits here while no route is UP, and behind those of its channel
to that device that wait (R48). -/
def State.post (s : State) (m : FabMsg) : State :=
  if s.waiting m.vc m.dst then s.hold m
  else
    match m.route s with
    | some r => s.send m r
    | none => s.hold m

/-- A packet sent on along a route from this device: it makes one hop more (R48). -/
def forwardOn (p : FabPacket) (route : List Nat) (s : State) : State :=
  s.send (.forwarded { p with hop := p.hop + 1, route := route.drop 1 }) route

/-- A response leaves for the source of a request where it finds a route, and is discarded where it finds none (R48);
one to this device itself loops back (R44). -/
def respondTo (src id : Nat) (r : RemoteResult) (s : State) : State :=
  match pickRoute s src 4 with
  | none => s
  | some route =>
    let s := s.send (.response src id r) route
    if src = s.self then { s with fab := { s.fab with back := s.fab.back ++ [(id, r)] } } else s

/-- A packet that finds no route on its way (R48): a message waits, a request is answered with NOROUTE, a response is
discarded. -/
def unroutable (p : FabPacket) (s : State) : State :=
  match p.cls with
  | .management | .arbour => s.hold (.forwarded p)
  | .request => match pickRoute s p.src 4 with | some r => s.send (.noroute p.src p.id) r | none => s
  | .response | .noroute => s

/-- The next outcome of a remote access of the turn (R53, R55): a request with none times out. -/
def takeResult (s : State) : State × RemoteResult :=
  match s.input.results with
  | [] => (s, .err .timeout)
  | r :: rest => ({ s with input := { s.input with results := rest } }, r)

/-- The bytes a remote access returned, or its error. -/
def answerOf : RemoteResult → Except RemoteErr (List Byte)
  | .data bs | .versioned bs => .ok bs
  | .err e => .error e

/-- Whether a returned line may be held in a cache (R57, R275). -/
def mayCache : RemoteResult → Bool
  | .data _ => true
  | _ => false

end Sys2Proof.Machine
end

