-- ==== Sys2Proof/Machine/Channel.lean ====
section
/-! DEFINITION. The pseudo-channels: what waits at them, the order in which they perform requests, and the accesses of the
package that reach a cell (R17, R25, R72 to R76, R86, R87, R92, R100, R382, R383). -/

namespace Sys2Proof.Machine

/-! ### Requests (R73 to R76) -/

/-- The class of a request (R75, R100, R188). -/
def pcClass : PcSource → PcClass
  | .other => .normal
  | .pergola t => .deadline (t + 2000)
  | .frame t => .deadline (t + 50000)
  | .normaliser => .sweep

def State.pcSt (s : State) (i : Nat) : PcSt := sget {} s.mem.pcs i
def State.modPc (s : State) (i : Nat) (f : PcSt → PcSt) : State :=
  s.withMem { s.mem with pcs := smod {} s.mem.pcs i f }

/-- A request waits at a pseudo-channel: its arrival restarts the idle timer (R78). -/
def PcSt.arrive (now : Nat) (p : PcSt) (q : PcReq) : PcSt :=
  { p with queue := p.queue ++ [⟨q, p.next⟩], next := p.next + 1, idleFrom := now }

/-- The pseudo-channel of a local HBM offset. -/
def channelOf (s : State) (off : Nat) : Nat := (s.mem.cell off).1 * 64 + (s.mem.cell off).2.1

/-- The HBM offset of a metadata word by its key: region 63 keeps scheme code 0 (R69, R70, R81). -/
def metaOff (key : Nat) : Nat :=
  63 * 2 ^ 33 + bits key 23 8 * 2 ^ 17 + bits key 35 30 * 2 ^ 11 + key / 2 ^ 36 % 8 * 2 ^ 8 + bits key 7 0

/-- The key of a metadata word by its HBM offset. -/
def metaKeyOf (off : Nat) : Nat := cellKey (interleave 0 false off)

/-- The 256-byte block a request acts on, as stack, pseudo-channel and block: the normaliser's acts on the block whose
metadata word it visits (R73, R81). -/
def pcBlock (m : MemSt) (q : PcReq) : Nat :=
  match q.act with
  | .normalise => metaKeyOf q.off / 2 ^ 30 * 2 ^ 22 + bits (metaKeyOf q.off) 23 2
  | _ => cellKey (m.cell q.off) / 256

/-- Whether no earlier request to the same 256-byte block waits (R73). -/
def PcWaiting.first (m : MemSt) (l : List PcWaiting) (w : PcWaiting) : Bool :=
  l.all (fun v => decide (pcBlock m v.req ≠ pcBlock m w.req ∨ w.arr ≤ v.arr))

/-- The latest-service time of a DEADLINE request. -/
def PcWaiting.td (w : PcWaiting) : Option Nat := match pcClass w.req.src with | .deadline t => some t | _ => none

def PcWaiting.isSweep (w : PcWaiting) : Bool := match pcClass w.req.src with | .sweep => true | _ => false

/-- The request a pseudo-channel picks (R76): `hit` says which ones hit an open row, `low` whether SWEEP has had less
than its share. -/
def pickRequest (m : MemSt) (now slack : Nat) (hit : Nat → Bool) (low : Bool) (l : List PcWaiting) : Option PcWaiting :=
  let c := l.filter (PcWaiting.first m l)
  let late := c.filter (fun w => match w.td with | some t => decide (t ≤ now + slack) | none => false)
  let plain := c.filter (fun w => !w.isSweep)
  let sweeps := c.filter PcWaiting.isSweep
  match leastBy (fun w => (w.td.getD 0) * 2 ^ 64 + w.arr) late with
  | some w => some w
  | none =>
    match (if low ∨ l.all PcWaiting.isSweep = true then leastBy (fun w => w.arr) sweeps else none) with
    | some w => some w
    | none =>
      match leastBy (fun w => w.arr) (plain.filter (fun w => hit w.req.id)) with
      | some w => some w
      | none => leastBy (fun w => w.arr) plain

/-- What a request returns (R87, R88). -/
def pcResult {α : Type} (f : α → PcResult) : Except MemErr α → PcResult
  | .ok a => f a
  | .error .owner => .owner
  | .error .closed => .txclosed
  | .error _ => .poison

/-- A metadata word as a sweep leaves it (R92): checked first (R91), and normalised where its tag is settled. -/
def sweepWord (key : Nat) (s : State) : State :=
  let rd (m : MemSt) : Meta := metaOf (fromBytes (sread memDefault m.hbm key 4))
  let md := rd s.mem
  let st := key / 2 ^ 36
  let put (md : Meta) (s : State) : State :=
    s.withMem { s.mem with hbm := swrite memDefault s.mem.hbm key (toBytes 4 md.word) }
  if md.rsv ≠ 0 then
    (liveTags s).foldl (fun s t => raiseTag t flCORR s) (put ⟨0, 0, 0, md.acc, true, 0⟩ s)
  else if md.tag ≠ 0 ∧ (s.mem.status st md.tag = .committed ∨ s.mem.status st md.tag = .aborted) then
    put (normalise s.mem st md) s
  else s

/-- A request performed at its cell (R72, R74, R86, R87, R92). -/
def performPc (q : PcReq) (s : State) : State × PcResult :=
  let l : Loc := ⟨q.off, q.ver⟩
  let c : Ctx := ⟨q.core, q.tag⟩
  match q.act with
  | .read n =>
    let (s, r) := cellLoad l n c s
    (s, pcResult (fun d => .data d.1) r)
  | .write bs =>
    let (s, r) := cellStore l bs c (match q.src with | .pergola _ => .pergola | _ => .store) s
    (s, pcResult (fun _ => .done) r)
  | .atomic op x e =>
    let (s, r) := cellModify l (amoSize op) (fun o => amoNew op o x.toNat e.toNat) c
      (if amoFloat op then .fatomic else .iatomic) s
    (s, pcResult (fun o => .data (toBytes (amoSize op) o)) r)
  | .arrive =>
    let (s, r) := cellModify l 12 arriveWord c (match q.src with | .pergola _ => .pergola | _ => .iatomic) s
    (s, pcResult (fun o => .data (toBytes 4 (bits o 95 64))) r)
  | .normalise => (sweepWord (metaKeyOf q.off) s, .done)

/-! ### The links on the way (R17, R18, R25) -/

/-- The die-to-die boundaries between two compute dies: the horizontal one in the source row, then the vertical one
(R17). -/
def boundaries (a b : Nat) : List Nat :=
  (if a % 2 = b % 2 then [] else [a / 2]) ++ (if a / 2 = b / 2 then [] else [2 + b % 2])

/-- The internal links a request of a pseudo-channel needs (R17, R18, R19): the boundaries from its core's die, or the
hub link of the stack's die, and the stack's HBM link. -/
def linksOf (pc : Nat) (q : PcReq) : List Nat :=
  let st := pc / 64
  let way :=
    match q.src with
    | .other => if q.core < 512 then boundaries (q.core / 128) (st / 2) else [58 + st / 2]
    | _ => []
  way ++ [4 + st]

/-- Whether every link that a request needs carries traffic: one that trains holds it (R25). -/
def reaches (s : State) (pc : Nat) (w : PcWaiting) : Bool := (linksOf pc w.req).all (fun i => (s.link i).state.carries)

/-! ### Service (R73, R76) -/

/-- The tl2 number that a request passes as it ends, with its error (R53, R267, R314). -/
def passRequest (q : PcReq) (err : Option MemErr) (s : State) : State :=
  let t := (s.core q.core).tl 2
  if q.num = 0 ∨ 512 ≤ q.core ∨ q.num ≤ t.passed ∨ t.issued < q.num ∨ (t.done.any (fun d => d.1 == q.num)) = true then s
  else
    completeTl q.core 2 q.num q.tag
      (err.map (fun e => { cause := e.cause, sub := e.sub, path := q.num, time := s.now })) s

/-- The error of a result. -/
def PcResult.err : PcResult → Option MemErr
  | .owner => some .owner
  | .poison => some .poison
  | .txclosed => some .closed
  | _ => none

/-- A waiting request leaves the queue: one of class DEADLINE served after its time is counted (R76). -/
def takePc (pc : Nat) (w : PcWaiting) (s : State) : State :=
  let s := s.modPc pc (fun p => { p with queue := p.queue.filter (fun v => v.arr != w.arr), idleFrom := s.now })
  let late := match w.td with | some t => decide (t < s.now) | none => false
  if late then
    s.withMem (s.mem.modStack (pc / 64) (fun x => { x with dlmiss := satInc (2 ^ 24 - 1) x.dlmiss }))
  else s

/-- A waiting request is performed (R76). -/
def finishPc (pc : Nat) (w : PcWaiting) (s : State) : State × PcResult :=
  let (s, r) := performPc w.req (takePc pc w s)
  (passRequest w.req r.err s, r)

/-- The result of a request is kept for its source. -/
def keepResult (pc : Nat) (w : PcWaiting) (r : PcResult) (s : State) : State :=
  s.modPc pc (fun p => { p with results := p.results ++ [(w.req.id, r)] })

/-- A pseudo-channel picks its next request and performs it (R76). -/
def serve (pc : Nat) (hit : Nat → Bool) (low : Bool) (s : State) : State :=
  let l := (s.pcSt pc).queue.filter (reaches s pc)
  match pickRequest s.mem s.now (sget {} s.mem.bdies (pc / 64)).slack hit low l with
  | none => s
  | some w =>
    let (s, r) := finishPc pc w s
    keepResult pc w r s

/-- The requests that wait for a 256-byte block are performed in their order before a new one to it (R73). -/
def settleBlock (off : Nat) (s : State) : State :=
  let pc := channelOf s off
  let b := cellKey (s.mem.cell off) / 256
  ((s.pcSt pc).queue.filter (fun w => pcBlock s.mem w.req == b && reaches s pc w)).foldl (fun s w =>
    let (s, r) := finishPc pc w s
    keepResult pc w r s) s

/-- Whether one of the links that a request needs has failed, and whether one trains (R25). -/
def cutFrom (s : State) (pc : Nat) (q : PcReq) : Bool := (linksOf pc q).any (fun i => (s.link i).state == .failed)
def heldFrom (s : State) (pc : Nat) (q : PcReq) : Bool := (linksOf pc q).any (fun i => (s.link i).state == .training)

/-- The turn waits: it has no effect, and is taken again later. -/
def State.waitTurn (s : State) : State := { s with focus := { s.focus with waits := true } }

/-- The hub link of a core's die (R17, R19). -/
def hubOf (core : Nat) : Nat := 58 + core / 128

/-- What passes between a core and the hub waits while the hub link of its die trains (R25). -/
def hubWait (core : Nat) (s : State) : State :=
  if core < 512 ∧ (s.link (hubOf core)).state = .training then s.waitTurn else s

/-- What a pseudo-channel picks before the request that arrived as `arr` is performed, and that request leaves the queue
(R73, R75, R76): which requests hit an open row, and whether SWEEP is short of its share, are free values. -/
def turnUntil (pc arr : Nat) : Nat → State → State
  | 0, s => s
  | n + 1, s =>
    let (i, s) := s.fresh
    let l := (s.pcSt pc).queue.filter (fun w => w.arr == arr || reaches s pc w)
    match pickRequest s.mem s.now (sget {} s.mem.bdies (pc / 64)).slack (Config.rowHit i) (Config.sweepShort i) l with
    | none => s.modPc pc (fun p => { p with queue := p.queue.filter (fun v => v.arr != arr) })
    | some w =>
      if w.arr = arr then takePc pc w s
      else
        let (s, r) := finishPc pc w s
        turnUntil pc arr n (keepResult pc w r s)

/-- A request comes to its pseudo-channel and has its turn (R73, R75, R76): its arrival ends self-refresh and restarts the
idle timer (R78). A turn that needs a link which trains waits (R25). -/
def takeTurn (q : PcReq) (s : State) : State :=
  let pc := channelOf s q.off
  let s := if heldFrom s pc q then s.waitTurn else s
  let p := s.pcSt pc
  if p.queue.isEmpty && pcClass q.src == .normal then
    s.modPc pc (fun p => { p with idleFrom := s.now, selfRef := false })
  else
    let s := s.modPc pc (fun p => { p.arrive s.now q with selfRef := false })
    turnUntil pc p.next (p.queue.length + 1) s

/-- A request of a unit of the package through its pseudo-channel, with its result (R73, R75, R76); where a link that it
needs has failed, it meets POISON (R25). -/
def throughPc (q : PcReq) (s : State) : State × PcResult :=
  let s := takeTurn q s
  if cutFrom s (channelOf s q.off) q then (s, .poison)
  else
    let (s, r) := performPc q s
    (passRequest q r.err s, r)

/-- Bytes of a context frame written: the save started at DTIME `start` (R188). -/
def frameWrite (start off : Nat) (bs : List Byte) (s : State) : State :=
  (pieces 32 off bs.length).foldl (fun s p =>
    (throughPc ⟨0, .frame start, p.1, .write ((bs.drop (p.1 - off)).take p.2), none, 512, 0, 0⟩ s).1) s

/-- Bytes of a context frame read (R189). -/
def frameRead (start off n : Nat) (s : State) : State × List Byte :=
  (pieces 32 off n).foldl (fun acc p =>
    match throughPc ⟨0, .frame start, p.1, .read p.2, none, 512, 0, 0⟩ acc.1 with
    | (s, .data bs) => (s, acc.2 ++ bs)
    | (s, _) => (s, acc.2 ++ s.mem.bytes p.1 p.2)) (s, [])

/-! ### Accesses that reach a cell (R72 to R74) -/

/-- The request with which a core, or a unit of the package outside the cores (512), comes to a cell. -/
def directReq (core off : Nat) : PcReq := ⟨0, .other, off, .read 1, none, core, 0, 0⟩

/-- Whether a link on the way from a core to a cell has failed (R25). -/
def severed (s : State) (core off : Nat) : Bool := cutFrom s (channelOf s off) (directReq core off)

/-- An access of a core comes to the pseudo-channel of its cell and has its turn (R73, R76, R78). -/
def reachCell (core off : Nat) (s : State) : State := takeTurn (directReq core off) s

/-- The same for every block of a range of bytes. -/
def reachRange (core off n : Nat) (s : State) : State := (pieces 256 off n).foldl (fun s p => reachCell core p.1 s) s

/-- A load of `n` bytes inside one granule piece, in its turn (R25, R72, R73, R76, R86, R323). -/
def homeLoad (l : Loc) (n : Nat) (c : Ctx) (s : State) : State × Except MemErr (List Byte × Bool) :=
  let s := reachCell c.core l.off s
  if severed s c.core l.off then (s, .error .poison) else cellLoad l n c s

/-- A store of one piece, in its turn (R25, R72, R73, R76, R87). -/
def homeStore (l : Loc) (bs : List Byte) (c : Ctx) (k : WKind) (s : State) : State × Except MemErr Unit :=
  let s := reachCell c.core l.off s
  if severed s c.core l.off then (s, .error .poison) else cellStore l bs c k s

/-- A read-modify-write of `n` bytes, in its turn (R25, R73, R74, R76, R87). -/
def homeModify (l : Loc) (n : Nat) (f : Nat → Nat) (c : Ctx) (k : WKind) (s : State) : State × Except MemErr Nat :=
  let s := reachCell c.core l.off s
  if severed s c.core l.off then (s, .error .poison) else cellModify l n f c k s

/-- Bytes read from the cells of plain pages, in their turn (R25, R72, R73, R76). -/
def plainRead (core off n : Nat) (s : State) : State × Except MemErr (List Byte) :=
  let s := reachRange core off n s
  (s, if severed s core off || s.mem.poisoned off n then .error .poison else .ok (s.mem.bytes off n))

/-- Bytes written to the cells of plain pages, in their turn (R25, R72, R73, R76). -/
def plainWrite (core off : Nat) (bs : List Byte) (s : State) : State :=
  let s := reachRange core off bs.length s
  if severed s core off then s else s.withMem (s.mem.write off bs)

/-- An atomic at its home (R74, R382, R383). -/
def homeAmo (l : Loc) (op : AmoOp) (b x : Nat) (c : Ctx) (s : State) : State × Except MemErr Nat :=
  homeModify l (amoSize op) (fun o => amoNew op o b x) c (if amoFloat op then .fatomic else .iatomic) s

/-- An arrival at a barrier's home (R268): the token. -/
def homeArrive (l : Loc) (c : Ctx) (k : WKind) (s : State) : State × Except MemErr Nat :=
  match homeModify l 12 arriveWord c k s with
  | (s, .ok w) => (s, .ok (bits w 95 64))
  | (s, .error e) => (s, .error e)

end Sys2Proof.Machine
end

