-- ==== Sys2Proof/Machine/Walk.lean ====
section
/-! DEFINITION. Translation of virtual addresses through the four-level table, the checks of a leaf entry
on use, and physical addresses by space (R7, R43, R44, R68 to R71, R79, R252 to R254). -/

namespace Sys2Proof.Machine

/-- Whether an address is canonical: bits [63:57] equal bit 56 (R7). -/
def canonical (va : Nat) : Bool := decide (bits va 63 56 = 0 ∨ bits va 63 56 = 255)

/-- Whether a physical address is local HBM outside region 63, where a table may lie (R253, R254). -/
def tableAddr (pa : Nat) : Bool := decide (pa < 63 * 2 ^ 33)

/-- The index of a level's table, as bits of the address (R252). -/
def tableIndex (lvl va : Nat) : Nat :=
  match lvl with
  | 3 => bits va 56 39
  | 2 => bits va 38 30
  | 1 => bits va 29 21
  | _ => bits va 20 16

/-- The size in bits of what a leaf of a level maps, and of a table's alignment below a level (R252). -/
def leafBits (lvl : Nat) : Nat := match lvl with | 2 => 30 | 1 => 21 | _ => 16
def tableBits (lvl : Nat) : Nat := match lvl with | 3 => 21 | 2 => 12 | 1 => 12 | _ => 8

/-- The walk from a level's table down (R252 to R254): the leaf entry and the page's size in bits. -/
def walkFrom (m : MemSt) (va : Nat) : Nat → Nat → Except MemErr (Nat × Nat)
  | 0, _ => .error .xlate
  | fuel + 1, table =>
    let lvl := fuel
    let at' := table + 8 * tableIndex lvl va
    if !tableAddr table || table % 2 ^ tableBits lvl ≠ 0 then .error .xlate
    else if m.poisoned at' 8 then .error .poison
    else
      let e := fromBytes (m.bytes at' 8)
      let leaf := bit e 1
      let pa := bits e 55 8 * 256
      if !bit e 0 || bits e 63 56 ≠ 0 || (lvl = 3 && leaf) || (lvl = 0 && !leaf) then .error .xlate
      else if leaf then
        if pa % 2 ^ leafBits lvl ≠ 0 then .error .xlate else .ok (e, leafBits lvl)
      else walkFrom m va fuel pa

/-- The walk of an address under a table root (R252). -/
def walk (m : MemSt) (root va : Nat) : Except MemErr (Nat × Nat) :=
  if canonical va then walkFrom m va 4 root else .error .xlate

/-- A physical address by what it names (R43, R68). -/
inductive Phys
  | hbm (l : Loc)
  | control (off : Nat)
  | domain (pa : Nat)
  | spad (pa : Nat)
  | host (addr : Nat)
  deriving DecidableEq, Repr

/-- A translated address: what it names, its physical address, and the page attributes (R253). -/
structure Xlat where
  phys  : Phys
  pa    : Nat
  rc    : Bool
  ver   : Bool
  w     : Bool
  icode : Nat
  deriving DecidableEq, Repr

/-- A physical address without page attributes, as a command or packet gives it (R43, R68): none where it
names no memory. -/
def physOf (s : State) (pa : Nat) : Option Phys :=
  match bits pa 55 54 with
  | 0 =>
    if bits pa 53 39 = 0 then (if bits pa 38 33 = 63 then none else some (.hbm ⟨bits pa 38 0, none⟩))
    else if bits pa 53 39 = 0x4000 ∧ bits pa 38 32 = 0 then some (.control (bits pa 31 0))
    else none
  | 1 =>
    if bits pa 47 39 ≠ 0 ∨ bits pa 38 33 = 63 ∨ s.isMember (bits pa 53 48) = false then none else some (.domain pa)
  | 2 => if s.isMember (bits pa 53 48) then some (.spad pa) else none
  | _ => if bits pa 53 52 ≠ 0 then none else some (.host (bits pa 51 0))

/-- A leaf entry used for an address, with the checks of R43, R44, R68, R69, R71, R79 and R254. DESIGN CHOICE (log 86): a
page with the versioned attribute in the control window raises XLATE. -/
def usePte (s : State) (e size va : Nat) (write : Bool) : Except MemErr Xlat :=
  let base := bits e 55 8 * 256
  let pa := base + va % 2 ^ size
  let w := bit e 2
  let ver := bit e 3
  let rc := bit e 4
  let icode := bits e 7 5
  let space := bits base 55 54
  let mk (p : Phys) : Except MemErr Xlat := .ok ⟨p, pa, rc, ver, w, icode⟩
  if write && !w then .error .xlate
  else if ver && space ≠ 0 then .error .xlate
  else if rc && space ≠ 1 then .error .xlate
  else
    match space with
    | 0 =>
      if bits base 53 39 = 0 then
        let k := bits base 38 33
        let code := sget 0 s.mem.irtCode k
        let ps7 := sget false s.mem.irtPs7 k
        if k = 63 ∨ icode ≠ code then .error .xlate
        else if code = 6 ∧ size = 30 then .error .xlate
        else if code = 7 ∧ size ≠ (if ps7 then 30 else 21) then .error .xlate
        else if ver && (size = 16 || base % 2 ^ (size + 1) ≠ 0 ||
            (size = 30 && (code = 4 || code = 5 || code = 6))) then .error .xlate
        else mk (.hbm ⟨bits pa 38 0, if ver then some (bits base 38 0, 2 ^ size) else none⟩)
      else if bits base 53 39 = 0x4000 ∧ bits base 38 32 = 0 ∧ ver = false then mk (.control (bits pa 31 0))
      else .error .xlate
    | 1 =>
      -- no page may map the metadata of any device (R69, R81)
      if bits base 47 39 ≠ 0 ∨ bits base 38 33 = 63 then .error .xlate
      else if s.isMember (bits base 53 48) then mk (.domain pa) else .error .nodev
    | 2 => if s.isMember (bits base 53 48) then mk (.spad pa) else .error .nodev
    | _ => if bits base 53 52 ≠ 0 then .error .xlate else mk (.host (bits pa 51 0))

/-- Translation by a walk alone, as the Pavilion and an executor translate (R251). -/
def translate (s : State) (root va : Nat) (write : Bool) : Except MemErr Xlat :=
  match walk s.mem root va with
  | .ok (e, size) => usePte s e size va write
  | .error x => .error x

/-- The entries that a walk reads at their home come in their turn, after the earlier requests to their blocks (R73,
R255). -/
def reachFrom (core va : Nat) : Nat → Nat → State → State
  | 0, _, s => s
  | lvl + 1, table, s =>
    let a := table + 8 * tableIndex lvl va
    if !tableAddr table || table % 2 ^ tableBits lvl ≠ 0 then s
    else
      let s := reachCell core a s
      let e := fromBytes (s.mem.bytes a 8)
      if s.mem.poisoned a 8 || !bit e 0 || bit e 1 then s else reachFrom core va lvl (bits e 55 8 * 256) s

/-- The reads of the walk of an address. -/
def reachWalk (core root va : Nat) (s : State) : State := if canonical va then reachFrom core va 4 root s else s

/-- Translation by a walk alone whose reads are made (R73, R251, R255). -/
def xlatAt (core root va : Nat) (write : Bool) (s : State) : State × Except MemErr Xlat :=
  let s := reachWalk core root va s
  (s, translate s root va write)

/-- The versioned pages that a table and those below it give, as HBM offset and size (R79, R253). -/
def versionedIn (m : MemSt) : Nat → Nat → List (Nat × Nat)
  | 0, _ => []
  | fuel + 1, table =>
    if !tableAddr table || table % 2 ^ tableBits fuel ≠ 0 then []
    else
      (List.range (match fuel with | 3 => 2 ^ 18 | 0 => 32 | _ => 512)).flatMap (fun i =>
        let e := fromBytes (m.bytes (table + 8 * i) 8)
        let base := bits e 55 8 * 256
        if !bit e 0 || bits e 63 56 ≠ 0 then []
        else if bit e 1 then
          if bit e 3 && decide ((fuel = 1 ∨ fuel = 2) ∧ base < 2 ^ 39) then [(base, 2 ^ leafBits fuel)] else []
        else versionedIn m fuel base)

/-- The versioned pages that the tables at the chains' CHPTs give (DEDUCED, log 32). -/
def versionedPages (s : State) : List (Nat × Nat) :=
  s.host.chains.flatMap (fun c => if c.2.en ∨ c.2.pt ≠ 0 then versionedIn s.mem 4 c.2.pt else [])

/-- The page of a list that holds an HBM offset. -/
def pageWith (pages : List (Nat × Nat)) (off : Nat) : Option (Nat × Nat) :=
  pages.find? (fun p => decide (p.1 ≤ off ∧ off < p.1 + p.2))

/-- The versioned page that holds an HBM offset: its offset and size. -/
def versionedAt (s : State) (off : Nat) : Option (Nat × Nat) := pageWith (versionedPages s) off

/-- Host memory bytes (R153). -/
def hostBytes (s : State) (a n : Nat) : List Byte := sread memDefault s.host.mem a n

/-- Host memory written. -/
def hostWrite (a : Nat) (bs : List Byte) (s : State) : State :=
  { s with host := { s.host with mem := swrite memDefault s.host.mem a bs } }

end Sys2Proof.Machine
end

