-- ==== Sys2Proof/Machine/Home.lean ====
section
/-! DEFINITION. Remote requests performed at their home device, and those of this device to itself (R44, R51 to R58,
R268, R270, R383). -/

namespace Sys2Proof.Machine

/-- The result of a home's access as a response carries it (R55). -/
def homeResult {α : Type} (f : α → List Byte) (r : State × Except MemErr α) : State × RemoteResult :=
  match r with
  | (s, .ok a) => (s, .data (f a))
  | (s, .error .owner) => (s, .err .owner)
  | (s, .error _) => (s, .err .poison)

/-- The bytes an atomic leaves where it meets poisoned data without returning it (R55): it acts on what the cell
holds. -/
def replaceAt (l : Loc) (op : AmoOp) (x e : Nat) (s : State) : State :=
  let act (a : Nat) (s : State) : State :=
    let n := amoSize op
    s.withMem (s.mem.write a (toBytes n (amoNew op (fromBytes (s.mem.bytes a n)) x e)))
  match l.ver with
  | none => act l.off s
  | some (_, p) =>
    match versionedSlot l.off p remoteCtx (if amoFloat op then .fatomic else .iatomic) s with
    | (s, .ok a) => act a s
    | (s, .error _) => s

/-- A load's result at its home: data of a versioned page is marked as such (R54, R275). -/
def markVersioned (ver : Bool) : RemoteResult → RemoteResult
  | .data bs => if ver then .versioned bs else .data bs
  | r => r

/-- A request at a place of this device's HBM (R51, R54). -/
def homeHbm (off : Nat) (q : RemoteReq) (s : State) : State × RemoteResult :=
  let l : Loc := ⟨off, versionedAt s off⟩
  match q.kind with
  | .load =>
    let (s, r) := homeResult (fun r => r.1) (homeLoad l q.size remoteCtx s)
    (s, markVersioned l.ver.isSome r)
  | .store _ => if l.ver.isSome then (s, .err .owner) else homeResult (fun _ => []) (homeStore l q.data remoteCtx .store s)
  | .atomic op ret x e =>
    match homeAmo l op x.toNat e.toNat remoteCtx s with
    | (s', .error .poison) => if ret then (s', .err .poison) else (replaceAt l op x.toNat e.toNat s', .data [])
    | r => homeResult (toBytes (amoSize op)) r
  | .arrive => homeResult (toBytes 4) (homeArrive l remoteCtx .iatomic s)
  | .poison =>
    if l.ver.isSome then (s, .err .owner)
    else
      let s := reachCell remoteCtx.core off s
      if severed s remoteCtx.core off then (s, .err .poison) else (s.withMem (s.mem.setPoison off true), .data [])
  | .ldf _ | .ste _ => (s, .err .stale)

/-- An atomic on the core's own scratchpad: one access in bank order, the tag unchanged (R383). -/
def windowAtomic (core off : Nat) (op : AmoOp) (b x : Nat) (s : State) : State × Except MemErr Nat :=
  let n := amoSize op
  let c := s.core core
  if (c.spadBad off n).isSome then (s, .error .poison)
  else
    let o := fromBytes (c.spadBytes off n)
    (s.setCore core (c.spadWrite off (toBytes n (amoNew op o b x))), .ok o)

/-- A modification of a core's scratchpad bytes by a request that does not return its poison (R55). -/
def replaceSpad (core off n : Nat) (f : Nat → Nat) (s : State) : State :=
  s.modCore core (fun c => c.spadWrite off (toBytes n (f (fromBytes (c.spadBytes off n)))))

/-- A request at a core's scratchpad (R58, R248, R270): none where a tagged one waits for its tag. -/
def homeSpad (core off : Nat) (q : RemoteReq) (s : State) : State × Option RemoteResult :=
  let c := s.core core
  let bad (n : Nat) : Bool := (c.spadBad off n).isSome
  match q.kind with
  | .load => (s, some (if bad q.size then .err .poison else .data (c.spadBytes off q.size)))
  | .store _ => (s.modCore core (fun c => c.spadWrite off q.data), some (.data []))
  | .atomic op ret x e =>
    match windowAtomic core off op x.toNat e.toNat s with
    | (s, .ok o) => (s, some (.data (toBytes (amoSize op) o)))
    | (s, .error _) =>
      if ret then (s, some (.err .poison))
      else (replaceSpad core off (amoSize op) (fun o => amoNew op o x.toNat e.toNat) s, some (.data []))
  | .arrive =>
    if bad 12 then (s, some (.err .poison))
    else
      let w := fromBytes (c.spadBytes off 12)
      (replaceSpad core off 12 arriveWord s, some (.data (toBytes 4 (bits w 95 64))))
  | .ldf keep =>
    if !c.tagAt off then (s, none)
    else if bad 8 then (s, some (.err .poison))
    else (if keep then s else s.modCore core (fun c => c.setTag off false), some (.data (c.spadBytes off 8)))
  | .poison => (s, some (.err .stale))
  | .ste keep =>
    if c.tagAt off then (s, none)
    else
      (s.modCore core (fun c =>
        let c := c.spadWrite off q.data
        if keep then c else c.setTag off true), some (.data []))

/-- The core that a SPACE 2 address names: none where its group is not live in that incarnation or has no such
core (R58). -/
def spadCore (s : State) (pa : Nat) : Option Nat :=
  let g := sget {} s.fab.gids (bits pa 43 30)
  if g.live && g.inc == bits pa 47 44 then g.cores[bits pa 29 21]? else none

/-- A SPACE 2 request dropped at its destination (R58): counted, with a capture event; only a posted one is
acknowledged without error. -/
def dropStale (q : RemoteReq) (s : State) : State × RemoteResult :=
  (capture 2 0 1 { s with fab := { s.fab with stale := satInc (2 ^ 32 - 1) s.fab.stale } },
    if q.kind = .store true then .data [] else .err .stale)

/-- A request at this device, its home (R51 to R58): none where a tagged one waits for its tag. -/
def homeRequest (q : RemoteReq) (s : State) : State × Option RemoteResult :=
  if q.pa / 2 ^ 54 = 1 then
    let (s, r) := homeHbm (q.pa % 2 ^ 39) q s
    (s, some r)
  else
    match spadCore s q.pa with
    | none =>
      let (s, r) := dropStale q s
      (s, some r)
    | some core =>
      if (s.link (hubOf core)).state = .failed then (s, some (.err .poison))
      else homeSpad core (q.pa % 2 ^ 21) q (hubWait core s)

/-- Whether a request's age exceeds FABTMO (R56). -/
def aged (s : State) (time : Nat) : Bool := decide (time + s.fab.tmo * 1000 < s.now)

/-- A request discarded for its age (R56). -/
def countExpired (s : State) : State :=
  { s with fab := { s.fab with expired := satInc (2 ^ 32 - 1) s.fab.expired } }

/-- A request performed at this device, its home, and answered where it need not wait (R51 to R58, R379). -/
def performRequest (q : RemoteReq) (s : State) : State :=
  match homeRequest q s with
  | (s, some r) => respondTo q.src q.id r s
  | (s, none) => { s with fab := { s.fab with tagged := s.fab.tagged ++ [q] } }

/-- A request that loops back is performed, or discarded for its age (R44, R56). -/
def loopOne (s : State) (q : RemoteReq) : State :=
  let s := { s with fab := { s.fab with loop := s.fab.loop.filter (fun p => p.id != q.id) } }
  if aged s q.time then countExpired s else performRequest q s

/-- Whether a request that loops back must be performed before a later one: both act on one 256-byte block, or both are
ordered (R44, R49, R50). -/
def loopsBefore (p q : RemoteReq) : Bool := p.pa / 256 == q.pa / 256 || (p.ordered && q.ordered)

/-- The requests of a list that a condition selects, and those they must follow, in the list's order. -/
def withEarlier (f : RemoteReq → Bool) (l : List RemoteReq) : List RemoteReq :=
  l.foldr (fun p l => if f p || l.any (loopsBefore p) then p :: l else l) []

/-- The requests that loop back to a 256-byte block are performed in their order, after those they must follow (R44,
R49, R50). -/
def performLoop (pa : Nat) (s : State) : State :=
  (withEarlier (fun p => p.pa / 256 == pa / 256) s.fab.loop).foldl loopOne s

/-- A request that loops back is performed after the earlier ones that it must follow (R44, R49, R50). -/
def performUntil (q : RemoteReq) (s : State) : State :=
  (withEarlier (fun p => loopsBefore p q) (s.fab.loop.takeWhile (fun p => p.id != q.id)) ++ [q]).foldl loopOne s

/-- A request of a unit of this device that waits for its outcome (R47, R48, R51 to R55): performed at once where it
addresses this device itself (R44), else sent along `way`; where `wait`, an earlier request must leave first, and the turn
waits (R49). -/
def unitRequest (way : Option (List Nat)) (wait : Bool) (kind : ReqKind) (pa n : Nat) (data : List Byte) (s : State) :
    State × RemoteResult :=
  match way with
  | none => (s, .err .noroute)
  | some r =>
    let (id, s) := s.fresh
    let q : RemoteReq := ⟨s.self, id, kind, pa, n, data, false, s.now⟩
    if paDev pa = s.self then
      match homeRequest q (performLoop pa s) with
      | (s, some a) => (s, a)
      | (s, none) => (s, .err .timeout)
    else if wait then (s.waitTurn, .err .timeout)
    else takeResult (s.send (.request q) r)

/-- Reads piece by piece at the 32-byte granule (R52, R272). -/
def readPieces (read : Nat → Nat → State → State × Except MemErr (List Byte)) (a n : Nat) (s : State) :
    State × Except MemErr (List Byte) :=
  (pieces 32 a n).foldl (fun acc p =>
    match acc with
    | (s, .ok bs) =>
      match read p.1 p.2 s with
      | (s, .ok more) => (s, .ok (bs ++ more))
      | r => r
    | r => r) (s, .ok [])

/-- Writes piece by piece at the 32-byte granule (R52, R272). -/
def writePieces (write : Nat → List Byte → State → State × Except MemErr Unit) (a : Nat) (bs : List Byte) (s : State) :
    State × Except MemErr Unit :=
  (pieces 32 a bs.length).foldl (fun (acc : State × Except MemErr Unit) p =>
    match acc with
    | (s, .ok ()) => write p.1 ((bs.drop (p.1 - a)).take p.2) s
    | r => r) (s, .ok ())

/-- A write by the Pavilion at a physical address with release at sys scope (R170), and its outcome: it fails where
it names no memory, SPACE 2 or the control window, and where the write receives an error (R483). The signals bring the
outcome of a write that leaves the device. -/
def physWrite (pa : Nat) (bs : List Byte) (s : State) : State × Except MemErr Unit :=
  match physOf s pa with
  | some (.hbm l) =>
    match homeStore l bs remoteCtx .store s with
    | (s, .ok ()) => (s, .ok ())
    | (s, .error e) => (s, .error e)
  | some (.host a) =>
    match s.input.results with
    | .err e :: rest => ({ s with input := { s.input with results := rest } }, .error (.remote e))
    | l => (hostWrite a bs { s with input := { s.input with results := l.drop 1 } }, .ok ())
  | some (.domain _) =>
    match unitRequest (pickRoute s (paDev pa) 4) false (.store true) pa bs.length bs s with
    | (s, .err e) => (s, .error (.remote e))
    | (s, _) => (s, .ok ())
  | _ => (s, .error .xlate)

end Sys2Proof.Machine
end

