-- ==== Sys2Proof/Machine/Route.lean ====
section
/-! DEFINITION. The requests of this device in flight: their routes and order, their completion, the requests of its
units, and the link map's sending (R23, R24, R44, R47 to R50, R53, R55). -/

namespace Sys2Proof.Machine

/-- The core a flight belongs to. -/
def Flight.core (f : Flight) : Nat :=
  match f.user with
  | .stream c _ => c
  | .tl2 c .. => c
  | .ack c => c

/-- The flights of a core. -/
def flightsOf (s : State) (core : Nat) : List Flight := s.fab.flights.filter (fun f => f.core == core)

/-- Whether a flight writes bytes of a core back: its own, or one of its quad's L2, which may hold its stores (R250,
R258). -/
def Flight.backs (f : Flight) (core : Nat) : Bool := match f.user with | .ack c => c / 4 == core / 4 | _ => false

/-- The earlier unacknowledged requests of a core, and write-backs of its quad, to the same 256-byte block of the same
device (R49, R259, R265). -/
def sameBlock (s : State) (core id pa : Nat) : List Flight :=
  s.fab.flights.filter (fun f => (f.core == core || f.backs core) && f.req.pa / 256 == pa / 256 && decide (f.req.id < id))

/-- The route of an earlier request to the block, while its links are UP (R23, R49). -/
def blockRoute (s : State) (fs : List Flight) : Option (List Nat) :=
  firstSome (fun f => match f.way with | .gone r => if routeUp s s.self r then some r else none | _ => none) fs

/-- The route of a core's request (R47, R49, R50): that of an earlier unacknowledged request to the same 256-byte block
of the same device, else by its kind. -/
def requestRoute (s : State) (core : Nat) (q : RemoteReq) : Option (List Nat) :=
  match blockRoute s (sameBlock s core q.id q.pa) with
  | some r => some r
  | none => if q.ordered then pickOrdered s (paDev q.pa) 4 else pickRoute s (paDev q.pa) 4

/-- The ordered requests held here for a device. -/
def heldOrdered (l : List FabMsg) (dst : Nat) : Bool :=
  l.any (fun m => match m with | .request q => q.ordered && paDev q.pa == dst | _ => false)

/-- Whether a core's request must wait here for its turn, behind those of `l` (R49, R50): an ordered one while an
earlier ordered request to its destination is held, or is unacknowledged since before the link map changed; any one
while an earlier request of its core to its block is held. -/
def mustHold (s : State) (l : List FabMsg) (core : Nat) (q : RemoteReq) : Bool :=
  (q.ordered && (heldOrdered l (paDev q.pa) ||
    s.fab.flights.any (fun f => f.old && f.req.ordered && paDev f.req.pa == paDev q.pa && f.req.id != q.id))) ||
  (sameBlock s core q.id q.pa).any (fun f => f.way == .held)

/-- A flight changed. -/
def State.modFlight (s : State) (id : Nat) (f : Flight → Flight) : State :=
  { s with fab := { s.fab with flights := updateFirst (fun g => g.req.id == id) f s.fab.flights } }

/-- The detour of an ordered request is kept for its destination until the link map changes (R50). -/
def keepDetour (q : RemoteReq) (r : List Nat) (s : State) : State :=
  if q.ordered && decide (r ≠ minimalRoute s.self (paDev q.pa)) then
    { s with fab := { s.fab with routes := sput s.fab.routes (paDev q.pa) r } }
  else s

/-- A request leaves along a route (R47); one to this device itself loops back inside the Pavilion (R44). -/
def sendAlong (q : RemoteReq) (r : List Nat) (s : State) : State :=
  let s := (keepDetour q r s).send (.request q) r
  let s := s.modFlight q.id (fun f => { f with way := .gone r })
  if paDev q.pa = s.self then { s with fab := { s.fab with loop := s.fab.loop ++ [q] } } else s

/-- The record of a tl0, tl1 or tl2 operation that failed (R314). -/
def tlRec (num : Nat) (e : MemErr) (va : Nat) (s : State) : Rec :=
  { cause := e.cause, sub := e.sub, path := num, addr := BitVec.ofNat 64 va, time := s.now }

/-- Whether a flight is one of a tl2 number's requests. -/
def Flight.ofNum (f : Flight) (core num : Nat) : Bool :=
  match f.user with | .tl2 c n .. => c == core && n == num | _ => false

/-- A request of a tl2 number completes (R53, R55): the number passes with the last of its requests, with the error
bit and a record where one of them failed. -/
def passTl2 (core num tag : Nat) (err : Option RemoteErr) (va : Nat) (s : State) : State :=
  if s.fab.flights.any (fun f => f.ofNum core num) then
    match err with
    | none => s
    | some e =>
      { s with fab := { s.fab with flights := updateFirst (fun f => f.ofNum core num) (fun f =>
          { f with user := .tl2 core num tag (some e) }) s.fab.flights } }
  else completeTl core 2 num tag (err.map (fun e => tlRec num (.remote e) va s)) s

/-- A request of this device completes at its source (R55): the stream that waits for it has its response, its tl2
number passes, or it only reports that it is over. -/
def completeFlight (f : Flight) (r : RemoteResult) (s : State) : State :=
  let s := { s with fab := { s.fab with flights := s.fab.flights.filter (fun g => g.req.id != f.req.id) } }
  match f.user with
  | .stream core k =>
    s.modCore core (fun c =>
      let take (w : Fetch) : Fetch :=
        if w.id = some f.req.id then
          match answerOf r with
          | .ok bs => { w with id := none, code := w.code ++ bs }
          | .error e => { w with id := none, err := some e }
        else w
      let c := match k with
        | .a => { c with a := { c.a with fetch := take c.a.fetch } }
        | .x => { c with x := { c.x with fetch := take c.x.fetch } }
        | .m => { c with m := { c.m with fetch := take c.m.fetch } }
      c.setStream k (let x := c.stream k
        match x.wait with
        | some w => if w.id = f.req.id then { x with wait := some ⟨w.id, some r⟩ } else x
        | none => x))
  | .tl2 core num tag old =>
    let err := match r with | .err e => some e | _ => none
    passTl2 core num tag (old.orElse (fun _ => err)) f.va.toNat s
  | .ack _ => s

/-- The requests of a tl2 number that found no route complete with NOROUTE (R48), once all of its requests are
issued. -/
def settleUnrouted (core num : Nat) (s : State) : State :=
  (s.fab.flights.filter (fun f => f.ofNum core num && f.way == .unrouted)).foldl (fun s f =>
    match s.fab.flights.find? (fun g => g.req.id == f.req.id) with
    | some f => completeFlight f (.err .noroute) s
    | none => s) s

/-- A request of a core leaves the device (R47 to R50): the flight is kept and the message sent, or held for its turn.
Where no route is UP nothing is sent, and it completes with NOROUTE at once (R48); one of a tl2 number as its
instruction completes. -/
def sendRequest (core : Nat) (user : ReqUser) (va : Word) (q : RemoteReq) (s : State) : State :=
  let s := hubWait core s
  let flight (w : Way) : State := { s with fab := { s.fab with flights := s.fab.flights ++ [⟨q, user, va, w, false⟩] } }
  match requestRoute s core q with
  | none =>
    match user with
    | .tl2 .. => flight .unrouted
    | _ => completeFlight ⟨q, user, va, .unrouted, false⟩ (.err .noroute) (flight .unrouted)
  | some r =>
    if mustHold s s.fab.held core q then (flight .held).hold (.request q) else sendAlong q r (flight .held)

/-- A request of an engine or a unit for a core, and its outcome (R44, R47 to R49, R51 to R55). -/
def coreRequest (core : Nat) (kind : ReqKind) (pa n : Nat) (data : List Byte) (s : State) : State × RemoteResult :=
  let s := hubWait core s
  let earlier := sameBlock s core (s.nextId + 1) pa
  let way := (blockRoute s earlier).orElse (fun _ => pickRoute s (paDev pa) 4)
  unitRequest way (earlier.any (fun f => f.way == .held)) kind pa n data s

/-- The bytes or the error that such a request brings. -/
def engineRequest (core : Nat) (kind : ReqKind) (pa n : Nat) (data : List Byte) (s : State) :
    State × Except MemErr (List Byte) :=
  match coreRequest core kind pa n data s with
  | (s, .err e) => (s, .error (.remote e))
  | (s, .data bs) | (s, .versioned bs) => (s, .ok ((bs ++ List.replicate n 0).take n))

/-- The domain link map goes to every other member whenever an LSTAT STATE changes (R48). -/
def sendMap (s : State) : State :=
  (s.members.filter (fun d => d != s.self)).foldl (fun s d => s.post (.linkMap d (ownPorts s))) s

end Sys2Proof.Machine
end

