-- ==== Sys2Proof/Machine/Packets.lean ====
section
/-! DEFINITION. Chains, packets, groups and slots as shared operations: refusal and completion of packets,
placement and stopping of groups, halts, and the opening and settling of attempts (chapters 05 to 07, 12). -/

namespace Sys2Proof.Machine

/-! ### Packet fields (R166) -/

def pw (ws : List Word) (i : Nat) : Nat := (ws.getD i 0).toNat
def pkType (ws : List Word) : Nat := bits (pw ws 0) 3 0
def pkLevel (ws : List Word) : Nat := bits (pw ws 0) 6 4
def pkTxn (ws : List Word) : Bool := bit (pw ws 0) 7
def pkStrict (ws : List Word) : Bool := bit (pw ws 0) 8
def pkSer (ws : List Word) : Bool := bit (pw ws 0) 9
def pkRetry (ws : List Word) : Nat := bits (pw ws 0) 13 10
def pkLate (ws : List Word) : Nat := bits (pw ws 0) 15 14
def pkOnerr (ws : List Word) : Nat := bits (pw ws 0) 17 16
def pkClass (ws : List Word) : Nat := bits (pw ws 0) 20 18
def pkTxLimit (ws : List Word) : Nat := bits (pw ws 0) 47 24
def pkTile (ws : List Word) : Nat := pw ws 1 + pw ws 2 * 2 ^ 64 + pw ws 3 * 2 ^ 128 + pw ws 4 * 2 ^ 192
def pkDeadline (ws : List Word) : Nat := pw ws 5
def pkNext (ws : List Word) : Nat := bits (pw ws 6) 55 7 * 128
def pkGcount (ws : List Word) : Nat := bits (pw ws 11) 47 32
def pkGlevel (ws : List Word) : Nat := bits (pw ws 11) 50 48
/-- A virtual address of 57 bits as one of 64: bits [63:57] repeat bit 56 (R7). -/
def va57 (a : Nat) : Nat := if bit a 56 then a + 127 * 2 ^ 57 else a
def pkCode (ws : List Word) : Nat := va57 (bits (pw ws 12) 56 12 * 4096)
def pkOff (ws : List Word) (i : Nat) : Nat := bits (pw ws 13) (16 * i + 15) (16 * i)
def pkScb (ws : List Word) : Nat := va57 (bits (pw ws 15) 56 12 * 4096)
/-- Whether the packet's tile word is a T.KERN. -/
def pkKern (ws : List Word) : Bool := decide (pkType ws = 1 ∧ pkTile ws % 256 = 0x18)

/-- The cores of a unit at a level, and the number of units (R174). -/
def unitCores (level : Nat) : Nat := match level with | 1 => 1 | 2 => 4 | 3 => 64 | _ => 512
def unitCount (level : Nat) : Nat := match level with | 1 => 512 | 2 => 128 | 3 => 8 | _ => 1

/-! ### Completion (R168, R170, R483) -/

/-- The first error of a chain recorded: the sticky bit, the code and sequence, the interrupt (R164). -/
def chainError (c code n : Nat) (s : State) : State :=
  let ch := s.chain c
  if ch.err then s
  else raiseInt 1 (s.modChain c (fun ch => { ch with err := true, errCode := code, errSeq := n % 2 ^ 32 }))

/-- A torn or failed chain that has written its last completion becomes IDLE (R169, R173). -/
def settleChain (c : Nat) (s : State) : State :=
  let ch := s.chain c
  if ch.state = .tearing ∧ ch.tail = ch.fetched ∧ ch.hds = [] ∧ ch.done = [] ∧
      (s.sched.packets.all (fun p => p.share || p.chain != c)) = true then
    s.modChain c (fun ch => { ch with state := .idle, en := false, tear := false, kill := false,
                                      fetchErr := false })
  else s

/-- A slot whose packet is over (R186, R176): FREE, or UNBOUND where UNBIND waits; a pre-emption request that waited
for the packet is over with it (R190). -/
def freeSlot (i : Nat) (s : State) : State :=
  s.modSlot i (fun x =>
    let x := { x with packet := none, halted := false, wantPre := false }
    if x.unbind then { x with state := .unbound, bind := none, unbind := false } else { x with state := .free })

/-- The slot of the packet that held a sequence number of a chain becomes free as its completion is
written (R186). -/
def completeSlot (c n : Nat) (s : State) : State :=
  match s.sched.packets.find? (fun p => !p.share && p.chain == c && p.head.seq == n) with
  | none => s
  | some p =>
    freeSlot p.slot { s with sched := { s.sched with packets := s.sched.packets.filter (fun q => q.id != p.id) } }

/-- The completion words due are written in order (R170, R483). -/
def flushCompletions (c : Nat) : Nat → State → State
  | 0, s => s
  | fuel + 1, s =>
    let ch := s.chain c
    let n := ch.base + 1
    match ch.done.find? (fun p => p.1 == n) with
    | none => s
    | some (_, e, code) =>
      let s := if e then chainError c code n s else s
      let s := s.modChain c (fun ch => { ch with base := n, done := ch.done.filter (fun p => p.1 != n) })
      let v := (s.chain c).err.toNat * 2 ^ 63 + n % 2 ^ 63
      let s :=
        match physWrite ch.cw (toBytes 8 v) s with
        | (s, .ok ()) => s
        | (s, .error _) => chainError c 7 n s
      let s :=
        if ch.irq then { s with host := { s.host with msix := s.host.msix ++ [max 3 ch.vec] } } else s
      flushCompletions c fuel (completeSlot c n s)

/-- Packet `n` of a chain completes with error flag `e` (R170): signal word where enabled, then the
completion word in order. `code` is the ERRCODE of a packet that never ran (R168), 0 otherwise; `sig`
says whether its signal fields were read. -/
def complete (c n : Nat) (ws : List Word) (e : Bool) (code : Nat) (sig : Bool) (s : State) : State :=
  let ch := s.chain c
  let s :=
    if sig && bit (pw ws 11) 24 then
      match physWrite (ch.ev + 8 * bits (pw ws 11) 23 0) (toBytes 8 (e.toNat * 2 ^ 63 + n % 2 ^ 63)) s with
      | (s, .ok ()) => s
      | (s, .error _) => chainError c 7 n s
    else s
  let s := s.modChain c (fun ch => { ch with done := ch.done ++ [(n, e, code)] })
  settleChain c (flushCompletions c ((s.chain c).done.length) s)

/-- Whether a head is one whose escalation the Lodge holds (R183). -/
def Head.isOffered (h : Head) : Bool := h.esc.isSome && h.offered

/-- The heads of a chain whose escalations the Lodge holds, the oldest first: one that came to the chain's front later
stands before it. -/
def offeredHeads (ch : ChainSt) : List Head := (ch.hds.filter Head.isOffered).reverse

/-- Which of a chain's entries in the Lodge's queue is a head's. -/
def entryOf (ch : ChainSt) (seq : Nat) : Nat := ((offeredHeads ch).takeWhile (fun h => h.seq != seq)).length

/-- Entry `k` of a chain out of the Lodge's queue. -/
def dropEntry (c : Nat) : List (Nat × Bool) → Nat → List (Nat × Bool)
  | [], _ => []
  | p :: rest, k =>
    if p.1 = c then (match k with | 0 => rest | n + 1 => p :: dropEntry c rest n) else p :: dropEntry c rest k

/-- The escalation of a chain's entry `k` is answered: the entry leaves the queue (R183). -/
def answered (c k : Nat) (s : State) : State :=
  { s with sched := { s.sched with esc := dropEntry c s.sched.esc k } }

/-- A head is escalated: it enters the Lodge's queue while that has room (R183). `late` is the reason. -/
def escalate (c : Nat) (late : Bool) (s : State) : State :=
  match (s.chain c).hds with
  | [] => s
  | h :: rest =>
    let room := decide (s.sched.esc.length < 64) && !h.offered
    let h := { h with esc := some late, offered := h.offered || room }
    let s := s.modChain c (fun ch => { ch with hds := h :: rest })
    if room then
      { s with sched := { s.sched with esc := s.sched.esc ++ [(c, late)], escal := satInc 65535 s.sched.escal } }
    else s

/-! ### Records of packets (R222, R315) -/

/-- The fault record of a slot written (R222). -/
def slotRecord (i : Nat) (r : Rec) (s : State) : State :=
  s.modSlot i (fun x => { x with record := (r.words).map (BitVec.ofNat 64) })

/-! ### Spawned packets and local transactions (R84, R147, R148, R171, R172) -/

/-- Whether a chain accepts a spawned packet (R171). -/
def ChainSt.accepts (c : ChainSt) : Bool := c.en && c.spawn && c.state == .active

/-- A packet enters the spawn store, which raises the chain's TAIL (R172). -/
def appendSpawn (c : Nat) (ws : List Word) (s : State) : State :=
  let s := s.modChain c (fun ch => { ch with tail := ch.tail + 1 })
  { s with host := { s.host with store := s.host.store ++ [(c, ws)] } }

/-- Held SPAWN packets of a tag: appended in issue order on COMMIT where their chain then accepts, else
discarded (R147, R475). -/
def settleSpawns (t : Nat) (commit : Bool) (s : State) : State :=
  let mine := s.arb.heldSp.filter (fun p => p.1 == t)
  let s := { s with arb := { s.arb with heldSp := s.arb.heldSp.filter (fun p => p.1 != t) } }
  if commit then
    mine.foldl (fun s p => if (s.chain p.2.1).accepts then appendSpawn p.2.1 p.2.2 s else s) s
  else s

/-- The transaction status of a core changed. -/
def CoreSt.modTx (c : CoreSt) (f : TxSt → TxSt) : CoreSt := { c with txst := f c.txst }

/-- The transaction of a core is over: TAG and KIND are cleared. -/
def CoreSt.endTx (c : CoreSt) : CoreSt := c.modTx (fun x => { x with tag := 0, kind := 0, outcome := none })

/-- A local transaction that is left open aborts (R84, R147, R148); one that has been decided stands. -/
def abortTx (t : TxSt) (s : State) : State :=
  if t.kind = 2 ∧ t.outcome = none then settleSpawns t.tag false (statusWrite t.tag .aborted .nobody s) else s

/-- A core's local transaction that is left open aborts (R84, R147, R148). -/
def abortLocal (core : Nat) (s : State) : State :=
  let t := (s.core core).txst
  if t.kind = 2 then (abortTx t s).modCore core CoreSt.endTx else s

/-! ### Stopping cores and groups (R132, R173, R315) -/

/-- A running stream comes to a stop. -/
def StreamSt.halt (x : StreamSt) (r : RunState) : StreamSt :=
  if x.run = .running then { x with run := r, stall := none, stallCnt := 0 } else x

/-- A core's streams stop and its engines' queued work is cancelled; work already started runs to its end
(R132, R315). A nest's number passes with its error bit clear (R449). -/
def CoreSt.stop (c : CoreSt) (r : RunState) : CoreSt :=
  let c := if c.m.run then c.setTl 1 ((c.tl 1).complete c.m.nest false) else c
  { c with a := c.a.halt r, x := c.x.halt r, m := { c.m with stopped := true, run := false, ended := false },
           copyQ := [], copyStall := false, copyCnt := 0 }

/-- The tile words not started that a core's own unit holds are cancelled. -/
def dropUnitJobs (core : Nat) (s : State) : State :=
  { s with tiles := { s.tiles with jobs := s.tiles.jobs.filter (fun j =>
      j.started || j.unit != ⟨1, core⟩) } }

/-- A group stops at its next instruction boundary and becomes DRAINING (R132, R173). -/
def stopGroup (gid : Nat) (s : State) : State :=
  match s.group? gid with
  | none => s
  | some g =>
    if g.state = .running then
      let s := g.cores.foldl (fun s c => dropUnitJobs c (s.modCore c (fun x => (x.stop .stopped)))) s
      let fl := (s.core (g.cores.headD 0)).txst.gflags
      let s := s.modGroup gid (fun g => { g with state := .draining, stopped := true })
      match (s.packet? g.packet).bind (fun p => p.dtid) with
      | some d => s.modAttempt d (fun a => { a with gflags := a.gflags ||| fl })
      | none => s
    else s

/-- Whether a job is a regrouping T.KERN of a packet's launch that waits for its unit (R197, R468). -/
def TileJob.regroups (j : TileJob) (packet : Nat) : Bool :=
  decide (j.word.toNat % 256 = 0x18) && j.packet.isNone && !j.member && j.owner == packet

/-- The T.WAITEV words of a packet's launch end with no further effect (R470). -/
def endWaits (p : Packet) (s : State) : State :=
  { s with tiles := { s.tiles with jobs := s.tiles.jobs.map (fun j =>
      if !j.member && j.owner == p.id && decide (j.word.toNat % 256 = 0x1A) then
        { j with accepted := true, started := true, executed := true }
      else j) } }

/-- The regrouping T.KERN words of a packet's launch that are not yet placed are not placed. -/
def dropRegroups (packet : Nat) (s : State) : State :=
  { s with tiles := { s.tiles with jobs := s.tiles.jobs.filter (fun j => !j.regroups packet) } }

/-- Whether a slot holds a packet saved (R190). -/
def SlotSt.holds (x : SlotSt) (packet : Nat) : Bool := x.held.any (fun p => p.id == packet)

/-- Every group of a packet stops, its waits end, and no regrouping of it is placed. -/
def stopGroups (id : Nat) (s : State) : State :=
  match s.packet? id with
  | none => s
  | some p =>
    let s := dropRegroups id (endWaits p s)
    p.groups.foldl (fun s g => stopGroup g s) s

/-- The groups of a packet are all idle (R186). -/
def drained (s : State) (p : Packet) : Bool :=
  p.groups.all (fun g =>
    match s.group? g with
    | some x => x.state == .idle
    | none => true)

/-- The path of a core of a T.KERN: its placement from the launch's level down (R315). -/
def kernPath (s : State) (level core : Nat) : Nat :=
  let pos := (s.members.filter (fun d => decide (d < s.self))).length
  (if level = 5 then pos * 2 ^ 48 else 0) + (if 4 ≤ level then core / 64 * 2 ^ 40 else 0) +
    (if 3 ≤ level then core / 4 % 16 * 2 ^ 32 else 0) + (if 2 ≤ level then core % 4 * 2 ^ 24 else 0)

/-- A core stops faulted with a cause, sub-code and address (R315): its streams stop, its queued work is cancelled,
and its group stops at its next instruction boundary. -/
def faultCore (core : Nat) (f : CoreFault) (s : State) : State :=
  let s := dropUnitJobs core (s.modCore core (fun c => { c.stop .faulted with fault := some f }))
  match (s.core core).place with
  | none => s
  | some pl =>
    let s := s.modGroup pl.gid (fun g => { g with faulted := true })
    match s.group? pl.gid with
    | none => s
    | some g => (g.cores.filter (fun c => c != core)).foldl (fun s c => s.modCore c (fun x => x.stop .stopped)) s

/-- A hardware flag raised against an attempt (R130). -/
def raiseAttempt (d : Nat) (f : BitVec 16) (s : State) : State :=
  s.modAttempt d (fun a =>
    if a.state = .opening ∨ a.state = .running ∨ a.state = .stopping then { a with hw := a.hw ||| f } else a)

/-! ### Halts (R317, R321) -/

/-- The packet of a slot halts or restarts: every core of its groups. -/
def haltSlot (i : Nat) (on : Bool) (s : State) : State :=
  let s := s.modSlot i (fun x => { x with halted := on })
  match (s.slot i).packet.bind s.packet? with
  | none => s
  | some p => p.groups.foldl (fun s g =>
      match s.group? g with
      | none => s
      | some x => x.cores.foldl (fun s c => s.modCore c (fun y => { y with halted := on })) s) s

/-- The slots with a running packet. -/
def busySlots (s : State) : List Nat :=
  (List.range 256).filter (fun i => decide ((s.slot i).state = .busy))

/-- Whether a packet is of the level-5 launch of chain `chain` on root `root`: the root's own, or a share (R179). -/
def Packet.ofLaunch (p : Packet) (self root chain : Nat) : Bool :=
  pkLevel p.head.words == 5 && p.chain == chain && (if p.share then p.home == root else self == root)

/-- Whether a domain share is of that launch (R179). -/
def shareOf (root chain : Nat) (h : Share) : Bool := h.root == root && h.chain == chain

/-- A level-5 launch halts on this device: every slot that runs it, and its share that waits for one, which starts halted
(R179, R317). -/
def haltLaunch (root chain : Nat) (s : State) : State :=
  let s := (s.sched.packets.filter (fun p => p.ofLaunch s.self root chain)).foldl (fun s p => haltSlot p.slot true s) s
  if s.sched.shares.any (shareOf root chain) then { s with dbg := { s.dbg with far := (root, chain) :: s.dbg.far } }
  else s

/-- A halt that reaches this device otherwise than by its own DBGCTL or BRKD shows in DBGSTAT where none is in force:
HALTING, with the slot (R317, R319). -/
def noteHalt (i : Nat) (s : State) : State :=
  if s.dbg.state = 0 then { s with dbg := { s.dbg with state := 1, src := .host, hslot := i } } else s

/-- The halt of a slot's level-5 packet halts the launch's other slots here and goes to the other members (R317). -/
def haltFar (i : Nat) (s : State) : State :=
  match (s.slot i).packet.bind s.packet? with
  | some p =>
    if pkLevel p.head.words = 5 then
      let root := if p.share then p.home else s.self
      haltLaunch root p.chain
        ((s.members.filter (fun d => d != s.self)).foldl (fun s d => s.post (.halt d root p.chain)) s)
    else s
  | none => s

/-- A host or BRKD halt of one slot (R317, R319): HALTING, until time has passed (log 87). -/
def haltOne (i : Nat) (src : HaltSrc) (s : State) : State :=
  haltFar i (haltSlot i true { s with dbg := { s.dbg with state := 1, src := src, hslot := i } })

/-- The thermal halt (R321): every slot with a running packet, as a halt of each, selection held, the interrupt
raised. -/
def thermalHalt (s : State) : State :=
  let s := (busySlots s).foldl (fun s i => haltFar i (haltSlot i true s)) s
  raiseInt 2 { s with dbg := { s.dbg with state := 2, src := .thermal, hslot := 0, thermal := true } }

/-! ### Placement (R184, R193 to R195, R226, R227) -/

/-- Whether a group ID may be assigned (R59). -/
def gidFree (s : State) (g : Nat) : Bool :=
  let x := sget {} s.fab.gids g
  !x.live && (!x.used || decide (x.freeAt ≤ s.now))

/-- The group IDs that may be assigned (R59). -/
def gidsLeft (s : State) : Nat := 16384 - (s.fab.gids.filter (fun e => !gidFree s e.1)).length

/-- The least group ID that may be assigned, of `n` from `g` on. -/
def leastGid (s : State) : Nat → Nat → Option Nat
  | 0, _ => none
  | n + 1, g => if gidFree s g then some g else leastGid s n (g + 1)

/-- A group ID assigned with its incarnation (R58, R59). -/
def assignGid (g : Nat) (cores : List Nat) (s : State) : State :=
  { s with fab := { s.fab with gids := smod {} s.fab.gids g (fun x =>
      { x with live := true, used := true, inc := if x.used then (x.inc + 1) % 16 else 0, cores := cores }) } }

/-- LVIDXn of a core (R194). -/
def lvidxWord (self level core first ncores n : Nat) : Word :=
  let unit := match n with | 1 => core | 2 => core / 4 | 3 => core / 64 | 4 => self | _ => 0
  let per := match n with | 2 => 4 | 3 => 64 | _ => 1
  let gpos := if level ≤ n then 0 else if n = 0 then 32 * (core - first) else (core - first) / per
  let gcnt := if level ≤ n then 1 else if n = 0 then 32 * ncores else (ncores + per - 1) / per
  BitVec.ofNat 64 (unit + gpos * 2 ^ 16 + gcnt * 2 ^ 32)

/-- A queue's DEPTH and VEC in CORECFG (R228). -/
def cfgDepth (cfg q : Nat) : Nat := bits cfg (7 * q + 5) (7 * q)
def cfgVec (cfg q : Nat) : Bool := bit cfg (7 * q + 6)

/-- The kernel header's checks (R227). -/
def headerOk (h : List Byte) (aoff xoff moff : Nat) : Bool :=
  let cfg := fromBytes (h.take 8)
  let d := (List.range 6).map (fun q => cfgDepth cfg q)
  decide (4 ≤ aoff ∧ 4 ≤ xoff ∧ 4 ≤ moff) && (h.drop 8).all (fun b => b == 0) &&
    d.all (fun n => decide (n = 0 ∨ (4 ≤ n ∧ n ≤ 32))) &&
    decide (((List.range 6).map (fun q => cfgDepth cfg q * (if cfgVec cfg q then 2048 else 8))).sum ≤ 131072)

/-- What a placement gives its groups: the launch words of R166, the carried transaction state, the
chain and table root. -/
structure Launch where
  packet : Nat
  slot   : Nat
  chain  : Nat
  root   : Nat
  words  : List Word
  txst   : TxSt
  total  : Nat
  deriving DecidableEq, Repr

/-- A core at placement (R226): what R226 fixes is set; vector, mask, tile and scratchpad contents and
the L1 stay. -/
def placeCore (c : CoreSt) (cfg : Word) (pl : Placement) (tx : TxSt) (ws : List Word) : CoreSt :=
  let base := pkCode ws
  let str (off : Nat) : StreamSt :=
    { pc := BitVec.ofNat 64 (base + 16 * off), run := .running,
      trapVec := BitVec.ofNat 64 ((base + 16 * pkOff ws 3) / 4 * 4 + (if 4 ≤ pkOff ws 3 then 1 else 0)) }
  { halted := c.halted, vec := c.vec, tile := c.tile, masks := c.masks, spad := c.spad, staged := c.staged, kept := c.kept, tags := c.tags,
    spadPois := c.spadPois, vecPois := c.vecPois, tilePois := c.tilePois, l1 := c.l1, tlb := c.tlb,
    a := str (pkOff ws 0), x := str (pkOff ws 1),
    m := { body := BitVec.ofNat 64 (base + 16 * pkOff ws 2) },
    coreCfg := cfg, txst := tx, place := some pl }

/-- The kernel header of a launch (R227): of another device's memory by requests cut at the 32-byte granule (R52, R272),
whose outcomes the event brings; the control window reads 0 for accesses of this size (R12). -/
def readHeader (l : Launch) (core : Nat) (s : State) : State × Except MemErr (List Byte) :=
  match xlatAt core l.root (pkCode l.words) false s with
  | (s, .error e) => (s, .error e)
  | (s, .ok x) =>
    match x.phys with
    | .hbm loc =>
      match loc.ver with
      | none => plainRead core loc.off 64 s
      | some _ =>
        match homeLoad loc 64 ⟨core, l.txst.tag⟩ s with
        | (s, .ok (b, _)) => (s, .ok b)
        | (s, .error e) => (s, .error e)
    | .host a => (s, .ok (hostBytes s a 64))
    | .control _ => (s, .ok (List.replicate 64 0))
    | _ => readPieces (fun a n s => engineRequest core .load a n [] s) x.pa 64 s

/-- A core stopped faulted at placement: TRAPADDR holds CODEBASE (R227, R310). -/
def CoreSt.badHeader (c : CoreSt) (e : MemErr ⊕ Unit) (code : Word) : CoreSt :=
  let cause : BitVec 8 := match e with | .inl e => e.cause | .inr _ => 0x01
  let sub : Nat := match e with | .inl e => e.sub | .inr _ => 0
  let note (x : StreamSt) : StreamSt :=
    { x with trapCode := cause, trapSub := BitVec.ofNat 3 sub, trapAddr := code }
  let c := c.stop .faulted
  { c with a := note c.a, x := note c.x, fault := some ⟨cause, sub, code⟩ }

/-- One group placed on a unit (R184): its ID, its cores set to start, or stopped faulted on a header
failure (R227). -/
def placeGroup (l : Launch) (level first num : Nat) (s : State) : State :=
  let n := unitCores level
  let cores := (List.range n).map (fun i => first + i)
  match leastGid s 16384 0 with
  | none => s
  | some gid =>
    let s := assignGid gid cores s
    let inc := (sget {} s.fab.gids gid).inc
    let grpid : Word := BitVec.ofNat 64 (num + gid * 2 ^ 16 + inc * 2 ^ 30 + level * 2 ^ 34 + l.total * 2 ^ 37)
    let code : Word := BitVec.ofNat 64 (pkCode l.words)
    let (s, hdr) := readHeader l first s
    let bad : Option (MemErr ⊕ Unit) :=
      match hdr with
      | .error e => some (.inl e)
      | .ok h => if headerOk h (pkOff l.words 0) (pkOff l.words 1) (pkOff l.words 2) then none else some (.inr ())
    let cfg : Word := match hdr with | .ok h => BitVec.ofNat 64 (fromBytes (h.take 8) % 2 ^ 42) | .error _ => 0
    let g : Group := ⟨gid, l.packet, cores, level, num, l.total, .running, false, false⟩
    let s := { s with sched := { s.sched with groups := s.sched.groups ++ [g] } }
    let s := s.modPacket l.packet (fun p => { p with groups := p.groups ++ [gid] })
    cores.foldl (fun s c =>
      let pl : Placement := ⟨l.slot, l.chain, gid, inc, code, l.root, grpid,
        (List.range 6).map (fun k => lvidxWord s.self level c first n k), c - first⟩
      let s := { s with tiles := { s.tiles with tables := sput s.tiles.tables (1024 + c) [] } }
      s.modCore c (fun x =>
        let x := placeCore { x with halted := (s.slot l.slot).halted } cfg pl l.txst l.words
        match bad with | none => x | some e => x.badHeader e code)) s

/-- `count` groups placed on the units from core `first` on, numbered from `num` (R184). -/
def placeGroups (l : Launch) (level first count num : Nat) (s : State) : State :=
  (List.range count).foldl (fun s i => placeGroup l level (first + i * unitCores level) (num + i) s) s

/-! ### Slots and dispatch (R178, R180, R184) -/

/-- The first core of a slot's lowest unit at a level, its scope (R178). -/
def scopeCore (b : BindRec) : Nat := if b.level = 5 then 0 else b.first * unitCores b.level

/-- Whether a packet fits a bind record (R178, R179, R184): a slot of LEVEL 5 has no unit of a lower level. -/
def fits (b : BindRec) (ws : List Word) : Bool :=
  if pkType ws = 0 then true
  else if b.level = 5 then decide (pkLevel ws = 5)
  else if pkKern ws then decide (pkLevel ws ≤ b.level ∧ pkGlevel ws ≤ pkLevel ws)
  else decide (pkLevel ws ≤ b.level)

/-- The groups of a level-5 launch before this device's (R184): each device takes as many as it holds. -/
def groupsBefore (s : State) (level : Nat) : Nat :=
  (s.members.filter (fun d => decide (d < s.self))).length * unitCount level

/-- The groups that a launch places on this device (R179, R184): all of them below level 5, this device's of a domain
share, and none of the launch root's own latch. -/
def groupsHere (s : State) (share : Bool) (ws : List Word) : Nat :=
  if !pkKern ws then 0
  else if share then min (pkGcount ws - groupsBefore s (pkGlevel ws)) (unitCount (pkGlevel ws))
  else if pkLevel ws = 5 then 0
  else pkGcount ws

/-- Whether a group ID is free for every group that a launch places here: one that finds too few waits (R59, R184). -/
def idsFor (s : State) (share : Bool) (ws : List Word) : Bool := decide (groupsHere s share ws ≤ gidsLeft s)

/-- The unit of the executor at a level in a core's ancestry (R174, R203). -/
def unitOf (level core : Nat) : TileUnit :=
  match level with
  | 0 | 1 => ⟨1, core⟩
  | 2 => ⟨2, core / 4⟩
  | 3 => ⟨3, core / 64⟩
  | 4 => ⟨4, 0⟩
  | _ => ⟨5, 0⟩

/-- A packet's work starts (R184, R204): its groups are placed, or its tile word enters the executor of
its scope. The domain share of a level-5 launch places this device's groups; the launch root's own latch
places none (R179). -/
def startWork (id : Nat) (s : State) : State :=
  match s.packet? id with
  | none => s
  | some p =>
    let ws := p.head.words
    let tx : TxSt :=
      match p.dtid.bind s.attempt? with
      | some a => { tag := a.tag, att := a.att, kind := 1, pflags := a.pflags, strict := pkStrict ws }
      | none => { strict := pkStrict ws }
    let first := match (s.slot p.slot).bind with | some b => scopeCore b | none => 0
    let l : Launch := ⟨id, p.slot, p.chain, p.root, ws, tx, pkGcount ws⟩
    if pkType ws = 0 then s.modPacket id (fun p => { p with done := true })
    else if pkKern ws then
      if p.share then
        let n := groupsHere s true ws
        let s := placeGroups l (pkGlevel ws) first n (groupsBefore s (pkGlevel ws)) s
        if n = 0 then s.modPacket id (fun p => { p with done := true }) else s
      else if pkLevel ws = 5 then s
      else placeGroups l (pkGlevel ws) first (pkGcount ws) 0 s
    else if p.share then s.modPacket id (fun p => { p with done := true })
    else
      let (jid, s) := s.fresh
      let job : TileJob :=
        { id := jid, unit := unitOf (pkLevel ws) first, word := BitVec.ofNat 256 (pkTile ws), core := first,
          packet := some id, parent := none, member := false, num := 0, tl := 0, tag := tx.tag,
          att := tx.att, strict := tx.strict || bit (pkTile ws) 11, loc := false, txn := pkTxn ws, chain := p.chain,
          root := p.root, slot := p.slot, owner := id, gid := 0, glevel := 0, mark := 0, entry := 0, accepted := false,
          img := [], started := false, recs := [], kids := [], ran := [], children := [], gone := [], executed := false, stop := false, skipped := false, fault := none, count := 0,
          origin := 0, far := 0, key := 0, ctr := 0, hbase := none, phase := 0, vals := [], locs := [], begun := 0, dead := [] }
      let s := s.modPacket id (fun p => { p with tile := some jid })
      { s with tiles := { s.tiles with jobs := s.tiles.jobs ++ [job] } }

/-- The packet that a launch runs from on its root, for an attempt whose own packet is the root's share (R179). -/
def rootPacket (s : State) (d : Nat) : Option Packet := s.sched.packets.find? (fun p => !p.share && p.dtid == some d)

/-- The packets of an attempt on this device: its own, and the root's where this device is the launch root. -/
def launchPackets (s : State) (a : Attempt) : List Packet :=
  s.sched.packets.filter (fun p => p.id == a.packet || (!p.share && p.dtid == some a.dtid))

/-- An attempt's tag is handed over: it becomes RUNNING and its work starts, on the launch root with the packet's
tile word (R85, R132, R179). -/
def attemptRunning (d t : Nat) (s : State) : State :=
  match s.attempt? d with
  | none => s
  | some a =>
    if a.state = .opening then
      (launchPackets s a).foldl (fun s p => startWork p.id s)
        (s.modAttempt d (fun a => { a with state := .running, tag := t }))
    else s

end Sys2Proof.Machine
end

