-- ==== Sys2Proof/Machine/Cache.lean ====
section
/-! DEFINITION. A core's translation through its TLBs, and the L1 and L2 caches: loads, stores recorded at a
scope, write-backs, release and acquire (R57, R90, R250, R251, R256 to R263). A
line leaves by LINE_WRITE_BACK, or to make room for another (R2, R250, R258). -/

namespace Sys2Proof.Machine

/-! ### Lines -/

/-- A line that holds nothing. -/
def Line.empty : Line := ⟨0, 0, 0, 4, false, false⟩

/-- Whether a line holds byte `i`. -/
def Line.has (l : Line) (i : Nat) : Bool := l.valid.getLsbD i

/-- Byte `i` of a line. -/
def Line.byte (l : Line) (i : Nat) : Byte := BitVec.ofNat 8 (l.data.toNat / 2 ^ (8 * i))

/-- The data of a line with byte `i` replaced. -/
def Line.withByte (l : Line) (i : Nat) (b : Byte) : BitVec 1024 :=
  BitVec.ofNat 1024 (l.data.toNat - (l.byte i).toNat * 2 ^ (8 * i) + b.toNat * 2 ^ (8 * i))

/-- The bytes of the 32-byte granule that holds byte `i`. -/
def granuleMask (i : Nat) : BitVec 128 := BitVec.ofNat 128 ((2 ^ 32 - 1) * 2 ^ (i / 32 * 32))

/-- A clean byte brought in; a dirty one stays. -/
def Line.fill (l : Line) (i : Nat) (b : Byte) : Line :=
  if l.dirty.getLsbD i then l
  else { l with valid := l.valid ||| BitVec.ofNat 128 (2 ^ i), data := l.withByte i b }

/-- Bytes of one granule brought in from byte `i` on: the clean bytes of the granule that the line held leave, so that those
it holds come from one point of the order (R272). -/
def Line.take (l : Line) (i : Nat) (bs : List Byte) : Line :=
  bs.zipIdx.foldl (fun l p => l.fill (i + p.2) p.1)
    { l with valid := l.valid &&& (~~~(granuleMask i) ||| l.dirty) }

/-- A byte stored, dirty, recorded at a scope. -/
def Line.store (scope : Nat) (l : Line) (i : Nat) (b : Byte) : Line :=
  { l with valid := l.valid ||| BitVec.ofNat 128 (2 ^ i), dirty := l.dirty ||| BitVec.ofNat 128 (2 ^ i),
           data := l.withByte i b, scope := if l.dirty = 0 then scope else min l.scope scope }

/-- A byte that a wider store writes through: a held copy takes the new value, clean (R257). -/
def Line.through (l : Line) (i : Nat) (b : Byte) : Line :=
  if l.has i then
    { l with dirty := l.dirty &&& ~~~(BitVec.ofNat 128 (2 ^ i)), data := l.withByte i b }
  else l

/-- Clean bytes again after a write-back. -/
def Line.clean (l : Line) : Line := { l with dirty := 0, scope := 4 }

/-- Bytes from physical address `pa` applied to the lines that hold them. -/
def putLines (f : Line → Nat → Byte → Line) (m : Sparse Line) (pa : Nat) (bs : List Byte) : Sparse Line :=
  (bs.foldl (fun (a : Sparse Line × Nat) b =>
    (sset Line.empty a.1 (a.2 / 128) (f (sget Line.empty a.1 (a.2 / 128)) (a.2 % 128) b), a.2 + 1)) (m, pa)).1

/-- Bytes inside one granule brought into the line that holds them. -/
def takePart (m : Sparse Line) (pa : Nat) (bs : List Byte) : Sparse Line :=
  smod Line.empty m (pa / 128) (fun l => l.take (pa % 128) bs)

/-- Whether a line holds `n` bytes from byte `i` on. -/
def Line.holds (l : Line) (i n : Nat) : Bool := (List.range n).all (fun j => l.has (i + j))

/-- Byte `i` of a line that holds it dirty. -/
def Line.dirtyByte (l : Line) (i : Nat) : Option Byte := if l.dirty.getLsbD i && l.has i then some (l.byte i) else none

/-! ### Places -/

/-- The L2 lines of a core's quad. -/
def l2Of (s : State) (core : Nat) : Sparse Line := sget [] s.mem.l2 (core / 4)

/-- The L2 lines of a core's quad changed. -/
def modL2 (core : Nat) (f : Sparse Line → Sparse Line) (s : State) : State :=
  s.withMem { s.mem with l2 := smod [] s.mem.l2 (core / 4) f }

/-- The L1 lines of a core changed. -/
def modL1 (core : Nat) (f : Sparse Line → Sparse Line) (s : State) : State :=
  s.modCore core (fun c => { c with l1 := f c.l1 })

/-- Whether a physical address is of local HBM. -/
def localPa (pa : Nat) : Bool := decide (pa < 2 ^ 54)

/-- A byte as a core's quad sees it below its L1: the L2 copy, else the home cell where it is local and not
poisoned. -/
def belowL1 (s : State) (core pa : Nat) : Option Byte :=
  let l := sget Line.empty (l2Of s core) (pa / 128)
  if l.has (pa % 128) then some (l.byte (pa % 128))
  else if localPa pa && !s.mem.poisoned pa 1 then some (s.mem.byte pa)
  else none

/-- A byte as a core sees it. -/
def seeByte (s : State) (core pa : Nat) : Option Byte :=
  let l := sget Line.empty (s.core core).l1 (pa / 128)
  if l.has (pa % 128) then some (l.byte (pa % 128)) else belowL1 s core pa

/-- Every element of a list of options, or none. -/
def allSome {α : Type} : List (Option α) → Option (List α)
  | [] => some []
  | none :: _ => none
  | some a :: l => (allSome l).map (fun r => a :: r)

/-- A byte of local HBM at its home: none where it is poisoned or remote. -/
def homeByte (s : State) (pa : Nat) : Option Byte :=
  if localPa pa && !s.mem.poisoned pa 1 then some (s.mem.byte pa) else none

/-- Bytes inside one granule as a core's quad sees them below its L1: from the L2 where it holds all of them, else from the
home, with the quad's stores that the L2 holds dirty in their place, so that all come from one point of the order (R265,
R272, R273). -/
def belowPart (s : State) (core pa n : Nat) : List (Option Byte) :=
  let l := sget Line.empty (l2Of s core) (pa / 128)
  let i := pa % 128
  if l.holds i n then (List.range n).map (fun j => some (l.byte (i + j)))
  else (List.range n).map (fun j => (l.dirtyByte (i + j)).orElse (fun _ => homeByte s (pa + j)))

/-- Bytes inside one granule as a core sees them: from the L1 where it holds all of them, else from below, with the core's
stores that the L1 holds dirty in their place (R265, R272, R273). -/
def seePart (s : State) (core pa n : Nat) : List (Option Byte) :=
  let l := sget Line.empty (s.core core).l1 (pa / 128)
  let i := pa % 128
  if l.holds i n then (List.range n).map (fun j => some (l.byte (i + j)))
  else (belowPart s core pa n).zipIdx.map (fun p => (l.dirtyByte (i + p.2)).orElse (fun _ => p.1))

/-- `n` bytes as a core sees them, piece by piece: none where one is poisoned, or remote and not held (R250, R272,
R323). -/
def cacheRead (s : State) (core pa n : Nat) : Option (List Byte) :=
  allSome ((pieces 32 pa n).flatMap (fun p => seePart s core p.1 p.2))

/-! ### Write-back -/

/-- The runs of consecutive dirty bytes of a line inside one 32-byte granule: place and bytes. -/
def Line.runs (l : Line) : List (Nat × List Byte) :=
  ((List.range 128).foldl (fun (a : List (Nat × List Byte)) i =>
    if l.dirty.getLsbD i then
      match a.getLast? with
      | some (p, bs) =>
        if p + bs.length = i ∧ i % 32 ≠ 0 then a.dropLast ++ [(p, bs ++ [l.byte i])] else a ++ [(i, [l.byte i])]
      | none => [(i, [l.byte i])]
    else a) [])

/-- Bytes performed at their home: local cells, or remote stores of the core at the 32-byte granule, which take no tl2
number (R57, R257, R374). -/
def writeHome (core pa : Nat) (bs : List Byte) (s : State) : State :=
  if localPa pa then plainWrite core pa bs s
  else
    (pieces 32 pa bs.length).foldl (fun s p =>
      let (id, s) := s.fresh
      let data := (bs.drop (p.1 - pa)).take p.2
      sendRequest core (.ack core) 0 ⟨s.self, id, .store false, p.1, p.2, data, false, s.now⟩ s) s

/-- A line of the quad's L2 written back. -/
def backL2 (core key : Nat) (s : State) : State :=
  let l := sget Line.empty (l2Of s core) key
  let s := l.runs.foldl (fun s r => writeHome core (key * 128 + r.1) r.2 s) s
  modL2 core (fun m => smod Line.empty m key Line.clean) s

/-! ### Room for a line (R2, R250, R258) -/

/-- The way, of those that hold lines, that makes room: which is a free value (R250). -/
def victimOf {α : Type} (l : List α) (s : State) : State × Option α :=
  let (n, s) := s.fresh
  (s, l[Config.victim n % l.length]?)

/-- Room in the quad's L2 for a line: one of its 32,768 lines is written back and leaves (R2, R258). -/
def roomL2 (core key : Nat) (s : State) : State :=
  let m := l2Of s core
  if m.any (fun p => p.1 == key) || decide (m.length < 32768) then s
  else
    match victimOf m s with
    | (s, some v) => modL2 core (fun m => m.filter (fun p => p.1 != v.1)) (backL2 core v.1 s)
    | (s, none) => s

/-- A line of the L1 written back into the L2. -/
def backL1 (core key : Nat) (s : State) : State :=
  let l := sget Line.empty (s.core core).l1 key
  let s := if l.dirty = 0 then s else roomL2 core key s
  let s := modL2 core (fun m => l.runs.foldl (fun m r => putLines (Line.store l.scope) m (key * 128 + r.1) r.2) m) s
  modL1 core (fun m => smod Line.empty m key Line.clean) s

/-- Room in the core's L1 for a line: one of the eight lines of its set is written back and leaves (R250, R258). The set
is the line number modulo 256 (PRESUMED, log 91). -/
def roomL1 (core key : Nat) (s : State) : State :=
  let l := (s.core core).l1.filter (fun p => p.1 % 256 == key % 256)
  if l.any (fun p => p.1 == key) || decide (l.length < 8) then s
  else
    match victimOf l s with
    | (s, some v) => modL1 core (fun m => m.filter (fun p => p.1 != v.1)) (backL1 core v.1 s)
    | (s, none) => s

/-- The granules of a line. -/
def granules (pa : Nat) : List Nat := [0, 32, 64, 96].map (fun i => pa / 128 * 128 + i)

/-- The granule of an address brought into the quad's L2 from its home, where it is not held whole and can be read. -/
def fillGranuleL2 (core pa : Nat) (s : State) : State :=
  if (sget Line.empty (l2Of s core) (pa / 128)).holds (pa % 128) 32 then s
  else
    match allSome ((List.range 32).map (fun j => homeByte s (pa + j))) with
    | some bs => modL2 core (fun m => takePart m pa bs) s
    | none => s

/-- The granule of an address brought into the core's L1 from below, where it is not held whole and can be read. -/
def fillGranuleL1 (core pa : Nat) (s : State) : State :=
  if (sget Line.empty (s.core core).l1 (pa / 128)).holds (pa % 128) 32 then s
  else
    match allSome (belowPart s core pa 32) with
    | some bs => modL1 core (fun m => takePart m pa bs) s
    | none => s

/-- The line of an address brought into the L2 as far as its granules can be read (R250). -/
def fillL2 (core pa : Nat) (s : State) : State :=
  (granules pa).foldl (fun s g => fillGranuleL2 core g s) (roomL2 core (pa / 128) s)

/-- The line of an address brought into the L2 and the L1 as far as its granules can be read (R250): the line that makes
room in the L1 goes to the L2 first (R2). -/
def fillLine (core pa : Nat) (s : State) : State :=
  (granules pa).foldl (fun s g => fillGranuleL1 core g s) (fillL2 core pa (roomL1 core (pa / 128) s))

/-- Bytes of local HBM as a core sees them: those that its caches do not hold are read in their turn (R73, R76, R250);
where the way to their home has failed they read as POISON (R25). -/
def coreRead (core pa n : Nat) (s : State) : State × Option (List Byte) :=
  if (pieces 32 pa n).all (fun p => (sget Line.empty (s.core core).l1 (p.1 / 128)).holds (p.1 % 128) p.2 ||
      (sget Line.empty (l2Of s core) (p.1 / 128)).holds (p.1 % 128) p.2) then (s, cacheRead s core pa n)
  else
    let s := reachRange core pa n s
    (s, if severed s core pa then none else cacheRead s core pa n)

/-- Bytes inside one granule as a core's quad sees them below its L1, in their turn where the L2 does not hold them. -/
def belowRead (core pa n : Nat) (s : State) : State × Option (List Byte) :=
  if (sget Line.empty (l2Of s core) (pa / 128)).holds (pa % 128) n then (s, allSome (belowPart s core pa n))
  else
    let s := reachCell core pa s
    (s, if severed s core pa then none else allSome (belowPart s core pa n))

/-- A plain load of the A-stream that allocates (R250). -/
def loadAlloc (core pa n : Nat) (s : State) : State × Option (List Byte) :=
  match coreRead core pa n s with
  | (s, none) => (s, none)
  | (s, some bs) => ((pieces 128 pa n).foldl (fun s p => fillLine core p.1 s) s, some bs)

/-- Remote-cacheable bytes inside one granule that a response brought are held by the quad's L2 (R57). -/
def fillRemoteL2 (core pa : Nat) (bs : List Byte) (s : State) : State :=
  modL2 core (fun m => takePart m pa bs) (roomL2 core (pa / 128) s)

/-- Such bytes are held by the core's L1 and its quad's L2 (R57). -/
def fillRemote (core pa : Nat) (bs : List Byte) (s : State) : State :=
  let s := fillRemoteL2 core pa bs (roomL1 core (pa / 128) s)
  modL1 core (fun m => takePart m pa ((allSome (belowPart s core pa bs.length)).getD bs)) s

/-- Bytes that came from their home, with those that the core or its quad holds dirty in their place: the core's own later
stores (R57, R259, R265). -/
def overlay (s : State) (core pa : Nat) (bs : List Byte) : List Byte :=
  bs.zipIdx.map (fun p =>
    let a := pa + p.2
    (((sget Line.empty (s.core core).l1 (a / 128)).dirtyByte (a % 128)).orElse (fun _ =>
      (sget Line.empty (l2Of s core) (a / 128)).dirtyByte (a % 128))).getD p.1)

/-- The keys of the lines whose dirty bytes a condition on the line selects. -/
def dirtyKeys (f : Nat → Line → Bool) (m : Sparse Line) : List Nat :=
  (m.filter (fun p => decide (p.2.dirty ≠ 0) && f p.1 p.2)).map (fun p => p.1)

/-- The write-backs of REL.S (R262): L1 bytes recorded narrower than S for quad and wider, L2 bytes for stack and
wider. -/
def releaseLines (core scope : Nat) (s : State) : State :=
  if scope = 0 then s
  else
    let s := (dirtyKeys (fun _ l => decide (l.scope < scope)) (s.core core).l1).foldl (fun s k => backL1 core k s) s
    if scope = 1 then s
    else (dirtyKeys (fun _ l => decide (l.scope < scope)) (l2Of s core)).foldl (fun s k => backL2 core k s) s

/-- Whether an L1 or L2 line of key `k` is one of local HBM. -/
def localLine (k : Nat) : Bool := localPa (k * 128)

/-- ACQ.S's write-backs and invalidations (R263). -/
def acquireLines (core scope : Nat) (s : State) : State :=
  if scope = 0 then s
  else
    let inL1 (k : Nat) : Bool := decide (scope ≠ 1) || localLine k
    let s := (dirtyKeys (fun k _ => inL1 k) (s.core core).l1).foldl (fun s k => backL1 core k s) s
    let s := modL1 core (fun m => m.filter (fun p => !inL1 p.1)) s
    if scope = 1 then s
    else
      let inL2 (k : Nat) : Bool := decide (scope = 4) || localLine k
      let s := (dirtyKeys (fun k _ => inL2 k) (l2Of s core)).foldl (fun s k => backL2 core k s) s
      modL2 core (fun m => m.filter (fun p => !inL2 p.1)) s

/-- Whether a write of part of a granule meets poison there that no cache of the core covers: the granule stays poisoned,
and its bytes go to the home cell (R323). -/
def taintedPart (s : State) (core pa n : Nat) : Bool :=
  localPa pa && decide (n < 32) && s.mem.poisoned pa n && (cacheRead s core (pa / 32 * 32) 32).isNone

/-- A store performed through the caches, granule by granule (R257, R272, R323): `keep` puts the bytes of one in their
place. -/
def storePieces (core pa : Nat) (bs : List Byte) (keep : Nat → List Byte → State → State) (s : State) : State :=
  (pieces 32 pa bs.length).foldl (fun s p =>
    let part := (bs.drop (p.1 - pa)).take p.2
    if taintedPart s core p.1 p.2 then
      plainWrite core p.1 part (modL1 core (fun m => putLines Line.through m p.1 part)
        (modL2 core (fun m => putLines Line.through m p.1 part) s))
    else keep p.1 part s) s

/-- A plain store of a core's A-stream, recorded at a scope: it writes through every cache below the place where it is
performed at that scope (R256, R257). -/
def cacheWrite (core pa : Nat) (bs : List Byte) (scope : Nat) (s : State) : State :=
  storePieces core pa bs (fun pa bs s =>
    if scope = 0 then modL1 core (fun m => putLines (Line.store 0) m pa bs) (roomL1 core (pa / 128) s)
    else
      let s := modL1 core (fun m => putLines Line.through m pa bs) s
      if scope = 1 then modL2 core (fun m => putLines (Line.store scope) m pa bs) (roomL2 core (pa / 128) s)
      else writeHome core pa bs (modL2 core (fun m => putLines Line.through m pa bs) s)) s

/-- A store of a copy engine or tile unit: a hit updates the L1 and the write goes on to the L2 (R250). -/
def engineWrite (core pa : Nat) (bs : List Byte) (scope : Nat) (s : State) : State :=
  storePieces core pa bs (fun pa bs s =>
    let s := modL1 core (fun m => putLines Line.through m pa bs) s
    if scope ≤ 1 then modL2 core (fun m => putLines (Line.store scope) m pa bs) (roomL2 core (pa / 128) s)
    else writeHome core pa bs (modL2 core (fun m => putLines Line.through m pa bs) s)) s

/-- Bytes written through to their home at sys: a copy that the core or its quad holds takes the new value, clean (R57,
R257, R259). -/
def throughBytes (core pa : Nat) (bs : List Byte) (s : State) : State :=
  modL1 core (fun m => putLines Line.through m pa bs) (modL2 core (fun m => putLines Line.through m pa bs) s)

/-! ### Versioned lines (R90) -/

/-- The bytes of a versioned page that a line of the core's L1 holds (R90, R250). -/
def versionedHit (s : State) (core off n : Nat) : Option (List Byte) :=
  let line := sget Line.empty (s.core core).l1 (off / 128)
  if line.ver then allSome ((List.range n).map (fun j =>
    if line.has (off % 128 + j) then some (line.byte (off % 128 + j)) else none))
  else none

/-- A versioned load of a core: an L1 line that holds the bytes supplies them, else the base die in the
core's view, whose half block is then held clean with its view bit. -/
def versionedCached (l : Loc) (n : Nat) (c : Ctx) (s : State) : State × Except MemErr (List Byte) :=
  let key := l.off / 128
  match versionedHit s c.core l.off n with
  | some bs => (s, .ok bs)
  | none =>
    match homeLoad l n c s with
    | (s, .error e) => (s, .error e)
    | (s, .ok (bs, tent)) =>
      let s :=
        match homeLoad ⟨key * 128, l.ver⟩ 128 c s with
        | (s, .ok (all, _)) =>
          modL1 c.core (fun m => sput m key
            ⟨BitVec.allOnes 128, 0, BitVec.ofNat 1024 (fromBytes all), 4, true, tent⟩) (roomL1 c.core key s)
        | (s, .error _) => s
      (s, .ok bs)

/-- The versioned lines of a block leave a core's L1 when the core writes the block. -/
def dropBlock (core off : Nat) (s : State) : State :=
  modL1 core (fun m => m.filter (fun p => !(p.2.ver && p.1 / 2 == off / 256))) s

/-- A write through to a versioned block that the core's L1 holds lines of: each takes the block as the core now reads it
(R90, R250, R274), or leaves where it cannot be read. -/
def reloadBlock (off : Nat) (ver : Option (Nat × Nat)) (c : Ctx) (s : State) : State :=
  [2 * (off / 256), 2 * (off / 256) + 1].foldl (fun s key =>
    if (sget Line.empty (s.core c.core).l1 key).ver then
      match homeLoad ⟨key * 128, ver⟩ 128 c s with
      | (s, .ok (all, tent)) =>
        modL1 c.core (fun m => sput m key ⟨BitVec.allOnes 128, 0, BitVec.ofNat 1024 (fromBytes all), 4, true, tent⟩) s
      | (s, .error _) => modL1 c.core (fun m => m.filter (fun p => p.1 != key)) s
    else s) s

/-! ### Translation by a core (R251) -/

/-- The entry of a TLB that maps an address under a root. -/
def tlbFind (t : List TlbEntry) (root va : Nat) : Option TlbEntry :=
  t.find? (fun e => e.root == root && e.base == va / 2 ^ e.bits * 2 ^ e.bits)

/-- An entry taken by a core's TLB of 64 entries (R251). -/
def putTlb (core : Nat) (e : TlbEntry) (s : State) : State :=
  if (s.core core).tlb.length < 64 then s.modCore core (fun c => { c with tlb := e :: c.tlb })
  else
    let (n, s) := s.fresh
    s.modCore core (fun c => { c with tlb := e :: c.tlb.eraseIdx (Config.victim n % 64) })

/-- The set of an entry in an L2 TLB (PRESUMED, log 91: the page number modulo 256). -/
def TlbEntry.set (e : TlbEntry) : Nat := e.base / 2 ^ e.bits % 256

/-- An entry taken by the L2 TLB of a core's quad, 8-way with 256 sets (R251). -/
def putL2Tlb (core : Nat) (e : TlbEntry) (s : State) : State :=
  let t := sget [] s.mem.l2tlb (core / 4)
  let mine := t.filter (fun x => x.set == e.set)
  let put (t : List TlbEntry) (s : State) : State :=
    s.withMem { s.mem with l2tlb := sput s.mem.l2tlb (core / 4) (e :: t) }
  if mine.length < 8 then put t s
  else
    let (n, s) := s.fresh
    match mine[Config.victim n % 8]? with
    | some v => put (t.erase v) s
    | none => put t s

/-- Translation under a table root through a core's TLB, its quad's TLB, then the walk, which fills both (R251,
R254). -/
def tlbXlat (core root va : Nat) (write : Bool) (s : State) : State × Except MemErr Xlat :=
  if canonical va then
    match tlbFind (s.core core).tlb root va with
    | some e => (s, usePte s e.pte.toNat e.bits va write)
    | none =>
      let t2 := sget [] s.mem.l2tlb (core / 4)
      match tlbFind t2 root va with
      | some e => (putTlb core e s, usePte s e.pte.toNat e.bits va write)
      | none =>
        let s := reachWalk core root va s
        match walk s.mem root va with
        | .error x => (s, .error x)
        | .ok (pte, size) =>
          let e : TlbEntry := ⟨root, va / 2 ^ size * 2 ^ size, size, BitVec.ofNat 64 pte⟩
          let s := putTlb core e (putL2Tlb core e s)
          (s, usePte s pte size va write)
  else (s, .error .xlate)

/-- Translation of a core's access (R251). -/
def coreXlat (core va : Nat) (write : Bool) (s : State) : State × Except MemErr Xlat :=
  tlbXlat core (match (s.core core).place with | some p => p.root | none => 0) va write s

/-- The page attributes that an access over two pages must share (R272). -/
def Xlat.sameAttrs (a b : Xlat) : Bool :=
  decide (a.pa / 2 ^ 54 = b.pa / 2 ^ 54 ∧ a.icode = b.icode ∧ a.ver = b.ver ∧ a.rc = b.rc ∧ a.w = b.w)

/-- The place of a translation's fault in the order of R484. -/
def xlatRank : MemErr → Nat
  | .xlate => 2
  | .nodev => 3
  | _ => 8

/-- Two translations of one access: of two faults the one that R484 puts first, and ATTRSPLIT where neither faults
(R272). -/
def joinXlat (a b : Except MemErr Xlat) : Except MemErr (Xlat × Xlat) :=
  match a, b with
  | .ok a, .ok b => if a.sameAttrs b then .ok (a, b) else .error .split
  | .error e, .error f => .error (if xlatRank f < xlatRank e then f else e)
  | .error e, .ok _ => .error e
  | .ok _, .error f => .error f

/-- Translation of `n` bytes from an address by a translation function: the first byte's translation and the last's, with
the faults of R272 and R484 in order (XLATE, NODEV, then ATTRSPLIT). -/
def spanWith (xlat : Nat → State → State × Except MemErr Xlat) (va n : Nat) (s : State) :
    State × Except MemErr (Xlat × Xlat) :=
  let (s, a) := xlat va s
  if n ≤ 1 ∨ va / 2 ^ 16 = (va + n - 1) / 2 ^ 16 then (s, joinXlat a a)
  else
    let (s, b) := xlat ((va + n - 1) % 2 ^ 64) s
    (s, joinXlat a b)

end Sys2Proof.Machine
end

