-- ==== Sys2Proof/Machine/Layout.lean ====
section
/-! DEFINITION. Record tables and layout records: fields, checks, window positions and the place of an
element (R247, R346 to R349, R388, R482). -/

namespace Sys2Proof.Machine

/-- One dimension of a record (R347). -/
structure Dim where
  extent : Nat
  stride : Int
  origin : Int
  wsize  : Nat
  deriving DecidableEq, Repr

/-- A layout record that passed R348 (R346). -/
structure Layout where
  base : Nat
  fmt  : Nat
  swz  : Nat
  fill : Nat
  mem  : Nat
  dims : List Dim
  deriving DecidableEq, Repr

/-- The key of the record table of a level in a core's ancestry (R388). -/
def tableKey (level core : Nat) : Nat :=
  match level with
  | 0 | 1 => 1024 + core
  | 2 => 2048 + core / 4
  | 3 => 4096 + core / 64
  | _ => 8192

/-- The greatest valid handle of a level's table (R388). -/
def tableTop (level : Nat) : Nat :=
  match level with
  | 0 | 1 => 1023
  | 2 => 4095
  | 3 => 16383
  | _ => 65535

/-- The record at a handle of a table: 96 zero bytes where none was loaded (R482). -/
def State.record (s : State) (key h : Nat) : BitVec 768 := sget 0 (sget [] s.tiles.tables key) h

/-- A record loaded (R388). -/
def State.setRecord (s : State) (key h : Nat) (r : BitVec 768) : State :=
  { s with tiles := { s.tiles with tables := smod [] s.tiles.tables key (fun t => sset 0 t h r) } }

/-- The width in bits of an element format (R278); 0 where the code is not listed. -/
def fmtBits (f : Nat) : Nat :=
  match f with
  | 0 => 32 | 1 => 16 | 2 => 8 | 3 => 8 | 4 => 4 | 5 => 8 | 6 => 8 | 7 => 16 | 8 => 32 | 16 => 8
  | _ => 0

/-- The fields of a dimension entry (R347). -/
def dimOf (e : Nat) : Dim := ⟨bits e 31 0, sx (bits e 71 32) 40, sx (bits e 103 72) 32, bits e 127 104⟩

/-- The records a handle names with its extensions, as one integer of entries (R347). -/
def recordWords (s : State) (key h : Nat) : List Nat :=
  let r := (s.record key h).toNat
  let rank := bits r 67 63
  r :: (if rank > 5 then [(s.record key (h + 1)).toNat] else []) ++
    (if rank > 11 then [(s.record key (h + 2)).toNat] else [])

/-- The dimension entries of a record and its extensions, in order. -/
def dimEntries (ws : List Nat) : List Nat :=
  match ws with
  | [] => []
  | r :: ext =>
    (List.range 5).map (fun d => bits r (128 * d + 255) (128 * d + 128)) ++
      ext.flatMap (fun x => (List.range 6).map (fun d => bits x (128 * d + 127) (128 * d)))

/-- The check of R348 on the record at a handle, extensions with it: the layout, or none for RECORD. An
entry beyond the table fails (R482). -/
def parseLayout (ws : List Nat) : Option Layout :=
  let r := ws.headD 0
  let es := dimEntries ws
  let rank := bits r 67 63
  let fmt := bits r 62 57
  let swz := bits r 70 68
  let mem := bits r 104 103
  let base := bits r 56 0
  let dims := (es.take rank).map dimOf
  if bits r 127 105 ≠ 0 ∨ (es.drop rank).any (fun e => e != 0) then none
  else if fmtBits fmt = 0 ∨ rank = 0 ∨ rank > 16 ∨ mem = 3 ∨ (swz ≠ 0 ∧ mem ≠ 1) then none
  else if (mem = 1 ∧ base ≥ 2 ^ 21) ∨ (mem = 2 ∧ base > 39) then none
  else if dims.any (fun d => decide (d.extent = 0 ∨ d.wsize = 0)) then none
  else some ⟨base, fmt, swz, bits r 102 71, mem, dims⟩

/-- The layout at a handle of a table whose last handle is `top`; none gives RECORD (R348, R482). -/
def loadLayout (s : State) (key h top : Nat) : Option Layout :=
  let ws := recordWords s key h
  if h = 0 ∨ h + ws.length - 1 > top then none else parseLayout ws

/-- The number of window positions (R349). -/
def Layout.count (r : Layout) : Nat := r.dims.foldl (fun n d => n * d.wsize) 1

/-- The window lengths. -/
def Layout.shape (r : Layout) : List Nat := r.dims.map (fun d => d.wsize)

/-- The element offset of the position with linear index `lin`, dimension 0 fastest; none is OUTSIDE
(R349). -/
def elemOff (ds : List Dim) (lin : Nat) (off : Int) : Option Int :=
  match ds with
  | [] => some off
  | d :: rest =>
    let i : Int := d.origin + (lin % d.wsize : Nat)
    if i < 0 ∨ i ≥ d.extent then none else elemOff rest (lin / d.wsize) (off + i * d.stride)

/-- The bank swizzle of R247. -/
def swizzle (z : Nat) (a : Int) : Int :=
  if z = 0 then a else if a < 0 then a
  else
    let n := a.toNat
    (n ^^^ (bits n (8 + min z 6) 9 * 8) : Nat)

/-- Where an element lies (R349): the byte address or offset before the bank swizzle, and its sub-place, a nibble of
E2M1 or the element of an NQ group. -/
structure Place where
  addr : Int
  sub  : Nat
  deriving DecidableEq, Repr

/-- The place of a position; none is OUTSIDE (R349). -/
def Layout.place (r : Layout) (lin : Nat) : Option Place :=
  match elemOff r.dims lin 0 with
  | none => none
  | some off =>
    let base : Int := if r.mem = 2 then 0 else if r.mem = 0 then sx r.base 57 else r.base
    some (if r.fmt = 4 then ⟨base + off / 2, (off % 2).toNat⟩
      else if r.fmt = 16 then ⟨base + 32 * (off / 32), (off % 32).toNat⟩
      else ⟨base + off * (fmtBits r.fmt / 8 : Nat), 0⟩)

/-- The code of an OUTSIDE source position: FILL cut to the format's width (R346, R349). -/
def Layout.fillCode (r : Layout) : Nat := r.fill % 2 ^ fmtBits r.fmt

/-- The bytes a place spans, from its address: 32 for an NQ group. -/
def Layout.span (r : Layout) : Nat := if r.fmt = 16 then 32 else (fmtBits r.fmt + 7) / 8

/-- The code of an element within the bytes of its place. -/
def codeAt (fmt sub : Nat) (bs : List Byte) : Nat :=
  let v := fromBytes bs
  if fmt = 4 then bits v (4 * sub + 3) (4 * sub)
  else if fmt = 16 then ((List.range 8).map (fun p => if bit v (32 * (7 - p) + sub) then 2 ^ p else 0)).sum
  else v

/-- The bytes of a place with one element's code written. -/
def putCode (fmt sub code : Nat) (bs : List Byte) : List Byte :=
  let v := fromBytes bs
  if fmt = 4 then toBytes 1 (v - bits v (4 * sub + 3) (4 * sub) * 2 ^ (4 * sub) + code % 16 * 2 ^ (4 * sub))
  else if fmt = 16 then
    toBytes 32 ((List.range 8).foldl (fun v p =>
      let i := 32 * (7 - p) + sub
      v - (if bit v i then 2 ^ i else 0) + (if bit code p then 2 ^ i else 0)) v)
  else toBytes bs.length code

/-- Whether a code is stored in part of its bytes, so that a write reads them first. -/
def Layout.partial' (r : Layout) : Bool := decide (r.fmt = 4 ∨ r.fmt = 16)

/-- A MEM 0 address as a 64-bit virtual address. -/
def va64 (a : Int) : Nat := (a % (2 ^ 64 : Int)).toNat

end Sys2Proof.Machine
end

