-- ==== Sys2Proof/Machine/Regs.lean ====
section
/-! DEFINITION. What each register of the control window reads as (R19, R20, R27, R33, R37, R38, R65, R66,
R96, R97, R124, R125, R151, R152, R157, R158, R164, R192, R222, R318, R319). -/

namespace Sys2Proof.Machine

/-- The KIND of a link (R19, R20): 0 die-to-die, 1 HBM, 2 fabric, 3 Pergola, 4 hub. -/
def linkKind (i : Nat) : Nat :=
  if i < 4 then 0 else if i < 12 then 1 else if i < 26 then 2 else if i < 58 then 3 else 4

/-- The code of a link state (R20). -/
def LinkState.code : LinkState → Nat
  | .down => 0 | .training => 1 | .up => 2 | .degraded => 3 | .failed => 4

/-- LSTAT entry `i` (R20): WIDTH reads 0 while the link is not UP or UP_DEGRADED. -/
def lstatWord (s : State) (i : Nat) : Nat :=
  let l := s.link i
  l.state.code + linkKind i * 2 ^ 4 + (if l.state.carries then l.width % 2 ^ 8 else 0) * 2 ^ 8 + l.rate % 2 ^ 4 * 2 ^ 16 +
    l.preset % 2 ^ 4 * 2 ^ 20 + l.margin % 2 ^ 8 * 2 ^ 24 + l.attempts % 2 ^ 4 * 2 ^ 32 + l.pdev % 2 ^ 6 * 2 ^ 36 +
    l.plink % 2 ^ 6 * 2 ^ 42 + l.replays % 2 ^ 8 * 2 ^ 48 + l.retrain.toNat * 2 ^ 63

/-- A capture unit's register at offset `o` (R37, R38). -/
def capReg (u : CapSt) (o : Nat) : Nat :=
  if o = 0 then u.en.toNat + u.freeze.toNat * 4 + u.opened.toNat * 8
  else if o = 0x08 then u.src
  else if o = 0x10 then u.start
  else if o = 0x18 then u.stop
  else if o = 0x20 then u.cnt
  else if o = 0x28 then u.min
  else if o = 0x30 then u.max
  else if o = 0x38 then u.hb
  else if 0x40 ≤ o ∧ o ≤ 0xB8 then sget 0 u.hist ((o - 0x40) / 8)
  else 0

/-- A replica region's register (R66). -/
def mcWord (r : McRegion) : Nat := r.base % 2 ^ 56 / 2 ^ 16 * 2 ^ 16 + r.size * 2 ^ 58 + r.valid.toNat * 2 ^ 63

/-- The registers of the fabric block (R65, R66). -/
def fabReg (s : State) (o : Nat) : Nat :=
  let f := s.fab
  if o = 0x400 then f.x + f.y * 8 + f.ncm1 * 64 + f.nrm1 * 512
  else if o = 0x408 then f.members.toNat
  else if o = 0x410 then f.tmo
  else if o = 0x418 then f.thr + f.detEn.toNat * 256
  else if o = 0x420 then f.stale + f.expired * 2 ^ 32
  else if o = 0x428 then f.lock.toNat + f.master.toNat * 2 + f.offset * 2 ^ 16
  else if o = 0x430 then f.dtset.toNat
  else if 0x440 ≤ o ∧ o < 0x540 then mcWord (sget {} f.mcrep ((o - 0x440) / 8))
  else 0

/-- The code of a status-table state (R97). -/
def TagState.code : TagState → Nat
  | .free => 0 | .active => 1 | .committed => 2 | .aborted => 3

/-- The registers of the stack block (R96, R97). -/
def memReg (s : State) (o : Nat) : Nat :=
  let m := s.mem
  if o = 0x0 then m.vm.op + m.vm.acc.toNat * 16 + m.vm.go.toNat * 32 + m.vm.result * 64
  else if o = 0x8 then m.vm.addr
  else if o = 0x10 then m.vm.count
  else if o = 0x18 then (freeTags s).length + min 63 m.waiting.length * 64
  else if 0x100 ≤ o ∧ o < 0x300 then
    let k := (o - 0x100) / 8
    sget 0 m.irtCode k + (sget false m.irtPs7 k).toNat * 8 + (if k = 63 then 16 else 0)
  else if 0x1000 ≤ o ∧ o < 0x9000 then
    let st := (o - 0x1000) / 0x1000
    let x := sget {} m.bdies st
    let p := o % 0x1000
    if p = 0 then x.slack + x.rfpost * 2 ^ 16
    else if p = 8 then x.srcEn.toNat + x.srcIdle * 2
    else if p = 0x10 then x.started + x.busy.toNat * 2 ^ 32 + x.lastMs * 2 ^ 33
    else if p = 0x18 then x.dlmiss + x.closed * 2 ^ 24 + x.txbad * 2 ^ 48
    else if 0x108 ≤ p ∧ p < 0x300 then
      let e := m.mirror st ((p - 0x100) / 8)
      e.state.code + e.epoch * 16
    else 0
  else 0

/-- The number of slots a plane uses (R125). -/
def slotsUsed (p : PlaneSt) : Nat := (p.slots.filter (fun e => e.2.isSome)).length

/-- The registers of the Pergola block (R124, R125). -/
def pergReg (s : State) (o : Nat) : Nat :=
  let g := s.perg
  if o = 0x0 then g.op + g.go.toNat * 4 + g.result * 8 + g.name * 2 ^ 16
  else if o = 0x8 then g.recAddr
  else if o = 0x10 then g.nbt.length + (g.colls.filter (fun c => c.issued)).length * 512
  else if 0x1000 ≤ o ∧ o < 0x9000 then
    let p := s.plane ((o - 0x1000) / 0x1000)
    if o % 0x1000 = 0 then slotsUsed p + p.peak * 512
    else if o % 0x1000 = 8 then p.stale + p.timeouts * 2 ^ 16 + p.mismatch * 2 ^ 32 + p.cancels * 2 ^ 48
    else 0
  else 0

/-- The registers of the Arbour block (R151, R152). -/
def arbReg (s : State) (o : Nat) : Nat :=
  let a := s.arb
  let node (n : NodeSt) : Nat :=
    n.en.toNat + n.root.toNat * 2 + n.expect * 4 + n.pdev * 64 + n.pnode * 2 ^ 12 + n.height * 2 ^ 13
  if o = 0x0 then a.vdev + a.vnode * 64 + a.valid.toNat * 128
  else if o = 0x8 then node (s.node 0)
  else if o = 0x10 then node (s.node 1)
  else if o = 0x18 then a.commits + a.aborts * 2 ^ 16 + a.timeouts * 2 ^ 32 + a.stale * 2 ^ 48
  else if o = 0x20 then a.last.toNat
  else 0

/-- The code of a chain state (R164). -/
def ChainState.code : ChainState → Nat
  | .idle => 0 | .active => 1 | .tearing => 2

/-- A chain's register at offset `o` of its block (R164). -/
def chainReg (c : ChainSt) (o : Nat) : Nat :=
  if o = 0 then c.en.toNat + c.tear.toNat * 2 + c.kill.toNat * 4 + c.spawn.toNat * 8 + c.irq.toNat * 16 + c.vec * 32
  else if o = 8 then c.head
  else if o = 0x10 then c.tail.toNat + c.fetched.toNat * 2 ^ 32
  else if o = 0x18 then c.base + c.err.toNat * 2 ^ 63
  else if o = 0x20 then c.cw
  else if o = 0x28 then c.ev
  else if o = 0x30 then c.pt
  else c.state.code + c.errCode * 4 + c.errSeq * 2 ^ 16

/-- The registers of the host-interface block (R157, R158). -/
def hostReg (s : State) (o : Nat) : Nat :=
  let h := s.host
  if o = 0x0 then 1 + 4096 * 2 ^ 16
  else if o = 0x8 then h.intstat.toNat
  else if o = 0x10 then h.intmask.toNat
  else if o = 0x100 then h.mbCode + h.mbGo.toNat * 256
  else if 0x108 ≤ o ∧ o ≤ 0x120 then (sget 0 h.mbArg ((o - 0x108) / 8)).toNat
  else if o = 0x128 then h.mbRsp.toNat
  else 0

/-- The code of a slot state (R192). -/
def SlotState.code : SlotState → Nat
  | .unbound => 0 | .free => 1 | .busy => 2 | .saving => 3

/-- SLOTST of a slot (R192). -/
def slotWord (s : State) (i : Nat) : Nat :=
  let x := s.slot i
  let run := x.packet.bind s.packet?
  x.state.code +
    (match run with
     | some p => (if p.share then 4095 * 4 + 2 ^ 14 else p.chain * 4) + p.head.seq % 2 ^ 32 * 2 ^ 16
     | none => 0) + (if x.held.isSome then 2 ^ 15 else 0)

/-- The registers of the scheduler block (R192) and the packets' fault records (R222). -/
def schedReg (s : State) (o : Nat) : Nat :=
  let d := s.sched
  if o = 0x0 then d.prtmo
  else if o = 0x8 then d.lateRun + d.lateCan * 2 ^ 16 + d.escal * 2 ^ 32 + d.preempts * 2 ^ 48
  else if o = 0x10 then d.esc.length
  else if 0x40 ≤ o ∧ o < 0x80 then sget 1000000 d.clbud ((o - 0x40) / 8)
  else if 0x1000 ≤ o ∧ o < 0x1800 then slotWord s ((o - 0x1000) / 8)
  else if 0x2000 ≤ o ∧ o < 0x6000 then
    ((s.slot ((o - 0x2000) / 64)).record.getD (o % 64 / 8) 0).toNat
  else 0

/-- TRAPCAUSE of a stream (R308). -/
def trapCause (k : StreamKind) (x : StreamSt) : Word :=
  BitVec.ofNat 64 (x.trapCode.toNat + x.trapSub.toNat * 2 ^ 8 + (if k = .a then 0 else 2 ^ 11) +
    x.inTrap.toNat * 2 ^ 12)

/-- A scalar register: number 0 reads 0 (R225). -/
def StreamSt.reg (x : StreamSt) (n : Nat) : Word := if n = 0 then 0 else sget 0 x.regs n

/-- A scalar register written: a write to number 0 is discarded (R225). -/
def StreamSt.setReg (x : StreamSt) (n : Nat) (v : Word) : StreamSt :=
  if n = 0 then x else { x with regs := sset 0 x.regs n v }

/-- A predicate: p0 reads 1 (R225). -/
def StreamSt.pred (x : StreamSt) (n : Nat) : Bool := decide (n = 0) || x.preds.getLsbD n

/-- A predicate written: a write to p0 is discarded (R225). -/
def StreamSt.setPred (x : StreamSt) (n : Nat) (b : Bool) : StreamSt :=
  if n = 0 then x
  else { x with preds := if b then x.preds ||| BitVec.ofNat 8 (2 ^ n) else x.preds &&& ~~~(BitVec.ofNat 8 (2 ^ n)) }

/-- The stream that DBGSEL names (R319). -/
def dbgStream (s : State) : StreamKind := if s.dbg.sel.getLsbD 9 then .x else .a
def dbgCore (s : State) : Nat := s.dbg.sel.toNat % 512
def dbgReg (s : State) : Nat := bits s.dbg.sel.toNat 15 10

/-- Whether DBGDATA reaches a register: HALTED, and the selected core runs the packet of HSLOT (R319). -/
def dbgOpen (s : State) : Bool :=
  decide (s.dbg.state = 2) &&
    (match (s.core (dbgCore s)).place with
     | some p => p.slot == s.dbg.hslot
     | none => false)

/-- DBGDATA (R319). -/
def dbgData (s : State) : Word :=
  if dbgOpen s then
    let x := (s.core (dbgCore s)).stream (dbgStream s)
    let r := dbgReg s
    if r < 32 then x.reg r
    else if r = 32 then x.pc
    else if r = 33 then BitVec.ofNat 64 (x.preds.toNat / 2 * 2 + 1)
    else if r = 34 then trapCause (dbgStream s) x
    else if r = 35 then x.trapAddr
    else 0
  else 0

/-- The code of DBGSTAT.SRC (R319). -/
def HaltSrc.code : HaltSrc → Nat
  | .host => 0 | .brkd => 1 | .thermal => 2

/-- The registers of the debug block (R318, R319). -/
def dbgBlock (s : State) (o : Nat) : Nat :=
  let d := s.dbg
  if o = 0x0 then d.brkHalt.toNat * 4 + d.slot * 2 ^ 16
  else if o = 0x8 then d.state + d.src.code * 4 + d.hslot * 16
  else if o = 0x10 then d.sel.toNat
  else if o = 0x18 then (dbgData s).toNat
  else if o = 0x20 then d.ce + d.ue * 2 ^ 32
  else if 0x28 ≤ o ∧ o < 0x48 then
    ((List.range 64).map (fun j => if (s.slot ((o - 0x28) / 8 * 64 + j)).halted then 2 ^ j else 0)).sum
  else 0

/-- BOOTST (R27). -/
def bootWord (s : State) : Nat :=
  s.pkg.stage + s.pkg.cause * 16 + s.pkg.badLink * 256 + s.pkg.svn % 2 ^ 32 * 2 ^ 32

/-- The 64-bit register at an offset of the control window; an unlisted offset reads 0 (R12). Until STAGE
reads READY only BOOTST and LSTAT are read (R27). -/
def regRead (s : State) (off : Nat) : Word :=
  BitVec.ofNat 64 <|
    if 0x40000 ≤ off ∧ off < 0x40000 + 8 * 62 then lstatWord s ((off - 0x40000) / 8)
    else if off = 0x40200 then bootWord s
    else if s.pkg.stage ≠ 7 then 0
    else if off = 0x40300 then s.pkg.cap + min 65535 s.pkg.power * 2 ^ 16
    else if 0x40400 ≤ off ∧ off < 0x40540 then fabReg s (off - 0x40000)
    else if 0x50000 ≤ off ∧ off < 0x54000 then capReg (sget {} s.pkg.caps ((off - 0x50000) / 256)) (off % 256)
    else if 0x60000 ≤ off ∧ off < 0x69000 then memReg s (off - 0x60000)
    else if 0x70000 ≤ off ∧ off < 0x79000 then pergReg s (off - 0x70000)
    else if 0x80000 ≤ off ∧ off < 0x80028 then arbReg s (off - 0x80000)
    else if 0x90000 ≤ off ∧ off < 0x90130 then hostReg s (off - 0x90000)
    else if 0xA0000 ≤ off ∧ off < 0xA6000 then schedReg s (off - 0xA0000)
    else if 0xB0000 ≤ off ∧ off < 0xB0048 then dbgBlock s (off - 0xB0000)
    else if 0x100000 ≤ off ∧ off < 0x140000 then chainReg (s.chain ((off - 0x100000) / 64)) (off % 64)
    else 0

/-- Whether an access reaches a register: 4 or 8 bytes, naturally aligned (DEDUCED, log 30). -/
def regAccess (off n : Nat) : Bool := decide ((n = 4 ∨ n = 8) ∧ off % n = 0)

/-- A read of the control window, which an access of another shape reads as 0 (R12). -/
def regBytes (s : State) (off n : Nat) : List Byte :=
  if regAccess off n then (List.range n).map (fun i => BitVec.ofNat 8 ((regRead s ((off + i) / 8 * 8)).toNat / 2 ^ (8 * ((off + i) % 8))))
  else List.replicate n 0

end Sys2Proof.Machine
end

