-- ==== Sys2Proof/Machine/Ops.lean ====
section
/-! DEFINITION. Operations shared by the words of a core: registers of the stream in execution, instruction
fetch, trap entry and return, the completion of a word with its hardware loops, branches, blocked words, and
the vector writes in exposure (R224, R225, R239 to R242, R307 to R310, R342, R363 to R369). -/

namespace Sys2Proof.Machine

/-! ### The stream in execution -/

/-- The core whose word executes. -/
def State.cur (s : State) : CoreSt := s.core s.focus.core

/-- The stream whose word executes. -/
def State.strm (s : State) : StreamSt := s.cur.stream s.focus.kind

/-- The core in execution changed. -/
def State.modCur (s : State) (f : CoreSt → CoreSt) : State := s.modCore s.focus.core f

/-- A stream of a core changed. -/
def CoreSt.modStream (c : CoreSt) (k : StreamKind) (f : StreamSt → StreamSt) : CoreSt :=
  c.setStream k (f (c.stream k))

/-- The stream in execution changed. -/
def State.modStrm (s : State) (f : StreamSt → StreamSt) : State := s.modCur (fun c => c.modStream s.focus.kind f)

/-- Scalar register `n` of the stream in execution; register 0 reads 0 (R225). -/
def State.rd (s : State) (n : Nat) : Word := s.strm.reg n

/-- Predicate `n` of the stream in execution; p0 reads 1 (R225). -/
def State.pr (s : State) (n : Nat) : Bool := s.strm.pred n

/-- Scalar register `n` written; a write to register 0 is discarded (R225, R351). -/
def State.wr (s : State) (n : Nat) (v : Word) : State := s.modStrm (fun x => x.setReg n v)

/-- Predicate `n` written; a write to p0 is discarded (R225, R351). -/
def State.wp (s : State) (n : Nat) (b : Bool) : State := s.modStrm (fun x => x.setPred n b)

/-- The address of the word in execution. -/
def State.pc (s : State) : Word := s.strm.pc

/-- The first 32 bits of an instruction's encoding (R306). -/
def rawWord (i : Instr) : Word :=
  match encode i with
  | some (_, w) => BitVec.ofNat 64 (w % 2 ^ 32)
  | none => 0

/-- The table root of a core's kernel (R252). -/
def CoreSt.root (c : CoreSt) : Nat := match c.place with | some p => p.root | none => 0

/-- The context a core's accesses to versioned memory carry (R80). -/
def State.ctx (s : State) (core : Nat) : Ctx := ⟨core, (s.core core).txst.tag⟩

/-! ### Traps (R306 to R310) -/

/-- An uncorrectable error read under a tag raises CORR against it (R130, R323). -/
def noteError (core : Nat) (cause : BitVec 8) (sub : Nat) (s : State) : State :=
  raiseCorr (s.core core).txst.tag cause sub s

/-- Trap entry of a stream (R309), or the core stopped faulted where the trap is not taken (R310, R315). `after` is what
the word in execution has done to the stream: TRAPPC is where the stream then stands. -/
def trapEntry (core : Nat) (k : StreamKind) (cause : BitVec 8) (sub : Nat) (addr : Word) (after : StreamSt → StreamSt)
    (s : State) : State :=
  let s := noteError core cause sub s
  let x := (s.core core).stream k
  let note (x : StreamSt) : StreamSt :=
    { x with trapCode := cause, trapSub := BitVec.ofNat 3 sub, trapAddr := addr }
  if x.trapVec.getLsbD 0 ∧ x.inTrap = false then
    s.modCore core (fun c => c.flush.modStream k (fun x =>
      let x := after x
      { note x with
        trapPc := BitVec.ofNat 64 (x.pc.toNat / 4 * 4), inTrap := true, held := x.loops.length,
        pc := BitVec.ofNat 64 (x.trapVec.toNat / 4 * 4), stall := none, stallCnt := 0, wait := none,
        parts := [], fetch := {}, skip := none, trapSkip := x.skip.map (fun n => (x.pc, n)) }))
  else
    faultCore core ⟨cause, sub, addr⟩ (s.modCore core (fun c => c.modStream k note))

/-- A precise trap at the word in execution, which has no effect (R307). -/
def trap (cause : BitVec 8) (sub : Nat) (addr : Word) (s : State) : State :=
  trapEntry s.focus.core s.focus.kind cause sub addr id s

/-- The precise ILLEGAL trap of an instruction (R338). -/
def illegal (i : Instr) (s : State) : State := trap 0x01 0 (rawWord i) s

/-- The precise trap of a failed access (R306). -/
def trapErr (e : MemErr) (addr : Word) (s : State) : State := trap e.cause e.sub addr s

/-- The precise POISON trap for a queue entry or a vector or tile register, whose TRAPADDR the spec leaves open (R306,
R323). -/
def unitPoison (s : State) : State :=
  let (n, s) := s.fresh
  trap 0x08 0 (Config.poisonAddr n) s

/-! ### Instruction fetch (R342) -/

/-- Whether an address lies in the core's scratchpad window, the top 2 MiB (R7). -/
def inWindow (va : Nat) : Bool := decide (2 ^ 64 - 2 ^ 21 ≤ va)

/-- How a fetch of one 32-bit word ends. -/
inductive Fetched
  | word (w : Nat)
  | fault (e : MemErr)
  | wait
  deriving DecidableEq, Repr

/-- The fetch record of a stream. -/
def CoreSt.fetchOf (c : CoreSt) : StreamKind → Fetch
  | .a => c.a.fetch | .x => c.x.fetch | .m => c.m.fetch

/-- The fetch record of a stream replaced. -/
def CoreSt.setFetch (c : CoreSt) (k : StreamKind) (f : Fetch) : CoreSt :=
  match k with
  | .a => { c with a := { c.a with fetch := f } }
  | .x => { c with x := { c.x with fetch := f } }
  | .m => { c with m := { c.m with fetch := f } }

/-- Word `i` (0 or, for an extension, 1) of the instruction at an address, fetched by a stream (R342) through the core's
TLBs (R251): from
the core's own scratchpad, through the quad's L2 from local memory, or by a remote load. -/
def fetchWord (core : Nat) (k : StreamKind) (va i : Nat) (s : State) : State × Fetched :=
  let va := (va + 4 * i) % 2 ^ 64
  if inWindow va then
    let off := va % 2 ^ 21
    if (List.range 4).any (fun j => sget false (s.core core).spadPois ((off + j) / 8)) then (s, .fault .poison)
    else (s, .word (fromBytes ((s.core core).spadBytes off 4)))
  else
    match tlbXlat core (s.core core).root va false s with
    | (s, .error e) => (s, .fault e)
    | (s, .ok x) =>
      let remote : State × Fetched :=
        let f := (s.core core).fetchOf k
        match f.err with
        | some e => (s, .fault (.remote e))
        | none =>
          if 4 * i + 4 ≤ f.code.length then (s, .word (fromBytes ((f.code.drop (4 * i)).take 4)))
          else if f.id.isSome then (s, .wait)
          else
            let (id, s) := s.fresh
            let s := s.modCore core (fun c => c.setFetch k { f with id := some id })
            (sendRequest core (.stream core k) (BitVec.ofNat 64 va)
              ⟨s.self, id, .load, x.pa, 4, [], false, s.now⟩ s, .wait)
      match x.phys with
      | .hbm l =>
        match l.ver with
        | none =>
          match belowRead core x.pa 4 s with
          | (s, some bs) => (s, .word (fromBytes bs))
          | (s, none) => (s, .fault .poison)
        | some _ =>
          match homeLoad l 4 (s.ctx core) s with
          | (s, .ok (bs, _)) => (s, .word (fromBytes bs))
          | (s, .error e) => (s, .fault e)
      | .control off => (s, .word (fromBytes (regBytes s off 4)))
      | .host a => (s, .word (fromBytes (hostBytes s a 4)))
      | .domain _ => remote
      | .spad _ => remote

/-- The bytes of the instruction at an address: eight where a vector word takes an extension (R339), else four. A word that
is ILLEGAL by itself fetches none (R484). -/
def fetchInstr (core : Nat) (k : StreamKind) (va : Nat) (s : State) : State × Except Fetched (List Byte) :=
  match fetchWord core k va 0 s with
  | (s, .word w) =>
    if k = .x ∧ vectorPair w then
      match fetchWord core k va 1 s with
      | (s, .word e) => (s, .ok (toBytes 4 w ++ toBytes 4 e))
      | (s, f) => (s, .error f)
    else (s, .ok (toBytes 4 w))
  | (s, f) => (s, .error f)

/-! ### Vector writes in exposure (R239, R241) -/

/-- The bits of an earlier byte that no later byte of the same place replaces. -/
def VByte.under (b : VByte) (bs : List VByte) : VByte :=
  bs.foldl (fun b x => if x.place = b.place then { b with mask := b.mask &&& ~~~x.mask } else b) b

/-- Earlier writes lose the places that a later one has replaced. -/
def strikeAll (bs : List VByte) (l : List PendingWrite) : List PendingWrite :=
  l.map (fun w => { w with bytes := (w.bytes.map (fun b => b.under bs)).filter (fun b => b.mask != 0) })

/-- A vector word's bytes take effect: at each place, no earlier write still pending replaces them. -/
def CoreSt.land (c : CoreSt) (bs : List VByte) : CoreSt :=
  { c.putPlaces bs with pending := strikeAll bs c.pending }

/-- What vector words see of a tile under a later VMOVT takes an earlier write's bytes: those left over, and the writes
with the rest in place. -/
def seenUnder (bs : List VByte) : List PendingWrite → List VByte × List PendingWrite
  | [] => (bs, [])
  | e :: rest =>
    if e.early then
      let mine := bs.filter (fun b => e.bytes.any (fun x => x.place == b.place))
      let put (x : VByte) : VByte :=
        match mine.find? (fun b => b.place == x.place) with
        | some b => { x with val := x.val &&& ~~~b.mask ||| b.val &&& b.mask }
        | none => x
      let (left, rest) := seenUnder (bs.filter (fun b => !(e.bytes.any (fun x => x.place == b.place)))) rest
      (left, { e with bytes := e.bytes.map put, bad := unpoison (2 ^ 15) e.bad mine } :: rest)
    else
      let (left, rest) := seenUnder bs rest
      (left, e :: rest)

/-- One X-stream word passes: the pending writes whose distance is reached take effect, oldest first. -/
def CoreSt.age (c : CoreSt) : CoreSt :=
  let aged := c.pending.map (fun w => { w with left := w.left - 1 })
  -- each write that falls due removes its places from the writes before it
  let rec go : Nat → List PendingWrite → CoreSt → CoreSt
    | 0, _, c => c
    | _ + 1, [], c => c
    | n + 1, w :: rest, c =>
      if w.left ≠ 0 then go n rest { c with pending := c.pending ++ [w] }
      else if w.early then go n rest { c with pending := strikeAll w.bytes c.pending }
      else
        let (bs, rest) := seenUnder w.bytes rest
        go n rest { c.land bs with pending := strikeAll w.bytes c.pending }
  go aged.length aged { c with pending := [] }

/-- A vector word's write of latency `l`, entered as the word completes (R239). -/
def CoreSt.expose (c : CoreSt) (bs : List VByte) (l : Nat) : CoreSt :=
  if l ≤ 1 then c.land bs else { c with pending := c.pending ++ [⟨bs, l - 1, false, []⟩] }

/-! ### Hardware loops (R366 to R369) -/

/-- The levels a stream's words act on: in a handler, those it pushed (R367 rule 6). -/
def StreamSt.active (x : StreamSt) : List LoopLevel :=
  if x.inTrap then x.loops.take (x.loops.length - x.held) else x.loops

/-- The levels held while a handler runs. -/
def StreamSt.heldLevels (x : StreamSt) : List LoopLevel :=
  if x.inTrap then x.loops.drop (x.loops.length - x.held) else []

/-- The active levels replaced. -/
def StreamSt.setActive (x : StreamSt) (l : List LoopLevel) : StreamSt := { x with loops := l ++ x.heldLevels }

/-- start_pass of R368: the index register, the stage predicates and the body start. -/
def StreamSt.startPass (x : StreamSt) (l : LoopLevel) : StreamSt :=
  let x := x.setReg l.idx (BitVec.ofNat 64 l.x)
  let x := upTo l.stages (fun k x => x.setPred (k + 1) (decide (l.i0 + k ≤ l.x ∧ l.x < l.lim + k))) x
  { x with pc := l.start }

/-- A stop for pre-emption at a point the stream has reached (R187). -/
def StreamSt.atPoint (x : StreamSt) : StreamSt :=
  if x.preempt then { x with run := .stopped, preempt := false } else x

/-- The head of an iteration of a LOOP level: `xd := i`, a pre-emption point unless a LOOPS level is active
(R366, R369). -/
def StreamSt.loopHead (x : StreamSt) (l : LoopLevel) : StreamSt :=
  let x := { x.setReg l.idx (BitVec.ofNat 64 l.x) with pc := l.start }
  if x.loops.all (fun l => l.stages == 0) then x.atPoint else x

/-- The action of the levels whose end word has completed (R366 to R369): `isEnd` says which addresses are
that word's, `after` is the address after it. -/
def StreamSt.endWord (x : StreamSt) (isEnd : Word → Bool) (after : Word) : Nat → StreamSt
  | 0 => { x with pc := after }
  | fuel + 1 =>
    match x.active with
    | [] => { x with pc := after }
    | l :: rest =>
      if !isEnd l.stop then { x with pc := after }
      else if l.stages = 0 then
        if l.x + 1 < l.n then
          let l := { l with x := l.x + 1 }
          (x.setActive (l :: rest)).loopHead l
        else (x.setActive rest).endWord isEnd after fuel
      else
        -- a request that reached the stream during the pass lowers lim at its end (R369)
        let lim := if l.cut then min l.lim (l.x + 1) else l.lim
        let l := { l with x := l.x + 1, lim := lim, cut := false }
        if l.x < lim + (l.stages - 1) then (x.setActive (l :: rest)).startPass l
        else if lim = l.n then
          -- the loop ends: its exit is a pre-emption point
          let x := (x.setActive rest).endWord isEnd after fuel
          if x.pc = after then x.atPoint else x
        else
          let l := { l with i0 := lim, lim := l.n, x := lim }
          if x.preempt then
            { x.setActive ({ l with refill := true } :: rest) with pc := l.start, run := .stopped, preempt := false }
          else (x.setActive (l :: rest)).startPass l

/-- A stream that stopped for pre-emption runs on (R187, R369): a level that had drained starts the pass that refills
it. -/
def StreamSt.wake (x : StreamSt) : StreamSt :=
  if x.run = .stopped then
    let x := { x with run := .running, stall := none, stallCnt := 0, preempt := false }
    match x.active with
    | l :: rest =>
      if l.refill then
        let l := { l with refill := false }
        (x.setActive (l :: rest)).startPass l
      else x
    | [] => x
  else x

/-! ### Completion of a word -/

/-- The stream after a word of `size` bytes that is not a taken branch (R366, R367): blocked no longer, its
loops acting where it is their end word. -/
def StreamSt.advance (x : StreamSt) (size : Nat) : StreamSt :=
  let p := x.pc
  { x with stall := none, stallCnt := 0, wait := none, parts := [], fetch := {}, skip := none }.endWord
    (fun e => e == p || (decide (size = 8) && e == p + 4)) (p + BitVec.ofNat 64 size) 5

/-- A word of the stream in execution completes (R239, R366): in the X-stream the exposure windows move on
by one word. -/
def finishSize (size : Nat) (s : State) : State :=
  s.modCur (fun c => (if s.focus.kind = .x then c.age else c).modStream s.focus.kind (fun x => x.advance size))

/-- A 4-byte word completes. -/
def finish (s : State) : State := finishSize 4 s

/-- The stream after a word of four bytes that completes and traps (R309, R366): its loops act where it is their end word,
and the stream's pre-emption waits for a point after the trap entry. -/
def StreamSt.passOn (x : StreamSt) : StreamSt := { { x with preempt := false }.advance 4 with preempt := x.preempt }

/-- The trap that follows a word of four bytes: TRAPPC is the word after it (R309). -/
def trapAfter (cause : BitVec 8) (addr : Word) (s : State) : State :=
  trapEntry s.focus.core s.focus.kind cause 0 addr StreamSt.passOn s

/-- The bytes of an instruction's encoding. -/
def instrSize (i : Instr) : Nat := match encode i with | some (n, _) => n | none => 4

/-- The levels that a taken branch keeps: those outermost from the first whose body holds the target (R367
rule 5). -/
def keepLevels (t : Word) : List LoopLevel → List LoopLevel
  | [] => []
  | l :: rest => if l.start.toNat ≤ t.toNat ∧ t.toNat ≤ l.stop.toNat then l :: rest else keepLevels t rest

/-- A taken branch or jump of the stream to a target (R365, R367 rule 5). -/
def StreamSt.jump (x : StreamSt) (t : Word) : StreamSt :=
  { x.setActive (keepLevels t x.active) with
    pc := t, stall := none, stallCnt := 0, wait := none, parts := [], fetch := {}, skip := none }

/-- A branch or jump taken by the word in execution, which completes. -/
def branchTo (t : Word) (s : State) : State :=
  s.modCur (fun c => (if s.focus.kind = .x then c.age else c).modStream s.focus.kind (fun x => x.jump t))

/-! ### Blocked words (R187, R316) -/

/-- Whether a blocked word is a pre-emption point (R187): blocked on a queue, tag, tile bit, barrier or
timeline. -/
def Stall.point : Stall → Bool
  | .queue | .tag | .tile | .bwait | .tlwait => true
  | _ => false

/-- Whether the watchdog counts a blocked word (R316). -/
def Stall.counted : Stall → Bool
  | .queue | .tag | .tile | .bwait | .tlwait | .tissue => true
  | _ => false

/-- The word in execution is blocked: it stays at the PC (R224), its counter running from the first time it blocks until it
proceeds (R316); a stream asked to pre-empt stops there (R187). -/
def block (why : Stall) (s : State) : State :=
  s.modStrm (fun x =>
    let x := { x with stall := some why, stallCnt := if x.stall.isSome then x.stallCnt else 0 }
    if why.point then x.atPoint else x)

/-- Whether a stream issues words. -/
def issuing (s : State) (core : Nat) (k : StreamKind) : Bool :=
  let c := s.core core
  !c.halted && (match k with
    | .m => c.m.run && !c.m.stopped
    | _ => (c.stream k).run == .running)

end Sys2Proof.Machine
end

