-- ==== Sys2Proof/Machine/Alu.lean ====
section
/-! DEFINITION. The integer and bit group (R353 to R357). -/

namespace Sys2Proof.Machine

/-- A word that writes one result and completes (R351). -/
def result (d : Nat) (v : Word) (s : State) : Meaning := .next (finish (s.wr d v))

/-- An operation of two register operands. -/
def alu2 (f : Word → Word → Word) (d a b : Nat) (s : State) : Meaning := result d (f (s.rd a) (s.rd b)) s

/-- An operation of one register operand. -/
def alu1 (f : Word → Word) (d a : Nat) (s : State) : Meaning := result d (f (s.rd a)) s

/-- 1 where a condition holds, else 0. -/
def flag (c : Bool) : Word := if c then 1 else 0

/-- The product of two integers, its bits from 64 on. -/
def highPart (p : Int) : Word := BitVec.ofInt 64 (p / 2 ^ 64)

/-- DIV (R355). -/
def quotS (x y : Word) : Word :=
  if y = 0 then BitVec.ofInt 64 (-1) else BitVec.ofInt 64 (x.toInt.tdiv y.toInt)

/-- REM (R355). -/
def remS (x y : Word) : Word :=
  if y = 0 then x else BitVec.ofInt 64 (x.toInt - y.toInt * x.toInt.tdiv y.toInt)

/-- DIVU (R355). -/
def quotU (x y : Word) : Word := if y = 0 then BitVec.allOnes 64 else BitVec.ofNat 64 (x.toNat / y.toNat)

/-- REMU (R355). -/
def remU (x y : Word) : Word := if y = 0 then x else BitVec.ofNat 64 (x.toNat % y.toNat)

/-- A shift or rotate amount: bits [5:0] (R354). -/
def amount (y : Word) : Nat := y.toNat % 64

/-- The number of zero bits above the highest 1 bit (R354). -/
def clz64 (x : Word) : Nat := if x = 0 then 64 else 63 - Nat.log2 x.toNat

/-- The number of zero bits below the lowest 1 bit (R354). -/
def ctz64 (x : Word) : Nat := ((List.range 64).find? (fun i => x.getLsbD i)).getD 64

/-- The number of 1 bits (R354). -/
def popc64 (x : Word) : Nat := ((List.range 64).filter (fun i => x.getLsbD i)).length

/-- The bits in reverse order (R354). -/
def brev64 (x : Word) : Word :=
  BitVec.ofNat 64 (((List.range 64).map (fun i => if x.getLsbD (63 - i) then 2 ^ i else 0)).sum)

/-- The bytes in reverse order (R354). -/
def bswap64 (x : Word) : Word := BitVec.ofNat 64 (fromBytes (toBytes 8 x.toNat).reverse)

/-- The position and width of a bit field (R356). -/
def fieldPos (y : Word) : Nat := y.toNat % 64
def fieldWidth (y z : Word) : Nat := min (z.toNat % 128) (64 - fieldPos y)

/-- BFX (R356). -/
def bfx64 (x y z : Word) : Word := BitVec.ofNat 64 (x.toNat / 2 ^ fieldPos y % 2 ^ fieldWidth y z)

/-- BFI on the old destination (R356). -/
def bfi64 (old x y z : Word) : Word :=
  let p := fieldPos y
  let w := fieldWidth y z
  let m : Word := BitVec.ofNat 64 ((2 ^ w - 1) * 2 ^ p)
  (old &&& ~~~m) ||| (BitVec.ofNat 64 (x.toNat % 2 ^ w * 2 ^ p) &&& m)

def execAdd (d a b : Nat) (s : State) : Meaning := alu2 (fun x y => x + y) d a b s
def execSub (d a b : Nat) (s : State) : Meaning := alu2 (fun x y => x - y) d a b s
def execMul (d a b : Nat) (s : State) : Meaning := alu2 (fun x y => x * y) d a b s
def execMulh (d a b : Nat) (s : State) : Meaning := alu2 (fun x y => highPart (x.toInt * y.toInt)) d a b s
def execMulhu (d a b : Nat) (s : State) : Meaning :=
  alu2 (fun x y => BitVec.ofNat 64 (x.toNat * y.toNat / 2 ^ 64)) d a b s
def execDiv (d a b : Nat) (s : State) : Meaning := alu2 quotS d a b s
def execDivu (d a b : Nat) (s : State) : Meaning := alu2 quotU d a b s
def execRem (d a b : Nat) (s : State) : Meaning := alu2 remS d a b s
def execRemu (d a b : Nat) (s : State) : Meaning := alu2 remU d a b s
def execAnd (d a b : Nat) (s : State) : Meaning := alu2 (fun x y => x &&& y) d a b s
def execOr (d a b : Nat) (s : State) : Meaning := alu2 (fun x y => x ||| y) d a b s
def execXor (d a b : Nat) (s : State) : Meaning := alu2 (fun x y => x ^^^ y) d a b s
def execAndn (d a b : Nat) (s : State) : Meaning := alu2 (fun x y => x &&& ~~~y) d a b s
def execOrn (d a b : Nat) (s : State) : Meaning := alu2 (fun x y => x ||| ~~~y) d a b s
def execShl (d a b : Nat) (s : State) : Meaning := alu2 (fun x y => x <<< amount y) d a b s
def execShr (d a b : Nat) (s : State) : Meaning := alu2 (fun x y => x >>> amount y) d a b s
def execSra (d a b : Nat) (s : State) : Meaning := alu2 (fun x y => x.sshiftRight (amount y)) d a b s
def execRol (d a b : Nat) (s : State) : Meaning := alu2 (fun x y => x.rotateLeft (amount y)) d a b s
def execRor (d a b : Nat) (s : State) : Meaning := alu2 (fun x y => x.rotateRight (amount y)) d a b s
def execMin (d a b : Nat) (s : State) : Meaning := alu2 (fun x y => if y.slt x then y else x) d a b s
def execMax (d a b : Nat) (s : State) : Meaning := alu2 (fun x y => if x.slt y then y else x) d a b s
def execMinu (d a b : Nat) (s : State) : Meaning := alu2 (fun x y => if y.ult x then y else x) d a b s
def execMaxu (d a b : Nat) (s : State) : Meaning := alu2 (fun x y => if x.ult y then y else x) d a b s
def execSlt (d a b : Nat) (s : State) : Meaning := alu2 (fun x y => flag (x.slt y)) d a b s
def execSltu (d a b : Nat) (s : State) : Meaning := alu2 (fun x y => flag (x.ult y)) d a b s
def execSeq (d a b : Nat) (s : State) : Meaning := alu2 (fun x y => flag (x == y)) d a b s
/-- SEL: xa where predicate `n` is 1, else xb. -/
def execSel (d a b n : Nat) (s : State) : Meaning := alu2 (fun x y => if s.pr n then x else y) d a b s
def execClz (d a : Nat) (s : State) : Meaning := alu1 (fun x => BitVec.ofNat 64 (clz64 x)) d a s
def execCtz (d a : Nat) (s : State) : Meaning := alu1 (fun x => BitVec.ofNat 64 (ctz64 x)) d a s
def execPopc (d a : Nat) (s : State) : Meaning := alu1 (fun x => BitVec.ofNat 64 (popc64 x)) d a s
def execBrev (d a : Nat) (s : State) : Meaning := alu1 brev64 d a s
def execBswap (d a : Nat) (s : State) : Meaning := alu1 bswap64 d a s
def execBfx (d a b c : Nat) (s : State) : Meaning := alu2 (fun x y => bfx64 x y (s.rd c)) d a b s
/-- BFI reads its destination as an operand. -/
def execBfi (d a b c : Nat) (s : State) : Meaning := alu2 (fun x y => bfi64 (s.rd d) x y (s.rd c)) d a b s
def execClmul (d a b : Nat) (s : State) : Meaning :=
  alu2 (fun x y => BitVec.ofNat 64 (clmulNat 64 x.toNat y.toNat)) d a b s
def execClmulh (d a b : Nat) (s : State) : Meaning :=
  alu2 (fun x y => BitVec.ofNat 64 (clmulNat 64 x.toNat y.toNat / 2 ^ 64)) d a b s

/-! ### Immediate forms (R358) -/

def execAddi (d a : Nat) (imm : BitVec 16) (s : State) : Meaning := alu1 (fun x => x + imm.signExtend 64) d a s
def execAndi (d a : Nat) (imm : BitVec 16) (s : State) : Meaning := alu1 (fun x => x &&& imm.zeroExtend 64) d a s
def execOri (d a : Nat) (imm : BitVec 16) (s : State) : Meaning := alu1 (fun x => x ||| imm.zeroExtend 64) d a s
def execXori (d a : Nat) (imm : BitVec 16) (s : State) : Meaning := alu1 (fun x => x ^^^ imm.zeroExtend 64) d a s
def execShli (d a sh : Nat) (s : State) : Meaning := alu1 (fun x => x <<< sh) d a s
def execShri (d a sh : Nat) (s : State) : Meaning := alu1 (fun x => x >>> sh) d a s
def execSrai (d a sh : Nat) (s : State) : Meaning := alu1 (fun x => x.sshiftRight sh) d a s
def execSlti (d a : Nat) (imm : BitVec 16) (s : State) : Meaning :=
  alu1 (fun x => flag (x.slt (imm.signExtend 64))) d a s
def execSltiu (d a : Nat) (imm : BitVec 16) (s : State) : Meaning :=
  alu1 (fun x => flag (x.ult (imm.signExtend 64))) d a s
def execLi (d : Nat) (imm : BitVec 16) (s : State) : Meaning := result d (imm.signExtend 64) s
/-- LUI: the immediate in bits [31:16], sign-extended from bit 31. -/
def execLui (d : Nat) (imm : BitVec 16) (s : State) : Meaning :=
  result d ((imm ++ (0 : BitVec 16)).signExtend 64) s

end Sys2Proof.Machine
end

