-- ==== Sys2Proof/Machine/Arbour.lean ====
section
/-! DEFINITION. Launch transactions: tags and their state writes, attempts, votes, the Arbour's nodes,
decisions and settlement (chapter 05; R83 to R94). -/

namespace Sys2Proof.Machine

/-! ### Status writes -/

/-- An allocation that an attempt no longer needs is withdrawn (R132). -/
def withdraw (d : Nat) (s : State) : State :=
  s.withMem { s.mem with waiting := s.mem.waiting.filter (fun u => u != .attempt d) }

/-- STATUS_WRITE_APPLY: die `stack`'s mirror applies the write in progress on `tag` (R84, R85, R275). -/
def execStatusWriteApply (s : State) : Meaning :=
  let d := s.input.stack
  let t := s.input.tag
  match s.mem.writes.find? (fun w => w.tag == t && w.left.contains d) with
  | none => .next s
  | some w =>
    let ws := s.mem.writes.map (fun x => if x.tag = t then { x with left := x.left.filter (fun i => i != d) } else x)
    let m := { s.mem.applyMirror d t w.state with writes := ws }
    let s := s.withMem m
    .next (if w.state = .committed ∨ w.state = .aborted then
      { s with cores := s.cores.map (fun p => (p.1, dropVersioned p.2)) } else s)

/-- Whether a core's TXBEGIN waits for its tag (R94, R395). -/
def beginWaits (s : State) (core : Nat) : Bool := (s.core core).a.stall == some .txn && (s.core core).a.run == .running

/-- The allocations that still wait: a core's only while its TXBEGIN waits. -/
def waitingUsers (s : State) : List TagUser :=
  s.mem.waiting.filter (fun u => match u with | .core c => beginWaits s c | _ => true)

/-- The tags handed to TXBEGINs that wait no longer, since their stream was stopped, are aborted. -/
def reclaim (s : State) : State :=
  let gone := s.mem.given.filter (fun p => !beginWaits s p.1)
  gone.foldl (fun s p => statusWrite p.2 .aborted .nobody s)
    (s.withMem { s.mem with given := s.mem.given.filter (fun p => beginWaits s p.1) })

/-- The tag that the first waiting allocation takes (R94): the lowest that is FREE, in arrival order. -/
def allocate (s : State) : State :=
  match waitingUsers s, freeTags s with
  | u :: rest, t :: _ => statusWrite t .active u (clearFlags t (s.withMem { s.mem with waiting := rest }))
  | _, _ => s

/-- TAG_ALLOCATION (R94). -/
def execTagAllocation (s : State) : Meaning := .next (allocate (reclaim s))

/-- A tag whose state write ACTIVE is complete is handed over (R85): to the attempt, or to the core's TXBEGIN. A tag
for which nobody waits any more is aborted. -/
def handOver (t : Nat) (u : TagUser) (s : State) : State :=
  match u with
  | .attempt d =>
    if (s.attempt? d).any (fun a => a.state == .opening) then attemptRunning d t (withdraw d s)
    else statusWrite t .aborted .nobody s
  | .core c =>
    if beginWaits s c then s.withMem { s.mem with given := s.mem.given ++ [(c, t)] }
    else statusWrite t .aborted .nobody s
  | .nobody => s

/-- Whether a tag's hand-over finds a group ID for every group that it starts (R59, R184). -/
def mayHand (s : State) (w : StatusWrite) : Bool :=
  match w.user, w.state with
  | .attempt d, .active =>
    (s.attempt? d).all (fun a => (launchPackets s a).all (fun p => idsFor s p.share p.head.words))
  | _, _ => true

/-- STATUS_WRITE_COMPLETE: all eight mirrors have acknowledged (R85): the tag is handed over, or the
attempt's decision has taken effect. -/
def execStatusWriteComplete (s : State) : Meaning :=
  let t := s.input.tag
  match s.mem.writes.find? (fun w => w.tag == t && w.left.isEmpty) with
  | none => .next s
  | some w =>
    when (mayHand s w) (fun s =>
      let s := s.withMem { s.mem with writes := s.mem.writes.filter (fun x => x.tag != t) }
      match w.user, w.state with
      | u, .active => handOver t u s
      | .attempt d, _ => s.modAttempt d (fun a => { a with settled := true })
      | _, _ => s) s

/-! ### Attempts -/

/-- ARBLAST holds a decision taken or received (R141, R152). -/
def keepLast (m : ArbMsg) (s : State) : State :=
  let w := m.w0.toNat
  let last := bits w 31 16 + bits w 35 32 * 2 ^ 16 + (bit w 36).toNat * 2 ^ 20 + bits m.w1.toNat 6 0 * 2 ^ 21 +
    bits w 63 48 * 2 ^ 32
  { s with arb := { s.arb with last := BitVec.ofNat 64 last } }

/-- A decision received is counted in ARBSTAT and held in ARBLAST (R141, R152); event 0x0009. -/
def countDecision (m : ArbMsg) (s : State) : State :=
  let ab := bit m.w0.toNat 36
  let s := keepLast m s
  let a := s.arb
  capture 9 0 ab.toNat { s with arb := { a with
    commits := if ab then a.commits else satInc 65535 a.commits,
    aborts := if ab then satInc 65535 a.aborts else a.aborts } }

/-- A message discarded and counted (R132, R135, R137). -/
def countStale (s : State) : State := { s with arb := { s.arb with stale := satInc 65535 s.arb.stale } }

/-- A decision for a tag that has settled already is ignored and counted on every die (R84). -/
def countBad (s : State) : State :=
  s.withMem (upTo 8 (fun i m => m.modStack i (fun x => { x with txbad := satInc 65535 x.txbad })) s.mem)

/-- An attempt receives its decision (R132, R139). -/
def decideAttempt (d : Nat) (dec : Decision) (s : State) : State :=
  match s.attempt? d with
  | none => countStale s
  | some a =>
    let s' := s.modAttempt d (fun a => { a with dec := some dec })
    let write (st : TagState) (s : State) : State :=
      let s := s.modAttempt d (fun a => { a with state := .settling, settled := decide (a.tag = 0) })
      let s := settleSpawns a.tag (st == .committed) s
      if a.tag = 0 then s else statusWrite a.tag st (.attempt d) s
    match a.state, dec.abort with
    | .opening, true => (withdraw d s').modAttempt d (fun a => { a with state := .settling, settled := true })
    | .running, true | .stopping, true => stopGroups a.packet (write .aborted s')
    | .voted, true => write .aborted s'
    | .voted, false => write .committed s'
    | .settling, _ => if a.tag = 0 then s else countBad s
    | _, _ => s

/-- The flags of an attempt's vote (R132): its groups' and the device's hardware flags. -/
def voteFlags (s : State) (a : Attempt) : BitVec 16 :=
  a.gflags ||| a.hw ||| (if a.tag = 0 then 0 else sget 0 s.arb.hwFlags a.tag)

/-- A vote message (R137). -/
def voteMsg (self : Nat) (kind node : Nat) (d att : Nat) (early : Bool) (fl : BitVec 16) (count miss td : Nat) :
    ArbMsg :=
  ⟨BitVec.ofNat 64 (self * 4 + kind * 2 ^ 8 + node * 2 ^ 9 + d * 2 ^ 16 + att * 2 ^ 32 + early.toNat * 2 ^ 37 +
      fl.toNat * 2 ^ 48), BitVec.ofNat 64 (count + miss * 2 ^ 7), BitVec.ofNat 64 td⟩

/-- A decision message (R137). -/
def decisionMsg (self node d att : Nat) (ab early : Bool) (fl : BitVec 16) (count miss time : Nat) : ArbMsg :=
  ⟨BitVec.ofNat 64 (1 + self * 4 + 2 ^ 8 + node * 2 ^ 9 + d * 2 ^ 16 + att * 2 ^ 32 + ab.toNat * 2 ^ 36 +
      early.toNat * 2 ^ 37 + fl.toNat * 2 ^ 48), BitVec.ofNat 64 (count + miss * 2 ^ 7), BitVec.ofNat 64 time⟩

/-- Whether an attempt is one of a level-5 launch, decided by the Arbour (R126). -/
def arbourLaunch (s : State) (a : Attempt) : Bool :=
  match s.packet? a.packet with
  | some p => decide (pkLevel p.head.words = 5)
  | none => false

/-- The device votes (R132): to its node, or, as its own root, by deciding at once (R126, R136). DESIGN
CHOICE (log 110): a decision it takes itself counts in ARBSTAT and raises event 9 as one received (R152). -/
def vote (d : Nat) (s : State) : State :=
  match s.attempt? d with
  | none => s
  | some a =>
    let fl := voteFlags s a
    let s' := s.modAttempt d (fun a => { a with state := .voted })
    if arbourLaunch s a then
      s'.post (.vote s.arb.vdev s.arb.vnode (voteMsg s.self 0 0 d a.att false fl 1 0 a.td))
    else
      let m := decisionMsg s.self 0 d a.att (decide (fl &&& vetoMask ≠ 0)) false fl 1 0 s.now
      decideAttempt d ⟨decide (fl &&& vetoMask ≠ 0), fl, s.now⟩ (countDecision m s')

/-- The attempt may vote (R132): its groups are drained, and while it is RUNNING the tile words issued or carried by
its packet are done and its collectives complete. -/
def attemptDone (s : State) (a : Attempt) : Bool :=
  (launchPackets s a).all (drained s) &&
    (a.state == .stopping ||
      ((launchPackets s a).all (fun p =>
          s.tiles.jobs.all (fun j => j.packet != some p.id && !j.regroups p.id) && (p.tile.isNone || p.done)) &&
        (decide (a.tag = 0) || (s.perg.colls.all (fun c => c.tag != a.tag) &&
          s.tiles.jobs.all (fun j => !(j.member && j.tag == a.tag))))))

/-- ATTEMPT_VOTE (R132). -/
def execAttemptVote (s : State) : Meaning :=
  match s.attempt? s.input.dtid with
  | none => .next s
  | some a => when ((a.state == .running || a.state == .stopping) && attemptDone s a) (vote a.dtid) s

/-- A running attempt stops with a flag (R132, R143): its groups stop; one still waiting for its tag votes
at once. -/
def stopAttempt (d : Nat) (f : BitVec 16) (kill : Bool) (s : State) : State :=
  match s.attempt? d with
  | none => s
  | some a =>
    match a.state with
    | .opening =>
      if f = flPREEMPT then
        vote d ((withdraw d s).modAttempt d (fun a => { a with hw := a.hw ||| f, kill := a.kill || kill }))
      else s
    | .running =>
      stopGroups a.packet (s.modAttempt d (fun a => { a with state := .stopping, hw := a.hw ||| f, kill := a.kill || kill }))
    -- in a later state the request alone is kept, for R140
    | _ => if kill then s.modAttempt d (fun a => { a with kill := true }) else s

/-- ATTEMPT_DEADLINE: DTIME has reached T_d while the attempt is RUNNING (R132). -/
def execAttemptDeadline (s : State) : Meaning :=
  match s.attempt? s.input.dtid with
  | none => .next s
  | some a => when (a.state == .running && decide (a.td ≤ s.now)) (stopAttempt a.dtid flTIMEOUT false) s

/-- Whether a node is enabled: EN with an EXPECT of 1 to 8 (R152). -/
def NodeSt.on (n : NodeSt) : Bool := n.en && decide (1 ≤ n.expect ∧ n.expect ≤ 8)

/-- A new attempt opens (R127, R132): it waits for a tag, and at level 5 the nodes of this device open
their entries (R135). -/
def openAttempt (a : Attempt) (arb : Bool) (s : State) : State :=
  let s := { s with arb := { s.arb with attempts := s.arb.attempts ++ [a] } }
  let s := s.withMem { s.mem with waiting := s.mem.waiting ++ [.attempt a.dtid] }
  if arb then
    [0, 1].foldl (fun s n =>
      let nd := s.node n
      if nd.on ∧ (nd.entries.all (fun e => !(e.dtid == a.dtid && e.att == a.att))) = true ∧
          (nd.passed.contains (a.dtid, a.att, a.td)) = false then
        s.modNode n (fun nd =>
          if nd.passed.contains (a.dtid, a.att, 0) then
            { nd with passed := (a.dtid, a.att, a.td) :: nd.passed.erase (a.dtid, a.att, 0) }
          else { nd with entries := nd.entries ++ [⟨a.dtid, a.att, a.td, 0, 0, 0, 0, false⟩] })
      else s) s
  else s

/-- The launch ends on this device with its packet's error flag set or not (R140). -/
def endLaunch (a : Attempt) (e : Bool) (s : State) : State :=
  (launchPackets s a).foldl (fun s p =>
    s.modPacket p.id (fun p => { p with e := e, done := true, settled := true })) s

/-- The groups and faults of an attempt that is over leave a packet: a new attempt places its own. -/
def forgetGroups (id : Nat) (s : State) : State :=
  let s := { s with
    sched := { s.sched with groups := s.sched.groups.filter (fun g => g.packet != id) },
    tiles := { s.tiles with jobs := s.tiles.jobs.filter (fun j => j.packet != some id) } }
  s.modPacket id (fun p => { p with groups := [], tile := none, done := false, e := false, faults := [] })

/-- A packet leaves its slot. -/
def dropPacket (p : Packet) (s : State) : State :=
  freeSlot p.slot { s with sched := { s.sched with packets := s.sched.packets.filter (fun q => q.id != p.id) } }

/-- The launch root returns a packet to selection with ATT a + 1; a share ends (R140). -/
def returnPacket (a : Attempt) (flags : BitVec 16) (p : Packet) (s : State) : State :=
  let s := dropPacket p (forgetGroups p.id s)
  if p.share then s
  else
    let h := { p.head with att := a.att + 1, dtid := some a.dtid, pflags := flags }
    s.modChain p.chain (fun ch => { ch with hds := h :: ch.hds })

/-- ATTEMPT_SETTLED: the write is complete and every group drained; the attempt reaches ENDING and R140
applies. -/
def execAttemptSettled (s : State) : Meaning :=
  match s.attempt? s.input.dtid with
  | none => .next s
  | some a =>
    match s.packet? a.packet, a.dec with
    | some p, some dec =>
      if a.state = .settling ∧ a.settled ∧ drained s p then
        let ps := launchPackets s a
        let s := { s with arb := { s.arb with attempts := s.arb.attempts.filter (fun x => x.dtid != a.dtid) } }
        if !dec.abort then .next (endLaunch a false s)
        else if dec.flags &&& flMISMATCH ≠ 0 then .next (endLaunch a true s)
        else if dec.flags &&& flPREEMPT ≠ 0 then
          if a.kill ∨ 15 ≤ a.att then .next (endLaunch a true s)
          else .next (ps.foldl (fun s p => returnPacket a dec.flags p s) s)
        else if a.att + 1 ≤ pkRetry p.head.words then
          let s := ps.foldl (fun s p => forgetGroups p.id s) s
          let a' : Attempt :=
            { a with
              att := a.att + 1, state := .opening, tag := 0, hw := 0, gflags := 0,
              td := dec.time + pkTxLimit p.head.words * 1000, pflags := dec.flags, dec := none, settled := false }
          .next (openAttempt a' (arbourLaunch s a) s)
        else .next (endLaunch a true s)
      else .next s
    | _, _ => .next s

/-! ### Arbour nodes -/

/-- The inputs of a node for an attempt (R134): the sources whose votes it has seen, and those aimed at it in the tree
that the domain records give. A source is a device and whether it is a node output, with the node's number. -/
def nodeInputs (s : State) (n d att : Nat) : List (Nat × Bool × Nat) :=
  let seen := ((s.node n).inputs.filter (fun i => i.1 == d && i.2.1 == att)).map (fun i =>
    (i.2.2.2.1, i.2.2.1, i.2.2.2.2.toNat))
  seen ++ (s.node n).aimed.filter (fun i => !seen.contains i)

/-- A node sends a decision to its inputs and retires the entry (R136). An attempt decided before the node held an entry
of it has passed with a T_d not known yet, held as 0 until the own device dispatches it. -/
def forwardDecision (n : Nat) (m : ArbMsg) (s : State) : State :=
  let w := m.w0.toNat
  let d := bits w 31 16
  let att := bits w 35 32
  let out := decisionMsg s.self n d att (bit w 36) (bit w 37) (BitVec.ofNat 16 (bits w 63 48)) (bits m.w1.toNat 6 0)
    (bits m.w1.toNat 13 7) m.w2.toNat
  let s := (nodeInputs s n d att).foldl (fun s i => s.post (.decision i.1 (if i.2.1 then some i.2.2 else none) out)) s
  s.modNode n (fun nd => { nd with
    entries := nd.entries.filter (fun e => !(e.dtid == d && e.att == att)),
    inputs := nd.inputs.filter (fun i => !(i.1 == d && i.2.1 == att)),
    passed :=
      (match nd.entries.filter (fun e => e.dtid == d && e.att == att) with
       | [] => [(d, att, 0)]
       | l => l.map (fun e => (d, att, e.td))) ++ nd.passed })

/-- A node's output (R135, R136), `early` where a veto caused it before all inputs had arrived (R137): the root decides,
any other sends its vote upward. -/
def nodeOutput (n : Nat) (e : NodeEntry) (early : Bool) (s : State) : State :=
  let nd := s.node n
  let s := s.modNode n (fun nd => { nd with
    entries := nd.entries.map (fun x => if x.dtid = e.dtid ∧ x.att = e.att then { e with sent := true } else x) })
  if nd.root then
    let ab := decide (e.flags &&& vetoMask ≠ 0)
    let m := decisionMsg s.self n e.dtid e.att ab early e.flags e.count e.miss s.now
    forwardDecision n m (keepLast m s)
  else s.post (.vote nd.pdev nd.pnode (voteMsg s.self 1 n e.dtid e.att early e.flags e.count e.miss e.td))

/-- Whether a message is well formed (R137): a listed type and no reserved bit. -/
def msgOk (m : ArbMsg) (type : Nat) : Bool :=
  let w := m.w0.toNat
  decide (bits w 1 0 = type ∧ bits w 15 10 = 0 ∧ bits w 47 38 = 0 ∧ bits m.w1.toNat 63 14 = 0)

/-- ARBOUR_VOTE: vote `msg` reaches node `node` (R135). A node that is not enabled discards it. An attempt that has passed
is known by its T_d too, since a root gives a settled DTID again (R127). -/
def execArbourVote (s : State) : Meaning :=
  let n := s.input.node
  let m := s.input.msg
  let w := m.w0.toNat
  let d := bits w 31 16
  let att := bits w 35 32
  let nd := s.node n
  if !msgOk m 0 || !nd.on || nd.passed.contains (d, att, m.w2.toNat) || nd.passed.contains (d, att, 0) then .next (countStale s)
  else
    let e0 := (nd.entries.find? (fun e => e.dtid == d && e.att == att)).getD ⟨d, att, m.w2.toNat, 0, 0, 0, 0, false⟩
    let e := { e0 with flags := e0.flags ||| BitVec.ofNat 16 (bits w 63 48),
                       count := e0.count + bits m.w1.toNat 6 0, miss := e0.miss + bits m.w1.toNat 13 7,
                       n := e0.n + 1 }
    let s := s.modNode n (fun nd => { nd with
      entries := nd.entries.filter (fun x => !(x.dtid == d && x.att == att)) ++ [e],
      inputs := nd.inputs ++ [(d, att, bit w 8, bits w 7 2, bit w 9)] })
    if e.sent then .next s
    else if e.flags &&& vetoMask ≠ 0 ∨ e.n = nd.expect then .next (nodeOutput n e (decide (e.n < nd.expect)) s)
    else .next s

/-- ARBOUR_NODE_TIMER: DTIME has reached td + 2000·(HEIGHT − 1) with no output sent (R135). -/
def execArbourNodeTimer (s : State) : Meaning :=
  let n := s.input.node
  let nd := s.node n
  match nd.entries.find? (fun e => e.dtid == s.input.dtid && e.att == s.input.att && !e.sent) with
  | none => .next s
  | some e =>
    if s.now < e.td + 2000 * (max 1 nd.height - 1) then .next s
    else
      let e := { e with flags := e.flags ||| flTIMEOUT, miss := e.miss + (nd.expect - e.n) }
      .next (nodeOutput n e false { s with arb := { s.arb with timeouts := satInc 65535 s.arb.timeouts } })

/-- ARBOUR_DECISION: decision `msg` reaches node `node` where `flag` is set, else the device (R132, R136). A node forwards
it also where it holds no entry of the attempt yet, as after an early ABORT. -/
def execArbourDecision (s : State) : Meaning :=
  let m := s.input.msg
  let w := m.w0.toNat
  let d := bits w 31 16
  let att := bits w 35 32
  if !msgOk m 1 then .next (countStale s)
  else if s.input.flag then
    if (s.node s.input.node).passed.contains (d, att, 0) then .next (countStale s)
    else .next (forwardDecision s.input.node m s)
  else
    match s.attempt? d with
    | none => .next (countStale s)
    | some a =>
      if a.att = att then
        .next (decideAttempt d ⟨bit w 36, BitVec.ofNat 16 (bits w 63 48), m.w2.toNat⟩ (countDecision m s))
      else .next (countStale s)

end Sys2Proof.Machine
end

