-- ==== Sys2Proof/Machine/Links.lean ====
section
/-! DEFINITION. Stopping packets by KILL, links and their training, bring-up and attestation, power and capture
units (chapter 01; R130, R173, R315). -/

namespace Sys2Proof.Machine

/-! ### KILL (R173, R315) -/

/-- The cores of a group that still run stop faulted with cause KILLED (R315). -/
def killGroup (gid : Nat) (s : State) : State :=
  match s.group? gid with
  | none => s
  | some g =>
    if g.state = .running then
      let s := s.modGroup gid (fun g => { g with faulted := true, stopped := true })
      g.cores.foldl (fun s c =>
        let x := s.core c
        if x.fault.isNone && (x.a.run == .running || x.x.run == .running || x.m.run) then
          dropUnitJobs c (s.modCore c (fun x => { x.stop .faulted with fault := some ⟨0x30, 0, 0⟩ }))
        else s) s
    else s

/-- A tile word stopped as KILL stops it: nothing new starts, and its record's cause is KILLED (R173, R223). -/
def killJob (j : TileJob) (s : State) : State :=
  let s := if j.stop then s
    else j.children.foldl (fun s i => s.post (.stop (s.members.getD i 0) j.id)) s
  s.modJob j.id (fun j =>
    { j with
      stop := true, count := satAdd 65535 j.count 1,
      fault := some ⟨0x30, 0, bits j.word.toNat 10 8, 0, 0, 2 ^ 64 - 1, 0xFFFF, s.now⟩ })

/-- A group ID leaves use (R59). -/
def retireGid (g : Nat) (s : State) : State :=
  { s with fab := { s.fab with gids := smod {} s.fab.gids g (fun x =>
      { x with live := false, freeAt := s.now + 2 * s.fab.tmo * 1000 }) } }

/-- A saved packet's groups are over without a restore: their IDs leave use, its local transactions abort, its regroupings
are not placed (R191). -/
def endSaved (i : Nat) (s : State) : State :=
  let x := s.slot i
  let s := x.groups.foldl (fun s g => retireGid g.gid s) s
  let s := x.saved.foldl (fun s f => abortTx f.core.txst s) s
  match x.held with | some p => dropRegroups p.id s | none => s

/-- A saved packet that a slot has taken and not restored is over with its frames: the area is HELD no longer (R190,
R191). -/
def dropLatched (p : Packet) (s : State) : State :=
  if (s.slot p.slot).holds p.id then
    (endSaved p.slot s).modSlot p.slot (fun x => { x with held := none, saved := [], groups := [], wantPre := false })
  else s

/-- A dispatched packet is stopped as by KILL (R173): in a transaction by a PREEMPT veto. -/
def killPacket (id : Nat) (s : State) : State :=
  match s.packet? id with
  | none => s
  | some p =>
    if p.settled ∨ p.killed then s
    else
      let s := s.modPacket id (fun p => { p with killed := true })
      match p.dtid with
      | some d => stopAttempt d flPREEMPT true s
      | none =>
        let s := dropLatched p (s.modPacket id (fun p => { p with e := true }))
        let s := endWaits p (p.groups.foldl (fun s g => killGroup g s) s)
        let s := dropRegroups id s
        match p.tile.bind s.job? with
        | some j => killJob j s
        | none => s

/-! ### Link states (R19 to R25) -/

/-- Whether a link is internal: a die-to-die, HBM or hub link (R19). -/
def internal (i : Nat) : Bool := decide (i < 12 ∨ 58 ≤ i)

/-- The one width of a link that trains to STATE UP (R20, R21). -/
def fullWidth (i : Nat) : Nat :=
  match linkKind i with | 0 => 48 | 1 => 64 | 2 => 16 | 3 => 8 | _ => 12

/-- The widths a link offers, the widest first (R21, R25). -/
def widths (i : Nat) : List Nat :=
  match linkKind i with | 2 => [16, 8, 4] | 3 => [8, 4, 2] | _ => [fullWidth i]

/-- The rates a link offers, the highest first (R21, R25). -/
def rates (i : Nat) : List Nat := if internal i then [3] else [3, 2, 1]

/-- The widest width, then the highest rate, at which the worst lane keeps a margin of 32 (R21): width, rate,
margin. -/
def chosen (i : Nat) (t : TrainReport) : Option (Nat × Nat × Nat) :=
  firstSome (fun w => firstSome (fun r =>
    t.margins.find? (fun m => m.1 == w && m.2.1 == r && decide (32 ≤ m.2.2))) (rates i)) (widths i)

/-- A message that waits here, behind those of `keep`: a request leaves where its turn has come, and completes at once with
NOROUTE where no candidate is UP (R48 to R50); a message of VC 8 or VC 9 leaves where a candidate is UP and none of its channel
to its destination waits before it (R48). -/
def releaseOne (keep : List FabMsg) (m : FabMsg) (s : State) : List FabMsg × State :=
  match m with
  | .request q =>
    match s.fab.flights.find? (fun f => f.req.id == q.id) with
    | some f =>
      -- the requests of a halted core wait in the ports (R317)
      if (s.core f.core).halted then (keep ++ [m], s)
      else
        match requestRoute s f.core q with
        | some r => if mustHold s keep f.core q then (keep ++ [m], s) else (keep, sendAlong q r s)
        | none => (keep, completeFlight f (.err .noroute) s)
    | none => (keep, s)
  | m =>
    if keep.any (fun k => decide (8 ≤ k.vc) && k.vc == m.vc && k.dst == m.dst) then (keep ++ [m], s)
    else
      match m.route s with
      | none => (keep ++ [m], s)
      | some r => (keep, match m with | .forwarded p => forwardOn p r s | m => s.send m r)

/-- Everything that waits here is looked at again, in its order (R48 to R50). -/
def releaseHeld (s : State) : State :=
  let (keep, s) := s.fab.held.foldl (fun (acc : List FabMsg × State) m => releaseOne acc.1 m acc.2) ([], s)
  { s with fab := { s.fab with held := keep } }

/-- The responses collected for cores that run again complete their requests (R317). -/
def takeLate (s : State) : State :=
  let ready (s : State) (id : Nat) : Bool :=
    match s.fab.flights.find? (fun f => f.req.id == id) with | some f => !(s.core f.core).halted | none => true
  (s.fab.late.filter (fun p => ready s p.1)).foldl (fun s p =>
    match s.fab.flights.find? (fun f => f.req.id == p.1) with
    | some f => completeFlight f p.2 s
    | none => s)
    { s with fab := { s.fab with late := s.fab.late.filter (fun p => !ready s p.1) } }

/-- The link map has changed: the detours kept for ordered requests end, new ordered requests wait for those that have
left (R50), and messages that wait may leave (R48). -/
def mapChanged (s : State) : State :=
  releaseHeld { s with fab := { s.fab with
    routes := [],
    flights := s.fab.flights.map (fun f =>
      match f.way with | .gone _ => { f with old := f.old || f.req.ordered } | _ => f) } }

/-- A link's entry changed; a change of STATE sends the link map (R48). -/
def setLink (i : Nat) (f : LinkSt → LinkSt) (s : State) : State :=
  let s' := s.modLink i f
  if (s.link i).state = (s'.link i).state then s'
  else
    let t := sendMap s'
    if ownPorts s = ownPorts s' then t else mapChanged t

/-- A packet that was in flight on a lost link is replayed over the route this device finds now (R24): a request that
finds none completes with NOROUTE (R48). -/
def replayOne (m : FabMsg) (s : State) : State :=
  match m with
  | .request q =>
    match s.fab.flights.find? (fun f => f.req.id == q.id) with
    | some f =>
      match requestRoute s f.core q with
      | some r => sendAlong q r s
      | none => completeFlight f (.err .noroute) s
    | none => match pickRoute s (paDev q.pa) 4 with | some r => s.send m r | none => s
  | .response d id r => respondTo d id r s
  | .noroute d _ => match pickRoute s d 4 with | some r => s.send m r | none => s
  | .forwarded p =>
    let p := { p with hop := p.hop - 1 }
    match (FabMsg.forwarded p).route s with
    | some r => forwardOn p r s
    | none => unroutable p s
  | m => s.post m

/-- The chunks and MARKs in flight on Pergola link `j` of a plane, named by their places in its `sent`, are replayed in
their order the other way round the ring (R24, R99). -/
def replayRing (plane j : Nat) (lost : List Nat) (s : State) : State :=
  s.modPlane plane (fun p =>
    { p with sent := p.sent ++ (p.sent.zipIdx.filter (fun c => lost.contains c.2 && c.1.1 == j)).map (fun c =>
        (if j % 2 = 0 then j + 1 else j - 1, c.1.2)) })

/-- A fabric or Pergola link that carries traffic goes to a state that carries none, and the packets in flight on it,
named by their places in `sent`, are replayed in their order (R24). -/
def loseLink (i : Nat) (f : LinkSt → LinkSt) (lost : List Nat) (s : State) : State :=
  let out (p : Sent) : Bool := p.route.head?.any (fun e => e != s.self && portTo s.self e + 12 == i)
  let l := (s.fab.sent.zipIdx.filter (fun p => lost.contains p.2 && out p.1)).map (fun p => p.1.msg)
  let s := setLink i f s
  if 26 ≤ i ∧ i < 58 then replayRing ((i - 26) / 4) ((i - 26) % 4) lost s else l.foldl (fun s m => replayOne m s) s

/-- The Pergola partner of link `j` of a stack: a column neighbour for 0 and 1, a row neighbour for 2 and 3, where
the shape has one (R98). -/
def ringPartner (s : State) (j : Nat) : Option Nat :=
  let nc := s.fab.ncm1 + 1
  let nr := s.fab.nrm1 + 1
  let e :=
    match j with
    | 0 => if nc = 1 then none else some (8 * s.fab.y + (s.fab.x + 1) % nc)
    | 1 => if nc = 1 then none else some (8 * s.fab.y + (s.fab.x + nc - 1) % nc)
    | 2 => if nr = 1 then none else some (8 * ((s.fab.y + 1) % nr) + s.fab.x)
    | _ => if nr = 1 then none else some (8 * ((s.fab.y + nr - 1) % nr) + s.fab.x)
  match e with
  | some e => if s.isMember e then some e else none
  | none => none

/-- The device a link leads to in the domain: none where it has no partner (R42, R98). -/
def linkPartner (s : State) (i : Nat) : Option Nat :=
  if i < 12 ∨ 58 ≤ i then some s.self
  else if i < 26 then portPartner s s.self (i - 12)
  else ringPartner s ((i - 26) % 4)

/-- The partner's device index, and its link's number in its kind (R20, R42, R98): a fabric port leads to the port that
leads back, and a Pergola link to the link of the other direction in the same plane. -/
def linkPeer (s : State) (i : Nat) : Nat × Nat :=
  if internal i then (0, 0)
  else
    match linkPartner s i with
    | none => (0, 0)
    | some e =>
      if i < 26 then (e, portTo e s.self)
      else (e, (i - 26) / 4 * 4 + (match (i - 26) % 4 with | 0 => 1 | 1 => 0 | 2 => 3 | _ => 2))

/-- A link as it starts training (R22). -/
def LinkSt.train (l : LinkSt) : LinkSt := { l with state := .training, attempts := 0 }

/-- A link starts training (R22): one that carried traffic to another device loses what was in flight (R24). -/
def startTraining (i : Nat) (s : State) : State :=
  if internal i then setLink i LinkSt.train s else loseLink i LinkSt.train s.input.nats s

/-- RETRAIN written to a link (R20, R24, R25): no effect while it trains, once an internal link has FAILED, or where
it has no partner (R42). -/
def retrain (i : Nat) (s : State) : State :=
  let l := s.link i
  if l.state = .training ∨ l.state = .failed ∨ (linkPartner s i).isNone then s
  else startTraining i (s.modLink i (fun l => { l with retrain := true }))

/-- The compute die of a hub link (R19). -/
def linkDie (i : Nat) : Nat := i - 58

/-- The requests that wait at a pseudo-channel for a link complete with an error (R25): a load or returning atomic
receives POISON, any other is discarded, and the timeline entry it passes has its error bit set with cause POISON. -/
def failWaiting (i : Nat) (s : State) : State :=
  let hit (pc : Nat) (w : PcWaiting) : Bool := (linksOf pc w.req).contains i
  let lost := s.mem.pcs.flatMap (fun e => (e.2.queue.filter (hit e.1)).map (fun w => w.req))
  let s := s.withMem { s.mem with pcs := s.mem.pcs.map (fun e =>
    (e.1, { e.2 with
      queue := e.2.queue.filter (fun w => !hit e.1 w),
      results := e.2.results ++ (e.2.queue.filter (hit e.1)).map (fun w => (w.req.id, PcResult.poison)) })) }
  lost.foldl (fun s q => passRequest q (some .poison) s) s

/-- The requests of a die's cores, which wait for its failed hub link, complete with POISON (R25). -/
def failFlights (die : Nat) (s : State) : State :=
  let lost := s.fab.flights.filter (fun f => f.core / 128 == die)
  let gone (id : Nat) : Bool := lost.any (fun f => f.req.id == id)
  let out (m : FabMsg) : Bool := match m with | .request q => gone q.id | _ => false
  lost.foldl (fun s f => completeFlight f (.err .poison) s)
    { s with fab := { s.fab with
      loop := s.fab.loop.filter (fun q => !gone q.id), held := s.fab.held.filter (fun m => !out m) } }

/-- The groups on a compute die that a failure cuts off count as drained at once, and their state is lost (R25). -/
def cutOff (die : Nat) (s : State) : State :=
  let gone := s.sched.groups.filter (fun g => g.cores.any (fun c => c / 128 == die))
  let s := gone.foldl (fun s g => s.modGroup g.gid (fun g => { g with state := .idle })) s
  gone.foldl (fun s g => g.cores.foldl (fun s c => s.modCore c (fun _ => {})) s) s

/-- An internal link has FAILED (R25). -/
def failInternal (i : Nat) (s : State) : State :=
  let s := setLink i (fun l => { l with state := .failed, retrain := false }) s
  let s := failWaiting i s
  let s := s.arb.attempts.foldl (fun s a => raiseAttempt a.dtid flCORR s) s
  let s := s.sched.packets.foldl (fun s p => (killPacket p.id s).modPacket p.id (fun p => { p with e := true })) s
  let s := if linkKind i = 4 then cutOff (linkDie i) (failFlights (linkDie i) s) else s
  raiseInt 3 { s with pkg := { s.pkg with stage := 15, cause := 3, badLink := i } }

/-- A training attempt ends without success (R22). -/
def attemptFails (i : Nat) (s : State) : State :=
  let s := s.modLink i (fun l => { l with attempts := l.attempts + 1 })
  if (s.link i).attempts < 3 then s
  else if internal i then failInternal i s
  else setLink i (fun l => { l with state := .down, retrain := false }) s

/-- LINK_TRAINING_DONE (R21, R22). -/
def execLinkTrainingDone (s : State) : Meaning :=
  let i := s.input.link
  let t := s.input.train
  when ((s.link i).state == .training) (fun s =>
    match chosen i t with
    | none => attemptFails i s
    | some (w, r, m) =>
      setLink i (fun l =>
        { l with
          state := if w = fullWidth i ∧ r = 3 then .up else .degraded, width := w, rate := r, preset := t.preset,
          margin := m, attempts := l.attempts + 1, pdev := (linkPeer s i).1, plink := (linkPeer s i).2,
          replays := 0, retrain := false }) s) s

/-- TRAINING_ATTEMPT_TIMEOUT (R22). -/
def execTrainingAttemptTimeout (s : State) : Meaning :=
  when ((s.link s.input.link).state == .training) (attemptFails s.input.link) s

/-- LINK_LOSS_OF_LOCK (R24): `nats` names the packets that were in flight on the link. -/
def execLinkLossOfLock (s : State) : Meaning :=
  let i := s.input.link
  when (!internal i && (s.link i).state.carries) (loseLink i (fun l => { l with state := .down }) s.input.nats) s

/-- INTERNAL_LOSS_OF_LOCK (R25). -/
def execInternalLossOfLock (s : State) : Meaning :=
  let i := s.input.link
  when (internal i && (s.link i).state.carries) (startTraining i) s

/-- RETRAIN (R24, R25): `nats` names the packets that were in flight on the link. -/
def execRetrain (s : State) : Meaning := when (s.pkg.stage == 7) (retrain s.input.link) s

/-- LINK_LEVEL_REPLAY (R20, R39). -/
def execLinkLevelReplay (s : State) : Meaning :=
  let i := s.input.link
  when ((s.link i).state.carries) (fun s =>
    capture 8 i i (s.modLink i (fun l => { l with replays := satInc 255 l.replays }))) s

/-! ### Bring-up (R26 to R31) -/

/-- The cause for which a firmware image is rejected (R28): none where it is accepted. DESIGN CHOICE (log 86): an image
that fails a signature and also has a lower SVN is rejected with SIG. -/
def imageCause (svn : Nat) (r : ImageReport) : Option Nat :=
  if !(r.rsaOk && r.slhOk && r.keysOk) then some 2 else if r.svn < svn then some 5 else none

/-- Bring-up stopped with a cause (R29, R30). -/
def stopBoot (cause : Nat) (recover : Bool) (s : State) : State :=
  { s with pkg := { s.pkg with stage := 15, cause := cause, recover := recover } }

/-- Steps 4 to 7 (R26): the internal links train, the fabric and Pergola links have no partner before a DOMCFG
(R42), and the status tables are clear. DESIGN CHOICE (log 110): an internal link that the boot report does not list reads
ATTEMPTS 1, EQPRESET 0 and EQMARGIN 0, and a margin is taken as it is reported (R20, R21); where one fails, the others read
UP and it reads ATTEMPTS 3 (R26). -/
def bootLinks (b : BootReport) (s : State) : State :=
  let up (i : Nat) (s : State) : State :=
    let r := (b.links.find? (fun r => r.link == i)).getD ⟨i, 1, 0, 0⟩
    s.modLink i (fun l => { l with state := .up, width := fullWidth i, rate := 3, attempts := r.attempts,
                                   preset := r.preset, margin := r.margin })
  match b.badLink.filter internal with
  | some i =>
    let s := ((List.range 62).filter (fun k => internal k && decide (k ≠ i))).foldl (fun s k => up k s) s
    let s := s.modLink i (fun l => { l with state := .failed, attempts := 3 })
    stopBoot 3 false { s with pkg := { s.pkg with badLink := i } }
  | none =>
    let s := ((List.range 62).filter internal).foldl (fun s k => up k s) s
    if !b.memOk then stopBoot 4 false s
    else
      let s := { s with pkg := { s.pkg with stage := 7, cause := 0 } }
      { s with pkg := { s.pkg with lstatRd := (List.range 62).map (lstatWord s) } }

/-- The identity keys derived from the device secret and the measured firmware digests (R31). -/
def deriveKeys (s : State) : State :=
  let l := BitVec.ofNat 384 s.pkg.lodgeDg
  let b := BitVec.ofNat 384 s.pkg.baseDg
  { s with pkg := { s.pkg with
    rsaKey := Config.rsaIdentity Config.deviceSecret l b, slhKey := Config.slhIdentity Config.deviceSecret l b } }

/-- Step 3 (R26): the base-die controller image. -/
def bootBase (b : BootReport) (s : State) : State :=
  match imageCause s.pkg.svn b.base with
  | some c => stopBoot c true s
  | none => bootLinks b (deriveKeys { s with pkg := { s.pkg with baseDg := b.base.digest, recover := false } })

/-- Step 2 (R26): the Lodge firmware image. -/
def bootLodge (b : BootReport) (s : State) : State :=
  match imageCause s.pkg.svn b.lodge with
  | some c => stopBoot c true s
  | none => bootBase b { s with pkg := { s.pkg with lodgeDg := b.lodge.digest, fwSvn := b.lodge.svn } }

/-- The device as module reset leaves it before bring-up: HBM cells and host memory stand (log 40). -/
def clearDevice (s : State) : State :=
  { State.reset with
    agenda := s.agenda, focus := s.focus, input := s.input, nextId := s.nextId,
    pkg := { State.reset.pkg with svn := s.pkg.svn, fwSvn := s.pkg.fwSvn },
    mem := { State.reset.mem with hbm := s.mem.hbm, poison := s.mem.poison },
    host := { State.reset.host with mem := s.host.mem } }

/-- Module reset with what bring-up meets (R26). -/
def moduleReset (b : BootReport) (s : State) : State :=
  let s := clearDevice s
  if !b.fuseOk then stopBoot 1 false s else bootLodge b s

/-- MODULE_RESET (R26). -/
def execModuleReset (s : State) : Meaning := .next (moduleReset s.input.boot s)

/-- CXL_RESET (R154). -/
def execCxlReset (s : State) : Meaning := .next (moduleReset s.input.boot s)

/-- RECOVERY_PACKAGE (R29): both images are verified before either is used. DESIGN CHOICE (log 86): where both are
rejected, CAUSE takes the Lodge image's rejection. -/
def execRecoveryPackage (s : State) : Meaning :=
  let b := s.input.boot
  when (s.pkg.recover && s.pkg.stage == 15) (fun s =>
    match (imageCause s.pkg.svn b.lodge).orElse (fun _ => imageCause s.pkg.svn b.base) with
    | some c => stopBoot c true s
    | none =>
      bootBase b { s with pkg := { s.pkg with lodgeDg := b.lodge.digest, fwSvn := b.lodge.svn, cause := 0 } }) s

/-- What a measurement report measures (R31): the hub ROM, the two firmware images, the fuse configuration and the
LSTAT contents at READY. -/
def measurements (s : State) : List (BitVec 384) :=
  [Config.romDigest, BitVec.ofNat 384 s.pkg.lodgeDg, BitVec.ofNat 384 s.pkg.baseDg,
    Config.fuseDigest (BitVec.ofNat 32 s.pkg.svn), sha384 (s.pkg.lstatRd.flatMap (toBytes 8))]

/-- SPDM_REQUEST with nonce `n`: the report with its two signatures (R31). -/
def execSpdmRequest (s : State) : Meaning :=
  let m := measurements s
  .next { s with pkg := { s.pkg with spdm := s.pkg.spdm ++
    [⟨m, s.input.n, Config.rsaSign s.pkg.rsaKey m s.input.n, Config.slhSign s.pkg.slhKey m s.input.n⟩] } }

/-! ### Power (R32 to R36) -/

/-- PWRCAP.CAP written (R33). -/
def setCap (v : Nat) (s : State) : State := { s with pkg := { s.pkg with cap := min 120 (max 60 (bits v 7 0)) } }

/-- PWRCAP_WRITE (R33). -/
def execPwrcapWrite (s : State) : Meaning := when (s.pkg.stage == 7) (setCap s.input.v.toNat) s

/-- POWCAP in watts (R33). -/
def powcap (s : State) : Nat := 25 * s.pkg.cap

/-- Whether a compute die's power in milliwatts exceeds its share, and whether it stays below 95 per cent of it
(R32, R35): the share is (POWCAP − 590) · 512.5 / 2,410 watts. -/
def aboveShare (s : State) (mw : Nat) : Bool := decide ((powcap s - 590) * 5125 * 1000 < mw * 24100)
def belowShare (s : State) (mw : Nat) : Bool := decide (mw * 24100 * 100 < (powcap s - 590) * 5125 * 1000 * 95)

/-- A die's level stepped by one sample (R35). DESIGN CHOICE (log 86): the count of eight periods starts again at 0
after the level falls. -/
def stepDie (s : State) (mw : Nat) (d : DieSt) : DieSt :=
  if aboveShare s mw then { d with pending := min 7 (d.pending + 1), below := 0 }
  else if belowShare s mw then
    if d.below + 1 = 8 then { d with pending := d.pending - 1, below := 0 } else { d with below := d.below + 1 }
  else { d with below := 0 }

/-- ARBITER_SAMPLE: the four dies' power `nats` in milliwatts and the module's `n` in watts (R33, R35). -/
def execArbiterSample (s : State) : Meaning :=
  let x := s.input
  let s := upTo 4 (fun d s =>
    let mw := x.nats.getD d 0
    capture 4 d mw { s with pkg := { s.pkg with dies := smod {} s.pkg.dies d (stepDie s mw) } }) s
  let above := if powcap s < x.n then min 3 (s.pkg.above + 1) else 0
  let s := { s with pkg := { s.pkg with power := min 65535 x.n, above := above } }
  .next (if above = 3 then
    { s with pkg := { s.pkg with dies := upTo 4 (fun d m => smod {} m d (fun x =>
        { x with pending := max x.pending 6 })) s.pkg.dies } }
    else s)

/-- The level in force: the higher of the power and temperature minimums (R36). -/
def DieSt.inForce (d : DieSt) : Nat := max d.pending (if 10000 ≤ d.temp then 4 else 0)

/-- THROTTLE_LEVEL_APPLY (R35, R36, R39). -/
def execThrottleLevelApply (s : State) : Meaning :=
  let die := s.input.die
  let d := sget {} s.pkg.dies die
  when (d.level != d.inForce) (fun s =>
    capture 6 die d.inForce { s with pkg := { s.pkg with dies := sput s.pkg.dies die { d with level := d.inForce } } }) s

/-- JUNCTION_TEMPERATURE: die `die` reads `t` hundredths of a degree (R36, R39, R321). -/
def execJunctionTemperature (s : State) : Meaning :=
  let x := s.input
  let s := capture 5 x.die x.t { s with pkg := { s.pkg with dies := smod {} s.pkg.dies x.die (fun d =>
    { d with temp := x.t }) } }
  when (decide (11000 ≤ x.t) && !s.dbg.thermal) thermalHalt s

/-! ### Capture units (R37 to R39) -/

/-- A capture unit changed. -/
def modCap (n : Nat) (f : CapSt → CapSt) (s : State) : State :=
  { s with pkg := { s.pkg with caps := smod {} s.pkg.caps n f } }

/-- CAPCTL.CLR (R38). -/
def CapSt.clear (u : CapSt) : CapSt := { u with cnt := 0, min := 2 ^ 64 - 1, max := 0, hist := [] }

/-- CAP_CLEAR (R38). -/
def execCapClear (s : State) : Meaning := when (s.pkg.stage == 7) (modCap s.input.n CapSt.clear) s

/-- CAPTURE_WINDOW_EDGE (R38). -/
def execCaptureWindowEdge (s : State) : Meaning :=
  .next (modCap s.input.n (fun u => { u with opened := u.openAt s.now }) s)

/-- CAPTURE_EVENT: code `n` of source `t` with value `v` (R39). -/
def execCaptureEvent (s : State) : Meaning :=
  when (decide (1 ≤ s.input.n ∧ s.input.n ≤ 9)) (capture s.input.n s.input.t s.input.v.toNat) s

end Sys2Proof.Machine
end

