-- ==== Sys2Proof/Machine/Chains.lean ====
section
/-! DEFINITION. Chains, pre-emption and halts as the control window's writes and the mailbox reach them: enabling,
publishing, teardown and KILL of a chain, pre-emption of its packets, halt and resume (R162 to R164, R173, R187,
R190, R191, R317 to R321). -/

namespace Sys2Proof.Machine

/-! ### Saved packets and their slots (R188 to R191) -/

/-- A stream that runs is asked to stop at its next pre-emption point (R187); its LOOPS levels start no new iteration
(R369). -/
def StreamSt.ask (x : StreamSt) : StreamSt :=
  if x.run = .running then
    { x with preempt := true, loops := x.loops.map (fun l => { l with cut := decide (l.stages ≠ 0) }) }
  else { x with preempt := false }

/-- The streams of a core are asked to stop at their next pre-emption points (R187). -/
def CoreSt.ask (c : CoreSt) : CoreSt :=
  { c with a := c.a.ask, x := c.x.ask, m := { c.m with preempt := c.m.run && !c.m.stopped } }

/-- The groups of a packet are to stop at their next pre-emption points (R187). -/
def preemptPacket (id : Nat) (s : State) : State :=
  match s.packet? id with
  | none => s
  | some p =>
    let s := s.modPacket id (fun p => { p with preempt := true })
    let s := s.modSlot p.slot (fun x => { x with saveT := s.now })
    p.groups.foldl (fun s g =>
      match s.group? g with
      | some x => x.cores.foldl (fun s c => s.modCore c CoreSt.ask) s
      | none => s) s

/-- A slot's save area is HELD no longer: a pre-emption that waited for it proceeds (R190). -/
def releaseArea (i : Nat) (s : State) : State :=
  let want := (s.slot i).wantPre
  let s := s.modSlot i (fun x => { x with held := none, saved := [], groups := [], wantPre := false })
  if want then
    match (s.slot i).packet with
    | some id => preemptPacket id s
    | none => s
  else s

/-- A saved packet is over without a restore (R191): its record, its group IDs and its frames. -/
def dropSaved (i : Nat) (s : State) : State :=
  let op := match (s.slot i).held with | some p => pkTile p.head.words % 256 | none => 0
  let level := match (s.slot i).held with | some p => pkLevel p.head.words | none => 1
  releaseArea i (slotRecord i { cause := 0x30, op := op, top := level, time := s.now } (endSaved i s))

/-! ### Chains (R162 to R164, R173) -/

/-- EN written from 0 to 1 (R164). -/
def chainEnable (c : Nat) (s : State) : State :=
  s.modChain c (fun ch =>
    if ch.en then ch
    else { ch with en := true, state := .active, err := false, errCode := 0, errSeq := 0, fetched := ch.tail,
                   next := ch.base, fetchErr := false, hds := [], done := [] })

/-- CHTAIL written (R163, R164). -/
def setTail (c : Nat) (v : BitVec 32) (s : State) : State :=
  s.modChain c (fun ch => if ch.state = .tearing ∨ ch.spawn then ch else { ch with tail := v })

/-- The head with a sequence number completes without running (R168, R182, R183). -/
def cancelSeq (c code seq : Nat) (s : State) : State :=
  match (s.chain c).hds.find? (fun h => h.seq == seq) with
  | none => s
  | some h =>
    let k := entryOf (s.chain c) seq
    let s := s.modChain c (fun ch => { ch with hds := ch.hds.filter (fun k => k.seq != seq) })
    complete c h.seq h.words true code true (if h.isOffered then answered c k s else s)

/-- The heads of a chain in teardown (R173, R191): a saved packet runs on under TEAR, and is over under KILL. -/
def tearHeads (c : Nat) (kill : Bool) (s : State) : State :=
  (s.chain c).hds.foldl (fun s h =>
    match h.saved with
    | none => cancelSeq c 6 h.seq s
    | some i => if kill then cancelSeq c 0 h.seq (dropSaved i s) else s) s

/-- Whether a level-5 share of a root's chain waits here for a slot, those of transactions left out (R179). -/
def shareWaits (root c : Nat) (h : Share) : Bool := h.root == root && h.chain == c && !pkTxn h.words

/-- The shares of a killed level-5 launch that wait for a slot place nothing (R173, R179). -/
def dropShares (root c : Nat) (s : State) : State :=
  { s with sched := { s.sched with shares := s.sched.shares.filter (fun h => !shareWaits root c h) } }

/-- The waits of the launches of a chain in teardown end, on every member for a launch at level 5 (R173, R470). -/
def tearWaits (c : Nat) (mine : List Packet) (s : State) : State :=
  let s := mine.foldl (fun s p => endWaits p s) s
  if mine.any (fun p => decide (pkLevel p.head.words = 5)) then
    let s := (s.members.filter (fun d => d != s.self)).foldl (fun s d => s.post (.kill d c true)) s
    (s.sched.packets.filter (fun q => q.share && q.home == s.self && q.chain == c)).foldl
      (fun s q => endWaits q s) s
  else s

/-- A level-5 launch outside a transaction is stopped as by KILL on the other members, its shares on this device
with it (R173). -/
def killFar (c : Nat) (s : State) : State :=
  let s := (s.members.filter (fun d => d != s.self)).foldl (fun s d => s.post (.kill d c false)) s
  let s := dropShares s.self c s
  (s.sched.packets.filter (fun q => q.share && q.home == s.self && q.chain == c)).foldl (fun s q => killPacket q.id s) s

/-- A dispatched packet of a chain is stopped as by KILL, on every member for a level-5 launch (R173). -/
def killLaunch (c : Nat) (p : Packet) (s : State) : State :=
  let s := killPacket p.id s
  if pkLevel p.head.words = 5 ∧ p.dtid.isNone then killFar c s else s

/-- TEAR or KILL written (R173). -/
def tearChain (c : Nat) (kill : Bool) (s : State) : State :=
  if (s.chain c).state = .idle then s
  else
    let s := s.modChain c (fun ch => { ch with state := .tearing, tear := true, kill := ch.kill || kill })
    let s := tearHeads c kill s
    let mine := s.sched.packets.filter (fun p => p.chain == c && !p.share)
    let s := if kill then mine.foldl (fun s p => killLaunch c p s) s else tearWaits c mine s
    settleChain c s

/-- PREEMPT of a chain (R143, R187, R190). A transaction whose own share waits for a slot aborts as that takes one
(R179); a level-5 launch outside a transaction, whose root slot holds no unit to save, is stopped as by KILL on every
member (log 88). -/
def preemptChain (c : Nat) (s : State) : State :=
  (s.sched.packets.filter (fun p => p.chain == c && !p.share)).foldl (fun s p =>
    match p.dtid with
    | some d =>
      if (s.attempt? d).isSome then stopAttempt d flPREEMPT false s
      else s.modPacket p.id (fun p => { p with preempt := true })
    | none =>
      if pkLevel p.head.words = 5 then killLaunch c p s
      else
      let slot := s.slot p.slot
      let save := match slot.bind with | some b => b.save | none => false
      if !save then killPacket p.id s
      else if slot.held.isSome then s.modSlot p.slot (fun x => { x with wantPre := true })
      else preemptPacket p.id s) s

/-- A chain's register written (R164). DESIGN CHOICE (log 110): CHCW and CHEV keep the 56 bits written, also where they are
not aligned as the table says, and the words are written and read at that address. -/
def chainWrite (c o v : Nat) (s : State) : State :=
  let ch := s.chain c
  if o = 0 then
    let s := s.modChain c (fun ch =>
      { ch with spawn := if ch.en then ch.spawn else bit v 3, irq := bit v 4, vec := bits v 10 5 })
    let s := if bit v 0 then chainEnable c s else s
    if ch.state ≠ .idle ∧ (bit v 1 ∨ bit v 2) then tearChain c (bit v 2) s else s
  else if o = 0x10 then setTail c (BitVec.ofNat 32 v) s
  else if ch.en then s
  else
    s.modChain c (fun ch =>
      if o = 0x08 then { ch with head := bits v 55 7 * 128 }
      else if o = 0x18 then { ch with base := bits v 62 0 }
      else if o = 0x20 then { ch with cw := bits v 55 0 }
      else if o = 0x28 then { ch with ev := bits v 55 0 }
      else if o = 0x30 then { ch with pt := bits v 55 0 }
      else ch)

/-! ### Halts (R317 to R321) -/

/-- HALT written for a slot (R317, R319, R321): ignored unless STATE is RUN and a packet runs in the slot. -/
def haltWrite (i : Nat) (s : State) : State :=
  if s.dbg.state = 0 ∧ (s.slot i).packet.isSome ∧ (s.slot i).state = .busy then haltOne i .host s else s

/-- RESUME written (R319, R321). -/
def resumeWrite (s : State) : State :=
  let hot := (List.range 4).any (fun d => decide (10500 ≤ (sget {} s.pkg.dies d).temp))
  if s.dbg.thermal ∧ hot then s
  else if s.dbg.state = 0 then { s with dbg := { s.dbg with far := [] } }
  else
    let halted := (List.range 256).filter (fun i => (s.slot i).halted)
    let s := releaseHeld (takeLate (halted.foldl (fun s i => haltSlot i false s) s))
    { s with dbg := { s.dbg with state := 0, src := .host, hslot := 0, thermal := false, far := [] } }

/-- DBGDATA written (R319): registers and predicates discard as ever, and a PC keeps its alignment. -/
def dbgWrite (v : Word) (s : State) : State :=
  if dbgOpen s then
    let r := dbgReg s
    s.modCore (dbgCore s) (fun c => c.modStream (dbgStream s) (fun x =>
      if r < 32 then x.setReg r v
      else if r = 32 then
        -- the head word changes: what the old one waited for is over
        { x with pc := BitVec.ofNat 64 (v.toNat / 4 * 4), stall := none, stallCnt := 0, wait := none, parts := [],
                 fetch := {}, skip := none }
      else if r = 33 then { x with preds := BitVec.ofNat 8 (v.toNat % 256 / 2 * 2) }
      else x))
  else s

/-! ### The registers of the control window (R10, R12, R33, R37, R38, R66, R97, R125, R158, R164, R192, R319) -/

/-- The W1C and W1S bits of a register (R10). -/
def writeOnes (off : Nat) : Nat :=
  if 0x40000 ≤ off ∧ off < 0x40000 + 8 * 62 then 2 ^ 63
  else if 0x50000 ≤ off ∧ off < 0x54000 ∧ off % 256 = 0 then 2
  else if off = 0x60000 then 32
  else if off = 0x70000 then 4
  else if off = 0x90008 then 15
  else if off = 0x90100 then 256
  else if off = 0xB0000 then 3
  else if 0x100000 ≤ off ∧ off < 0x140000 ∧ off % 64 = 0 then 6
  else 0

/-- A capture unit's register written (R37, R38). -/
def capWrite (o v now : Nat) (u : CapSt) : CapSt :=
  let u :=
    if o = 0 then
      let u := if bit v 1 then u.clear else u
      { u with en := bit v 0, freeze := bit v 2 }
    else if o = 0x08 then { u with src := bits v 21 0 }
    else if o = 0x10 then { u with start := v }
    else if o = 0x18 then { u with stop := v }
    else if o = 0x38 then { u with hb := bits v 37 0 }
    else u
  { u with opened := u.openAt now }

/-- FABTMO and SCHCFG.PRTMO written, held to their ranges (R66, R192). -/
def setTmo (v : Nat) (s : State) : State :=
  { s with fab := { s.fab with tmo := min 10000 (max 10 (bits v 31 0)) } }
def setPrtmo (v : Nat) (s : State) : State :=
  { s with sched := { s.sched with prtmo := min 100000 (max 1 (bits v 31 0)) } }

/-- A register of the fabric block written (R66). -/
def fabWrite (o v : Nat) (s : State) : State :=
  if o = 0x410 then setTmo v s
  else if o = 0x418 then { s with fab := { s.fab with thr := bits v 7 0, detEn := bit v 8 } }
  else if o = 0x430 then { s with fab := { s.fab with dtset := BitVec.ofNat 64 v } }
  else if 0x440 ≤ o ∧ o < 0x540 then
    let r : McRegion := ⟨bits v 55 16 * 2 ^ 16, bits v 62 58, bit v 63⟩
    { s with fab := { s.fab with mcrep := sput s.fab.mcrep ((o - 0x440) / 8) r } }
  else s

/-- A register of the stack block written (R97). DESIGN CHOICE (log 86): VMCMDA and VMCMDN written while GO reads 1 take
effect at once, and the command in progress uses them. -/
def memWrite (o v : Nat) (s : State) : State :=
  let m := s.mem
  if o = 0 then
    if m.vm.go then s
    else s.withMem { m with vm := { m.vm with op := bits v 3 0, acc := bit v 4, go := bit v 5, ran := false } }
  else if o = 0x8 then s.withMem { m with vm := { m.vm with addr := bits v 38 0 } }
  else if o = 0x10 then s.withMem { m with vm := { m.vm with count := bits v 31 0 } }
  else if 0x1000 ≤ o ∧ o < 0x9000 ∧ o % 0x1000 = 0 then
    s.withMem (m.modStack ((o - 0x1000) / 0x1000) (fun x => { x with slack := bits v 15 0, rfpost := bits v 19 16 }))
  else if 0x1000 ≤ o ∧ o < 0x9000 ∧ o % 0x1000 = 8 then
    s.withMem (m.modStack ((o - 0x1000) / 0x1000) (fun x => { x with srcEn := bit v 0, srcIdle := bits v 23 1 }))
  else s

/-- A register of the Pergola block written (R125). DESIGN CHOICE (log 110): GO with OP 0 starts nothing and reads 0, and
NBREC written while a command runs takes effect, so that the command uses the new address. -/
def pergWrite (o v : Nat) (s : State) : State :=
  let g := s.perg
  if o = 0 then
    if g.go then s else { s with perg := { g with op := bits v 1 0, go := bit v 2 && bits v 1 0 != 0, name := bits v 31 16 } }
  else if o = 8 then { s with perg := { g with recAddr := bits v 55 6 * 64 } }
  else s

/-- A register of the host-interface block written (R158). -/
def hostWriteReg (o v : Nat) (s : State) : State :=
  let h := s.host
  if o = 0x8 then { s with host := { h with intstat := h.intstat &&& ~~~(BitVec.ofNat 4 v) } }
  else if o = 0x10 then { s with host := { h with intmask := BitVec.ofNat 4 v } }
  else if o = 0x100 then
    if h.mbGo then s else { s with host := { h with mbCode := bits v 7 0, mbGo := bit v 8 } }
  else if 0x108 ≤ o ∧ o ≤ 0x120 then
    { s with host := { h with mbArg := sput h.mbArg ((o - 0x108) / 8) (BitVec.ofNat 64 v) } }
  else s

/-- A register of the scheduler block written (R192). -/
def schedWrite (o v : Nat) (s : State) : State :=
  if o = 0 then setPrtmo v s
  else if 0x40 ≤ o ∧ o < 0x80 then
    { s with sched := { s.sched with clbud := sput s.sched.clbud ((o - 0x40) / 8) (bits v 39 0) } }
  else s

/-- A register of the debug block written (R319). -/
def dbgBlockWrite (o v : Nat) (s : State) : State :=
  if o = 0 then
    let s := { s with dbg := { s.dbg with brkHalt := bit v 2, slot := bits v 23 16 } }
    let s := if bit v 0 then haltWrite (bits v 23 16) s else s
    if bit v 1 then resumeWrite s else s
  else if o = 0x10 then { s with dbg := { s.dbg with sel := BitVec.ofNat 16 v } }
  else if o = 0x18 then dbgWrite (BitVec.ofNat 64 v) s
  else s

/-- The 64-bit register at an offset written; an unlisted offset ignores the write (R12). -/
def regWrite (off v : Nat) (s : State) : State :=
  if 0x40000 ≤ off ∧ off < 0x40000 + 8 * 62 then (if bit v 63 then retrain ((off - 0x40000) / 8) s else s)
  else if off = 0x40300 then setCap v s
  else if 0x40400 ≤ off ∧ off < 0x40540 then fabWrite (off - 0x40000) v s
  else if 0x50000 ≤ off ∧ off < 0x54000 then modCap ((off - 0x50000) / 256) (capWrite (off % 256) v s.now) s
  else if 0x60000 ≤ off ∧ off < 0x69000 then memWrite (off - 0x60000) v s
  else if 0x70000 ≤ off ∧ off < 0x70010 then pergWrite (off - 0x70000) v s
  else if 0x90000 ≤ off ∧ off < 0x90130 then hostWriteReg (off - 0x90000) v s
  else if 0xA0000 ≤ off ∧ off < 0xA0080 then schedWrite (off - 0xA0000) v s
  else if 0xB0000 ≤ off ∧ off < 0xB0028 then dbgBlockWrite (off - 0xB0000) v s
  else if 0x100000 ≤ off ∧ off < 0x140000 then chainWrite ((off - 0x100000) / 64) (off % 64) v s
  else s

/-- A write of the control window (R10, R12, R154): 4 or 8 bytes, naturally aligned, once the device is READY (R27);
of the half that a 4-byte write leaves out, no bit changes and no W1C or W1S bit is written. -/
def controlWrite (off : Nat) (bs : List Byte) (s : State) : State :=
  let n := bs.length
  if regAccess off n ∧ s.pkg.stage = 7 then
    let reg := off / 8 * 8
    let v := fromBytes bs
    if n = 8 then regWrite reg v s
    else
      let old := (regRead s reg).toNat
      let kept := old - (old &&& writeOnes reg)
      let lo := kept % 2 ^ 32
      let hi := kept / 2 ^ 32
      regWrite reg (if off % 8 = 0 then v + hi * 2 ^ 32 else lo + v * 2 ^ 32) s
  else s

end Sys2Proof.Machine
end

