-- ==== Sys2Proof/Machine/Control.lean ====
section
/-! DEFINITION. The events that are writes of the control window (R33, R66, R154, R163, R164, R173, R192, R317,
R319). -/

namespace Sys2Proof.Machine

/-- REGISTER_WRITE: `v` written at offset `off`, 8 bytes with `flag`, else 4 (R10, R154). -/
def execRegisterWrite (s : State) : Meaning :=
  let x := s.input
  .next (controlWrite x.off (toBytes (if x.flag then 8 else 4) x.v.toNat) s)

/-- FABTMO_WRITE of `v` (R66). -/
def execFabtmoWrite (s : State) : Meaning := when (s.pkg.stage == 7) (setTmo s.input.v.toNat) s

/-- SCHCFG_WRITE of `v` (R192). -/
def execSchcfgWrite (s : State) : Meaning := when (s.pkg.stage == 7) (setPrtmo s.input.v.toNat) s

/-- CHAIN_ENABLE of chain `chain` (R164). -/
def execChainEnable (s : State) : Meaning := when (s.pkg.stage == 7) (chainEnable s.input.chain) s

/-- CHTAIL_WRITE of `v` on chain `chain` (R163, R164). -/
def execChtailWrite (s : State) : Meaning :=
  when (s.pkg.stage == 7) (setTail s.input.chain (BitVec.ofNat 32 s.input.v.toNat)) s

/-- TEAR of chain `chain` (R173). -/
def execTear (s : State) : Meaning := when (s.pkg.stage == 7) (tearChain s.input.chain false) s

/-- KILL of chain `chain` (R173). -/
def execKill (s : State) : Meaning := when (s.pkg.stage == 7) (tearChain s.input.chain true) s

/-- HALT of slot `slot` (R317, R319): a write of DBGCTL.HALT with SLOT, BRKHALT as it stands. -/
def execHalt (s : State) : Meaning :=
  when (s.pkg.stage == 7) (fun s =>
    haltWrite s.input.slot { s with dbg := { s.dbg with slot := s.input.slot } }) s

/-- RESUME (R319, R321). -/
def execResume (s : State) : Meaning := when (s.pkg.stage == 7) resumeWrite s

/-- DBGDATA_ACCESS: with `wr` a write of `v`; a read changes nothing (R319). -/
def execDbgdataAccess (s : State) : Meaning :=
  when (s.pkg.stage == 7 && s.input.wr) (dbgWrite s.input.v) s

/-- HALT_MESSAGE: the level-5 launch of chain `chain` on root `dev` halts on this member (R317). -/
def execHaltMessage (s : State) : Meaning :=
  let x := s.input
  when (s.pkg.stage == 7) (fun s =>
    let s := haltLaunch x.dev x.chain s
    match s.sched.packets.find? (fun p => p.ofLaunch s.self x.dev x.chain) with
    | none => s
    | some p => noteHalt p.slot s) s

end Sys2Proof.Machine
end

