-- ==== Sys2Proof/Machine/Flags.lean ====
section
/-! DEFINITION. The sticky floating-point flags: SXF of the scalar words, the flags of the 512 lanes and their
OR in VXF (R297, R298, R311). -/

namespace Sys2Proof.Machine

/-- Flags ORed into SXF (R298, R360). -/
def raiseSxf (f : Flags) (s : State) : State := s.modCur (fun c => { c with sxf := c.sxf ||| f })

/-- The flags of one lane (R298). -/
def CoreSt.lane (c : CoreSt) (i : Nat) : Flags := sget 0 c.lanes i

/-- Flags ORed into one lane. -/
def CoreSt.raiseLane (c : CoreSt) (i : Nat) (f : Flags) : CoreSt :=
  { c with lanes := sset 0 c.lanes i (c.lane i ||| f) }

/-- VXF: the OR of the flags of all 512 lanes (R298). -/
def CoreSt.vxf (c : CoreSt) : Flags := c.lanes.foldl (fun f p => f ||| p.2) 0

/-- Flags cleared in every lane. -/
def CoreSt.clearLanes (c : CoreSt) (f : Flags) : CoreSt :=
  { c with lanes := c.lanes.filterMap (fun p => if p.2 &&& ~~~f = 0 then none else some (p.1, p.2 &&& ~~~f)) }

/-- The flags that TFENCE would trap on (R311). -/
def CoreSt.enabledFlags (c : CoreSt) : Flags := (c.sxf ||| c.vxf) &&& BitVec.ofNat 5 c.trapEn.toNat

end Sys2Proof.Machine
end

