-- ==== Sys2Proof/Machine/Operands.lean ====
section
/-! DEFINITION. Operand forms that several instructions share: tile registers with their full/empty bits, and
the core's scratchpad (R225, R233 to R235, R246, R323). -/

namespace Sys2Proof.Machine

/-! ### Tile registers (R233) -/

/-- Whether tile `t` is full. -/
def CoreSt.isFull (c : CoreSt) (t : Nat) : Bool := c.full.getLsbD t

/-- The full/empty bit of tile `t` set or cleared. -/
def CoreSt.setFull (c : CoreSt) (t : Nat) (b : Bool) : CoreSt :=
  { c with full := if b then c.full ||| BitVec.ofNat 40 (2 ^ t) else c.full &&& ~~~(BitVec.ofNat 40 (2 ^ t)) }

/-- Whether an access of a class can be performed on tile `t` (R233, column "waits while"). -/
def CoreSt.tileReady (c : CoreSt) (k : TileAccess) (t : Nat) : Bool :=
  match k with
  | .read _ => c.isFull t
  | .write ow => ow || !c.isFull t
  | .update => c.isFull t

/-- The bit after an access (R233, column "bit afterwards"). -/
def CoreSt.tileAfter (c : CoreSt) (k : TileAccess) (t : Nat) : CoreSt :=
  match k with
  | .read consume => c.setFull t (!consume)
  | _ => c.setFull t true

/-! Several accesses to one tile (R235): the copy engine's before the matrix engine's, the vector engine's, the tile
unit's -/

/-- The layouts of a running copy command, source and destination. -/
def CopyRun.layouts (r : CopyRun) : Option (Layout × Layout) :=
  match parseLayout (r.srcRec.map BitVec.toNat), parseLayout (r.dstRec.map BitVec.toNat) with
  | some a, some b => some (a, b)
  | _, _ => none

/-- The tile accesses of a copy command (R385): register and class. -/
def CopyRun.tiles (r : CopyRun) : List (Nat × TileAccess) :=
  match r.cmd, r.layouts with
  | .copy (ow := ow) (consume := consume) .., some (a, b) =>
    (if a.mem = 2 then [(a.base, .read consume)] else []) ++ (if b.mem = 2 then [(b.base, .write ow)] else [])
  | _, _ => []

/-- Whether a running copy command's tile bits let it go on (R233, R385). -/
def copyReady (c : CoreSt) (r : CopyRun) : Bool := r.tiles.all (fun p => c.tileReady p.2 p.1)

/-- Whether a copy command that waits for tile `t` is ready to access it. -/
def CoreSt.copyFirst (c : CoreSt) (t : Nat) : Bool :=
  c.copyStall && (match c.copyRun with
    | some r => r.tiles.any (fun p => p.1 == t) && copyReady c r
    | none => false)

/-- Whether an access that waits, if any does, is to tile `t` and ready. -/
def CoreSt.wants (c : CoreSt) (w : Option (Nat × TileAccess)) (t : Nat) : Bool :=
  match w with
  | some (u, k) => u == t && c.tileReady k t
  | none => false

/-- Whether a step word may access tile `t`. -/
def CoreSt.stepReady (c : CoreSt) (k : TileAccess) (t : Nat) : Bool := c.tileReady k t && !c.copyFirst t

/-- Whether VMOVT may access tile `t`. -/
def CoreSt.moveReady (c : CoreSt) (k : TileAccess) (t : Nat) : Bool :=
  c.stepReady k t && !(c.m.stall && c.wants c.m.want t)

/-- Whether the core's tile unit may access tile `t`. -/
def CoreSt.unitReady (c : CoreSt) (k : TileAccess) (t : Nat) : Bool :=
  c.moveReady k t && !(decide (c.x.stall = some .tile) && c.wants c.x.want t)

/-- Whether any of `n` bytes of tile `t` lies in a poisoned 8-byte word (R323). -/
def CoreSt.tileBad (c : CoreSt) (t off n : Nat) : Bool :=
  c.tilePois.any (fun e => e.2 && decide ((32768 * t + off) / 8 ≤ e.1 ∧ e.1 * 8 < 32768 * t + off + n))

/-- `n` bytes of tile `t`. -/
def CoreSt.tileBytes (c : CoreSt) (t off n : Nat) : List Byte :=
  (List.range n).map (fun i => c.tileByte (32768 * t + off + i))

/-- Bytes written to tile `t`: 8-byte words written whole are poisoned no longer. -/
def CoreSt.tilePut (c : CoreSt) (t off : Nat) (bs : List Byte) : CoreSt :=
  let lo := 32768 * t + off
  { (bs.zipIdx lo).foldl (fun c p => c.setTile p.2 p.1) c with
    tilePois := c.tilePois.filter (fun e => !(decide (lo ≤ e.1 * 8 ∧ e.1 * 8 + 8 ≤ lo + bs.length))) }

/-! ### Scratchpad (R246, R323) -/

/-- The window address of a scratchpad offset (R370). -/
def windowVa (off : Int) : Word := BitVec.ofInt 64 (2 ^ 64 - 2 ^ 21 + off)

end Sys2Proof.Machine
end

