-- ==== Sys2Proof/Machine/Matrix.lean ====
section
/-! DEFINITION. The matrix-control words and the step words of the M-stream: nests, generators, weights,
multiply-accumulate, drain, compress and faults in a nest (R243 to R245, R302, R425 to R448). -/

namespace Sys2Proof.Machine

/-! ### Values of elements -/

/-- A float code of a format code as an exact value; INT8, INT16 and INT32 as integers (R278). -/
def elemFv (fmt code : Nat) : Fv :=
  match fmtOf fmt with
  | some f => f.decode code
  | none => Fv.ofInt (sx code (fmtBits fmt))

/-- A value under an E8M0 block scale, exactly (R280, R283). -/
def Fv.scaled (v : Fv) (x : Nat) : Fv :=
  if x = 255 then .nan false
  else
    match v with
    | .fin n m e => .fin n m (e + (x : Int) - 127)
    | v => v

/-- q_k of an NQ element at precision `k`, times 2^(8 - k) (R286). -/
def nqFv (code k : Nat) : Fv := Fv.ofInt (sx code 8 / 2 ^ (8 - k) * 2 ^ (8 - k))

/-- The exact sum of products, NaN where one is invalid or NaN (R302). -/
def sumFv : List (Option Fv) → Fv
  | [] => .fin false 0 0
  | p :: ps =>
    (ps.foldl (fun (a : Option Fv) p =>
      match a, p with
      | some a, some p => a.add p
      | _, _ => none) p).getD (.nan false)

/-- `n` bytes of an array from `o`, as an integer. -/
def arrNat (a : Array Byte) (o n : Nat) : Nat := fromBytes ((List.range n).map (fun i => a.getD (o + i) 0))

/-- The element of a block of 64 columns by row `k` and column `n` (R436, R438): E2M1 by nibble. -/
def blockCode (a : Array Byte) (fmt k n : Nat) : Nat :=
  match fmt with
  | 1 => arrNat a (128 * k + 2 * n) 2
  | 4 => bits (arrNat a (32 * k + n / 2) 1) (4 * (n % 2) + 3) (4 * (n % 2))
  | _ => arrNat a (64 * k + n) 1

/-! ### The nest's state -/

/-- The configuration of a nest level. -/
def MatrixSt.level (m : MatrixSt) (n : Nat) : MLevel := sget {} m.loops n

/-- The counter of a nest level. -/
def MatrixSt.ctr (m : MatrixSt) (n : Nat) : Nat := sget 0 m.idx n

/-- A generator value (R430). -/
def MatrixSt.gen (m : MatrixSt) (base : Nat) (stride : MLevel → Int) : Int :=
  (base : Int) + ((List.range 6).map (fun n => (m.ctr n : Int) * stride (m.level n))).sum

def MatrixSt.act (m : MatrixSt) : Int := m.gen m.cfg.abase (fun l => l.astr)
def MatrixSt.wadr (m : MatrixSt) : Int := m.gen m.cfg.wbase (fun l => l.wstr)
def MatrixSt.acc (m : MatrixSt) : Int := m.gen m.cfg.cbase (fun l => l.cstr)
def MatrixSt.dadr (m : MatrixSt) : Int := m.gen m.cfg.dbase (fun l => l.dstr)

/-- MSTAT's state word (R432). -/
def MatrixSt.stateWord (m : MatrixSt) : Word :=
  BitVec.ofNat 64 (m.run.toNat + m.aborted.toNat * 2 + m.fault.toNat * 4 + m.syncs % 2 ^ 16 * 2 ^ 16 +
    m.nest % 2 ^ 32 * 2 ^ 32)

/-- What MSTAT could return before a change, kept for the four cycles in which it still does (R432). -/
def MatrixSt.mark (m : MatrixSt) (now : Nat) (setN : Option Nat) : MatrixSt :=
  { m with hist := m.hist.filter (fun h => decide (now < h.time + 4)) ++ [⟨now, m.nan, m.stateWord, setN⟩] }

/-- The matrix engine of the core in execution changed. -/
def State.modM (s : State) (f : MatrixSt → MatrixSt) : State := s.modCur (fun c => { c with m := f c.m })

/-- A change that MSTAT reports. -/
def State.markM (s : State) (setN : Option Nat) (f : MatrixSt → MatrixSt) : State :=
  s.modM (fun m => f (m.mark s.now setN))

/-- The nest of a core ends: its tl1 number passes, with a fault where one is given (R431, R446). -/
def nestOver (core : Nat) (r : Option Rec) (aborted : Bool) (s : State) : State :=
  let m := (s.core core).m
  let s := s.modCore core (fun c => { c with m :=
    { c.m.mark s.now none with
      run := false, ended := false, aborted := aborted, fault := r.isSome, stall := false, stallCnt := 0,
      abortReq := false, first := none, taken := none, preempt := false, fetch := {} } })
  -- a word that faults has no effect: the tile that its first access consumed is full as before (R446)
  let s := match r, m.taken with
    | some _, some t => s.modCore core (fun c => c.setFull t true)
    | _, _ => s
  completeTl core 1 m.nest m.carry.tag r s

/-- A fault in the nest of a core (R314, R446). -/
def nestFault (core : Nat) (cause : BitVec 8) (sub : Nat) (addr : Word) (s : State) : State :=
  nestOver core (some { cause := cause, sub := sub, path := (s.core core).m.nest, addr := addr, time := s.now })
    false s

/-- A fault of the step word in execution. -/
def stepFault (cause : BitVec 8) (addr : Word) (s : State) : State := nestFault s.focus.core cause 0 addr s

/-- A step word completes; where MABORT came while it ran, the nest ends with it (R433). -/
def stepDone (s : State) : State :=
  let s := s.modM (fun m =>
    { m with pc := m.pc + 4, stall := false, stallCnt := 0, first := none, taken := none, fetch := {} })
  if s.cur.m.abortReq then nestOver s.focus.core none true s else s

/-- A step word waits to access a tile (R234, R235); with no pre-emption level named it is a pre-emption point
(R448). -/
def stepBlock (t : Nat) (k : TileAccess) (s : State) : State :=
  s.modM (fun m =>
    let m := { (if m.stall then m else { m with stall := true, stallCnt := 0 }) with want := some (t, k) }
    if m.preempt ∧ 6 ≤ m.cfg.plev then { m with stopped := true, preempt := false } else m)

/-- A word with P executes only while MP is 1 (R434). -/
def stepWhen (p : Bool) (f : State → State) (s : State) : Meaning :=
  .next (if p ∧ s.cur.m.mp = false then stepDone s else f s)

/-- A tile index in range. -/
def tileIx (t : Int) : Bool := decide (0 ≤ t ∧ t < 40)

/-- The checks of a scratchpad block of `n` bytes at an offset (R446, R484): the cause that applies
first. -/
def blockFault (off : Int) (n : Nat) : Option (BitVec 8) :=
  if off < 0 ∨ off + n > 2 ^ 21 then some 0x03 else if off % 64 ≠ 0 then some 0x02 else none

/-! ### Matrix control (R426 to R433) -/

/-- MLOOP writes one field of a shadow level (R426). -/
def execMloop (n a fld : Nat) (s : State) : Meaning :=
  let v := (s.rd a).toNat
  .next (finish (s.modM (fun m => { m with shLoops := smod {} m.shLoops n (fun l =>
    match fld with
    | 0 => { l with trip := v % 2 ^ 16 }
    | 1 => { l with astr := sx v 8 }
    | 2 => { l with wstr := sx v 22 }
    | 3 => { l with cstr := sx v 8 }
    | _ => { l with dstr := sx v 22 }) })))

/-- Whether a value is a legal DCTL (R428). -/
def dctlOk (v : Nat) : Bool := decide (bits v 5 0 ≤ 3 ∧ bits v 8 6 ≤ 3 ∧ bits v 63 10 = 0)

/-- MCFG writes one field of the shadow configuration (R427, R428). -/
def execMcfg (a fld : Nat) (s : State) : Meaning :=
  let v := (s.rd a).toNat
  let set (f : MConfig → MConfig) : Meaning := .next (finish (s.modM (fun m => { m with shCfg := f m.shCfg })))
  match fld with
  | 0 => set (fun c => { c with abase := v % 2 ^ 6 })
  | 1 => set (fun c => { c with wbase := v % 2 ^ 21 })
  | 2 => set (fun c => { c with cbase := v % 2 ^ 6 })
  | 3 => set (fun c => { c with dbase := v % 2 ^ 21 })
  | 4 => set (fun c => { c with dscale := BitVec.ofNat 32 v })
  | 5 =>
    if dctlOk v then set (fun c => { c with dctl := BitVec.ofNat 10 v })
    else .next (illegal (.mcfg a fld) s)
  | _ => set (fun c => { c with plev := v % 8 })

/-- MGO starts a nest, or waits while one runs (R244, R429). -/
def execMgo (d a : Nat) (s : State) : Meaning :=
  let core := s.focus.core
  if s.cur.m.run then .next (block .nest s)
  else
    let start := s.cur.m.body + 4 * s.rd a
    let num := (s.cur.tl 1).issued + 1
    let empty := (List.range 6).any (fun n => decide ((sget {} s.cur.m.shLoops n).trip = 0))
    let tx := s.cur.txst
    let s := s.modCore core (fun c =>
      let m := c.m.mark s.now none
      { c.setTl 1 ((c.tl 1).issue 0) with
        m := { m with
          loops := m.shLoops, cfg := m.shCfg, idx := [], mp := true, aborted := false, fault := false,
          start := start, pc := start, nest := num, run := true, ended := false, stopped := false, first := none,
          preempt := c.a.preempt || c.x.preempt, stall := false, stallCnt := 0, carry := ⟨tx.tag, tx.att, tx.strict⟩, fetch := {} } })
    let s := s.wr d (BitVec.ofNat 64 num)
    .next (finish (if empty then nestOver core none false s else s))

/-- What MSTAT sees: the status as it stood four cycles before (R432). -/
def mstatView (m : MatrixSt) (now : Nat) : BitVec 40 × Word :=
  match m.hist.find? (fun h => decide (now < h.time + 4)) with
  | some h => (h.nan, h.state)
  | none => (m.nan, m.stateWord)

/-- MSTAT (R432): a NaN bit set within the four cycles stays set under nanclr. -/
def execMstat (d sel : Nat) (s : State) : Meaning :=
  let m := s.cur.m
  let (nan, w) := mstatView m s.now
  match sel with
  | 0 => result d (nan.zeroExtend 64) s
  | 1 =>
    let kept := (m.hist.filter (fun h => decide (s.now < h.time + 4))).filterMap (fun h => h.setN)
    let keep : BitVec 40 := kept.foldl (fun a t => a ||| BitVec.ofNat 40 (2 ^ t)) 0
    result d (nan.zeroExtend 64) (s.markM none (fun m => { m with nan := m.nan &&& ~~~(nan &&& ~~~keep) }))
  | _ => result d w s

/-- MABORT ends a running nest with its error bit clear; a step word that has performed an access runs to its end
first (R433). -/
def execMabort (d : Nat) (s : State) : Meaning :=
  let m := s.cur.m
  let s := s.wr d (flag m.run)
  .next (finish (
    if m.run = false then s
    else if m.first.isSome then s.modM (fun m => { m with abortReq := true })
    else nestOver s.focus.core none true s))

/-- NEST_END: the last iteration's MEND is over; the number passes and RUN clears (R431). -/
def execNestEnd (s : State) : Meaning :=
  let core := s.input.core
  let m := (s.core core).m
  when (m.run && m.ended && !(s.core core).halted) (nestOver core none false) s

/-! ### Weights (R435 to R437) -/

/-- The byte ranges of a block: where scales and metadata stand, and its extent (R436, R437). -/
def weightExtent (fmt : Nat) (mx s : Bool) : Nat :=
  match fmt, s with
  | 1, _ => 8192
  | 4, false => 2176
  | 4, true => 1664
  | 16, false => 4224
  | 16, true => 2688
  | _, false => if mx then 4224 else 4096
  | _, true => if mx then 2688 else 2560

/-- The ranges of a block that an MLDW reads (R436, R437): of an NQ group its first 4·PL bytes. -/
def weightRanges (fmt : Nat) (mx s : Bool) (pl : Nat) : List (Nat × Nat) :=
  if fmt = 16 then
    (List.range (if s then 64 else 128)).map (fun g => (32 * g, 4 * pl)) ++
      (if s then [(2048, 640)] else [(4096, 128)])
  else [(0, weightExtent fmt mx s)]

/-- The scale place of a block, from its start (R436, R437). -/
def scaleBase (fmt : Nat) (s : Bool) : Nat :=
  match fmt, s with
  | 4, false => 2048
  | 4, true => 1536
  | _, false => 4096
  | _, true => 2560

/-- The metadata place of a sparse block (R437). -/
def metaBase (fmt : Nat) : Nat := if fmt = 4 then 1024 else 2048

/-- Weight (j, n) of latched weights: its K index and value under its scale (R436, R437). -/
def weightAt (w : Weights) (a : Array Byte) (j n : Nat) : Nat × Fv :=
  let k := if w.s then 4 * (j / 2) + bits (arrNat a (metaBase w.fmt + 8 * n) 8) (2 * j + 1) (2 * j) else j
  let v :=
    if w.fmt = 16 then
      let g := if w.s then 32 * n else 32 * (2 * n + j / 32)
      nqFv (codeAt 16 (j % 32) ((List.range 32).map (fun i => a.getD (g + i) 0))) w.pl
    else elemFv w.fmt (blockCode a w.fmt j n)
  (k, if w.mx then v.scaled (arrNat a (scaleBase w.fmt w.s + 2 * n + k / 32) 1) else v)

/-- Latched weights with the scratchpad's bytes of their block, in the format they were latched with (R448). -/
def Weights.reload (w : Weights) (c : CoreSt) : Weights :=
  { w with data := c.spadBytes w.addr (weightExtent w.fmt w.mx w.s) }

/-- MLDW (R435 to R437). -/
def execMldw (p : Bool) (fmt : Nat) (mx sp : Bool) (pl : Nat) (s : State) : Meaning :=
  stepWhen p (fun s =>
    let off := s.cur.m.wadr
    let n := weightExtent fmt mx sp
    match blockFault off n with
    | some c => stepFault c (windowVa off) s
    | none =>
      let o := off.toNat
      match firstSome (fun r => s.cur.spadBad (o + r.1) r.2) (weightRanges fmt mx sp pl) with
      | some b => stepFault 0x08 (windowVa b) s
      | none =>
        stepDone (s.modM (fun m => { m with weights := some ⟨fmt, mx, sp, pl, o, s.cur.spadBytes o n⟩ }))) s

/-! ### Multiply-accumulate (R438, R439) -/

/-- The element format of an activation format, whether it carries scales, and its bytes of elements. -/
def afFormat (af : Nat) : Nat × Bool × Nat :=
  match af with
  | 0 => (1, false, 8192)
  | 1 => (2, false, 4096)
  | 2 => (3, false, 4096)
  | 3 => (2, true, 4096)
  | 4 => (3, true, 4096)
  | 5 => (4, true, 2048)
  | _ => (6, false, 4096)

/-- Whether latched weights and an activation format pair (R439). -/
def afPairs (w : Weights) (af : Nat) : Bool :=
  match w.fmt with
  | 1 => af == 0
  | 4 => af == 5
  | 16 => af == 1 || af == 6
  | _ => decide (1 ≤ af ∧ af ≤ 4)

/-- Activation value a(r, k) under its scale (R438). -/
def actAt (a : Array Byte) (af r k : Nat) : Fv :=
  let (fmt, mx, _) := afFormat af
  let v := elemFv fmt (blockCode a fmt r k)
  if mx then v.scaled (arrNat a (16384 + 2 * r + k / 32) 1) else v

/-- The accumulator block after a multiply-accumulate (R438): one rounding of the exact sum per element. -/
def macBlock (w : Weights) (af : Nat) (act acc : List Byte) : List Byte :=
  let wa := w.data.toArray
  let aa := act.toArray
  let ca := acc.toArray
  let cols := ((List.range 64).map (fun n =>
    (List.range (if w.s then 32 else 64)).map (fun j => weightAt w wa j n)))
  (List.range 64).flatMap (fun r =>
    let row := ((List.range 64).map (fun k => actAt aa af r k)).toArray
    (cols.zipIdx).flatMap (fun (col, n) =>
      let sum := sumFv (col.map (fun p => (row.getD p.1 (.nan false)).mul p.2))
      let old := Fmt.fp32.decode (arrNat ca (256 * r + 4 * n) 4)
      toBytes 4 (Fmt.fp32.finish (old.add sum)).1))

/-- MMAC and MMACS once their fields are read: `raw` is the word (R438, R439, R446). -/
def macStep (sparse : Bool) (af : Nat) (ac : Bool) (raw : Word) (s : State) : State :=
  let m := s.cur.m
  match m.weights with
  | none => stepFault 0x01 raw s
  | some w =>
    if w.s ≠ sparse ∨ afPairs w af = false then stepFault 0x01 raw s
    else if tileIx m.act = false ∨ tileIx m.acc = false ∨ m.act = m.acc then stepFault 0x01 raw s
    else
      let act := m.act.toNat
      let acc := m.acc.toNat
      let (_, mx, n) := afFormat af
      let take (s : State) (bs : List Byte) : State :=
        -- the accumulator access, once the activation block has been read
        if s.cur.stepReady .update acc then
          if s.cur.tileBad acc 0 16384 then stepFault 0x08 0 s
          else
            stepDone (s.modCur (fun c =>
              (c.tileAfter .update acc).tilePut acc 0 (macBlock w af bs (c.tileBytes acc 0 16384))))
        else stepBlock acc .update s
      match m.first with
      | some bs => take s bs
      | none =>
        if s.cur.stepReady (.read ac) act then
          -- neither access is performed where either tile that is ready is poisoned (R446)
          if s.cur.tileBad act 0 n || (mx && s.cur.tileBad act 16384 128) ||
              (s.cur.stepReady .update acc && s.cur.tileBad acc 0 16384) then stepFault 0x08 0 s
          else
            let bs := s.cur.tileBytes act 0 (if mx then 16512 else n)
            take (s.modCur (fun c => { c.tileAfter (.read ac) act with
              m := { c.m with first := some bs, taken := if ac then some act else none } })) bs
        else stepBlock act (.read ac) s

def execMmac (p : Bool) (af : Nat) (ac : Bool) (s : State) : Meaning :=
  stepWhen p (macStep false af ac (rawWord (.mmac p af ac))) s
def execMmacs (p : Bool) (af : Nat) (ac : Bool) (s : State) : Meaning :=
  stepWhen p (macStep true af ac (rawWord (.mmacs p af ac))) s

/-! ### Drain, zero and compress (R440 to R442) -/

/-- The drained block and whether any product was NaN (R440). -/
def drainBlock (cfg : MConfig) (acc : List Byte) : List Byte × Bool :=
  let fmt := bits cfg.dctl.toNat 5 0
  let f := (fmtOf fmt).getD .fp32
  let mode := rmodeOf (bits cfg.dctl.toNat 8 6)
  let sat := bits cfg.dctl.toNat 9 9
  let ca := acc.toArray
  let scale := Fmt.fp32.decode cfg.dscale.toNat
  let vs := (List.range 4096).map (fun i => ((Fmt.fp32.decode (arrNat ca (4 * i) 4)).mul scale).getD (.nan false))
  (vs.flatMap (fun v => toBytes (fmtBits fmt / 8) (f.round mode sat 0 v).1), vs.any Fv.isNan)

/-- MDRN (R440). -/
def execMdrn (p dt cc ov : Bool) (s : State) : Meaning :=
  stepWhen p (fun s =>
    let m := s.cur.m
    let raw := rawWord (.mdrn p dt cc ov)
    let size := 4096 * (fmtBits (bits m.cfg.dctl.toNat 5 0) / 8)
    if tileIx m.acc = false ∨ (dt ∧ (tileIx m.dadr = false ∨ m.dadr = m.acc)) then stepFault 0x01 raw s
    else
      match if dt then none else blockFault m.dadr size with
      | some c => stepFault c (windowVa m.dadr) s
      | none =>
        let acc := m.acc.toNat
        let put (s : State) (bs : List Byte) : State :=
          let (out, nan) := drainBlock m.cfg bs
          let mark (s : State) : State :=
            if nan then s.markM (some acc) (fun m => { m with nan := m.nan ||| BitVec.ofNat 40 (2 ^ acc) }) else s
          if dt then
            if s.cur.stepReady (.write ov) m.dadr.toNat then
              stepDone (mark (s.modCur (fun c => (c.tileAfter (.write ov) m.dadr.toNat).tilePut m.dadr.toNat 0 out)))
            else stepBlock m.dadr.toNat (.write ov) (s.modM (fun m =>
              { m with first := some bs, taken := if cc then some acc else none }))
          else stepDone (mark (s.modCur (fun c => c.spadWrite m.dadr.toNat out)))
        match m.first with
        | some bs => put s bs
        | none =>
          if s.cur.stepReady (.read cc) acc then
            if s.cur.tileBad acc 0 16384 then stepFault 0x08 0 s
            else put (s.modCur (fun c => c.tileAfter (.read cc) acc)) (s.cur.tileBytes acc 0 16384)
          else stepBlock acc (.read cc) s) s

/-- MZERO (R441). -/
def execMzero (p ov : Bool) (s : State) : Meaning :=
  stepWhen p (fun s =>
    let m := s.cur.m
    if tileIx m.acc = false then stepFault 0x01 (rawWord (.mzero p ov)) s
    else
      let acc := m.acc.toNat
      if s.cur.stepReady (.write ov) acc then
        let s := s.modCur (fun c => (c.tileAfter (.write ov) acc).tilePut acc 0 (List.replicate 16384 0))
        stepDone (s.markM none (fun m => { m with nan := m.nan &&& ~~~(BitVec.ofNat 40 (2 ^ acc)) }))
      else stepBlock acc (.write ov) s) s

/-- Whether a value ranks above another for MCMP: NaN, infinity, then magnitude (R442). -/
def ranksAbove (a b : Fv) : Bool :=
  match a, b with
  | .nan _, .nan _ => false
  | .nan _, _ => true
  | _, .nan _ => false
  | a, b => b.abs.lt a.abs

/-- The indices of the `m` elements of greatest magnitude among four, ties to the lower, ascending. -/
def keepMost (m : Nat) (v : List Fv) : List Nat :=
  let rank (i : Nat) : Nat :=
    ((List.range v.length).filter (fun j =>
      let a := v.getD j (.nan false)
      let b := v.getD i (.nan false)
      ranksAbove a b || (decide (j < i) && !ranksAbove b a))).length
  (List.range v.length).filter (fun i => decide (rank i < m))

/-- The sparse block that MCMP writes (R442). -/
def compressBlock (fmt m : Nat) (src : List Byte) : List Byte :=
  let a := src.toArray
  let keep (n g : Nat) : List Nat := keepMost m ((List.range 4).map (fun i => elemFv fmt (blockCode a fmt (4 * g + i) n)))
  let cols := (List.range 64).map (fun n => (List.range 16).flatMap (fun g => (keep n g).map (fun i => (4 * g + i, i))))
  let code (j n : Nat) : Nat := blockCode a fmt (((cols.getD n []).getD j (0, 0)).1) n
  let elems := (List.range (16 * m)).flatMap (fun j =>
    if fmt = 4 then (List.range 32).map (fun i => BitVec.ofNat 8 (code j (2 * i) + 16 * code j (2 * i + 1)))
    else (List.range 64).flatMap (fun n => toBytes (fmtBits fmt / 8) (code j n)))
  elems ++ cols.flatMap (fun c => toBytes (4 * m) ((c.zipIdx).foldl (fun v p => v + p.1.2 * 4 ^ p.2) 0))

/-- MCMP (R442). -/
def execMcmp (p one : Bool) (fmt : Nat) (sc : Bool) (s : State) : Meaning :=
  stepWhen p (fun s =>
    let m := s.cur.m
    let keep := if one then 1 else 2
    let n := 512 * fmtBits fmt
    let size := 128 * fmtBits fmt * keep + 256 * keep
    if tileIx m.act = false then stepFault 0x01 (rawWord (.mcmp p one fmt sc)) s
    else
      match blockFault m.dadr size with
      | some c => stepFault c (windowVa m.dadr) s
      | none =>
        let act := m.act.toNat
        if s.cur.stepReady (.read sc) act then
          if s.cur.tileBad act 0 n then stepFault 0x08 0 s
          else
            stepDone (s.modCur (fun c =>
              (c.tileAfter (.read sc) act).spadWrite m.dadr.toNat (compressBlock fmt keep (c.tileBytes act 0 n))))
        else stepBlock act (.read sc) s) s

/-! ### Predicate, synchronisation and end (R443 to R445, R448) -/

/-- MPRED (R443). -/
def execMpred (cond lvl : Nat) (an inv : Bool) (s : State) : Meaning :=
  let m := s.cur.m
  if cond = 1 ∧ tileIx m.acc = false then .next (stepFault 0x01 (rawWord (.mpred cond lvl an inv)) s)
  else
    let c :=
      match cond with
      | 0 => true
      | 1 => !m.nan.getLsbD m.acc.toNat
      | 2 => m.ctr lvl == 0
      | _ => m.ctr lvl == (m.level lvl).trip - 1
    let c := c != inv
    .next (stepDone (s.modM (fun m => { m with mp := if an then m.mp && c else c })))

/-- MSYNC: every earlier step word is complete in this model, and SYNCS rises (R444). -/
def execMsync (s : State) : Meaning :=
  .next (stepDone (s.markM none (fun m => { m with syncs := (m.syncs + 1) % 2 ^ 16 })))

/-- The counters after an iteration, ML0 innermost; none after the last (R430). -/
def MatrixSt.nextIter (m : MatrixSt) : Nat → Nat → Option (Sparse Nat)
  | 0, _ => none
  | fuel + 1, n =>
    if m.ctr n + 1 < (m.level n).trip then some (sset 0 m.idx n (m.ctr n + 1))
    else MatrixSt.nextIter { m with idx := sset 0 m.idx n 0 } fuel (n + 1)

/-- MEND (R430, R431, R448): the next iteration, or the end of the nest, which NEST_END completes. -/
def execMend (s : State) : Meaning :=
  .next (s.modM (fun m =>
    let m := { m with stall := false, stallCnt := 0, first := none, fetch := {} }
    match m.nextIter 6 0 with
    | none => { m with ended := true }
    | some idx =>
      let m := { m with idx := idx, pc := m.start }
      if m.preempt ∧ m.cfg.plev ≤ 5 ∧ (List.range m.cfg.plev).all (fun n => m.ctr n == 0) = true then
        { m with stopped := true, preempt := false }
      else m))

def execMnop (s : State) : Meaning := .next (stepDone s)

/-- A step word of a core's nest: fetched, decoded, or ending the nest where it is none (R341, R446). The
first component is the word to execute. -/
def stepWord (core : Nat) (s : State) : State × Option Instr :=
  let pc := (s.core core).m.pc
  match fetchWord core .m pc.toNat 0 s with
  | (s, .word w) =>
    match decode .m (toBytes 4 w) with
    | .ok (i, _) => (s, some i)
    | .error _ => (nestFault core 0x01 0 (BitVec.ofNat 64 w) s, none)
  | (s, .fault e) => (nestFault core e.cause e.sub pc s, none)
  | (s, .wait) => (s, none)

end Sys2Proof.Machine
end

