-- ==== Sys2Proof/Machine/Access.lean ====
section
/-! DEFINITION. The accesses of a core's A-stream and of its words that reach memory: addresses and their
faults in order, loads, stores, remote requests and their waits, release and acquire (R257, R262, R263,
R267, R370 to R375, R484). -/

namespace Sys2Proof.Machine

/-! ### Addresses -/

/-- A run of an access's bytes in one page (R272). -/
structure Seg where
  va   : Nat
  len  : Nat
  pa   : Nat
  phys : Phys
  rc   : Bool
  deriving DecidableEq, Repr

/-- What an access's bytes name. -/
inductive Target
  | window (off : Nat)
  | segs (l : List Seg)
  deriving DecidableEq, Repr

/-- A translation moved by some bytes within its page. -/
def Xlat.back (x : Xlat) (n : Nat) : Xlat :=
  { x with
    pa := x.pa - n,
    phys := match x.phys with
      | .hbm l => .hbm { l with off := l.off - n }
      | .control o => .control (o - n)
      | .domain p => .domain (p - n)
      | .spad p => .spad (p - n)
      | .host a => .host (a - n) }

/-- Whether a segment's page is of SPACE 2. -/
def Seg.isSpad (g : Seg) : Bool := match g.phys with | .spad _ => true | _ => false

/-- The segments of `n` bytes from an address, given the translations of the first and of the last byte. -/
def segsOf (va n : Nat) (a b : Xlat) : List Seg :=
  let k := 2 ^ 16 - va % 2 ^ 16
  if n ≤ k then [⟨va, n, a.pa, a.phys, a.rc⟩]
  else
    let b := b.back (n - k - 1)
    [⟨va, k, a.pa, a.phys, a.rc⟩, ⟨va + k, n - k, b.pa, b.phys, b.rc⟩]

/-- The target of `n` bytes from an address by a translation function, with XLATE, NODEV and ATTRSPLIT in the order of
R484; where the scratchpad window is the accessor's own (`win`), an access partly in it raises ATTRSPLIT (R370). -/
def targetWith (xlat : Nat → State → State × Except MemErr Xlat) (win : Bool) (va n : Nat) (s : State) :
    State × Except MemErr Target :=
  let last := va + n - 1
  if win && inWindow va && decide (last < 2 ^ 64) then (s, .ok (.window (va % 2 ^ 21)))
  else if win && inWindow va then (s, .error .split)
  else if win && inWindow last then
    -- an address in the window is not translated, one outside it is (R484)
    match xlat va s with
    | (s, .error e) => (s, .error e)
    | (s, .ok _) => (s, .error .split)
  else
    match spanWith xlat va n s with
    | (s, .error e) => (s, .error e)
    | (s, .ok (a, b)) => (s, .ok (.segs (segsOf va n a b)))

/-- The target of a core's access (R251, R370, R484). -/
def findTarget (core va n : Nat) (write : Bool) (s : State) : State × Except MemErr Target :=
  targetWith (fun va s => coreXlat core va write s) true va n s

/-- Natural alignment of a scratchpad or SPACE 2 access, up to 64 bytes (R272). -/
def alignFault (va n : Nat) (t : Target) : Bool :=
  let bad := decide (va % min n 64 ≠ 0)
  match t with
  | .window _ => bad
  | .segs l => bad && l.any Seg.isSpad

/-! ### Remote requests that return -/

/-- How an access ends: with bytes, with a fault, or still waiting. -/
inductive Access
  | done (bs : List Byte)
  | fault (e : MemErr)
  | wait
  deriving DecidableEq, Repr

/-- One returning remote request of the stream in execution (R51, R55): sent, waited for, answered. -/
def remoteCall (kind : ReqKind) (va pa size : Nat) (data : List Byte) (ordered : Bool) (s : State) :
    State × Access :=
  let core := s.focus.core
  match s.strm.wait with
  | some w =>
    match w.result with
    | none => (s, .wait)
    | some (.data bs) | some (.versioned bs) => (s.modStrm (fun x => { x with wait := none }), .done bs)
    | some (.err e) => (s.modStrm (fun x => { x with wait := none, parts := [] }), .fault (.remote e))
  | none =>
    let (id, s) := s.fresh
    let s := s.modStrm (fun x => { x with wait := some ⟨id, none⟩ })
    (sendRequest core (.stream core s.focus.kind) (BitVec.ofNat 64 va)
      ⟨s.self, id, kind, pa, size, data, ordered, s.now⟩ s, .wait)

/-- The pieces of a remote read, at the REMOTE granule of 32 bytes (R271, R272): address, physical address,
length. -/
def remotePieces (l : List Seg) : List (Nat × Nat × Nat) :=
  l.flatMap (fun g => (pieces 32 g.pa g.len).map (fun p => (g.va + (p.1 - g.pa), p.1, p.2)))

/-- A remote read, piece by piece: a remote-cacheable piece that the caches hold is served from them, and one that arrives
is held, but for versioned data (R57, R275, R373); bytes that the core holds stand in the place of those that arrive
(R259). -/
def remoteRead (rc : Bool) : List (Nat × Nat × Nat) → Nat → State → State × Access
  | [], _, s => (s, .done s.strm.parts)
  | (va, pa, n) :: rest, skip, s =>
    if skip + n ≤ s.strm.parts.length then remoteRead rc rest (skip + n) s
    else
      let core := s.focus.core
      let keep (bs : List Byte) (s : State) : State :=
        s.modStrm (fun x => { x with parts := x.parts ++ (bs ++ List.replicate n 0).take n })
      match if rc && s.strm.wait.isNone then cacheRead s core pa n else none with
      | some bs => remoteRead rc rest (skip + n) (keep bs s)
      | none =>
        let held := s.strm.wait.any (fun w => w.result.any mayCache)
        match remoteCall .load va pa n [] false s with
        | (s, .done bs) =>
          let s := if rc then keep (overlay s core pa bs) (if held then fillRemote core pa bs s else s) else keep bs s
          remoteRead rc rest (skip + n) s
        | r => r

/-! ### Loads -/

/-- A load from one segment of local memory, the control window or the host (R86, R90, R250, R373). -/
def localLoad (core : Nat) (g : Seg) (s : State) : State × Except MemErr (List Byte) :=
  match g.phys with
  | .hbm l =>
    match l.ver with
    | none =>
      match loadAlloc core g.pa g.len s with
      | (s, some bs) => (s, .ok bs)
      | (s, none) => (s, .error .poison)
    | some _ =>
      (pieces 32 l.off g.len).foldl (fun acc p =>
        match acc with
        | (s, .ok bs) =>
          match versionedCached { l with off := p.1 } p.2 (s.ctx core) s with
          | (s, .ok more) => (s, .ok (bs ++ more))
          | (s, .error e) => (s, .error e)
        | r => r) (s, .ok [])
  | .control off => (s, .ok (regBytes s off g.len))
  | .host a => (s, .ok (hostBytes s a g.len))
  | _ => (s, .error .xlate)

/-- The bytes of a target, as the stream in execution loads them (R373). -/
def loadTarget (t : Target) (n : Nat) (s : State) : State × Access :=
  let core := s.focus.core
  match t with
  | .window off =>
    match s.cur.spadBad off n with
    | some _ => (s, .fault .poison)
    | none => (s, .done (s.cur.spadBytes off n))
  | .segs l =>
    if l.any (fun g => match g.phys with | .domain _ => true | .spad _ => true | _ => false) then
      remoteRead (l.any (fun g => g.rc)) (remotePieces l) 0 s
    else
      l.foldl (fun acc g =>
        match acc with
        | (s, .done bs) =>
          match localLoad core g s with
          | (s, .ok more) => (s, .done (bs ++ more))
          | (s, .error e) => (s, .fault e)
        | r => r) (s, .done [])

/-- A load of `n` bytes from an address, with its faults in order (R373, R484). -/
def loadBytes (va n : Nat) (s : State) : State × Access :=
  match findTarget s.focus.core va n false s with
  | (s, .error e) => (s, .fault e)
  | (s, .ok t) => if alignFault va n t then (s, .fault .align) else loadTarget t n s

/-! ### Stores -/

/-- Whether a store to a segment leaves the device as an acknowledged store (R374). -/
def leavesDevice (scope : Nat) (g : Seg) : Bool :=
  match g.phys with
  | .domain _ => !g.rc || scope == 4
  | .spad _ => true
  | _ => false

/-- Whether a core may not take another tl2 number (R375). -/
def tl2Full (s : State) (core : Nat) : Bool :=
  let t := (s.core core).tl 2
  decide (256 ≤ t.issued - t.passed)

/-- The next tl2 number of a core (R267). -/
def takeTl2 (core : Nat) (s : State) : Nat × State :=
  let s := s.modCore core (fun c => c.setTl 2 ((c.tl 2).issue 4))
  (((s.core core).tl 2).issued, s)

/-- A request that passes a tl2 number of the core when it is acknowledged (R53, R267). -/
def sendTl2 (core num : Nat) (kind : ReqKind) (va pa size : Nat) (data : List Byte) (ordered : Bool) (s : State) :
    State :=
  let (id, s) := s.fresh
  sendRequest core (.tl2 core num (s.core core).txst.tag none) (BitVec.ofNat 64 va)
    ⟨s.self, id, kind, pa, size, data, ordered, s.now⟩ s

/-- The requests of a remote store: its pieces at the 32-byte granule, in ascending order (R52, R271). -/
def sendStore (core num va pa : Nat) (bs : List Byte) (s : State) : State :=
  (pieces 32 pa bs.length).foldl (fun s p =>
    sendTl2 core num (.store false) (va + (p.1 - pa)) p.1 p.2 ((bs.drop (p.1 - pa)).take p.2) false s) s

/-- The pieces of a versioned store. -/
def versionedPieces (l : Loc) (bs : List Byte) : List (Loc × List Byte) :=
  (pieces 32 l.off bs.length).map (fun p => ({ l with off := p.1 }, (bs.drop (p.1 - l.off)).take p.2))

/-- The fault that a store to a versioned page meets (R87), with the state that the check of its piece leaves. -/
def versionedFault (core : Nat) (l : Loc) (bs : List Byte) (s : State) : Option (State × MemErr) :=
  firstSome (fun p =>
    match versionedSlot p.1.off ((p.1.ver.getD (0, 0)).2) (s.ctx core) .store s with
    | (s', .error e) => some (s', e)
    | _ => none) (versionedPieces l bs)

/-- A store to a versioned page, piece by piece (R87, R90). -/
def versionedWrite (core : Nat) (l : Loc) (bs : List Byte) (s : State) : State :=
  (versionedPieces l bs).foldl (fun s p =>
    dropBlock core p.1.off (homeStore p.1 p.2 (s.ctx core) .store s).1) s

/-- A segment's bytes of a store that starts at an address. -/
def Seg.part (g : Seg) (va : Nat) (bs : List Byte) : List Byte := (bs.drop (g.va - va)).take g.len

/-- The fault of a store's versioned segments: every piece is checked before any is written, so that a fault leaves none
behind (R88, R307, R374). The requests that wait for its blocks come first (R73). -/
def segsFault (core va : Nat) (l : List Seg) (bs : List Byte) (s : State) : Option (State × MemErr) :=
  firstSome (fun g =>
    match g.phys with
    | .hbm ⟨off, some p⟩ => versionedFault core ⟨off, some p⟩ (g.part va bs) s
    | _ => none) l

/-- The requests that wait for the blocks of a store's versioned segments are performed (R73). -/
def settleSegs (l : List Seg) (s : State) : State :=
  l.foldl (fun s g => match g.phys with | .hbm ⟨off, some _⟩ => reachRange s.focus.core off g.len s | _ => s) s

/-- A store of a core's A-stream to one segment, recorded at a scope (R257, R374): `num` is the tl2 number of
a store that leaves the device. -/
def storeSeg (core scope num : Nat) (g : Seg) (bs : List Byte) (s : State) : State :=
  match g.phys with
  | .hbm l =>
    match l.ver with
    | none => cacheWrite core g.pa bs scope s
    | some _ => versionedWrite core l bs s
  | .control off => controlWrite off bs s
  | .host a => hostWrite a bs s
  | .domain pa =>
    if g.rc && scope != 4 then cacheWrite core pa bs scope s
    else sendStore core num g.va pa bs (if g.rc then throughBytes core pa bs s else s)
  | .spad pa => sendStore core num g.va pa bs s

/-- The bytes stored to a target (R374): done, a fault, or stalled for a tl2 number (R375). -/
def storeTarget (t : Target) (scope : Nat) (bs : List Byte) (s : State) : State × Access :=
  let core := s.focus.core
  match t with
  | .window off => (s.modCur (fun c => c.spadWrite off bs), .done [])
  | .segs l =>
    if l.any (leavesDevice scope) && tl2Full s core then (s, .wait)
    else
      let s := settleSegs l s
      let va := match l with | g :: _ => g.va | [] => 0
      match segsFault core va l bs s with
      | some (s, e) => (s, .fault e)
      | none =>
        let (num, s) := if l.any (leavesDevice scope) then takeTl2 core s else (0, s)
        (settleUnrouted core num (l.foldl (fun s g => storeSeg core scope num g (g.part va bs) s) s), .done [])

/-- A store of bytes at an address, with its faults in order (R374, R484). -/
def storeBytes (va scope : Nat) (bs : List Byte) (s : State) : State × Access :=
  match findTarget s.focus.core va bs.length true s with
  | (s, .error e) => (s, .fault e)
  | (s, .ok t) => if alignFault va bs.length t then (s, .fault .align) else storeTarget t scope bs s

/-! ### Release and acquire (R262, R263) -/

/-- Whether what a release waits for is over (R262, R264): at stack and device scope the core's remote stores and atomics and
the write-backs of remote-cacheable lines that its quad sent, which may hold its stores (R258); at sys every remote store
and write-back of the device, since one of another core may happen before the release (DEDUCED, log 96). -/
def released (s : State) (core scope : Nat) : Bool :=
  if scope ≤ 1 then true
  else if scope < 4 then
    s.fab.flights.all (fun f =>
      match f.user with
      | .stream .. => true
      | .tl2 c .. => c != core
      | .ack c => c / 4 != core / 4)
  else s.fab.flights.all (fun f => match f.user with | .stream .. => true | _ => false)

/-- REL.S of the core: write-backs, and whether what it waits for is acknowledged (R262). -/
def release (core scope : Nat) (s : State) : State × Bool :=
  let s := releaseLines core scope s
  (s, released s core scope)

/-- ACQ.S of the core: every load and atomic has returned, since each holds its stream (R263). -/
def acquire (core scope : Nat) (s : State) : State := acquireLines core scope s

/-! ### M-format words (R371) -/

/-- The signed offset of an M-format word, in units of its access size (R371). -/
def offBytes (off : BitVec 10) (sz : Nat) : Word := BitVec.ofInt 64 (off.toInt * sz)

/-- The address of an M-format word (R371). -/
def mAddr (b : Nat) (post : Bool) (off : BitVec 10) (sz : Nat) (s : State) : Word :=
  if post then s.rd b else s.rd b + offBytes off sz

/-- The base register after an M-format word (R371). -/
def mBase (b : Nat) (post : Bool) (off : BitVec 10) (sz : Nat) (s : State) : State :=
  if post then s.wr b (s.rd b + offBytes off sz) else s

/-- An M-format word completes: `f` writes its result once its base is updated from the old value. -/
def mDone (b : Nat) (post : Bool) (off : BitVec 10) (sz : Nat) (f : State → State) (s : State) : State :=
  finish (f (mBase b post off sz s))

/-- An M-format word whose access is done under a true predicate; a false one only updates its base
(R371). -/
def mWord (b p : Nat) (post : Bool) (off : BitVec 10) (sz : Nat) (f : Nat → State → State) (s : State) : Meaning :=
  .next (if s.pr p then f (mAddr b post off sz s).toNat s else mDone b post off sz id s)

/-- The end of an access: its result, a precise fault, or the wait named. -/
def settle (a : Access) (va : Nat) (why : Stall) (ok : List Byte → State → State) (s : State) : State :=
  match a with
  | .done bs => ok bs s
  | .fault e => trapErr e (BitVec.ofNat 64 va) s
  | .wait => block why s

end Sys2Proof.Machine
end

