-- ==== Sys2Proof/Machine/Pred.lean ====
section
/-! DEFINITION. The predicate group (R359). -/

namespace Sys2Proof.Machine

/-- PCMP's conditions: EQ, NE, LT, GE, LTU, GEU. -/
def compare64 (cond : Nat) (x y : Word) : Bool :=
  match cond with
  | 0 => x == y
  | 1 => x != y
  | 2 => x.slt y
  | 3 => !x.slt y
  | 4 => x.ult y
  | _ => !x.ult y

/-- A word that writes one predicate and completes. -/
def predResult (d : Nat) (b : Bool) (s : State) : Meaning := .next (finish (s.wp d b))

/-- The predicates as a byte, bit 0 reading 1 (R359). -/
def StreamSt.predByte (x : StreamSt) : Nat := x.preds.toNat / 2 * 2 + 1

def execPcmp (d a b cond : Nat) (s : State) : Meaning := predResult d (compare64 cond (s.rd a) (s.rd b)) s
def execPand (d a b : Nat) (s : State) : Meaning := predResult d (s.pr a && s.pr b) s
def execPor (d a b : Nat) (s : State) : Meaning := predResult d (s.pr a || s.pr b) s
def execPnot (d a : Nat) (s : State) : Meaning := predResult d (!s.pr a) s
/-- PMOV by mode: predicate from register, register from predicate, all into a register, all from one. -/
def execPmov (d a mode : Nat) (s : State) : Meaning :=
  match mode with
  | 0 => predResult d (s.rd a != 0) s
  | 1 => result d (flag (s.pr a)) s
  | 2 => result d (BitVec.ofNat 64 s.strm.predByte) s
  | _ => .next (finish (s.modStrm (fun x => upTo 8 (fun i x => x.setPred i ((s.rd a).getLsbD i)) x)))

end Sys2Proof.Machine
end

