-- ==== Sys2Proof/Machine/Vector.lean ====
section
/-! DEFINITION. The vector words of the X-stream: positions and lanes, arithmetic, compare and select,
conversions, data movement, reductions and scans, random bits, queues and tiles, shape, masks and flags
(R236 to R242, R397 to R424). -/

namespace Sys2Proof.Machine

/-! ### Shape, registers and positions (R237, R238, R397) -/

/-- The element width in bytes: EW 3 acts as 0 (R237). -/
def CoreSt.vw (c : CoreSt) : Nat :=
  match bits c.vsh.toNat 1 0 with
  | 1 => 2
  | 2 => 1
  | _ => 4

/-- LEN after its cap (R237). -/
def CoreSt.vlen (c : CoreSt) : Nat := min (bits c.vsh.toNat 13 2) (2048 / c.vw)

/-- The tile-row view and its tile (R238). -/
def CoreSt.vtv (c : CoreSt) : Bool := c.vsh.getLsbD 14
def CoreSt.vtsel (c : CoreSt) : Nat := bits c.vsh.toNat 20 15

/-- The place of byte 0 of a register, or of a tile row under the view (R238). -/
def CoreSt.vplace (c : CoreSt) (r : Nat) : Nat :=
  if c.vtv ∧ 112 ≤ r then 2 ^ 18 + 32768 * c.vtsel + 2048 * (r - 112) else 2048 * r

/-- Whether a named register exists under the view (R238). -/
def CoreSt.vnameOk (c : CoreSt) (r : Nat) : Bool := !(c.vtv && decide (112 ≤ r ∧ 40 ≤ c.vtsel))

/-- A tile byte as vector words see it: under the writes of VMOVT that they do not see yet (R239, R418). -/
def CoreSt.viewByte (c : CoreSt) (place : Nat) : Byte :=
  c.pending.foldr (fun w v =>
    if w.early then w.bytes.foldl (fun v b => if b.place = place then v &&& ~~~b.mask ||| b.val &&& b.mask else v) v
    else v) (c.tileByte (place - 2 ^ 18))

/-- `n` bytes from a place. -/
def CoreSt.placeBytes (c : CoreSt) (p n : Nat) : List Byte :=
  if p < 2 ^ 18 then sread 0 c.vec p n else (List.range n).map (fun i => c.viewByte (p + i))

/-- Whether an 8-byte word of the tiles is poisoned as vector words see it (R239, R323, R418). -/
def CoreSt.viewBad (c : CoreSt) (k : Nat) : Bool :=
  c.pending.foldr (fun w v =>
    if w.early && w.bytes.any (fun b => b.place / 8 == 2 ^ 15 + k) then sget false w.bad k else v) (sget false c.tilePois k)

/-- Whether one of `n` bytes from a place is poisoned (R323). -/
def CoreSt.placeBad (c : CoreSt) (p n : Nat) : Bool :=
  let (l, q) := if p < 2 ^ 18 then (c.vecPois, p) else (c.tilePois, p - 2 ^ 18)
  if 2 ^ 18 ≤ p ∧ c.pending.any (fun w => w.early) then
    (List.range ((q + n + 7) / 8 - q / 8)).any (fun i => c.viewBad (q / 8 + i))
  else l.any (fun e => e.2 && decide (q / 8 ≤ e.1 ∧ e.1 * 8 < q + n))

/-- Whether a write to a register or tile row is still in exposure (R242). -/
def CoreSt.placePending (c : CoreSt) (p : Nat) : Bool :=
  c.pending.any (fun w => w.bytes.any (fun b => decide (p ≤ b.place ∧ b.place < p + 2048)))

/-- The top of the mask stack. -/
def CoreSt.top (c : CoreSt) : BitVec 2048 := c.mstack.headD 0

/-- Whether the mask lets position `i` be written (R397). -/
def CoreSt.unmasked (c : CoreSt) (mk : Bool) (i : Nat) : Bool := !mk || c.top.getLsbD i

/-- The enabled positions among the first `n` (R397). -/
def CoreSt.enabled (c : CoreSt) (mk : Bool) (n : Nat) : List Nat := (List.range n).filter (c.unmasked mk)

/-- Element `i` of a row of elements of `w` bits (R282, R397). -/
def elemOf (w i : Nat) (row : Array Byte) : Nat :=
  if w = 4 then bits (arrNat row (i / 2) 1) (4 * (i % 2) + 3) (4 * (i % 2)) else arrNat row (w / 8 * i) (w / 8)

/-- The bytes of element `i`, of `w` bits, of a register at a place: a nibble writes its half (R407). -/
def elemBytes (w i place code : Nat) : List VByte :=
  if w = 4 then
    [⟨place + i / 2, BitVec.ofNat 8 (code % 16 * 16 ^ (i % 2)), BitVec.ofNat 8 (15 * 16 ^ (i % 2))⟩]
  else ((toBytes (w / 8) code).zipIdx).map (fun p => ⟨place + w / 8 * i + p.2, p.1, 0xFF⟩)

/-- A vector word's effects: the bytes it writes and the flags it raises by lane. -/
structure VEffect where
  bytes : List VByte
  flags : List (Nat × Flags)

/-- Flags of a vector word raised in their lanes, unless NF is 1 (R399). -/
def CoreSt.raiseLanes (c : CoreSt) (nf : Bool) (l : List (Nat × Flags)) : CoreSt :=
  if nf then c else l.foldl (fun c p => if p.2 = 0 then c else c.raiseLane (p.1 % 512) p.2) c

/-- A vector word: `names` are the registers its fields name, `reads` those it reads with the byte, count of bytes
and the first of them, `ok` the checks of its own definition (R397, R398). It traps ILLEGAL, VHAZARD (R242) or POISON
(R323), or has its effect with exposed latency `lat` (R239). -/
def vectorWordAt (i : Instr) (ok : Bool) (names : List Nat) (reads : List (Nat × Nat × Nat)) (nf : Bool) (lat : Nat)
    (f : CoreSt → VEffect) (s : State) : Meaning :=
  let c := s.cur
  .next <|
    if !ok || !names.all c.vnameOk then illegal i s
    else
      match if c.vpend then reads.find? (fun r => decide (r.2.2 ≠ 0) && c.placePending (c.vplace r.1)) else none with
      | some r => trap 0x0D 0 (BitVec.ofNat 64 r.1) s
      | none =>
        if reads.any (fun r => c.placeBad (c.vplace r.1 + r.2.1) r.2.2) then unitPoison s
        else
          let e := f c
          (finishSize (instrSize i) s).modCur (fun c => (c.raiseLanes nf e.flags).expose e.bytes lat)

/-- A vector word whose reads start at byte 0 of each register: `reads` gives the registers with their bytes. -/
def vectorWord (i : Instr) (ok : Bool) (names : List Nat) (reads : List (Nat × Nat)) (nf : Bool) (lat : Nat)
    (f : CoreSt → VEffect) (s : State) : Meaning :=
  vectorWordAt i ok names (reads.map (fun r => (r.1, 0, r.2))) nf lat f s

/-- The registers' rows as arrays. -/
def CoreSt.row (c : CoreSt) (r n : Nat) : Array Byte := (c.placeBytes (c.vplace r) n).toArray

/-- An element-wise word over registers `srcs`: `g` gives each enabled position's code and flags from its
source codes (R397). -/
def eachElem (i : Instr) (vd : Nat) (srcs : List Nat) (nf mk fp : Bool) (lat : Nat)
    (g : Nat → List Nat → Nat × Flags) (s : State) : Meaning :=
  let c := s.cur
  let w := c.vw
  let n := c.vlen
  vectorWord i (!(fp && w == 1)) (vd :: srcs) (srcs.map (fun r => (r, w * n))) nf lat (fun c =>
    let rows := srcs.map (fun r => c.row r (w * n))
    let out := (c.enabled mk n).map (fun p => (p, g p (rows.map (elemOf (8 * w) p))))
    { bytes := out.flatMap (fun o => elemBytes (8 * w) o.1 (c.vplace vd) o.2.1),
      flags := out.map (fun o => (w * o.1 / 4, o.2.2)) }) s

/-- The element format of an FP word (R397). -/
def CoreSt.vfmt (c : CoreSt) : Fmt := if c.vw = 4 then .fp32 else .bf16

/-- The `k`-th source code. -/
def src (l : List Nat) (k : Nat) : Nat := l.getD k 0

/-- An FP word of two sources. -/
def fp2 (i : Instr) (vd va vb : Nat) (nf mk : Bool) (lat : Nat) (f : Fmt → Nat → Nat → Nat × Flags) (s : State) : Meaning :=
  eachElem i vd [va, vb] nf mk true lat (fun _ l => f s.cur.vfmt (src l 0) (src l 1)) s

/-- An FP word of one source. -/
def fp1 (i : Instr) (vd va : Nat) (nf mk : Bool) (lat : Nat) (f : Fmt → Nat → Nat × Flags) (s : State) : Meaning :=
  eachElem i vd [va] nf mk true lat (fun _ l => f s.cur.vfmt (src l 0)) s

/-- A fused multiply-add on the old destination (R400). -/
def fp3 (i : Instr) (vd va vb : Nat) (nf mk negP negD : Bool) (s : State) : Meaning :=
  eachElem i vd [va, vb, vd] nf mk true 4 (fun _ l => s.cur.vfmt.ffma negP negD (src l 0) (src l 1) (src l 2)) s

/-- An integer word of two sources on elements of `w` bits (R402). -/
def int2 (i : Instr) (vd va vb : Nat) (nf mk : Bool) (lat : Nat) (f : Nat → Nat → Nat → Nat) (s : State) : Meaning :=
  eachElem i vd [va, vb] nf mk false lat (fun _ l =>
    (f (8 * s.cur.vw) (src l 0) (src l 1) % 2 ^ (8 * s.cur.vw), 0)) s

/-! ### Arithmetic (R400 to R403) -/

def execVadd (vd va vb : Nat) (nf mk : Bool) (s : State) : Meaning :=
  fp2 (.vadd vd va vb nf mk) vd va vb nf mk 4 Fmt.fadd s
def execVsub (vd va vb : Nat) (nf mk : Bool) (s : State) : Meaning :=
  fp2 (.vsub vd va vb nf mk) vd va vb nf mk 4 Fmt.fsub s
def execVmul (vd va vb : Nat) (nf mk : Bool) (s : State) : Meaning :=
  fp2 (.vmul vd va vb nf mk) vd va vb nf mk 4 Fmt.fmul s
def execVfma (vd va vb : Nat) (nf mk : Bool) (s : State) : Meaning :=
  fp3 (.vfma vd va vb nf mk) vd va vb nf mk false false s
def execVfms (vd va vb : Nat) (nf mk : Bool) (s : State) : Meaning :=
  fp3 (.vfms vd va vb nf mk) vd va vb nf mk false true s
def execVfnma (vd va vb : Nat) (nf mk : Bool) (s : State) : Meaning :=
  fp3 (.vfnma vd va vb nf mk) vd va vb nf mk true false s
def execVmin (vd va vb : Nat) (nf mk : Bool) (s : State) : Meaning :=
  fp2 (.vmin vd va vb nf mk) vd va vb nf mk 4 Fmt.fmin s
def execVmax (vd va vb : Nat) (nf mk : Bool) (s : State) : Meaning :=
  fp2 (.vmax vd va vb nf mk) vd va vb nf mk 4 Fmt.fmax s
def execVabs (vd va : Nat) (nf mk : Bool) (s : State) : Meaning := fp1 (.vabs vd va nf mk) vd va nf mk 1 Fmt.fabs s
def execVneg (vd va : Nat) (nf mk : Bool) (s : State) : Meaning := fp1 (.vneg vd va nf mk) vd va nf mk 1 Fmt.fneg s
def execVrcp (vd va : Nat) (nf mk : Bool) (s : State) : Meaning := fp1 (.vrcp vd va nf mk) vd va nf mk 12 Fmt.frcp s
def execVrsq (vd va : Nat) (nf mk : Bool) (s : State) : Meaning := fp1 (.vrsq vd va nf mk) vd va nf mk 12 Fmt.frsq s
def execVsqrt (vd va : Nat) (nf mk : Bool) (s : State) : Meaning :=
  fp1 (.vsqrt vd va nf mk) vd va nf mk 12 Fmt.fsqrt s
def execVexp2 (vd va : Nat) (nf mk : Bool) (s : State) : Meaning :=
  fp1 (.vexp2 vd va nf mk) vd va nf mk 12 Fmt.fexp2 s
def execVlog2 (vd va : Nat) (nf mk : Bool) (s : State) : Meaning :=
  fp1 (.vlog2 vd va nf mk) vd va nf mk 12 Fmt.flog2 s
def execVdiv (vd va vb : Nat) (nf mk : Bool) (s : State) : Meaning :=
  fp2 (.vdiv vd va vb nf mk) vd va vb nf mk 12 Fmt.fdiv s
def execViadd (vd va vb : Nat) (nf mk : Bool) (s : State) : Meaning :=
  int2 (.viadd vd va vb nf mk) vd va vb nf mk 1 (fun _ a b => a + b) s
def execVisub (vd va vb : Nat) (nf mk : Bool) (s : State) : Meaning :=
  int2 (.visub vd va vb nf mk) vd va vb nf mk 1 (fun w a b => a + 2 ^ w - b) s
def execVimul (vd va vb : Nat) (nf mk : Bool) (s : State) : Meaning :=
  int2 (.vimul vd va vb nf mk) vd va vb nf mk 4 (fun _ a b => a * b) s
def execVimulh (vd va vb : Nat) (nf mk : Bool) (s : State) : Meaning :=
  int2 (.vimulh vd va vb nf mk) vd va vb nf mk 4 (fun w a b => wrap (sx a w * sx b w / 2 ^ w) w) s
def execVand (vd va vb : Nat) (nf mk : Bool) (s : State) : Meaning :=
  int2 (.vand vd va vb nf mk) vd va vb nf mk 1 (fun _ a b => a &&& b) s
def execVor (vd va vb : Nat) (nf mk : Bool) (s : State) : Meaning :=
  int2 (.vor vd va vb nf mk) vd va vb nf mk 1 (fun _ a b => a ||| b) s
def execVxor (vd va vb : Nat) (nf mk : Bool) (s : State) : Meaning :=
  int2 (.vxor vd va vb nf mk) vd va vb nf mk 1 (fun _ a b => a ^^^ b) s
def execVshl (vd va vb : Nat) (nf mk : Bool) (s : State) : Meaning :=
  int2 (.vshl vd va vb nf mk) vd va vb nf mk 1 (fun w a b => a * 2 ^ (b % w)) s
def execVshr (vd va vb : Nat) (nf mk : Bool) (s : State) : Meaning :=
  int2 (.vshr vd va vb nf mk) vd va vb nf mk 1 (fun w a b => a / 2 ^ (b % w)) s
def execVsra (vd va vb : Nat) (nf mk : Bool) (s : State) : Meaning :=
  int2 (.vsra vd va vb nf mk) vd va vb nf mk 1 (fun w a b => wrap (sx a w / 2 ^ (b % w)) w) s
def execVimin (vd va vb : Nat) (nf mk : Bool) (s : State) : Meaning :=
  int2 (.vimin vd va vb nf mk) vd va vb nf mk 1 (fun w a b => if sx b w < sx a w then b else a) s
def execVimax (vd va vb : Nat) (nf mk : Bool) (s : State) : Meaning :=
  int2 (.vimax vd va vb nf mk) vd va vb nf mk 1 (fun w a b => if sx a w < sx b w then b else a) s

/-- VCLMUL: each even position's product over two positions (R403). -/
def execVclmul (vd va vb : Nat) (nf mk : Bool) (s : State) : Meaning :=
  let c := s.cur
  let w := 8 * c.vw
  let n := c.vlen
  vectorWord (.vclmul vd va vb nf mk) true [vd, va, vb] [(va, w / 8 * n), (vb, w / 8 * n)] nf 4 (fun c =>
    let a := c.row va (w / 8 * n)
    let b := c.row vb (w / 8 * n)
    { bytes := (c.enabled mk n).flatMap (fun i =>
        let p := clmulNat w (elemOf w (i / 2 * 2) a) (elemOf w (i / 2 * 2) b)
        elemBytes w i (c.vplace vd) (if i % 2 = 0 then p % 2 ^ w else p / 2 ^ w)),
      flags := [] }) s

/-! ### Compare and select (R404, R405) -/

/-- A comparison by its code, with flags (R404). -/
def vcompare (f : Fmt) (w cond a b : Nat) : Bool × Flags :=
  match cond with
  | 0 => f.feq a b
  | 1 => f.flt a b
  | 2 => f.fle a b
  | 3 =>
    let x := f.decode a
    let y := f.decode b
    (x.isNan || y.isNan, if x.sig || y.sig then fNV else 0)
  | 4 => (a == b, 0)
  | 5 => (a != b, 0)
  | 6 => (decide (sx a w < sx b w), 0)
  | 7 => (!decide (sx a w < sx b w), 0)
  | 8 => (decide (a < b), 0)
  | _ => (!decide (a < b), 0)

def execVcmp (vd va vb : Nat) (nf mk : Bool) (cond : Nat) (s : State) : Meaning :=
  eachElem (.vcmp vd va vb nf mk cond) vd [va, vb] nf mk (decide (cond < 4)) 1 (fun _ l =>
    let w := 8 * s.cur.vw
    let r := vcompare s.cur.vfmt w cond (src l 0) (src l 1)
    (if r.1 then 2 ^ w - 1 else 0, r.2)) s

/-- VSEL: bitwise by the old destination (R405). -/
def execVsel (vd va vb : Nat) (nf mk : Bool) (s : State) : Meaning :=
  eachElem (.vsel vd va vb nf mk) vd [va, vb, vd] nf mk false 1 (fun _ l =>
    let ones := 2 ^ (8 * s.cur.vw) - 1
    ((src l 0 &&& src l 2) ||| (src l 1 &&& (ones - src l 2)), 0)) s

/-! ### Conversions (R406 to R409) -/

/-- The key and counter of a register's first 24 bytes (R407, R415). -/
def keyOf (row : Array Byte) : Nat × Nat := (arrNat row 0 8, arrNat row 8 16)

/-- VCVT (R407). -/
def execVcvt (vd va vb : Nat) (nf mk : Bool) (src dst mode : Nat) (sat : Bool) (s : State) : Meaning :=
  let ws := fmtBits src
  let wd := fmtBits dst
  let n := min s.cur.vlen (16384 / max ws wd)
  let sr := mode == 4
  vectorWord (.vcvt vd va vb nf mk src dst mode sat) true (if sr then [vd, va, vb] else [vd, va])
    ((va, (ws * n + 7) / 8) :: if sr then [(vb, 24)] else []) nf 4 (fun c =>
    let a := c.row va ((ws * n + 7) / 8)
    let (key, ctr) := if sr then keyOf (c.row vb 24) else (0, 0)
    let out := (c.enabled mk n).map (fun i =>
      (i, convert dst mode sat.toNat (if sr then rbits key ctr i else 0) (elemFv src (elemOf ws i a)) wd))
    { bytes := out.flatMap (fun o => elemBytes wd o.1 (c.vplace vd) o.2.1),
      flags := out.map (fun o => (wd * o.1 / 32, o.2.2)) }) s

/-- VPACK (R408). -/
def execVpack (vd va vb : Nat) (nf mk : Bool) (src dst mode : Nat) (sat : Bool) (s : State) : Meaning :=
  let ws := fmtBits src
  let wd := fmtBits dst
  let ns := 16384 / ws
  let n := min s.cur.vlen (2 * ns)
  vectorWord (.vpack vd va vb nf mk src dst mode sat) true [vd, va, vb]
    [(va, ws / 8 * min n ns), (vb, ws / 8 * (n - ns))] nf 4 (fun c =>
    let a := c.row va (ws / 8 * min n ns)
    let b := c.row vb (ws / 8 * (n - ns))
    let out := (c.enabled mk n).map (fun i =>
      (i, convert dst mode sat.toNat 0 (elemFv src (if i < ns then elemOf ws i a else elemOf ws (i - ns) b)) wd))
    { bytes := out.flatMap (fun o => elemBytes wd o.1 (c.vplace vd) o.2.1),
      flags := out.map (fun o => (wd * o.1 / 32, o.2.2)) }) s

/-- VUNPK: exact widening, no flag (R409). -/
def execVunpk (vd va : Nat) (nf mk : Bool) (src dst : Nat) (half : Bool) (s : State) : Meaning :=
  let ws := fmtBits src
  let wd := fmtBits dst
  let nd := 16384 / wd
  let n := min s.cur.vlen nd
  let first := if half then nd else 0
  vectorWordAt (.vunpk vd va nf mk src dst half) true [vd, va] [(va, first * ws / 8, (n * ws + 7) / 8)] nf 4 (fun c =>
    let a := c.row va (ws / 8 * (first + n))
    { bytes := (c.enabled mk n).flatMap (fun i =>
        elemBytes wd i (c.vplace vd) (convert dst 0 1 0 (elemFv src (elemOf ws (first + i) a)) wd).1),
      flags := [] }) s

/-! ### Moving data (R410 to R412) -/

/-- VPERM (R410). -/
def execVperm (vd va vb : Nat) (nf mk : Bool) (s : State) : Meaning :=
  let w := s.cur.vw
  let n := s.cur.vlen
  vectorWord (.vperm vd va vb nf mk) true [vd, va, vb] [(va, 2048), (vb, w * n)] nf 4 (fun c =>
    let a := c.row va 2048
    let b := c.row vb (w * n)
    { bytes := (c.enabled mk n).flatMap (fun i =>
        let x := elemOf (8 * w) i b
        elemBytes (8 * w) i (c.vplace vd) (if x < 2048 / w then elemOf (8 * w) x a else 0)),
      flags := [] }) s

/-- The source of position `i` under a pattern: an index into the `2n` elements of both sources, or none for
0 (R411). -/
def shuffleIx (pat k n i : Nat) : Option Nat :=
  match pat with
  | 0 => some ((i + k) % n)
  | 1 => if i + k < 2 * n then some (i + k) else none
  | 2 => some (if i % 2 = 0 then i / 2 else n + i / 2)
  | 3 => some (if i % 2 = 0 then n / 2 + i / 2 else n + n / 2 + i / 2)
  | 4 => some (2 * i)
  | _ => some (2 * i + 1)

/-- VSHUF (R411). -/
def execVshuf (vd va vb : Nat) (nf mk : Bool) (pat k : Nat) (s : State) : Meaning :=
  let w := s.cur.vw
  let n := s.cur.vlen
  vectorWord (.vshuf vd va vb nf mk pat k) true [vd, va, vb] [(va, w * n), (vb, w * n)] nf 4 (fun c =>
    let a := c.row va (w * n)
    let b := c.row vb (w * n)
    { bytes := (c.enabled mk n).flatMap (fun i =>
        elemBytes (8 * w) i (c.vplace vd) (match shuffleIx pat k n i with
          | some j => if j < n then elemOf (8 * w) j a else elemOf (8 * w) (j - n) b
          | none => 0)),
      flags := [] }) s

/-- One code written at every enabled position (R412). -/
def broadcast (i : Instr) (vd code : Nat) (nf mk : Bool) (s : State) : Meaning :=
  eachElem i vd [] nf mk false 1 (fun _ _ => (code % 2 ^ (8 * s.cur.vw), 0)) s

def execVbcast (vd a : Nat) (nf mk : Bool) (s : State) : Meaning :=
  broadcast (.vbcast vd a nf mk) vd (s.rd a).toNat nf mk s
def execVldi (vd : Nat) (nf mk : Bool) (imm : BitVec 32) (s : State) : Meaning :=
  broadcast (.vldi vd nf mk imm) vd imm.toNat nf mk s

/-! ### Reductions and scans (R303, R304, R413, R414) -/

/-- An element as a partial: BF16 as the FP32 code of its value. -/
def widen (f : Fmt) (x : Nat) : Nat := if f = .bf16 then x * 2 ^ 16 else x

/-- The combine of a reduction or scan operator, floating-point partials in FP32 (R413). -/
def redOp (op w a b : Nat) : Nat × Flags :=
  match op with
  | 0 => Fmt.fp32.fadd a b
  | 1 => Fmt.fp32.fmin a b
  | 2 => Fmt.fp32.fmax a b
  | 3 => Fmt.fp32.famax a b
  | 4 => ((a + b) % 2 ^ w, 0)
  | 5 => (if sx b w < sx a w then b else a, 0)
  | 6 => (if sx a w < sx b w then b else a, 0)
  | 7 => (min a b, 0)
  | 8 => (max a b, 0)
  | 9 => (a &&& b, 0)
  | 10 => (a ||| b, 0)
  | _ => (a ^^^ b, 0)

/-- The identity of an operator (R413); for floating point an FP32 code. -/
def redIdentity (op w : Nat) : Nat :=
  match op with
  | 1 => 0x7F800000
  | 2 => 0xFF800000
  | 5 => 2 ^ (w - 1) - 1
  | 6 => 2 ^ (w - 1)
  | 7 => 2 ^ w - 1
  | 9 => 2 ^ w - 1
  | _ => 0

/-- A partial finished to the element format: one rounding of an FP32 code, or the integer (R413). -/
def redFinish (op : Nat) (f : Fmt) (x : Nat) : Nat × Flags :=
  if op < 4 ∨ op = 12 then f.rne (Fmt.fp32.decode x) else (x, 0)

/-- VREDS (R303, R413). -/
def execVreds (vd va : Nat) (nf mk : Bool) (op : Nat) (s : State) : Meaning :=
  let w := s.cur.vw
  let n := s.cur.vlen
  vectorWord (.vreds vd va nf mk op) (!(decide (op < 4) && w == 1)) [vd, va] [(va, w * n)] nf 12 (fun c =>
    let a := c.row va (w * n)
    let x (i : Nat) : Option (Nat × Flags) :=
      if i < n && c.unmasked mk i then
        let e := elemOf (8 * w) i a
        some (if op = 3 then Fmt.fp32.fabs (widen c.vfmt e) else (if op < 4 then widen c.vfmt e else e, 0))
      else none
    let r := (treeNode (combine (redOp op (8 * w))) x (ceilLog2 n) 0).getD (redIdentity op (8 * w), 0)
    let q := redFinish op c.vfmt r.1
    { bytes := elemBytes (8 * w) 0 (c.vplace vd) q.1, flags := [(0, r.2 ||| q.2)] }) s

/-- What a scan carries: the local results of one cluster, its total, and the flags by position (R304). -/
def scanCluster {α : Type} (f : α → α → α × Flags) (x : Nat → Option α) (js : List Nat) :
    List (Nat × α × Flags) × Option α :=
  js.foldl (fun acc j =>
    match x j with
    | none => acc
    | some v =>
      let (l, fl) := match acc.2 with | some t => f t v | none => (v, 0)
      (acc.1 ++ [(j, l, fl)], some l)) ([], none)

/-- The scan of R304: each taking part position's value, and flags by position; a carry's flags stand at its
cluster's first position. -/
def scanAll {α : Type} (f : α → α → α × Flags) (x : Nat → Option α) (n ge : Nat) :
    List (Nat × α) × List (Nat × Flags) :=
  let cl := (List.range ((n + ge - 1) / ge)).map (fun c =>
    (c, scanCluster f x ((List.range ge).filterMap (fun i => if c * ge + i < n then some (c * ge + i) else none))))
  let step (a : List (Nat × α) × List (Nat × Flags) × Option (α × Flags))
      (p : Nat × List (Nat × α × Flags) × Option α) :
      List (Nat × α) × List (Nat × Flags) × Option (α × Flags) :=
    let first := p.1 * ge
    let (ys, fs, k) := a
    let fs := match k with | some (_, fl) => fs ++ [(first, fl)] | none => fs
    let fs := fs ++ p.2.1.map (fun l => (l.1, l.2.2))
    let outs := p.2.1.map (fun l =>
      match k with
      | some (c, _) => let r := f c l.2.1; (l.1, r.1, r.2)
      | none => (l.1, l.2.1, (0 : Flags)))
    let k' :=
      match p.2.2, k with
      | some t, some (c, _) => some (f c t)
      | some t, none => some (t, (0 : Flags))
      | none, some (c, _) => some (c, (0 : Flags))
      | none, none => none
    (ys ++ outs.map (fun o => (o.1, o.2.1)), fs ++ outs.map (fun o => (o.1, o.2.2)), k')
  let r := cl.foldl step ([], [], none)
  (r.1, r.2.1)

/-- VSCAN (R304, R305, R414). -/
def execVscan (vd va vb : Nat) (nf mk : Bool) (op : Nat) (s : State) : Meaning :=
  let w := s.cur.vw
  let n := s.cur.vlen
  let fp := decide (op < 4 ∨ op = 12)
  let ge := 64 / w
  if op = 12 then
    vectorWord (.vscan vd va vb nf mk op) (w != 1) [vd, vd + 1, va, vb] [(va, w * n), (vb, w * n)] nf 12 (fun c =>
      let a := c.row va (w * n)
      let b := c.row vb (w * n)
      let r := scanAll linrec (fun i =>
        if c.unmasked mk i then some (widen c.vfmt (elemOf (8 * w) i a), widen c.vfmt (elemOf (8 * w) i b))
        else none) n ge
      let out := r.1.map (fun y => (y.1, redFinish 12 c.vfmt y.2.1, redFinish 12 c.vfmt y.2.2))
      { bytes := out.flatMap (fun o => elemBytes (8 * w) o.1 (c.vplace vd) o.2.1.1 ++
          elemBytes (8 * w) o.1 (c.vplace (vd + 1)) o.2.2.1),
        flags := (r.2 ++ out.map (fun o => (o.1, o.2.1.2 ||| o.2.2.2))).map (fun p => (w * p.1 / 4, p.2)) }) s
  else
    vectorWord (.vscan vd va vb nf mk op) (!(fp && w == 1)) [vd, va] [(va, w * n)] nf 12 (fun c =>
      let a := c.row va (w * n)
      let r := scanAll (redOp op (8 * w)) (fun i =>
        if c.unmasked mk i then some (if fp then widen c.vfmt (elemOf (8 * w) i a) else elemOf (8 * w) i a)
        else none) n ge
      let out := r.1.map (fun y => (y.1, redFinish op c.vfmt y.2))
      { bytes := out.flatMap (fun o => elemBytes (8 * w) o.1 (c.vplace vd) o.2.1),
        flags := (r.2 ++ out.map (fun o => (o.1, o.2.2))).map (fun p => (w * p.1 / 4, p.2)) }) s

/-- VRNG (R415). -/
def execVrng (vd va : Nat) (nf mk : Bool) (s : State) : Meaning :=
  let w := s.cur.vw
  let n := s.cur.vlen
  vectorWord (.vrng vd va nf mk) true [vd, va] [(va, 24)] nf 12 (fun c =>
    let (key, ctr) := keyOf (c.row va 24)
    { bytes := (c.enabled mk n).flatMap (fun i =>
        elemBytes (8 * w) i (c.vplace vd) (rbits key ctr i % 2 ^ (8 * w))),
      flags := [] }) s

/-! ### Queues and tiles (R416 to R418) -/

/-- The entries of a queue: LQ0–LQ3, SQ0, SQ1, BQA, BQX as 0–7. -/
def CoreSt.queue (c : CoreSt) (q : Nat) : List QEntry := sget [] c.queues q

/-- The entries of a queue replaced. -/
def CoreSt.setQueue (c : CoreSt) (q : Nat) (l : List QEntry) : CoreSt := { c with queues := sset [] c.queues q l }

/-- The entries a queue holds at most: DEPTH, or 16 for BQA and BQX (R228, R230). -/
def CoreSt.queueDepth (c : CoreSt) (q : Nat) : Nat := if 6 ≤ q then 16 else cfgDepth c.coreCfg.toNat q

/-- Whether a queue is one of vector entries in use (R228, R416). -/
def CoreSt.vectorQueue (c : CoreSt) (q : Nat) : Bool :=
  cfgVec c.coreCfg.toNat q && decide (c.queueDepth q ≠ 0)

/-- The bytes of a whole register or tile. -/
def wholeBytes (place : Nat) (bs : List Byte) : List VByte := (bs.zipIdx).map (fun p => ⟨place + p.2, p.1, 0xFF⟩)

/-- VPOP (R416). -/
def execVpop (vd q : Nat) (m : Bool) (n : Nat) (nf : Bool) (s : State) : Meaning :=
  let i : Instr := .vpop vd q m n nf
  let c := s.cur
  if !c.vectorQueue q || !c.vnameOk vd then .next (illegal i s)
  else
    match c.queue q with
    | [] => .next (block .queue s)
    | e :: rest =>
      if e.poison then .next (unitPoison s)
      else
        vectorWord i true [vd] [] nf 4 (fun c => ⟨wholeBytes (c.vplace vd) e.data, []⟩)
          (s.modCur (fun c =>
            let c := c.setQueue q rest
            if m then { c with masks := sput c.masks n (if e.null then 0 else BitVec.allOnes 2048) } else c))

/-- VPUSH (R417). -/
def execVpush (q va : Nat) (nf : Bool) (s : State) : Meaning :=
  let i : Instr := .vpush q va nf
  let c := s.cur
  let k := 4 + q
  if !c.vectorQueue k || !c.vnameOk va then .next (illegal i s)
  else if c.queueDepth k ≤ (c.queue k).length then
    -- a hazard or poison is found before the word executes, whatever the queue holds
    if c.vpend && c.placePending (c.vplace va) then .next (trap 0x0D 0 (BitVec.ofNat 64 va) s)
    else .next (block .queue s)
  else
    match vectorWord i true [va] [(va, 2048)] nf 4 (fun _ => ⟨[], []⟩) s with
    | .next t =>
      if c.vpend && c.placePending (c.vplace va) then .next t
      else if c.placeBad (c.vplace va) 2048 then .next t
      else
        .next (t.modCur (fun x => x.setQueue k (x.queue k ++ [⟨c.placeBytes (c.vplace va) 2048, false, false⟩])))
    | o => o

/-- The rows of a tile written by VMOVT at latency 4 (R240, R418): the engines that wait on its bit read them from now
on, vector words at their distance. -/
def CoreSt.moveTile (c : CoreSt) (t : Nat) (bs : List Byte) : CoreSt :=
  let p := 2 ^ 18 + 32768 * t
  { c.putPlaces (wholeBytes p bs) with
    pending := c.pending ++ [⟨wholeBytes p ((List.range 32768).map (fun i => c.tileByte (32768 * t + i))), 3, true,
      c.tilePois.filter (fun e => e.1 / 4096 == t)⟩] }

/-- VMOVT waits to access a tile (R234, R235). -/
def blockTile (t : Nat) (k : TileAccess) (s : State) : State :=
  block .tile (s.modStrm (fun x => { x with want := some (t, k) }))

/-- VMOVT: a whole tile to sixteen registers (`dir` false) or back (R418). DESIGN CHOICE (log 110): reading a tile raises no
VHAZARD for a row whose pending bit is set (R242, R306). -/
def execVmovt (vd va : Nat) (sfx dir : Bool) (s : State) : Meaning :=
  let i : Instr := .vmovt vd va sfx dir
  let c := s.cur
  let b := if dir then va else vd
  let t := if dir then vd else va
  if c.vtv ∧ b = 112 then .next (illegal i s)
  else if dir then
    let hazard := (List.range 16).find? (fun j => c.vpend && c.placePending (2048 * (b + j)))
    match hazard with
    | some j => .next (trap 0x0D 0 (BitVec.ofNat 64 (b + j)) s)
    | none =>
      if !c.moveReady (.write sfx) t then .next (blockTile t (.write sfx) s)
      else if c.placeBad (2048 * b) 32768 then .next (unitPoison s)
      else
        .next ((finish s).modCur (fun x =>
          (x.tileAfter (.write sfx) t).moveTile t (c.placeBytes (2048 * b) 32768)))
  else if !c.moveReady (.read sfx) t then .next (blockTile t (.read sfx) s)
  else if c.tileBad t 0 32768 then .next (unitPoison s)
  else
    .next ((finish s).modCur (fun x =>
      (x.tileAfter (.read sfx) t).expose (wholeBytes (2048 * b) (c.tileBytes t 0 32768)) 4))

/-! ### Shape, masks and flags (R420 to R424) -/

/-- VSHAPE (R420). -/
def execVshape (a : Nat) (nf : Bool) (ew len : Nat) (tv : Bool) (tsel : Nat) (s : State) : Meaning :=
  let n := if a = 0 then len else min (s.rd a).toNat 4095
  .next (finishSize (instrSize (.vshape a nf ew len tv tsel)) (s.modCur (fun c =>
    { c with vsh := BitVec.ofNat 21 (ew + n * 4 + tv.toNat * 2 ^ 14 + tsel * 2 ^ 15) })))

/-- A mask word that changes the mask stack. -/
def maskWord (i : Instr) (f : List (BitVec 2048) → Option (List (BitVec 2048))) (s : State) : Meaning :=
  match f s.cur.mstack with
  | some l => .next (finish (s.modCur (fun c => { c with mstack := l })))
  | none => .next (illegal i s)

/-- A mask register (R225). -/
def CoreSt.maskReg (c : CoreSt) (n : Nat) : BitVec 2048 := sget 0 c.masks n

def execMpush (n : Nat) (nf : Bool) (s : State) : Meaning :=
  maskWord (.mpush n nf) (fun l =>
    if 16 ≤ l.length then none else some ((l.headD 0 &&& s.cur.maskReg n) :: l)) s
def execMinv (nf : Bool) (s : State) : Meaning :=
  maskWord (.minv nf) (fun l =>
    match l with
    | t :: u :: rest => some ((~~~t &&& u) :: u :: rest)
    | _ => none) s
def execMpop (nf : Bool) (s : State) : Meaning :=
  maskWord (.mpop nf) (fun l =>
    match l with
    | _ :: u :: rest => some (u :: rest)
    | _ => none) s
/-- MGET: the top into a mask register. -/
def execMget (n : Nat) (_nf : Bool) (s : State) : Meaning :=
  .next (finish (s.modCur (fun c => { c with masks := sput c.masks n c.top })))

/-- MSET: the enabled positions whose element is not zero (R421). -/
def execMset (n va : Nat) (nf mk : Bool) (s : State) : Meaning :=
  let c := s.cur
  let w := c.vw
  let len := c.vlen
  let a := c.row va (w * len)
  let m : BitVec 2048 :=
    BitVec.ofNat 2048 (((c.enabled mk len).map (fun i => if elemOf (8 * w) i a = 0 then 0 else 2 ^ i)).sum)
  let i : Instr := .mset n va nf mk
  match vectorWord i true [va] [(va, w * len)] nf 1 (fun _ => ⟨[], []⟩) s with
  | .next t =>
    if !c.vnameOk va || (c.vpend && decide (w * len ≠ 0) && c.placePending (c.vplace va)) || c.placeBad (c.vplace va) (w * len) then .next t
    else .next (t.modCur (fun x => { x with masks := sput x.masks n m }))
  | o => o

/-- Whether no active position has its bit of the top mask set (R423). -/
def CoreSt.maskZero (c : CoreSt) : Bool := (List.range c.vlen).all (fun i => !c.top.getLsbD i)

/-- A uniform branch (R423). -/
def maskBranch (taken : Bool) (off : BitVec 32) (s : State) : Meaning :=
  .next (if taken then branchTo (s.pc + 4 * off.signExtend 64) s else finishSize 8 s)

def execBmz (off : BitVec 32) (s : State) : Meaning := maskBranch s.cur.maskZero off s
def execBmnz (off : BitVec 32) (s : State) : Meaning := maskBranch (!s.cur.maskZero) off s

/-- VFRD (R424). -/
def execVfrd (vd : Nat) (nf : Bool) (s : State) : Meaning :=
  vectorWord (.vfrd vd nf) true [vd] [] nf 4 (fun c =>
    ⟨wholeBytes (c.vplace vd) ((List.range 512).flatMap (fun l => toBytes 4 (c.lane l).toNat)), []⟩) s

/-- VFCLR (R424). -/
def execVfclr (s : State) : Meaning := .next (finish (s.modCur (fun c => c.clearLanes 31)))

end Sys2Proof.Machine
end

