-- ==== Sys2Proof/Machine/Queue.lean ====
section
/-! DEFINITION. The scalar words on data queues and branch-outcome queues (R229 to R232, R392). -/

namespace Sys2Proof.Machine

/-- The queue a stream pushes branch outcomes into, and the one it pops from: BQA is 6, BQX 7 (R392). -/
def outQueue (k : StreamKind) : Nat := if k = .a then 6 else 7
def inQueue (k : StreamKind) : Nat := if k = .a then 7 else 6

/-- A scalar entry of a value. -/
def scalarEntry (v : Word) : QEntry := ⟨toBytes 8 v.toNat, false, false⟩

/-- The value of a scalar entry. -/
def QEntry.value (e : QEntry) : Word := BitVec.ofNat 64 (fromBytes e.data)

/-- A value that the A-stream pushes carries what it had issued by then, and the X-stream keeps that of the value it
popped last: a tile word waits for the LRECs that came before that push (R481). -/
def CoreSt.markPush (c : CoreSt) (k : StreamKind) (id : Nat) : CoreSt :=
  if k = .a then { c with marks := c.marks ++ [id] } else c
def CoreSt.markPop (c : CoreSt) (k : StreamKind) : CoreSt :=
  if k = .a then c else { c with mark := c.marks.headD c.mark, marks := c.marks.drop 1 }

/-- BQPUSH (R230, R392). -/
def execBqpush (a : Nat) (s : State) : Meaning :=
  let q := outQueue s.focus.kind
  if s.cur.queueDepth q ≤ (s.cur.queue q).length then .next (block .queue s)
  else
    .next (finish (s.modCur (fun c =>
      (c.setQueue q (c.queue q ++ [scalarEntry (s.rd a)])).markPush s.focus.kind s.nextId)))

/-- BQPOP (R230, R392). -/
def execBqpop (d : Nat) (s : State) : Meaning :=
  let q := inQueue s.focus.kind
  match s.cur.queue q with
  | [] => .next (block .queue s)
  | e :: rest =>
    if e.poison then .next (unitPoison s)
    else .next (finish ((s.modCur (fun c => (c.setQueue q rest).markPop s.focus.kind)).wr d e.value))

/-- BQPEEK: the waiting form stalls on an empty queue, .nb answers 0 (R392). -/
def execBqpeek (d : Nat) (nb : Bool) (s : State) : Meaning :=
  match s.cur.queue (inQueue s.focus.kind) with
  | [] => if nb then result d 0 s else .next (block .queue s)
  | e :: _ => if e.poison then .next (unitPoison s) else result d e.value s

/-- The data queue a QSKIP of a stream names: LQ0–LQ3 of X, SQ0 and SQ1 of A (R392). -/
def skipQueue (k : StreamKind) (q : Nat) : Option Nat :=
  if k = .a then (if q < 2 then some (4 + q) else none) else some q

/-- QSKIP: the waiting form discards entries as they come, the count gone so far standing in `skip`, so that it goes on
where it stood after a STALLWD trap (R307, R316); .nb discards what is present (R392). -/
def execQskip (d a q : Nat) (nb : Bool) (s : State) : Meaning :=
  match skipQueue s.focus.kind q with
  | none => .next (illegal (.qskip d a q nb) s)
  | some k =>
    if s.cur.queueDepth k = 0 then .next (illegal (.qskip d a q nb) s)
    else
      let here := (s.cur.queue k).length
      let want := (s.rd a).toNat
      if nb then
        let n := min want here
        result d (BitVec.ofNat 64 n) (s.modCur (fun c => c.setQueue k ((c.queue k).drop n)))
      else
        let gone := s.strm.skip.getD 0
        let left := want - gone
        if left ≤ here then
          result d (BitVec.ofNat 64 want) (s.modCur (fun c => c.setQueue k ((c.queue k).drop left)))
        else
          let s := s.modCur (fun c => c.setQueue k [])
          .next (block .queue (s.modStrm (fun x => { x with skip := some (gone + here) })))

/-- QPOP of the X-stream (R392). -/
def execQpop (d q n : Nat) (s : State) : Meaning :=
  if cfgVec s.cur.coreCfg.toNat q || s.cur.queueDepth q == 0 then .next (illegal (.qpop d q n) s)
  else
    match s.cur.queue q with
    | [] => .next (block .queue s)
    | e :: rest =>
      if e.poison then .next (unitPoison s)
      else
        let s := (s.modCur (fun c => c.setQueue q rest)).wr d e.value
        .next (finish (if n = 0 then s else s.wp n (!e.null)))

/-- QPUSH of the X-stream (R392). -/
def execQpush (q a : Nat) (s : State) : Meaning :=
  let k := 4 + q
  if cfgVec s.cur.coreCfg.toNat k || s.cur.queueDepth k == 0 then .next (illegal (.qpush q a) s)
  else if s.cur.queueDepth k ≤ (s.cur.queue k).length then .next (block .queue s)
  else .next (finish (s.modCur (fun c => c.setQueue k (c.queue k ++ [scalarEntry (s.rd a)]))))

end Sys2Proof.Machine
end

