-- ==== Sys2Proof/Machine/Load.lean ====
section
/-! DEFINITION. Loads, stores, queue loads and queue stores of the A-stream (R371 to R377). -/

namespace Sys2Proof.Machine

/-! ### Loads (R373) -/

/-- The register value of loaded bytes (R373). -/
def loadValue (ext : Bool) (bs : List Byte) : Word :=
  if ext then BitVec.ofInt 64 (sx (fromBytes bs) (8 * bs.length)) else BitVec.ofNat 64 (fromBytes bs)

/-- A load of `sz` bytes (R371, R373). -/
def loadWord (sz d b p : Nat) (post ext : Bool) (off : BitVec 10) (s : State) : Meaning :=
  mWord b p post off sz (fun va s =>
    let (s, a) := loadBytes va sz s
    settle a va .remote (fun bs s => mDone b post off sz (fun s => s.wr d (loadValue ext bs)) s) s) s

/-- LDB (R373). -/
def execLdb (d b p : Nat) (post ext : Bool) (off : BitVec 10) (s : State) : Meaning := loadWord 1 d b p post ext off s

/-- LDH (R373). -/
def execLdh (d b p : Nat) (post ext : Bool) (off : BitVec 10) (s : State) : Meaning := loadWord 2 d b p post ext off s

/-- LDW (R373). -/
def execLdw (d b p : Nat) (post ext : Bool) (off : BitVec 10) (s : State) : Meaning := loadWord 4 d b p post ext off s

/-- LDD (R373). -/
def execLdd (d b p : Nat) (post : Bool) (off : BitVec 10) (s : State) : Meaning := loadWord 8 d b p post false off s

/-! ### Stores (R374, R375) -/

/-- The scope code of a store's two bits (R335, R336): core, quad, dev, sys. -/
def storeScope (sc : Nat) : Nat := match sc with | 0 => 0 | 1 => 1 | 2 => 3 | _ => 4

/-- A store of the low `sz` bytes of a register (R371, R374): the data register is read before a
post-increment (R372). -/
def storeWord (sz d b p : Nat) (post : Bool) (sc : Nat) (off : BitVec 10) (s : State) : Meaning :=
  mWord b p post off sz (fun va s =>
    let (s, a) := storeBytes va (storeScope sc) (toBytes sz (s.rd d).toNat) s
    settle a va .queue (fun _ s => mDone b post off sz id s) s) s

/-- STB (R374). -/
def execStb (d b p : Nat) (post : Bool) (sc : Nat) (off : BitVec 10) (s : State) : Meaning := storeWord 1 d b p post sc off s

/-- STH (R374). -/
def execSth (d b p : Nat) (post : Bool) (sc : Nat) (off : BitVec 10) (s : State) : Meaning := storeWord 2 d b p post sc off s

/-- STW (R374). -/
def execStw (d b p : Nat) (post : Bool) (sc : Nat) (off : BitVec 10) (s : State) : Meaning := storeWord 4 d b p post sc off s

/-- STD (R374). -/
def execStd (d b p : Nat) (post : Bool) (sc : Nat) (off : BitVec 10) (s : State) : Meaning := storeWord 8 d b p post sc off s

/-! ### Queue loads and stores (R376, R377) -/

/-- The bytes of an entry by its width flag (R376). -/
def entrySize (w : Bool) : Nat := if w then 2048 else 8

/-- Whether a queue word's width and depth fit the queue (R376). -/
def queueFits (s : State) (k : Nat) (w : Bool) : Bool :=
  cfgVec s.cur.coreCfg.toNat k == w && s.cur.queueDepth k != 0

/-- LDQ (R376): it stalls while the queue is full; a false predicate pushes a null entry of zeros. The entry
is pushed when its last byte has arrived. -/
def execLdq (q b p : Nat) (post w : Bool) (off : BitVec 10) (s : State) : Meaning :=
  let sz := entrySize w
  let push (e : QEntry) (s : State) : State := s.modCur (fun c => c.setQueue q (c.queue q ++ [e]))
  if !queueFits s q w then .next (illegal (.ldq q b p post w off) s)
  else if s.cur.queueDepth q ≤ (s.cur.queue q).length then .next (block .queue s)
  else if s.pr p then
    let va := (mAddr b post off sz s).toNat
    let (s, a) := loadBytes va sz s
    .next (settle a va .remote (fun bs s => mDone b post off sz (push ⟨bs, false, false⟩) s) s)
  else .next (mDone b post off sz (push ⟨List.replicate sz 0, true, false⟩) s)

/-- STQ (R377): it waits for an entry; a false predicate pops and discards it; a faulting one pops nothing. -/
def execStq (q b p : Nat) (post w : Bool) (off : BitVec 10) (s : State) : Meaning :=
  let k := 4 + q
  let sz := entrySize w
  if !queueFits s k w then .next (illegal (.stq q b p post w off) s)
  else
    match s.cur.queue k with
    | [] => .next (block .queue s)
    | e :: rest =>
      let pop (s : State) : State := s.modCur (fun c => c.setQueue k rest)
      if s.pr p then
        let va := (mAddr b post off sz s).toNat
        if e.poison then .next (unitPoison s)
        else
          let (s, a) := storeBytes va 0 e.data s
          .next (settle a va .queue (fun _ s => mDone b post off sz pop s) s)
      else .next (mDone b post off sz pop s)

end Sys2Proof.Machine
end

