-- ==== Sys2Proof/Machine/Tagged.lean ====
section
/-! DEFINITION. Tagged words, and the remote loads and stores of the A-stream (R270, R378 to R381). -/

namespace Sys2Proof.Machine

/-! ### Tagged words (R378, R379) -/

/-- The target of a tagged access of 8 bytes: a scratchpad offset, or the physical address of a SPACE 2 page
(R378, R484). -/
def tagTarget (core va : Nat) (write : Bool) (s : State) : State × Except MemErr (Nat ⊕ Nat) :=
  match findTarget core va 8 write s with
  | (s, .error e) => (s, .error e)
  | (s, .ok (.window off)) => (s, if off % 8 = 0 then .ok (.inl off) else .error .align)
  | (s, .ok (.segs l)) =>
    if l.all Seg.isSpad then
      (s, if va % 8 = 0 then .ok (.inr ((l.map (fun g => g.pa)).headD 0)) else .error .align)
    else (s, .error .split)

/-- LDF: it waits for full, reads the word and leaves it empty, or as it is with `.keep`; at sys scope it
acquires after it (R248, R270, R378, R379). -/
def execLdf (d b p : Nat) (post sys keep : Bool) (off : BitVec 10) (s : State) : Meaning :=
  mWord b p post off 8 (fun va s =>
    let core := s.focus.core
    match tagTarget core va false s with
    | (s, .error e) => trapErr e (BitVec.ofNat 64 va) s
    | (s, .ok (.inl o)) =>
      if !s.cur.tagAt o then block .tag s
      else if (s.cur.spadBad o 8).isSome then trapErr .poison (BitVec.ofNat 64 va) s
      else
        let v := BitVec.ofNat 64 (fromBytes (s.cur.spadBytes o 8))
        let s := if keep then s else s.modCur (fun c => c.setTag o false)
        let s := if sys then acquire core 4 s else s
        mDone b post off 8 (fun s => s.wr d v) s
    | (s, .ok (.inr pa)) =>
      let (s, a) := remoteCall (.ldf keep) va pa 8 [] false s
      settle a va .remote (fun bs s =>
        mDone b post off 8 (fun s => s.wr d (BitVec.ofNat 64 (fromBytes bs))) (acquire core 4 s)) s) s

/-- STE: at sys scope it releases first; it waits for empty, writes the word and leaves it full, or as it is
with `.keep` (R248, R270, R378, R379). -/
def execSte (d b p : Nat) (post sys keep : Bool) (off : BitVec 10) (s : State) : Meaning :=
  mWord b p post off 8 (fun va s =>
    let core := s.focus.core
    match tagTarget core va true s with
    | (s, .error e) => trapErr e (BitVec.ofNat 64 va) s
    | (s, .ok (.inl o)) =>
      let (s, ready) := if sys then release core 4 s else (s, true)
      if !ready then block .release s
      else if s.cur.tagAt o then block .tag s
      else
        let s := s.modCur (fun c =>
          let c := c.spadWrite o (toBytes 8 (s.rd d).toNat)
          if keep then c else c.setTag o true)
        mDone b post off 8 id s
    | (s, .ok (.inr pa)) =>
      let (s, ready) := release core 4 s
      if !ready then block .release s
      else if tl2Full s core then block .queue s
      else
        let (num, s) := takeTl2 core s
        mDone b post off 8 (settleUnrouted core num) (sendTl2 core num (.ste keep) va pa 8 (toBytes 8 (s.rd d).toNat) false s)) s

/-- The tags of some consecutive words changed (R380): the words lie in the scratchpad and start 8-byte
aligned. -/
def tagRange (full : Bool) (d b p : Nat) (post : Bool) (off : BitVec 10) (s : State) : Meaning :=
  mWord b p post off 8 (fun va s =>
    let n := (s.rd d).toNat
    if !inWindow va || decide (2 ^ 64 < va + 8 * n) then trapErr .split (BitVec.ofNat 64 va) s
    else if va % 8 ≠ 0 then trapErr .align (BitVec.ofNat 64 va) s
    else
      mDone b post off 8 id (s.modCur (fun c => upTo n (fun i c => c.setTag (va % 2 ^ 21 + 8 * i) full) c))) s

/-- TAGSET (R380). -/
def execTagset (d b p : Nat) (post : Bool) (off : BitVec 10) (s : State) : Meaning := tagRange true d b p post off s

/-- TAGCLR (R380). -/
def execTagclr (d b p : Nat) (post : Bool) (off : BitVec 10) (s : State) : Meaning := tagRange false d b p post off s

/-! ### Remote loads and stores (R381) -/

/-- The target of an 8-byte remote access: SPACE 1 or SPACE 2, and 8-byte aligned (R381, R484): its physical
address and whether the page is remote-cacheable. -/
def remoteTarget (core va : Nat) (write : Bool) (s : State) : State × Except MemErr (Nat × Bool) :=
  match findTarget core va 8 write s with
  | (s, .error e) => (s, .error e)
  | (s, .ok (.window _)) => (s, .error .split)
  | (s, .ok (.segs l)) =>
    if l.all (fun g => match g.phys with | .domain _ => true | .spad _ => true | _ => false) then
      (s, if va % 8 = 0 then .ok ((l.map (fun g => (g.pa, g.rc))).headD (0, false)) else .error .align)
    else (s, .error .split)

/-- RLD (R381): stores of the core that its caches hold dirty stand in the place of the home's bytes (R259, R265). -/
def execRld (d b p : Nat) (post ord : Bool) (off : BitVec 10) (s : State) : Meaning :=
  mWord b p post off 8 (fun va s =>
    match remoteTarget s.focus.core va false s with
    | (s, .error e) => trapErr e (BitVec.ofNat 64 va) s
    | (s, .ok (pa, rc)) =>
      let (s, a) := remoteCall .load va pa 8 [] ord s
      settle a va .remote (fun bs s =>
        let bs := if rc then overlay s s.focus.core pa bs else bs
        mDone b post off 8 (fun s => s.wr d (BitVec.ofNat 64 (fromBytes bs))) s) s) s

/-- A held clean copy of a byte leaves a line. -/
def Line.forget (l : Line) (i : Nat) (_ : Byte) : Line :=
  if l.dirty.getLsbD i then l else { l with valid := l.valid &&& ~~~(BitVec.ofNat 128 (2 ^ i)) }

/-- The clean copies that a core and its quad hold of bytes it changes at their home leave the caches, so that
its later loads see the change (R259). -/
def forgetBytes (core pa n : Nat) (s : State) : State :=
  modL1 core (fun m => putLines Line.forget m pa (List.replicate n 0))
    (modL2 core (fun m => putLines Line.forget m pa (List.replicate n 0)) s)

/-- RST and RSTA (R381): recorded at sys, retiring at issue with the next tl2 number. -/
def remoteStore (posted : Bool) (d b p : Nat) (post ord : Bool) (off : BitVec 10) (s : State) : Meaning :=
  mWord b p post off 8 (fun va s =>
    let core := s.focus.core
    match remoteTarget core va true s with
    | (s, .error e) => trapErr e (BitVec.ofNat 64 va) s
    | (s, .ok (pa, rc)) =>
      if tl2Full s core then block .queue s
      else
        let (num, s) := takeTl2 core s
        let bs := toBytes 8 (s.rd d).toNat
        let s := if rc then throughBytes core pa bs s else s
        mDone b post off 8 (settleUnrouted core num) (sendTl2 core num (.store posted) va pa 8 bs ord s)) s

/-- RST (R381): posted. -/
def execRst (d b p : Nat) (post ord : Bool) (off : BitVec 10) (s : State) : Meaning := remoteStore true d b p post ord off s

/-- RSTA (R381): acknowledged-type. -/
def execRsta (d b p : Nat) (post ord : Bool) (off : BitVec 10) (s : State) : Meaning := remoteStore false d b p post ord off s

end Sys2Proof.Machine
end

