-- ==== Sys2Proof/Machine/Atomic.lean ====
section
/-! DEFINITION. Atomics and multicast of the A-stream (R60 to R62, R142, R382 to R384). -/

namespace Sys2Proof.Machine

/-! ### Atomics (R382, R383) -/

/-- The target of an atomic of `n` bytes, with SPACE 3 and the scratchpad window's edge under ATTRSPLIT, then
ALIGN, then STRICT (R142, R383, R484). -/
def atomicTarget (core va n : Nat) (op : AmoOp) (s : State) : State × Except MemErr Target :=
  match findTarget core va n true s with
  | (s, .error e) => (s, .error e)
  | (s, .ok t) =>
    let host := match t with
      | .segs l => l.any (fun g => match g.phys with | .host _ => true | _ => false)
      | .window _ => false
    if host then (s, .error .split)
    else if va % n ≠ 0 then (s, .error .align)
    else if op == .fadd && (s.core core).txst.strict then (s, .error .strict)
    else (s, .ok t)

/-- An atomic on the registers of the control window (DESIGN CHOICE, log 31): a read and a write. -/
def controlAtomic (off : Nat) (op : AmoOp) (b x : Nat) (s : State) : State × Except MemErr Nat :=
  let n := amoSize op
  let o := fromBytes (regBytes s off n)
  (controlWrite off (toBytes n (amoNew op o b x)) s, .ok o)

/-- An atomic of a core where its address is local: scratchpad, HBM or control window. -/
def atomicAs (c : Ctx) (t : Target) (op : AmoOp) (b x : Nat) (s : State) : State × Except MemErr Nat :=
  match t with
  | .window off => windowAtomic c.core off op b x s
  | .segs l =>
    match l with
    | [] => (s, .error .split)
    | g :: _ =>
      match g.phys with
      | .hbm loc =>
        match homeAmo loc op b x c s with
        | (s, .ok o) =>
          (if loc.ver.isSome then dropBlock c.core loc.off s else forgetBytes c.core g.pa (amoSize op) s, .ok o)
        | r => r
      | .control off => controlAtomic off op b x s
      | _ => (s, .error .split)

/-- The same by a core, under its tag. -/
def localAtomic (core : Nat) (t : Target) (op : AmoOp) (b x : Nat) (s : State) : State × Except MemErr Nat :=
  atomicAs (s.ctx core) t op b x s

/-- The remote part of an atomic's target: its physical address and whether the page is
remote-cacheable. -/
def Target.remote (t : Target) : Option (Nat × Bool) :=
  match t with
  | .window _ => none
  | .segs l =>
    match l with
    | [] => none
    | g :: _ =>
      match g.phys with
      | .domain pa => some (pa, g.rc)
      | .spad pa => some (pa, g.rc)
      | _ => none

/-- AMO: performed without returning (R383): on the window at once; at SPACE 0 it takes a tl2 number, passed
as the pseudo-channel unit performs it; at a remote home it takes a tl2 number. -/
def execAmo (d a b op : Nat) (s : State) : Meaning :=
  let core := s.focus.core
  let va := (s.rd a).toNat
  let o := amoOf op
  let x := (s.rd b).toNat
  let e := (s.rd d).toNat
  match atomicTarget core va (amoSize o) o s with
  | (s, .error err) => .next (trapErr err (BitVec.ofNat 64 va) s)
  | (s, .ok (.window off)) =>
    match windowAtomic core off o x e s with
    | (s, .ok _) => .next (finish s)
    | (s, .error err) => .next (trapErr err (BitVec.ofNat 64 va) s)
  | (s, .ok t) =>
    if tl2Full s core then .next (block .queue s)
    else
      let (num, s) := takeTl2 core s
      match t.remote with
      | some (pa, rc) =>
        let s := if rc then forgetBytes core pa (amoSize o) s else s
        .next (finish (settleUnrouted core num
          (sendTl2 core num (.atomic o false (BitVec.ofNat 64 x) (BitVec.ofNat 64 e)) va pa (amoSize o) [] false s)))
      | none =>
        let tag := (s.core core).txst.tag
        match localAtomic core t o x e s with
        | (s, .ok _) => .next (finish (completeTl core 2 num tag none s))
        | (s, .error err) => .next (finish (completeTl core 2 num tag (some (tlRec num err va s)) s))

/-- AMOR: performed, and the old value returned (R382, R383). -/
def execAmor (d a b op : Nat) (s : State) : Meaning :=
  let core := s.focus.core
  let va := (s.rd a).toNat
  let o := amoOf op
  let x := (s.rd b).toNat
  let e := (s.rd d).toNat
  match atomicTarget core va (amoSize o) o s with
  | (s, .error err) => .next (trapErr err (BitVec.ofNat 64 va) s)
  | (s, .ok t) =>
    match t.remote with
    | some (pa, rc) =>
      let (s, r) := remoteCall (.atomic o true (BitVec.ofNat 64 x) (BitVec.ofNat 64 e)) va pa (amoSize o) [] false s
      .next (settle r va .remote (fun bs s =>
        finish ((if rc then forgetBytes core pa (amoSize o) s else s).wr d (BitVec.ofNat 64 (fromBytes bs)))) s)
    | none =>
      match localAtomic core t o x e s with
      | (s, .ok old) => .next (finish (s.wr d (BitVec.ofNat 64 old)))
      | (s, .error err) => .next (trapErr err (BitVec.ofNat 64 va) s)

/-! ### Multicast (R62, R384) -/

/-- The regions of a replica set that an MCST writes: VALID with a SPACE 0 or 1 BASE (R384). -/
def mcRegions (s : State) (set : Nat) : List McRegion :=
  ((List.range 4).map (fun i => sget {} s.fab.mcrep (4 * set + i))).filter (fun r =>
    r.valid && decide (r.base / 2 ^ 54 < 2))

/-- A region's size in bytes (R66). -/
def McRegion.bytes (r : McRegion) : Nat := 2 ^ (if 16 ≤ r.size ∧ r.size ≤ 31 then r.size else 16)

/-- One region write of an MCST, recorded at sys (R384): a remote store, or a store to local memory, whose failure is
recorded as REMOTE; a copy that the core or its quad holds takes the new value (R257, R259). DESIGN CHOICE (log 86): a
region whose BASE names no memory gives REMOTE with NOROUTE. -/
def mcWrite (core num pa : Nat) (bs : List Byte) (s : State) : State × Option RemoteErr :=
  match physOf s pa with
  | some (.domain _) => (sendTl2 core num (.store false) 0 pa 8 bs false (throughBytes core pa bs s), none)
  | some (.hbm l) =>
    if (versionedAt s l.off).isSome then (s, some .owner)
    else (plainWrite core l.off bs (throughBytes core pa bs s), none)
  | some (.control off) => (controlWrite off bs s, none)
  | _ => (s, some .noroute)

/-- MCST (R384): one tl2 number, passed when every region write has been acknowledged. -/
def execMcst (d a b set : Nat) (s : State) : Meaning :=
  let core := s.focus.core
  let x := (s.rd b).toNat
  let regions := mcRegions s set
  if regions.any (fun r => decide (r.bytes < x + 8)) then .next (trapErr .split (s.rd b) s)
  else if x % 8 ≠ 0 then .next (trapErr .align (s.rd b) s)
  else if tl2Full s core then .next (block .queue s)
  else
    let (num, s) := takeTl2 core s
    let bs := toBytes 8 (s.rd a).toNat
    let (s, err) := regions.foldl (fun (acc : State × Option RemoteErr) r =>
      let (s, e) := mcWrite core num (r.base + x) bs acc.1
      (s, acc.2.orElse (fun _ => e))) (s, none)
    let s := s.wr d (BitVec.ofNat 64 num)
    let tag := (s.core core).txst.tag
    -- an error of a local region waits for the other regions' acknowledgements
    if s.fab.flights.any (fun f => f.ofNum core num) then
      .next (finish (settleUnrouted core num (passTl2 core num tag err 0 s)))
    else .next (finish (passTl2 core num tag err 0 s))

end Sys2Proof.Machine
end

