-- ==== Sys2Proof/Machine/Branch.lean ====
section
/-! DEFINITION. Branches, jumps and the hardware loops (R363 to R368). -/

namespace Sys2Proof.Machine

/-- A B-format branch (R363). -/
def branchIf (c : Bool) (off : BitVec 16) (s : State) : Meaning :=
  .next (if c then branchTo (s.pc + 4 * off.signExtend 64) s else finish s)

def execBeq (a b : Nat) (off : BitVec 16) (s : State) : Meaning := branchIf (s.rd a == s.rd b) off s
def execBne (a b : Nat) (off : BitVec 16) (s : State) : Meaning := branchIf (s.rd a != s.rd b) off s
def execBlt (a b : Nat) (off : BitVec 16) (s : State) : Meaning := branchIf ((s.rd a).slt (s.rd b)) off s
def execBge (a b : Nat) (off : BitVec 16) (s : State) : Meaning := branchIf (!(s.rd a).slt (s.rd b)) off s
def execBltu (a b : Nat) (off : BitVec 16) (s : State) : Meaning := branchIf ((s.rd a).ult (s.rd b)) off s
def execBgeu (a b : Nat) (off : BitVec 16) (s : State) : Meaning := branchIf (!(s.rd a).ult (s.rd b)) off s
def execJ (off : BitVec 26) (s : State) : Meaning := .next (branchTo (s.pc + 4 * off.signExtend 64) s)
/-- JAL writes the return address to register 31 (R364). -/
def execJal (off : BitVec 26) (s : State) : Meaning :=
  .next (branchTo (s.pc + 4 * off.signExtend 64) (s.wr 31 (s.pc + 4)))
/-- JR: the target from the old xa; one not a multiple of 4 raises ALIGN (R364). -/
def execJr (d a : Nat) (imm : BitVec 16) (s : State) : Meaning :=
  let t := s.rd a + imm.signExtend 64
  .next (if t.toNat % 4 ≠ 0 then trap 0x02 0 t s else branchTo t (s.wr d (s.pc + 4)))

/-- Whether a vector word with its extension lies at a body's end address, the words after `pc` read in order from word
`i` on (R367 rule 4): none while a word of another device's memory is on its way. `ext` says that word `i` is an
extension. -/
def pairAtEnd (core pc : Nat) : Nat → Nat → Bool → State → State × Option Bool
  | 0, _, _, s => (s, some false)
  | fuel + 1, i, ext, s =>
    match fetchWord core .x pc i s with
    | (s, .word w) =>
      let pair := !ext && vectorPair w
      if fuel = 0 then (s, some pair) else pairAtEnd core pc fuel (i + 1) pair s
    | (s, .wait) => (s, none)
    | (s, .fault _) => (s, some false)

/-- A LOOP or LOOPS with a count of 0 (R366 to R368): no level is pushed, and the stream goes on after the end word. -/
def skipLoop (stages : Nat) (stop : Word) (pair : Bool) (s : State) : State :=
  let after := stop + (if pair then 8 else 4)
  let s := s.modStrm (fun x => upTo stages (fun k x => x.setPred (k + 1) false) x)
  s.modCur (fun c => (if s.focus.kind = .x then c.age else c).modStream s.focus.kind (fun x =>
    { x with stall := none, stallCnt := 0, wait := none, parts := [], fetch := {}, skip := none }.endWord
      (fun e => e == stop || e == after - 4) after 5))

/-- LOOP and LOOPS once their fields are read (R366 to R368): `stages` is 0 for LOOP, `raw` the word. -/
def pushLoop (idx : Nat) (n : Word) (stages len : Nat) (i : Instr) (s : State) : State :=
  let x := s.strm
  let stop := s.pc + BitVec.ofNat 64 (4 * len)
  let lv := x.active
  let late := match lv with | l :: _ => decide (l.stop.toNat < stop.toNat) | [] => false
  if late || lv.any (fun l => l.stop == s.pc) then illegal i s
  else if n = 0 then
    if s.focus.kind = .x then
      match pairAtEnd s.focus.core s.pc.toNat len 1 false s with
      | (s, some pair) => skipLoop stages stop pair s
      | (s, none) => block .remote s
    else skipLoop stages stop false s
  else if 4 ≤ x.loops.length then illegal i s
  else
    let l : LoopLevel := ⟨s.pc + 4, stop, idx, n.toNat, stages, 0, 0, n.toNat, x.preempt && decide (stages ≠ 0), false⟩
    s.modCur (fun c => (if s.focus.kind = .x then c.age else c).modStream s.focus.kind (fun x =>
      let x := { x.setActive (l :: lv) with
        stall := none, stallCnt := 0, wait := none, parts := [], fetch := {}, skip := none }
      if stages = 0 then x.loopHead l else x.startPass l))

def execLoop (d a len : Nat) (s : State) : Meaning := .next (pushLoop d (s.rd a) 0 len (.loop d a len) s)
def execLoops (d a st len : Nat) (s : State) : Meaning :=
  .next (pushLoop d (s.rd a) st len (.loops d a st len) s)

end Sys2Proof.Machine
end

