-- ==== Sys2Proof/Machine/Phys.lean ====
section
/-! DEFINITION. Reads by the Pavilion at a physical address: launch packets, wait words and mailbox records (R159, R163,
R167, R169). -/

namespace Sys2Proof.Machine

/-- A read of another device's memory or of a scratchpad, in requests of at most 32 bytes (R51, R58, R163). -/
def farRead (pa n : Nat) (s : State) : State × Except MemErr (List Byte) :=
  (pieces 32 pa n).foldl (fun acc p =>
    match acc with
    | (s, .error e) => (s, .error e)
    | (s, .ok bs) =>
      match unitRequest (pickRoute s (paDev pa) 4) false .load p.1 p.2 [] s with
      | (s, .err e) => (s, .error (.remote e))
      | (s, .data more) | (s, .versioned more) => (s, .ok (bs ++ (more ++ List.replicate p.2 0).take p.2)))
    (s, .ok [])

/-- A read of host memory (R153): the signals bring its error. -/
def hostRead (a n : Nat) (s : State) : State × Except MemErr (List Byte) :=
  match s.input.results with
  | .err e :: rest => ({ s with input := { s.input with results := rest } }, .error (.remote e))
  | l => ({ s with input := { s.input with results := l.drop 1 } }, .ok (hostBytes s a n))

/-- A read of `n` bytes at a physical address (R43, R68): it fails where the address names no memory and where the read
receives an error; `spad` and `window` say whether SPACE 2 and the control window serve the reader. -/
def physRead (spad window : Bool) (pa n : Nat) (s : State) : State × Except MemErr (List Byte) :=
  match physOf s pa with
  | some (.hbm l) => plainRead 512 l.off n s
  | some (.host a) => hostRead a n s
  | some (.domain _) => farRead pa n s
  | some (.spad _) => if spad then farRead pa n s else (s, .error .xlate)
  | some (.control off) => if window then (s, .ok (regBytes s off n)) else (s, .error .xlate)
  | none => (s, .error .xlate)

end Sys2Proof.Machine
end

