-- ==== Sys2Proof/Machine/Copy.lean ====
section
/-! DEFINITION. The copy commands and LREC as the A-stream issues them (R249, R350, R385 to R388). What the copy
engine does with them is in CopyEngine. -/

namespace Sys2Proof.Machine

/-- What a core's commands and accesses carry (R80, R206). -/
def CoreSt.carry (c : CoreSt) : Carry := ⟨c.txst.tag, c.txst.att, c.txst.strict⟩

/-- The command of a CPY word, with the next tl0 number (R385). -/
def copyOf (num a b sc : Nat) (can : Bool) (k : Carry) : CopyCmd :=
  .copy num (a % 65536) (b % 65536) (bit a 16) (bit b 16) sc can k

/-- A copy command enters the queue with the next tl0 number, which xd takes (R267, R385). -/
def pushCopy (d a b sc : Nat) (can : Bool) (s : State) : State :=
  let x := (s.rd a).toNat
  let y := (s.rd b).toNat
  let s := s.modCur (fun c =>
    let c := c.setTl 0 ((c.tl 0).issue sc)
    let num := (c.tl 0).issued
    { c with
      copyQ := c.copyQ ++ [copyOf num x y sc can c.carry],
      cancels := if can then c.cancels ++ [(num, .pending)] else c.cancels })
  finish (s.wr d (BitVec.ofNat 64 (s.cur.tl 0).issued))

/-- CPY (R385): it stalls while the queue holds 16 commands. -/
def execCpy (d a b sc : Nat) (s : State) : Meaning :=
  if 16 ≤ s.cur.copyQ.length then .next (block .queue s) else .next (pushCopy d a b sc false s)

/-- Whether a cancel slot's command is over. -/
def CancelStatus.isOver : CancelStatus → Bool
  | .cancelled | .done => true
  | _ => false

/-- The cancel slots with room for one more command: the least recently freed slot gives its place (R387). The
slots whose command is over stand in the order they were freed. -/
def roomFor (l : List (Nat × CancelStatus)) : Option (List (Nat × CancelStatus)) :=
  if l.length < 4 then some l
  else
    match l.find? (fun e => e.2.isOver) with
    | some e => some (l.filter (fun x => x.1 != e.1))
    | none => none

/-- CPYC (R387): it stalls while all four cancel slots hold commands that are not over. -/
def execCpyc (d a b sc : Nat) (s : State) : Meaning :=
  if 16 ≤ s.cur.copyQ.length then .next (block .queue s)
  else
    match roomFor s.cur.cancels with
    | none => .next (block .slots s)
    | some l => .next (pushCopy d a b sc true (s.modCur (fun c => { c with cancels := l })))

/-- A cancellable command is over: its slot becomes the most recently freed (R387). -/
def CoreSt.endCancel (c : CoreSt) (num : Nat) (st : CancelStatus) : CoreSt :=
  if c.cancels.any (fun e => e.1 == num) then
    { c with cancels := c.cancels.filter (fun e => e.1 != num) ++ [(num, st)] }
  else c

/-- Whether a queue entry is the command of a tl0 number. -/
def CopyCmd.isNum (n : Nat) : CopyCmd → Bool
  | .copy num .. => num == n
  | .lrec .. => false

/-- CPYX (R387): a command not started is removed and its number passes; a running one is asked to stop; any
other handle has no effect. -/
def execCpyx (a : Nat) (s : State) : Meaning :=
  let h := (s.rd a).toNat
  let core := s.focus.core
  match s.cur.cancels.find? (fun e => e.1 == h) with
  | some (_, .pending) =>
    if s.cur.copyQ.any (CopyCmd.isNum h) then
      let s := s.modCur (fun c => { c.endCancel h .cancelled with copyQ := c.copyQ.filter (fun k => !k.isNum h) })
      .next (finish (completeTl core 0 h 0 none s))
    else
      .next (finish (s.modCur (fun c =>
        { c with
          cancels := c.cancels.map (fun e => if e.1 = h then (h, .cancelling) else e) })))
  | _ => .next (finish s)

/-- The status code of a cancel slot (R387). -/
def CancelStatus.code : CancelStatus → Nat
  | .pending => 0 | .cancelling => 1 | .cancelled => 2 | .done => 3

/-- CPYQ (R387). -/
def execCpyq (d a : Nat) (s : State) : Meaning :=
  let h := (s.rd a).toNat
  let code := match s.cur.cancels.find? (fun e => e.1 == h) with | some e => e.2.code | none => 4
  .next (finish (s.wr d (BitVec.ofNat 64 code)))

/-! ### LREC (R388) -/

/-- Bytes read `n` at a time from some addresses, in order, the bytes read so far standing in `parts`; the
address at fault comes with a fault. -/
def loadRuns (n : Nat) : List Nat → Nat → State → State × Access × Nat
  | [], _, s => (s, .done s.strm.parts, 0)
  | va :: rest, skip, s =>
    if skip + n ≤ s.strm.parts.length then loadRuns n rest (skip + n) s
    else
      match findTarget s.focus.core va n false s with
      | (s, .error e) => (s, .fault e, va)
      | (s, .ok t) =>
        let remote := match t with
          | .window _ => none
          | .segs l =>
            if l.any (fun g => match g.phys with | .domain _ => true | .spad _ => true | _ => false) then some l else none
        match remote with
        | some l =>
          match remoteRead (l.any (fun g => g.rc)) (remotePieces l) skip s with
          | (s, .done _) => loadRuns n rest (skip + n) s
          | (s, a) => (s, a, va)
        | none =>
          match loadTarget t n s with
          | (s, .done bs) => loadRuns n rest (skip + n) (s.modStrm (fun x => { x with parts := x.parts ++ bs }))
          | (s, a) => (s, a, va)

/-- The LRECs at the executors whose earlier words of their core have all started take effect, in order
(R388). -/
def settleLrecs (s : State) : State :=
  let waits (l : Lrec) : Bool := s.tiles.jobs.any (fun j =>
    j.core == l.core && j.unit == l.unit && !j.started && decide (j.id < l.id ∧ j.word.toNat % 256 ≠ 0x18))
  let ready := s.tiles.lrecs.filter (fun l => !waits l)
  let s := { s with tiles := { s.tiles with lrecs := s.tiles.lrecs.filter waits } }
  ready.foldl (fun s l => s.setRecord (tableKey l.unit.level l.core) l.handle l.record) s

/-- LREC (R388): into the copy queue for the core's own table, to the executor for a shared one. -/
def execLrec (a b lvl : Nat) (s : State) : Meaning :=
  let h := (s.rd a).toNat % 65536
  let va := (s.rd b).toNat
  let core := s.focus.core
  if h = 0 ∨ tableTop lvl < h then .next (illegal (.lrec a b lvl) s)
  else if lvl ≤ 1 ∧ 16 ≤ s.cur.copyQ.length then .next (block .queue s)
  else
    match findTarget core va 32 false s with
    | (s, .error e) => .next (trapErr e (BitVec.ofNat 64 va) s)
    | (s, .ok _) =>
      if va % 32 ≠ 0 then .next (trapErr .align (BitVec.ofNat 64 va) s)
      else
        match loadRuns 32 [va, (va + 32) % 2 ^ 64, (va + 64) % 2 ^ 64] 0 s with
        | (s, .done bs, _) =>
          let r := BitVec.ofNat 768 (fromBytes bs)
          let (id, s) := s.fresh
          if lvl ≤ 1 then .next (finish (s.modCur (fun c => { c with copyQ := c.copyQ ++ [.lrec id h r] })))
          else
            .next (finish (settleLrecs { s with
              tiles := { s.tiles with lrecs := s.tiles.lrecs ++ [⟨id, core, unitOf lvl core, h, r⟩] } }))
        | (s, .fault e, at') => .next (trapErr e (BitVec.ofNat 64 at') s)
        | (s, .wait, _) => .next (block .remote s)

end Sys2Proof.Machine
end

