-- ==== Sys2Proof/Machine/Element.lean ====
section
/-! DEFINITION. The accesses of copy engines and leaf cores to the elements of layout records (R206, R247, R250,
R349, R370, R386). A remote access takes its outcome from the signals of its turn. -/

namespace Sys2Proof.Machine

/-- Who accesses the elements of a record: the core whose caches, scratchpad and tile registers it uses, the table
root, the tag its writes carry, the scope they are performed at, and whether the scratchpad window is its own
core's. -/
structure Agent where
  core  : Nat
  root  : Nat
  tag   : Nat
  scope : Nat
  own   : Bool
  deriving DecidableEq, Repr

/-- Translation for an agent: the engines and the tile unit of a core share its TLBs (R251), an executor without a core
translates by a walk. -/
def agentXlat (g : Agent) (write : Bool) (va : Nat) (s : State) : State × Except MemErr Xlat :=
  if g.core < 512 then tlbXlat g.core g.root va write s else xlatAt g.core g.root va write s

/-- The target of an agent's access, with its faults in order (R52, R272, R370, R484). -/
def agentTarget (g : Agent) (va n : Nat) (write : Bool) (s : State) : State × Except MemErr Target :=
  match targetWith (agentXlat g write) g.own va n s with
  | (s, .error e) => (s, .error e)
  | (s, .ok t) => (s, if alignFault va n t then .error .align else .ok t)

/-- A piece of a versioned page read by an agent: an L1 line that holds it serves it, else the base die (R86, R250). -/
def readVersioned (g : Agent) (p : Option (Nat × Nat)) (off n : Nat) (s : State) : State × Except MemErr (List Byte) :=
  match versionedHit s g.core off n with
  | some bs => (s, .ok bs)
  | none =>
    match homeLoad ⟨off, p⟩ n ⟨g.core, g.tag⟩ s with
    | (s, .ok (bs, _)) => (s, .ok bs)
    | (s, .error e) => (s, .error e)

/-- The versioned blocks that an agent's write touched, as its core's L1 holds them: each line takes the new bytes (R250,
R274), or leaves where the word's tag is not the core's present one. -/
def touchBlocks (g : Agent) (l : Loc) (n : Nat) (s : State) : State :=
  (pieces 256 l.off n).foldl (fun s p =>
    if g.tag = (s.core g.core).txst.tag then reloadBlock p.1 l.ver ⟨g.core, g.tag⟩ s else dropBlock g.core p.1 s) s

/-- A piece of another device's memory, or of a SPACE 2 page, read by an agent: bytes that the core holds of a
remote-cacheable page stand in the place of the home's (R57, R259, R260). -/
def readRemote (g : Agent) (rc : Bool) (pa n : Nat) (s : State) : State × Except MemErr (List Byte) :=
  match if rc then cacheRead s g.core pa n else none with
  | some bs => (s, .ok bs)
  | none =>
    match engineRequest g.core .load pa n [] s with
    | (s, .ok bs) => (s, .ok (if rc then overlay s g.core pa bs else bs))
    | r => r

/-- One segment read by an agent (R86, R250, R323). -/
def segRead (g : Agent) (x : Seg) (s : State) : State × Except MemErr (List Byte) :=
  match x.phys with
  | .hbm l =>
    match l.ver with
    | none =>
      match coreRead g.core x.pa x.len s with
      | (s, some bs) => (s, .ok bs)
      | (s, none) => (s, .error .poison)
    | some _ => readPieces (readVersioned g l.ver) l.off x.len s
  | .control off => (s, .ok (regBytes s off x.len))
  | .host a => (s, .ok (hostBytes s a x.len))
  | _ => readPieces (readRemote g x.rc) x.pa x.len s

/-- One segment written by an agent (R87, R250, R257). -/
def segWrite (g : Agent) (x : Seg) (bs : List Byte) (s : State) : State × Except MemErr Unit :=
  match x.phys with
  | .hbm l =>
    match l.ver with
    | none => (engineWrite g.core x.pa bs g.scope s, .ok ())
    | some _ =>
      let (s, r) := writePieces (fun off bs s => homeStore ⟨off, l.ver⟩ bs ⟨g.core, g.tag⟩ .store s) l.off bs s
      (touchBlocks g l bs.length s, r)
  | .control off => (controlWrite off bs s, .ok ())
  | .host a => (hostWrite a bs s, .ok ())
  | _ =>
    if x.rc && decide (g.scope ≤ 1) then (engineWrite g.core x.pa bs g.scope s, .ok ())
    else
      writePieces (fun pa bs s =>
        match engineRequest g.core (.store false) pa bs.length bs s with
        | (s, .ok _) => (s, .ok ())
        | (s, .error e) => (s, .error e)) x.pa bs (if x.rc then throughBytes g.core x.pa bs s else s)

/-- Global memory read by an agent. -/
def agentRead (g : Agent) (va n : Nat) (s : State) : State × Except MemErr (List Byte) :=
  match agentTarget g va n false s with
  | (s, .error e) => (s, .error e)
  | (s, .ok (.window off)) =>
    if ((s.core g.core).spadBad off n).isSome then (s, .error .poison) else (s, .ok ((s.core g.core).spadBytes off n))
  | (s, .ok (.segs l)) =>
    l.foldl (fun acc x =>
      match acc with
      | (s, .ok bs) =>
        match segRead g x s with
        | (s, .ok more) => (s, .ok (bs ++ more))
        | r => r
      | r => r) (s, .ok [])

/-- Global memory written by an agent. -/
def agentWrite (g : Agent) (va : Nat) (bs : List Byte) (s : State) : State × Except MemErr Unit :=
  match agentTarget g va bs.length true s with
  | (s, .error e) => (s, .error e)
  | (s, .ok (.window off)) => (s.modCore g.core (fun c => c.spadWrite off bs), .ok ())
  | (s, .ok (.segs l)) =>
    l.foldl (fun (acc : State × Except MemErr Unit) x =>
      match acc with
      | (s, .ok ()) => segWrite g x (x.part va bs) s
      | r => r) (s, .ok ())

/-! ### Elements -/

/-- The scratchpad offsets of the bytes of a place, each swizzled (R247, R349), where all lie in the
scratchpad. -/
def spadPlaces (l : Layout) (a : Int) (n : Nat) : Option (List Nat) :=
  allSome ((List.range n).map (fun (i : Nat) =>
    let b : Int := swizzle l.swz (a + i)
    if 0 ≤ b ∧ b < 2 ^ 21 then some b.toNat else none))

/-- Whether a scratchpad place is misaligned for its size (R272). -/
def Layout.misaligned (l : Layout) (a : Int) : Bool := decide (l.mem = 1 ∧ a % (min l.span 64 : Nat) ≠ 0)

/-- The first `n` bytes of a place read (R349). -/
def placeReadN (g : Agent) (l : Layout) (a : Int) (n : Nat) (s : State) : State × Except MemErr (List Byte) :=
  match l.mem with
  | 0 => agentRead g (va64 a) n s
  | 1 =>
    match spadPlaces l a n with
    | none => (s, .error .xlate)
    | some os =>
      let c := s.core g.core
      if l.misaligned a then (s, .error .align)
      else if os.any (fun o => (c.spadBad o 1).isSome) then (s, .error .poison)
      else (s, .ok (os.map c.spadByte))
  | _ =>
    if 0 ≤ a ∧ a + n ≤ 32768 then
      let c := s.core g.core
      if c.tileBad l.base a.toNat n then (s, .error .poison) else (s, .ok (c.tileBytes l.base a.toNat n))
    else (s, .error .xlate)

/-- The bytes of a place read (R349). -/
def placeRead (g : Agent) (l : Layout) (a : Int) (s : State) : State × Except MemErr (List Byte) :=
  placeReadN g l a l.span s

/-- Scratchpad bytes written at offsets of their own: words covered whole are poisoned no longer (R323). -/
def CoreSt.spadPut (c : CoreSt) (os : List (Nat × Byte)) : CoreSt :=
  { os.foldl (fun c o => c.setSpad o.1 o.2) c with
    spadPois := c.spadPois.filter (fun e => !(List.range 8).all (fun i => os.any (fun o => o.1 == e.1 * 8 + i))) }

/-- The bytes of a place written (R349). -/
def placeWrite (g : Agent) (l : Layout) (a : Int) (bs : List Byte) (s : State) : State × Except MemErr Unit :=
  match l.mem with
  | 0 => agentWrite g (va64 a) bs s
  | 1 =>
    match spadPlaces l a bs.length with
    | none => (s, .error .xlate)
    | some os =>
      if l.misaligned a then (s, .error .align)
      else (s.modCore g.core (fun c => c.spadPut (os.zip bs)), .ok ())
  | _ =>
    if 0 ≤ a ∧ a + bs.length ≤ 32768 then (s.modCore g.core (fun c => c.tilePut l.base a.toNat bs), .ok ())
    else (s, .error .xlate)

/-- The address a record gives for a faulting place (R222, R306): a poisoned scratchpad place gives its offset, and a
tile register has no address. -/
def placeAddr (l : Layout) (a : Int) (e : MemErr) : Word :=
  match l.mem with
  | 0 => BitVec.ofNat 64 (va64 a)
  | 1 => if e = .poison then BitVec.ofInt 64 (swizzle l.swz a) else windowVa (swizzle l.swz a)
  | _ => 0

/-- The code at a position read from the first `n` bytes of its place, the others as 0: an NQ group's upper planes
(R286). -/
def elemReadN (g : Agent) (l : Layout) (lin n : Nat) (s : State) : State × Except (MemErr × Word) Nat :=
  match l.place lin with
  | none => (s, .ok l.fillCode)
  | some p =>
    match placeReadN g l p.addr n s with
    | (s, .ok bs) => (s, .ok (codeAt l.fmt p.sub bs))
    | (s, .error e) => (s, .error (e, placeAddr l p.addr e))

/-- The code at a position read, FILL where it is OUTSIDE; an error comes with the faulting address (R349). -/
def elemRead (g : Agent) (l : Layout) (lin : Nat) (s : State) : State × Except (MemErr × Word) Nat :=
  match l.place lin with
  | none => (s, .ok l.fillCode)
  | some p =>
    match placeRead g l p.addr s with
    | (s, .ok bs) => (s, .ok (codeAt l.fmt p.sub bs))
    | (s, .error e) => (s, .error (e, placeAddr l p.addr e))

/-- A code written at a position, an OUTSIDE one left as it is (R349). -/
def elemWrite (g : Agent) (l : Layout) (lin code : Nat) (s : State) : State × Except (MemErr × Word) Unit :=
  match l.place lin with
  | none => (s, .ok ())
  | some p =>
    let fail (e : MemErr) : Except (MemErr × Word) Unit := .error (e, placeAddr l p.addr e)
    let put (bs : List Byte) (s : State) : State × Except (MemErr × Word) Unit :=
      match placeWrite g l p.addr bs s with
      | (s, .ok ()) => (s, .ok ())
      | (s, .error e) => (s, fail e)
    if l.partial' then
      match placeRead g l p.addr s with
      | (s, .ok bs) => put (putCode l.fmt p.sub code bs) s
      | (s, .error e) => (s, fail e)
    else put (toBytes l.span code) s

end Sys2Proof.Machine
end

