-- ==== Sys2Proof/Machine/TileMath.lean ====
section
/-! DEFINITION. What a tile op forms from exact element values: elementwise results, tree and scan operators,
conversions with block scales, delayed scales, granule sums and the optimiser's updates (R283 to R286, R294, R299,
R300, R302, R457 to R467). -/

namespace Sys2Proof.Machine

/-! ### Exact values -/

/-- A value a little greater in magnitude than `m · 2^e` where a rest follows: one more bit stands for the rest,
below every rounding boundary. -/
def withRest (neg : Bool) (m : Nat) (e : Int) (rest : Bool) : Fv :=
  if rest then .fin neg (2 * m + 1) (e - 1) else .fin neg m e

/-- NaN for an invalid operation (R293). -/
def orNan (v : Option Fv) : Fv := v.getD (.nan false)

/-- An exact sum whose zero takes its sign by R294 for the mode. -/
def addMode (rdn : Bool) (a b : Fv) : Fv :=
  match orNan (a.add b) with
  | .fin n m e => if m = 0 ∧ a.isNeg ≠ b.isNeg then .fin rdn 0 0 else .fin n m e
  | v => v

/-- An exact product. -/
def mulX (a b : Fv) : Fv := orNan (a.mul b)

/-- The lesser or greater by R295. -/
def minX (a b : Fv) : Fv := if a.isNan || b.isNan then .nan false else if b.below a then b else a
def maxX (a b : Fv) : Fv := if a.isNan || b.isNan then .nan false else if a.below b then b else a

/-- a ÷ b with the special cases of R299. -/
def divX (a b : Fv) : Fv :=
  match a, b with
  | .nan s, _ => .nan s
  | _, .nan s => .nan s
  | .inf _, .inf _ => .nan false
  | .inf x, .fin n _ _ => .inf (x != n)
  | .fin n _ _, .inf y => .fin (n != y) 0 0
  | .fin n1 m1 e1, .fin n2 m2 e2 =>
    if m2 = 0 then (if m1 = 0 then .nan false else .inf (n1 != n2))
    else if m1 = 0 then .fin (n1 != n2) 0 0
    else
      let (m, e, st) := divFin m1 e1 m2 e2
      withRest (n1 != n2) m e st

/-- 1 / a (R299). -/
def rcpX (a : Fv) : Fv :=
  match a with
  | .nan s => .nan s
  | .inf n => .fin n 0 0
  | .fin n m e =>
    if m = 0 then .inf n
    else
      let (q, x, st) := divFin 1 0 m e
      withRest n q x st

/-- √a (R299). -/
def sqrtX (a : Fv) : Fv :=
  match a with
  | .nan s => .nan s
  | .inf n => if n then .nan false else .inf false
  | .fin n m e =>
    if m = 0 then .fin n 0 0
    else if n then .nan false
    else
      let (r, x, st) := sqrtFin m e
      withRest false r x st

/-- 1 / √a (R299). -/
def rsqX (a : Fv) : Fv :=
  match a with
  | .nan s => .nan s
  | .inf n => if n then .nan false else .fin false 0 0
  | .fin n m e =>
    if m = 0 then .inf n
    else if n then .nan false
    else
      let k : Nat := if e % 2 = 0 then 256 else 257
      let r := isqrt (2 ^ k / m)
      withRest false r (-(e + k) / 2) (decide (r * r * m ≠ 2 ^ k))

/-- 2^a (R299): beyond ±400 its magnitude no longer matters to any rounding. -/
def exp2X (a : Fv) : Fv :=
  match a with
  | .nan s => .nan s
  | .inf n => if n then .fin false 0 0 else .inf false
  | .fin n m e =>
    if m = 0 then .fin false 1 0
    else if e > 16 then .fin false 1 (if n then -400 else 400)
    else
      let p : Nat := (-(min e (-150))).toNat
      let v : Int := atExp n m e (-(p : Int))
      let i : Int := v / 2 ^ p
      let fr : Nat := (v % (2 ^ p : Int)).toNat
      if i > 400 then .fin false 1 400
      else if i < -400 then .fin false 1 (-400)
      else if fr = 0 then .fin false 1 i
      else
        let q := p + 64
        withRest false (exp2Bits q (fr * 2 ^ 64) q (2 * 2 ^ q) (2 ^ q)) (i - q) true

/-- log2 a (R299). -/
def log2X (a : Fv) : Fv :=
  match a with
  | .nan s => .nan s
  | .inf n => if n then .nan false else .inf false
  | .fin n m e =>
    if m = 0 then .inf true
    else if n then .nan false
    else
      let lg := Nat.log2 m
      let i : Int := e + lg
      if m = 2 ^ lg then Fv.ofInt i
      else
        let v : Int := i * 2 ^ 128 + log2Bits 512 128 (m * 2 ^ (512 - lg)) 0
        if v < 0 then withRest true (v.natAbs - 1) (-128) true else withRest false v.natAbs (-128) true

/-- T.EW's exact result (R457). -/
def ewX (fn : Nat) (rdn : Bool) (a b c : Fv) : Fv :=
  match fn with
  | 0 => addMode rdn a b
  | 1 => addMode rdn a b.neg
  | 2 => mulX a b
  | 3 => if c.isNan then .nan false else addMode rdn (mulX a b) c
  | 4 => minX a b
  | 5 => maxX a b
  | 6 => maxX a.abs b.abs
  | _ => divX a b

/-- T.MAP's exact result (R458). -/
def mapX (fn : Nat) (scale a : Fv) : Fv :=
  match fn with
  | 0 => rcpX a
  | 1 => rsqX a
  | 2 => sqrtX a
  | 3 => exp2X a
  | 4 => log2X a
  | 5 => a.abs
  | 6 => a.neg
  | _ => mulX a scale

/-- A value rounded into a format (R452): `r` is drawn under SR. -/
def outCode (fmt mode sat r : Nat) (v : Fv) : Nat := (convert fmt mode sat r v (fmtBits fmt)).1

/-- A value rounded to FP32 by RNE, as a value again. -/
def r32 (v : Fv) : Fv := Fmt.fp32.decode (Fmt.fp32.rne v).1

/-- Whether a format code is a floating-point one. -/
def isFloat (fmt : Nat) : Bool := (fmtOf fmt).isSome

/-! ### Trees and scans (R459, R460) -/

/-- An element as it enters a reduction or scan: an FP32 code, or a 64-bit integer. -/
def widenCode (fmt code : Nat) : Nat :=
  if isFloat fmt then (Fmt.fp32.rne (elemFv fmt code)).1 else wrap (sx code (fmtBits fmt)) 64

/-- A 64-bit integer operator (R459). -/
def intOp (fn a b : Nat) : Nat :=
  match fn with
  | 0 => (a + b) % 2 ^ 64
  | 1 => if sx a 64 < sx b 64 then b else a
  | 2 => if sx b 64 < sx a 64 then b else a
  | 4 => a &&& b
  | 5 => a ||| b
  | _ => a ^^^ b

/-- A combine of T.RED or of a scan but LINREC (R459). -/
def tileRedOp (fn : Nat) (flt : Bool) (a b : Nat) : Nat :=
  if flt then
    match fn with
    | 0 => (Fmt.fp32.fadd a b).1
    | 1 => (Fmt.fp32.fmax a b).1
    | 2 => (Fmt.fp32.fmin a b).1
    | _ => (Fmt.fp32.famax a b).1
  else intOp fn a b

/-- An element as T.RED takes it: under AMAX its absolute value. -/
def redIn (fn fmt code : Nat) : Nat :=
  let v := widenCode fmt code
  if fn = 3 ∧ isFloat fmt then (Fmt.fp32.fabs v).1 else v

/-- The value of a final partial. -/
def partialFv (flt : Bool) (v : Nat) : Fv := if flt then Fmt.fp32.decode v else Fv.ofInt (sx v 64)

/-- A scan's operator (R460): LINREC on pairs, the first in the low 32 bits. -/
def scanOp (fn : Nat) (flt : Bool) (a b : Nat) : Nat :=
  if fn = 3 then
    let p := (linrec (a % 2 ^ 32, a / 2 ^ 32) (b % 2 ^ 32, b / 2 ^ 32)).1
    p.1 + p.2 * 2 ^ 32
  else tileRedOp fn flt a b

/-- A scan's carry-in from C's element (R460). -/
def scanCarry (fn h : Nat) : Nat := if fn = 3 then 0x3F800000 + h * 2 ^ 32 else h

/-- The running values of a granule (R214). -/
def scanGranule (op : Nat → Nat → Nat) : List Nat → List Nat
  | [] => []
  | x :: xs => (xs.foldl (fun (a : List Nat × Nat) y => (a.1 ++ [op a.2 y], op a.2 y)) ([x], x)).1

/-- The carries into the granules of a line, from their totals (R214): none where there is none. -/
def scanCarries (op : Nat → Nat → Nat) (c : Option Nat) : List Nat → List (Option Nat)
  | [] => []
  | t :: ts => c :: scanCarries op (some (match c with | some c => op c t | none => t)) ts

/-! ### Conversions (R284, R286, R300, R461) -/

/-- The greatest exponent of a block scale's target (R284, R461). -/
def emaxOf (fmt : Nat) : Int := match fmt with | 2 => 8 | 3 => 15 | 4 => 2 | _ => 6

/-- floor(log2 |v|) of a finite value other than 0. -/
def floorLog2 (m : Nat) (e : Int) : Int := e + Nat.log2 m

/-- mx_block (R284): the scale's code and each element's; `r` gives the random bits of an element. -/
def mxBlock (fmt mode : Nat) (r : Nat → Nat) (vs : List Fv) : Nat × List Nat :=
  if vs.any (fun v => match v with | .fin .. => false | _ => true) then (255, vs.map (fun _ => 0))
  else
    let x : Int := vs.foldl (fun (x : Int) v =>
      match v with
      | .fin _ m e => if m = 0 then x else max x (min 127 (max (-127) (floorLog2 m e - emaxOf fmt)))
      | _ => x) (-127)
    let at' (v : Fv) : Fv := match v with | .fin n m e => .fin n m (e - x) | v => v
    ((x + 127).toNat, (vs.zipIdx).map (fun p => outCode (if fmt = 16 then 6 else fmt) mode 0 (r p.2) (at' p.1)))

/-- S_t of a word: PARAM0 or PARAM1 as FP32, with 0 as 1.0 (R461, R462). -/
def tensorScale (p : Nat) : Fv := if p = 0 then .fin false 1 0 else Fmt.fp32.decode p

/-- delayed_scale's exponent e (R300), from the sixteen FP32 entries; `none` gives (1.0, 1.0). -/
def delayedExp (fmt : Nat) (hist : List Nat) : Option Int :=
  let a := hist.foldl (fun a h => (Fmt.fp32.famax a h).1) 0
  match Fmt.fp32.decode a with
  | .fin _ m e =>
    if m = 0 then none
    else
      let top : Fv := match fmtOf fmt with | some f => f.decode f.maxCode | none => Fv.ofInt 127
      match divX top (.fin false m e) with
      | .fin _ q x => some (min 127 (max (-126) (floorLog2 q x)))
      | _ => none
  | _ => none

/-! ### Matrix words (R213, R302) -/

/-- The accumulator after each granule of products (R213). -/
def accumulate (a0 : Fv) (gs : List (List (Option Fv))) : Fv :=
  gs.foldl (fun acc g => r32 (orNan (acc.add (sumFv g)))) a0

/-! ### The optimiser (R467) -/

/-- What T.OPT forms at a position: the new weight, exactly, and the new moments (R467). -/
def optX (kind : Nat) (rdn : Bool) (lr b1 b2 eps w g m v : Fv) : Fv × Fv × Fv :=
  let down (step : Fv) : Fv := addMode rdn w (mulX lr step).neg
  let one : Fv := .fin false 1 0
  match kind with
  | 0 => (down g, m, v)
  | 1 =>
    let m1 := r32 (addMode false (mulX b1 m) g)
    (down m1, m1, v)
  | _ =>
    let m1 := r32 (addMode false (mulX b1 m) (mulX (addMode false one b1.neg) g))
    let v1 := r32 (addMode false (mulX b2 v) (mulX (mulX (addMode false one b2.neg) g) g))
    let d := r32 (addMode false (r32 (sqrtX v1)) eps)
    let u := r32 (divX m1 d)
    (down u, m1, v1)

end Sys2Proof.Machine
end

