-- ==== Sys2Proof/Machine/TileCheck.lean ====
section
/-! DEFINITION. The checks of a tile word at its executor (R107, R120, R146, R197, R204, R439, R450 to R470). -/

namespace Sys2Proof.Machine

/-! ### The word of a job -/

/-- The op code of a job's word (R345). -/
def TileJob.op (j : TileJob) : Nat := bits j.word.toNat 7 0

/-- The fields of a job's word (R345). -/
def TileJob.tw (j : TileJob) : TileWord := tileFields j.word.toNat

/-- Bits `hi` down to `lo` of MODE, counted from its bit [16] (R452). -/
def md (w : TileWord) (hi lo : Nat) : Nat := bits w.mode.toNat hi lo

def tmP0 (w : TileWord) : Nat := w.p0.toNat
def tmP1 (w : TileWord) : Nat := w.p1.toNat
def tmRM (w : TileWord) : Nat := md w 2 0
def tmSAT (w : TileWord) : Nat := md w 3 3
def tmKS (w : TileWord) : Nat := md w 4 4

/-- The handle of operand `k`: O, A, B, C, and T.MMA's scale records SA and SB (R345, R462). -/
def TileJob.handle (j : TileJob) (k : Nat) : Nat :=
  let w := j.tw
  match k with
  | 0 => w.ho
  | 1 => w.ha
  | 2 => w.hb
  | 3 => w.hc
  | 4 => if j.op = 8 ∨ j.op = 9 then bits (tmP0 w) 15 0 else 0
  | _ => if j.op = 8 ∨ j.op = 9 then bits (tmP0 w) 31 16 else 0

/-- The levels an op is accepted at (R218); none for a code that is no op. -/
def opLevels (op : Nat) : Option (Nat × Nat) :=
  if 1 ≤ op ∧ op ≤ 0x0D then some (0, 5)
  else if 0x10 ≤ op ∧ op ≤ 0x13 then some (4, 5)
  else if 0x18 ≤ op ∧ op ≤ 0x1A then some (1, 5)
  else none

/-- Whether an op works on records and arrives on BAR as a barrier (R207). -/
def dataOp (op : Nat) : Bool := decide (1 ≤ op ∧ op ≤ 0x0D)

/-- The record table a job reads (R388, R450). -/
def TileJob.key' (j : TileJob) : Nat := tableKey j.tw.level j.core

/-! ### Fields (R450 to R470) -/

/-- Which handles of O, A, B and C an op needs (1), may have (2) or must leave 0 (0) (R450, R456 to R467). -/
def handleUse (op : Nat) (w : TileWord) : List Nat :=
  match op with
  | 0x01 => [1, 1, 0, 0]
  | 0x02 => [1, 0, 0, 0]
  | 0x03 => [1, 1, 1, if md w 9 5 = 3 then 1 else 0]
  | 0x04 => [1, 1, 0, 0]
  | 0x05 => [1, 1, 0, 0]
  | 0x06 => [1, 1, if md w 8 5 = 3 then 1 else 0, 2]
  | 0x07 => [1, 1, 0, if md w 6 5 = 0 ∧ md w 7 7 = 0 then 0 else 1]
  | 0x08 => [1, 1, 1, 2]
  | 0x09 => [1, 1, 1, 1]
  | 0x0A => [1, 1, 0, 1]
  | 0x0B => [if md w 5 5 = 1 then 2 else 1, 1, 0, 0]
  | 0x0C => [1, 0, 0, 0]
  | 0x0D => [1, 1, if md w 6 5 = 0 then 0 else 1, if md w 6 5 = 2 then 1 else 0]
  | _ => [0, 0, 0, 0]

/-- Whether the handles of a data word are those its op takes, each in its table (R450). -/
def handlesOk (j : TileJob) : Bool :=
  ((handleUse j.op j.tw).zipIdx).all (fun (u, k) =>
    let h := j.handle k
    decide ((u = 0 → h = 0) ∧ (u = 1 → h ≠ 0))) &&
  (List.range 6).all (fun k => decide (j.handle k ≤ tableTop j.tw.level))

/-- A BF16 value in [0, 1] (R467). -/
def unitBf16 (c : Nat) : Bool :=
  let v := Fmt.bf16.decode c
  !v.isNan && (v.isZero || (!v.isNeg && !(Fv.fin false 1 0).lt v))

/-- The MODE and parameter checks of a data op (R450 to R467). -/
def fieldsOk (op : Nat) (w : TileWord) : Bool :=
  let p0 := (tmP0 w)
  let p1 := (tmP1 w)
  let round := decide (tmRM w ≤ 4 ∧ tmKS w = 0)
  match op with
  | 0x01 => decide (w.mode = 0 ∧ p0 = 0 ∧ p1 = 0)
  | 0x02 => decide (w.mode = 0 ∧ p1 = 0)
  | 0x03 => round && decide (md w 9 5 ≤ 7 ∧ md w 15 10 = 0 ∧ p0 = 0 ∧ p1 = 0)
  | 0x04 => round && decide (md w 9 5 ≤ 7 ∧ md w 15 10 = 0 ∧ (md w 9 5 ≠ 7 → p0 = 0) ∧ p1 = 0)
  | 0x05 => round && decide (md w 8 5 ≤ 6 ∧ md w 15 9 = 0 ∧ p0 ≠ 0 ∧ p0 < 2 ^ 16 ∧ p1 = 0)
  | 0x06 => round && decide (md w 8 5 ≤ 3 ∧ md w 15 9 = 0 ∧ p0 < 16 ∧ p1 = 0)
  | 0x07 =>
    round && decide (md w 6 5 ≤ 2 ∧ md w 15 8 = 0 ∧ (md w 7 7 = 1 → md w 6 5 = 0) ∧
      (md w 6 5 ≠ 2 → p1 = 0 ∧ (if md w 7 7 = 1 then p0 < 2 ^ 16 else p0 = 0)) ∧ p1 < 16)
  | 0x08 => decide (tmRM w ≤ 3 ∧ tmKS w = 0 ∧ md w 6 5 = 0 ∧ md w 15 10 = 0)
  | 0x09 => decide (tmRM w ≤ 3 ∧ tmKS w = 0 ∧ md w 6 5 = 0 ∧ md w 15 11 = 0)
  | 0x0A => decide (md w 4 0 = 0 ∧ md w 15 6 = 0 ∧ p0 = 0 ∧ p1 = 0)
  | 0x0B =>
    decide (md w 4 0 = 0 ∧ md w 15 6 = 0 ∧ p0 < 2 ^ 16 ∧ (md w 5 5 = 0 → p0 = 0 ∧ p1 = 0 ∧ w.ho ≠ 0))
  | 0x0C =>
    decide (md w 15 6 = 0 ∧ (if md w 5 5 = 1 then tmRM w ≤ 3 else md w 3 0 = 0) ∧
      (tmKS w = 0 → p0 = 0 ∧ p1 = 0))
  | 0x0D =>
    round && decide (md w 6 5 ≤ 2 ∧ md w 15 13 = 0 ∧ (md w 6 5 ≠ 2 → md w 12 7 = 0)) &&
      (match md w 6 5 with
       | 0 => decide (p1 = 0)
       | 1 => unitBf16 (p1 % 2 ^ 16) && decide (p1 < 2 ^ 16)
       | _ => unitBf16 (p1 % 2 ^ 16) && unitBf16 (p1 / 2 ^ 16))
  | _ => true

/-- Whether a word draws random bits with the key of the step context block (R453). -/
def drawsKey (op : Nat) (w : TileWord) : Bool :=
  match op with
  | 0x0C => tmKS w == 0
  | 0x03 | 0x04 | 0x05 | 0x06 | 0x07 | 0x0D => tmRM w == 4
  | _ => false

/-- Whether a word uses the amax history (R121, R461, R465). -/
def usesHistory (op : Nat) (w : TileWord) : Bool :=
  match op with
  | 0x07 => md w 7 7 == 1
  | 0x0B | 0x10 => md w 5 5 == 1
  | _ => false

/-! ### The step context block (R145, R146, R453) -/

/-- The packet of the launch a job belongs to. -/
def TileJob.launch (s : State) (j : TileJob) : Option Packet := s.packet? j.owner

/-- The address of the step context block of a job's launch: none outside a launch transaction. -/
def scbOf (s : State) (j : TileJob) : Option Nat :=
  if j.txn && !j.loc then (j.launch s).map (fun p => pkScb p.head.words) else none

/-- Bytes of versioned memory in the committed view (R86, R146), read by a unit outside the cores. -/
def committedRead (root va n : Nat) (s : State) : State × Except MemErr (List Byte) :=
  match xlatAt 512 root va false s with
  | (s, .ok x) =>
    match x.phys with
    | .hbm l =>
      match homeLoad l n remoteCtx s with
      | (s, .ok (bs, _)) => (s, .ok bs)
      | (s, .error e) => (s, .error e)
    | _ => (s, .error .xlate)
  | (s, .error e) => (s, .error e)

/-- Key and counter of a word that draws random bits (R453): the step context block's PKEY and PCTR with HO, read once, by
the receiving executor (a member's copy brings them), or those of the word itself; none gives TILEARG. -/
def keyRead (j : TileJob) (s : State) : State × Option TileJob :=
  if drawsKey j.op j.tw then
    if j.member then (s, some j)
    else
      match scbOf s j with
      | none => (s, none)
      | some a =>
        match committedRead j.root (a + 0x10) 8 s with
        | (s, .error _) => (s, none)
        | (s, .ok k) =>
          match committedRead j.root (a + 0x20) 16 s with
          | (s, .error _) => (s, none)
          | (s, .ok c) => (s, some { j with key := fromBytes k, ctr := (fromBytes c + 2 ^ 64 * j.tw.ho) % 2 ^ 128 })
  else (s, some { j with key := (tmP1 j.tw) * 2 ^ 32 + (tmP0 j.tw), ctr := 2 ^ 64 * j.tw.ho })

/-- The history base of a word that uses the history, which must translate and be 64-byte aligned (R146); none gives
TILEARG. -/
def historyRead (j : TileJob) (s : State) : State × Option TileJob :=
  if usesHistory j.op j.tw then
    match scbOf s j with
    | none => (s, none)
    | some a =>
      match committedRead j.root (a + 0xC0) 8 s with
      | (s, .error _) => (s, none)
      | (s, .ok bs) =>
        let h := fromBytes bs
        match xlatAt 512 j.root h false s with
        | (s, .ok _) => (s, if h % 64 = 0 then some { j with hbase := some (BitVec.ofNat 64 h) } else none)
        | (s, .error _) => (s, none)
  else (s, some j)

/-- What an executor reads from the step context block at acceptance (R146, R453); none gives TILEARG. -/
def scbRead (j : TileJob) (s : State) : State × Option TileJob :=
  match keyRead j s with
  | (s, none) => (s, none)
  | (s, some j) => historyRead j s

/-! ### Barriers, collectives and kernels -/

/-- The accesses that an executor makes itself: with the issuing core's index and tag, at sys. -/
def TileJob.agent (j : TileJob) : Agent := ⟨j.core, j.root, j.tag, 4, decide (j.tw.level ≤ 1)⟩

/-- The barrier that a word's BAR names (R204, R268): an object in HBM, 64-byte aligned, outside the window. -/
def barTarget (j : TileJob) (s : State) : State × Except MemErr Xlat :=
  let va := j.tw.bar.toNat
  if inWindow va then (s, .error .barspace)
  else
    match agentXlat j.agent true va s with
    | (s, .error e) => (s, .error e)
    | (s, .ok x) =>
      let bad := match x.phys with | .hbm _ | .domain _ => false | _ => true
      (s, if bad then .error .barspace else if va % 64 ≠ 0 then .error .align else .ok x)

/-- Whether a word's BAR may be arrived on (R204). -/
def barOk (j : TileJob) (s : State) : State × Bool :=
  match barTarget j s with
  | (s, .ok _) => (s, true)
  | (s, .error _) => (s, false)

/-- Whether an operator is allowed for an element type (R107). -/
def collOpOk (type op : Nat) : Bool :=
  match type with
  | 0 | 1 => decide (op ≤ 3)
  | 2 => decide (op ≤ 2 ∨ op = 4 ∨ op = 5)
  | _ => false

/-- The named-buffer entry of a name (R102). -/
def State.nbEntry (s : State) (name : Nat) : Option NbEntry := s.perg.nbt.find? (fun e => e.name == name)

/-- Whether every coordinate of the shape holds a member (R41, R160). -/
def wholeShape (s : State) : Bool :=
  (List.range (s.fab.nrm1 + 1)).all (fun y => (List.range (s.fab.ncm1 + 1)).all (fun x => s.isMember (8 * y + x)))

/-- The argument checks of a collective (R120, R160). -/
def collOk (s : State) (j : TileJob) : Bool :=
  let w := j.tw
  let op := j.op
  let hist := md w 5 5
  let root := bits (tmP0 w) 21 16
  wholeShape s && decide (md w 15 6 = 0 ∧ w.ho = 0 ∧ w.ha = 0 ∧ w.hb = 0 ∧ (tmP0 w) / 2 ^ 22 = 0 ∧ (tmP1 w) / 2 ^ 28 = 0) &&
    (match s.nbEntry ((tmP0 w) % 2 ^ 16) with
     | none => false
     | some e => decide (1 ≤ (tmP1 w) ∧ (tmP1 w) ≤ e.cap ∧ md w 4 3 = e.type) &&
         (if op = 0x10 ∨ op = 0x12 then collOpOk e.type (md w 2 0) else decide (md w 2 0 = 6))) &&
    (if op = 0x13 then s.isMember root else decide (root = 0)) &&
    (if hist = 1 then decide (op = 0x10 ∧ md w 2 0 = 3) else decide (w.hc = 0))

/-- The words w11 to w14 of a T.KERN under TISSUE: reserved bits, the counts that R168 refuses under ERRCODE 3,
and the level bounds of R197. -/
def kernOk (j : TileJob) (ws : List Word) : Bool :=
  decide (bits (pw ws 11) 31 25 = 0 ∧ bits (pw ws 11) 63 51 = 0 ∧ bits (pw ws 12) 11 0 = 0 ∧
      bits (pw ws 12) 63 57 = 0 ∧ bits (pw ws 14) 5 0 = 0 ∧ bits (pw ws 14) 63 57 = 0) &&
    decide (1 ≤ pkGcount ws ∧ 1 ≤ pkGlevel ws ∧ pkGlevel ws ≤ 4 ∧ pkGlevel ws ≤ j.tw.level ∧
      pkGcount ws * unitCores (pkGlevel ws) ≤ unitCores j.tw.level ∧ j.tw.level ≤ j.glevel)

/-! ### The checks of R204 but RECORD -/

/-- The checks of R204 that need no record: the cause, or the job with what the step context block gave. -/
def staticCheck (j : TileJob) (s : State) : State × Except (BitVec 8) TileJob :=
  let w := j.tw
  let op := j.op
  match opLevels op with
  | none => (s, .error 0x20)
  | some (lo, hi) =>
    if w.level < lo ∨ hi < w.level ∨ (w.level = 5 ∧ s.arb.valid = false ∧ j.member = false) then (s, .error 0x21)
    else
      let (s, bar) := if j.member || !dataOp op || w.bar == 0 then (s, true) else barOk j s
      let issue :=
        j.member ||
          (w.txn == j.txn && !(w.level = 5 && j.loc) &&
            (j.packet.isSome || decide (3 ≤ w.tl ∧ w.tl ≤ 7)) && bar)
      let args :=
        if dataOp op then fieldsOk op w && handlesOk j
        else if op ≤ 0x13 then collOk s j
        else
          decide (w.ho = 0 ∧ w.ha = 0 ∧ w.hb = 0 ∧ w.hc = 0) &&
            (if op = 0x18 then decide (w.mode = 0 ∧ w.p0 = 0 ∧ w.p1 = 0 ∧ (j.packet.isSome → w.bar = 0))
             else if op = 0x19 then decide (w.mode.toNat ||| 0x20 = 0x20)
             else decide (w.mode = 0 ∧ w.p1 = 0))
      if w.rsv15 || decide (w.rsv ≠ 0) || !issue || !args then (s, .error 0x22)
      else
        match scbRead j s with
        | (s, some j) => (s, .ok j)
        | (s, none) => (s, .error 0x22)

/-! ### The checks on records (R450, R451, R456 to R467) -/

/-- The layouts of a job's records as its table holds them: for each operand with a handle, the layout, none where
R348 fails. -/
def TileJob.lays (s : State) (j : TileJob) : List (Nat × Option Layout) :=
  (List.range 6).filterMap (fun k =>
    if j.handle k = 0 then none
    else some (k, loadLayout s j.key' (j.handle k) (tableTop j.tw.level)))

/-- The layout of operand `k`. -/
def layOf (l : List (Nat × Option Layout)) (k : Nat) : Option Layout :=
  match l.find? (fun p => p.1 == k) with
  | some p => p.2
  | none => none

/-- The formats that every arithmetic op takes (R452). -/
def plainFmts : List Nat := [0, 1, 2, 3, 4, 6, 7, 8]

/-- The memory kinds of a level (R450); at level 0 the whole window lies inside the tile. -/
def memOk (level : Nat) (l : Layout) : Bool :=
  match level with
  | 0 => decide (l.mem = 2) && (List.range l.count).all (fun i =>
      match l.place i with
      | some p => decide (0 ≤ p.addr ∧ p.addr + l.span ≤ 32768)
      | none => true)
  | 1 => decide (l.mem = 0 ∨ l.mem = 1)
  | _ => decide (l.mem = 0)

/-- The shape with some dimensions left out (R459). -/
def keptShape (mask : Nat) (ws : List Nat) : List Nat :=
  ((ws.zipIdx).filter (fun p => !bit mask p.2)).map (fun p => p.1)

/-- The shape of a scale record beside one of a shape (R461, R462): one position for each 32 along dimension 0. -/
def scaleShape (ws : List Nat) : List Nat :=
  match ws with
  | [] => []
  | w :: rest => (w + 31) / 32 :: rest

/-- Whether A and B pair (R439, R462): formats, and whether each side carries scales. -/
def pairOk (fa fb : Nat) (sa sb : Bool) : Bool :=
  match fa, fb with
  | 1, 1 => !sa && !sb
  | 2, 2 | 2, 3 | 3, 2 | 3, 3 => true
  | 4, 4 => sa && sb
  | 2, 16 | 6, 16 => !sa && sb
  | _, _ => false

/-- The K of a sparse B of `k` rows of kept values, `m` to a group of four (R463). -/
def fullK (k m : Nat) : Nat := 4 * k / m

/-- PL of T.MMA and T.MMAS (R462): its three bits hold 8 as 0. -/
def tilePl (w : TileWord) : Nat := if md w 9 7 = 0 then 8 else md w 9 7

/-- The kept values of a group (R463, R464). -/
def keptOf (one : Bool) : Nat := if one then 1 else 2

/-- The record checks of an op, those of records that R348 refuses left out (R450, R451, R456 to R467). -/
def recordArgs (op : Nat) (w : TileWord) (l : List (Nat × Option Layout)) : Bool :=
  let o := layOf l 0
  let a := layOf l 1
  let b := layOf l 2
  let c := layOf l 3
  let fmtIn (x : Option Layout) (fs : List Nat) : Bool := match x with | some x => fs.contains x.fmt | none => true
  let two (x y : Option Layout) (p : Layout → Layout → Bool) : Bool := match x, y with | some x, some y => p x y | _, _ => true
  let has (x : Option Layout) (p : Layout → Bool) : Bool := match x with | some x => p x | none => true
  let counts := [a, b, c].all (fun x => two o x (fun o x => decide (x.count = o.count ∨ x.count = 1)))
  let plain := [o, a, b, c].all (fun x => fmtIn x plainFmts)
  match op with
  | 0x01 => counts && two o a (fun o a => o.fmt == a.fmt)
  | 0x02 => has o (fun o => o.fmt != 16)
  | 0x03 => counts && plain
  | 0x04 => counts && plain
  | 0x05 =>
    plain && has a (fun a => decide ((tmP0 w) < 2 ^ a.dims.length) &&
        (if isFloat a.fmt then decide (md w 8 5 ≤ 3) else decide (md w 8 5 ≠ 3))) &&
      two o a (fun o a =>
        let k := keptShape (tmP0 w) a.shape
        if k.isEmpty then decide (o.count = 1) else o.shape == k)
  | 0x06 =>
    plain && has a (fun a => decide ((tmP0 w) < a.dims.length) && (md w 8 5 != 3 || isFloat a.fmt)) &&
      two o a (fun o a => o.shape == a.shape) &&
      two a b (fun a b => b.shape == a.shape && isFloat b.fmt) &&
      two a c (fun a c => decide (c.count = a.count / (a.shape.getD (tmP0 w) 1)) && isFloat c.fmt == isFloat a.fmt)
  | 0x07 =>
    match md w 6 5 with
    | 0 =>
      (if md w 7 7 = 1 then
        [o, a].all (fun x => fmtIn x plainFmts) && fmtIn o [2, 3, 6] && fmtIn c [0] && has c (fun c => c.count == 1)
       else [o, a].all (fun x => fmtIn x plainFmts)) && two o a (fun o a => decide (a.count = o.count ∨ a.count = 1))
    | 1 =>
      fmtIn o [2, 3, 4, 16] && fmtIn a plainFmts && fmtIn c [5] &&
        two o a (fun o a => decide (a.count = o.count ∨ a.count = 1)) &&
        two o c (fun o c => c.shape == scaleShape o.shape)
    | _ =>
      fmtIn a [2, 3, 4, 16] && fmtIn o plainFmts && fmtIn c [5] &&
        has a (fun a => if a.fmt = 16 then decide (2 ≤ (tmP1 w) ∧ (tmP1 w) ≤ 8) else (tmP1 w) == 0) &&
        two o a (fun o a => decide (a.count = o.count ∨ a.count = 1)) &&
        two a c (fun a c => c.shape == scaleShape a.shape)
  | 0x08 | 0x09 =>
    let m := if op = 9 then keptOf (md w 10 10 == 1) else 4
    let sa := layOf l 4
    let sb := layOf l 5
    let hasA := l.any (fun p => p.1 == 4)
    let hasB := l.any (fun p => p.1 == 5)
    [o, a, b, c].all (fun x => has x (fun x => x.dims.length == 2)) &&
      [sa, sb].all (fun x => fmtIn x [5]) && fmtIn o [0, 1, 2, 3] &&
      (if op = 9 then fmtIn b [2, 3, 4, 16] && fmtIn c [6] else fmtIn c plainFmts) &&
      has b (fun b => if b.fmt = 16 then decide (2 ≤ tilePl w) else md w 9 7 == 0) &&
      two a b (fun a b => pairOk a.fmt b.fmt hasA hasB) &&
      two a b (fun a b => decide (a.shape.getD 0 0 = fullK (b.shape.getD 0 0) m) &&
        (op != 9 || decide (a.shape.getD 0 0 % 4 = 0 ∧ b.shape.getD 0 0 = a.shape.getD 0 0 * m / 4))) &&
      two o a (fun o a => o.shape.getD 1 0 == a.shape.getD 1 0) &&
      two o b (fun o b => o.shape.getD 0 0 == b.shape.getD 1 0) &&
      (if op = 9 then two b c (fun b c => c.shape == [(b.shape.getD 0 0 + 3) / 4, b.shape.getD 1 0])
       else two o c (fun o c => c.shape == o.shape)) &&
      two a sa (fun a sa => sa.shape == scaleShape a.shape) &&
      two a sb (fun a sb => sb.shape.getD 0 0 == (a.shape.getD 0 0 + 31) / 32) &&
      two b sb (fun b sb => decide (sb.dims.length = 2) && sb.shape.getD 1 0 == b.shape.getD 1 0)
  | 0x0A =>
    let m := keptOf (md w 5 5 == 1)
    fmtIn a [1, 2, 3, 4, 16] && two o a (fun o a => o.fmt == a.fmt) && fmtIn c [6] &&
      [o, a, c].all (fun x => has x (fun x => x.dims.length == 2)) &&
      has a (fun a => decide (a.shape.getD 0 0 % 4 = 0)) &&
      two o a (fun o a => o.shape == [a.shape.getD 0 0 * m / 4, a.shape.getD 1 0]) &&
      two a c (fun a c => c.shape == [(a.shape.getD 0 0 * m + 15) / 16, a.shape.getD 1 0])
  | 0x0B => fmtIn a [0, 1, 2, 3, 4] && fmtIn o [0] && has o (fun o => o.count == 1)
  | 0x0C => if md w 5 5 = 1 then fmtIn o [0, 1, 2, 3] else has o (fun o => o.fmt != 16)
  | 0x0D => counts && plain
  | _ => true

/-- The handle of the first record that R348 refuses, in the order O, A, B, C, SA, SB. -/
def badRecord (j : TileJob) (l : List (Nat × Option Layout)) : Option Nat :=
  (l.find? (fun p => p.2.isNone)).map (fun p => j.handle p.1)

/-- The record checks of R204: TILEARG with the handle concerned, then RECORD; none where all pass. -/
def recordCheck (s : State) (j : TileJob) : Option (BitVec 8 × Nat) :=
  if !dataOp j.op then none
  else
    let l := j.lays s
    match l.find? (fun p => match p.2 with | some x => !memOk j.tw.level x | none => false) with
    | some p => some (0x22, j.handle p.1)
    | none =>
      if !recordArgs j.op j.tw l then some (0x22, 0xFFFF)
      else (badRecord j l).map (fun h => (0x23, h))

end Sys2Proof.Machine
end

