-- ==== Sys2Proof/Machine/TileSplit.lean ====
section
/-! DEFINITION. The canonical split of a tile word, level by level down to its leaf tiles, and what a leaf meets
(R203, R206, R209, R210, R212, R216 to R218, R220, R221, R223). -/

namespace Sys2Proof.Machine

/-! ### The canonical split -/

/-- A part of a word: for each dimension of O its first position and its length, and the granules from `glo` up to
`ghi` of its reduction. -/
structure Part where
  lo  : List Nat
  len : List Nat
  glo : Nat
  ghi : Nat
  deriving DecidableEq, Repr

/-- What the split of a word depends on: O's window, the dimensions that may be split, the atom along dimension 0,
and the length and the granules of a reduction or scan, 0 where there is none (R209, R210, R218). -/
structure Split where
  shape : List Nat
  free  : List Bool
  atom  : Nat
  red   : Nat
  grans : Nat
  deriving DecidableEq, Repr

/-- The whole of a word. -/
def Split.whole (x : Split) : Part := ⟨x.shape.map (fun _ => 0), x.shape, 0, x.grans⟩

/-- canon_lo of R209. -/
def canonLo (i c n : Nat) : Nat := i * n / c

/-- The split dimension of a part (R209). -/
def Split.dim (x : Split) (p : Part) : Option Nat :=
  ((List.range p.len.length).filter (fun d => x.free.getD d false && decide (1 < p.len.getD d 0))).getLast?

/-- Whether an executor of `c` children splits a part's granules (R212). -/
def Split.byGranule (x : Split) (c : Nat) (p : Part) : Bool :=
  decide (x.grans ≠ 0) &&
    (match x.dim p with
     | none => true
     | some d => decide (p.len.getD d 0 < c))

/-- The least power of two B with ceil(G / B) ≤ c (R212). -/
def granuleStep (g c : Nat) : Nat → Nat → Nat
  | 0, b => b
  | n + 1, b => if (g + b - 1) / b ≤ c then b else granuleStep g c n (2 * b)

/-- The parts of an executor's `c` children, with their indices; those with nothing are left out (R209, R212). -/
def Split.children (x : Split) (c : Nat) (p : Part) : List (Nat × Part) :=
  if x.byGranule c p then
    let g := p.ghi - p.glo
    let b := granuleStep g c (ceilLog2 g + 1) 1
    (List.range ((g + b - 1) / b)).map (fun i =>
      (i, { p with glo := p.glo + i * b, ghi := min (p.glo + (i + 1) * b) p.ghi }))
  else
    match x.dim p with
    | none => [(c - 1, p)]
    | some d =>
      let len := p.len.getD d 0
      let at' := if d = 0 then x.atom else 1
      let n := (len + at' - 1) / at'
      (List.range c).filterMap (fun i =>
        let a := canonLo i c n
        let b := canonLo (i + 1) c n
        if a < b then
          some (i, { p with
            lo := p.lo.set d (p.lo.getD d 0 + a * at'),
            len := p.len.set d (min (b * at') len - a * at') })
        else none)

/-- The size of the staging reserve in bytes (R217). -/
def reserveBytes : Nat := 0x80000

/-- The least count of leaf tiles, from `c` on, for which each part's operands fit the staging reserve; where none
does, the most there are (R209). -/
def leafCount (x : Split) (cost : Part → Nat) (p : Part) : Nat → Nat → Nat
  | 0, c => c
  | n + 1, c =>
    if (x.children c p).all (fun q => decide (cost q.2 ≤ reserveBytes)) then c else leafCount x cost p n (c + 1)

/-- The atoms or granules that a core tile unit can divide a part into, whichever are more. -/
def Split.most (x : Split) (p : Part) : Nat :=
  max (match x.dim p with
    | some d => let at' := if d = 0 then x.atom else 1; (p.len.getD d 0 + at' - 1) / at'
    | none => 1)
    (if x.grans = 0 then 1 else p.ghi - p.glo)

/-- A leaf tile: its path below the receiving executor (R221), its core, its part. -/
structure Leaf where
  path : Nat
  core : Nat
  part : Part
  deriving DecidableEq, Repr

/-- The leaf tiles below an executor of a level whose first core is `core`, in the order of their paths (R203, R209,
R221). -/
def leavesBelow (x : Split) (cost : Part → Nat) : Nat → Nat → Nat → Part → List Leaf
  | 0, core, path, p => [⟨path, core, p⟩]
  | 1, core, path, p =>
    (x.children (leafCount x cost p (x.most p - 1) 1) p).map (fun q => ⟨path + min q.1 (2 ^ 24 - 1), core, q.2⟩)
  | level + 2, core, path, p =>
    let (c, cores, sh) : Nat × Nat × Nat :=
      match level with
      | 0 => (4, 1, 24)
      | 1 => (16, 4, 32)
      | _ => (8, 64, 40)
    (x.children c p).flatMap (fun q =>
      leavesBelow x cost (level + 1) (core + q.1 * cores) (path + q.1 * 2 ^ sh) q.2)

/-- The positions of a box by linear index, in rising order: first position, length and window of each dimension,
the innermost first. -/
def boxLins : List (Nat × Nat × Nat) → List Nat
  | [] => [0]
  | (lo, len, w) :: rest => (boxLins rest).flatMap (fun r => (List.range len).map (fun i => lo + i + w * r))

/-- The output positions of a part. -/
def Split.lins (x : Split) (p : Part) : List Nat := boxLins (p.lo.zip (p.len.zip x.shape))

/-! ### A word in execution -/

/-- An element's failure: the error, the address, the record's handle and the output element (R222). -/
structure ElemErr where
  err    : MemErr
  addr   : Word
  handle : Nat
  elem   : Nat
  deriving DecidableEq, Repr

/-- What a word's executor works with: the job, its split, its records' layouts, the leaf tiles of this device. -/
structure TileCtx where
  job    : TileJob
  split  : Split
  lays   : List (Nat × Option Layout)
  leaves : List Leaf
  deriving Repr

/-- The scope a level's writes are performed at (R207). -/
def levelScope (level : Nat) : Nat := level - 1

/-- A leaf's accesses (R206): its core, the word's tag. -/
def TileCtx.agent (c : TileCtx) (leaf : Leaf) : Agent :=
  ⟨leaf.core, c.job.root, c.job.tag, levelScope c.job.tw.level, decide (c.job.tw.level ≤ 1)⟩

/-- Whether a leaf tile holds every granule of its positions. -/
def TileCtx.wholeLeaf (c : TileCtx) (leaf : Leaf) : Bool :=
  leaf.part.glo == 0 && leaf.part.ghi == c.split.grans

/-- The layout of operand `k`. -/
def TileCtx.lay (c : TileCtx) (k : Nat) : Option Layout := layOf c.lays k

/-- The format of operand `k`. -/
def TileCtx.fmt (c : TileCtx) (k : Nat) : Nat := match c.lay k with | some l => l.fmt | none => 0

/-- The number of positions of operand `k`. -/
def TileCtx.count (c : TileCtx) (k : Nat) : Nat := match c.lay k with | some l => l.count | none => 0

/-- The window lengths of operand `k`. -/
def TileCtx.shape (c : TileCtx) (k : Nat) : List Nat := match c.lay k with | some l => l.shape | none => []

/-- A word's progress: the state, the least-path fault, the count, the leaf tiles stopped, whether STOPONFAULT cut
work short. -/
structure TileRun where
  s       : State
  fault   : Option TileFault
  count   : Nat
  dead    : List Nat
  skipped : Bool

/-- The lesser of two faults by path (R221). -/
def leastFault (a b : Option TileFault) : Option TileFault :=
  match a, b with
  | some x, some y => if y.path < x.path then some y else some x
  | none, y => y
  | x, none => x

/-- A leaf tile's fault (R220, R221): each leaf tile counts once. POISON under the word's tag raises CORR (R130). -/
def TileRun.note (r : TileRun) (tag level path : Nat) (e : ElemErr) : TileRun :=
  if r.dead.contains path then r
  else
    { r with
      s := raiseCorr tag e.err.cause e.err.sub r.s,
      fault := leastFault r.fault (some ⟨e.err.cause, e.err.sub, level, path, e.addr, e.elem, e.handle, r.s.now⟩),
      count := satAdd 65535 r.count 1, dead := path :: r.dead }

/-- A computation that may fail, continued. -/
def andThen {ε α β : Type} (x : State × Except ε α) (f : α → State → State × Except ε β) : State × Except ε β :=
  match x with
  | (s, .ok a) => f a s
  | (s, .error e) => (s, .error e)

/-- `f` over a list, stopping at the first failure. -/
def each {ε α β : Type} (f : α → State → State × Except ε β) : List α → State → State × Except ε (List β)
  | [], s => (s, .ok [])
  | a :: as, s => andThen (f a s) (fun b s => andThen (each f as s) (fun bs s => (s, .ok (b :: bs))))

/-- The items of a leaf tile done in order, up to its first fault (R220); under STOPONFAULT nothing new starts once
a fault is known, which cuts work short where there was work to do (R223). -/
def TileCtx.runLeaf {α β : Type} (c : TileCtx) (leaf : Leaf) (items : List α)
    (f : α → State → State × Except ElemErr β) (r : TileRun) : TileRun × List β :=
  if r.dead.contains leaf.path then (r, [])
  else if c.job.tw.stop && (r.fault.isSome || c.job.fault.isSome) then ({ r with skipped := r.skipped || !items.isEmpty }, [])
  else
    let (r, out, _) := items.foldl (fun (acc : TileRun × List β × Bool) a =>
      let (r, out, over') := acc
      if over' then acc
      else
        match f a r.s with
        | (s, .ok b) => ({ r with s := s }, b :: out, false)
        | (s, .error e) =>
          ({ r with s := s }.note c.job.tag (if c.job.tw.level = 0 then 0 else 1) leaf.path e, out, true))
      (r, [], false)
    (r, out.reverse)

/-- The items of every leaf tile. -/
def TileCtx.runAll {α β : Type} (c : TileCtx) (items : Leaf → List α)
    (f : Leaf → α → State → State × Except ElemErr β) (r : TileRun) : TileRun × List β :=
  c.leaves.foldl (fun acc leaf =>
    let (r, bs) := c.runLeaf leaf (items leaf) (f leaf) acc.1
    (r, acc.2 ++ bs)) (r, [])

/-- The code of operand `k` at a position, as the output element `elem` needs it; a record of one position stands
for every position (R451). -/
def TileCtx.get (c : TileCtx) (leaf : Leaf) (k lin elem : Nat) (s : State) : State × Except ElemErr Nat :=
  match c.lay k with
  | none => (s, .ok 0)
  | some l =>
    match elemRead (c.agent leaf) l (if l.count = 1 then 0 else lin) s with
    | (s, .ok v) => (s, .ok v)
    | (s, .error (e, a)) => (s, .error ⟨e, a, c.job.handle k, elem⟩)

/-- The code of operand `k` with an NQ group's upper planes alone, `pl` of them (R286). -/
def TileCtx.getPl (c : TileCtx) (leaf : Leaf) (k lin elem pl : Nat) (s : State) : State × Except ElemErr Nat :=
  match c.lay k with
  | none => (s, .ok 0)
  | some l =>
    if l.fmt = 16 then
      match elemReadN (c.agent leaf) l (if l.count = 1 then 0 else lin) (4 * pl) s with
      | (s, .ok v) => (s, .ok v)
      | (s, .error (e, a)) => (s, .error ⟨e, a, c.job.handle k, elem⟩)
    else c.get leaf k lin elem s

/-- A code written to operand `k` (R206, R219). -/
def TileCtx.put (c : TileCtx) (leaf : Leaf) (k lin elem code : Nat) (s : State) : State × Except ElemErr Unit :=
  match c.lay k with
  | none => (s, .ok ())
  | some l =>
    match elemWrite (c.agent leaf) l (if l.count = 1 then 0 else lin) code s with
    | (s, .ok ()) => (s, .ok ())
    | (s, .error (e, a)) => (s, .error ⟨e, a, c.job.handle k, elem⟩)

/-- The random bits of an element (R215, R453). -/
def TileCtx.rbits (c : TileCtx) (j : Nat) : Nat :=
  if tmRM c.job.tw = 4 then Sys2Proof.Machine.rbits c.job.key c.job.ctr j else 0

/-- A value converted into operand `k`'s format for element `j` (R452). -/
def TileCtx.out (c : TileCtx) (k j : Nat) (v : Fv) : Nat :=
  outCode (c.fmt k) (tmRM c.job.tw) (tmSAT c.job.tw) (c.rbits j) v

/-- The bytes of a record. -/
def Layout.bytes (l : Layout) : Nat := (l.count * fmtBits l.fmt + 7) / 8

/-- The bytes of a part's operands (R209; DEDUCED): of a record that goes with O its share, of a record of one
position and of T.MMA's B side the whole. -/
def partBytes (op : Nat) (x : Split) (lays : List (Nat × Option Layout)) (p : Part) : Nat :=
  let whole := x.shape.foldl (fun a b => a * b) 1 * max 1 x.red
  let part := p.len.foldl (fun a b => a * b) 1 * (if x.red = 0 then 1 else min (64 * p.ghi) x.red - 64 * p.glo)
  (lays.map (fun l =>
    match l.2 with
    | none => 0
    | some r =>
      let all := r.bytes
      if r.count = 1 ∨ ((op = 8 ∨ op = 9) ∧ (l.1 = 2 ∨ l.1 = 5 ∨ (op = 9 ∧ l.1 = 3))) then all
      else (all * part + whole - 1) / max 1 whole)).sum

/-- The split of a job's word (R209, R210, R218). -/
def splitOf (op : Nat) (w : TileWord) (lays : List (Nat × Option Layout)) : Split :=
  let o := match layOf lays 0 with | some l => l.shape | none => []
  let a := match layOf lays 1 with | some l => l.shape | none => []
  let all := o.map (fun _ => true)
  let grans (k : Nat) : Nat := (k + 63) / 64
  match op with
  | 0x05 =>
    let red := ((a.zipIdx).filter (fun p => bit (tmP0 w) p.2)).foldl (fun n p => n * p.1) 1
    ⟨o, all, 1, red, grans red⟩
  | 0x06 => ⟨o, all.set (tmP0 w) false, 1, o.getD (tmP0 w) 1, grans (o.getD (tmP0 w) 1)⟩
  | 0x07 => ⟨o, all, if md w 6 5 = 0 then 1 else 32, 0, 0⟩
  | 0x08 | 0x09 => ⟨o, all, max 1 (o.getD 0 1), 0, 0⟩
  | 0x0A => ⟨o, all, 4, 0, 0⟩
  | 0x0B =>
    let red := a.foldl (fun n w => n * w) 1
    ⟨[], [], 1, red, grans red⟩
  | _ => ⟨o, all, 1, 0, 0⟩

/-- The first core of an executor's unit (R203). -/
def unitFirst (u : TileUnit) : Nat :=
  match u.level with | 1 => u.index | 2 => 4 * u.index | 3 => 64 * u.index | _ => 0

/-- The cores of an executor's unit (R203). -/
def unitCoreList (u : TileUnit) : List Nat := (List.range (unitCores u.level)).map (fun i => unitFirst u + i)

/-- The position of this device among the members (R203). -/
def State.memberPos (s : State) : Nat := (s.members.filter (fun d => decide (d < s.self))).length

/-- The parts of a level-5 word by member position (R208, R209). -/
def memberParts (s : State) (x : Split) : List (Nat × Part) := x.children s.members.length x.whole

/-- The leaf tiles of a job on this device: at level 5 those below its own member position (R203, R208). -/
def jobLeaves (s : State) (j : TileJob) (x : Split) (lays : List (Nat × Option Layout)) : List Leaf :=
  let cost := partBytes j.op x lays
  match j.tw.level with
  | 5 =>
    ((memberParts s x).filter (fun q => q.1 == s.memberPos)).flatMap (fun q =>
      leavesBelow x cost 4 0 (q.1 * 2 ^ 48) q.2)
  | 0 => [⟨0, j.core, x.whole⟩]
  | l => leavesBelow x cost l (unitFirst j.unit) 0 x.whole

/-- The layouts of a job's record copies. -/
def TileJob.layouts (j : TileJob) : List (Nat × Option Layout) :=
  (List.range 6).filterMap (fun k =>
    if j.handle k = 0 then none
    else
      some (k, parseLayout (((List.range 3).filterMap (fun i =>
        (j.recs.find? (fun p => p.1 == 3 * k + i)).map (fun p => p.2.toNat))))))

/-- What a job's executor works with. -/
def tileCtx (s : State) (j : TileJob) : TileCtx :=
  let lays := j.layouts
  let x := splitOf j.op j.tw lays
  ⟨j, x, lays, jobLeaves s j x lays⟩

/-! ### Child words at the executors below (R202, R203, R205, R220) -/

/-- Queue entries of an executor (R203). -/
def queueCap (level : Nat) : Nat := match level with | 1 => 16 | 2 => 32 | 3 => 64 | 4 => 256 | _ => 64

/-- Words in progress that an executor allows (R203). -/
def runCap (level : Nat) : Nat := match level with | 2 => 4 | 3 => 8 | 4 => 16 | 5 => 8 | _ => 1

/-- The child words that a word has on this device as it starts, those of a level before those of the levels below. -/
def TileCtx.newKids (c : TileCtx) : List Kid :=
  if dataOp c.job.op then
    (((List.range (c.job.unit.level - 1)).reverse.flatMap (fun i =>
      c.leaves.map (fun l => unitOf (i + 1) l.core))).eraseDups).map (fun u => ⟨u, none, none⟩)
  else []

/-- Whether a word has a child word in an executor's queue. -/
def TileJob.kidQueued (j : TileJob) (u : TileUnit) : Bool :=
  j.kids.any (fun k => k.unit == u && k.entered.isSome && k.begun.isNone)

/-- Whether a child word is over: the leaf tiles below it have run, none with granules of a reduction that others share
(R212, R220). -/
def TileCtx.kidOver (c : TileCtx) (k : Kid) : Bool :=
  c.leaves.all (fun l => unitOf k.unit.level l.core != k.unit || (c.job.ran.contains l.path && c.wholeLeaf l))

/-- Whether a word has a child word in progress at an executor. -/
def kidRuns (s : State) (u : TileUnit) (j : TileJob) : Bool :=
  j.kids.any (fun k => k.unit == u && k.begun.isSome && !(tileCtx s j).kidOver k)

/-- The words that stand in an executor's queue: its own not yet started, a packet's from its acceptance on, and the
child words that have entered and not started (R203). -/
def queued (s : State) (u : TileUnit) : Nat :=
  (s.tiles.jobs.filter (fun j => j.unit == u && !j.started && (j.packet.isNone || j.accepted))).length +
    (s.tiles.jobs.filter (fun j => j.kidQueued u)).length

/-- The words that an executor has in progress, those of level 0 apart from the others (R203). -/
def running (s : State) (u : TileUnit) (level0 : Bool) : Nat :=
  (s.tiles.jobs.filter (fun k => k.unit == u && k.started && (k.tw.level == 0) == level0)).length +
    (if level0 then 0 else (s.tiles.jobs.filter (kidRuns s u)).length)

/-- Whether a T.KERN has been accepted without a fault, and so counts as complete (R197, R199). -/
def TileJob.kernHeld (j : TileJob) : Bool := j.op == 0x18 && j.accepted && !j.executed

/-- When the executor above `u` issued a word's child word to `u`: as the word, or its child word there, started. -/
def TileJob.issuedTo (j : TileJob) (u : TileUnit) : Option Nat :=
  if u.level + 1 = j.unit.level then some j.begun
  else (j.kids.find? (fun k => k.unit == unitOf (u.level + 1) (unitFirst u))).bind (fun k => k.begun)

/-- Whether a child word may enter its executor's queue: it has been issued, there is room, and no child word that was
issued earlier waits to enter (R202, R205). -/
def mayEnter (s : State) (j : TileJob) (k : Kid) : Bool :=
  match j.issuedTo k.unit with
  | none => false
  | some b =>
    k.entered.isNone && decide (queued s k.unit < queueCap k.unit.level) &&
      s.tiles.jobs.all (fun p => p.kids.all (fun q =>
        !(q.unit == k.unit && q.entered.isNone && (match p.issuedTo q.unit with | some b' => decide (b' < b) | none => false))))

/-- Whether a child word may start (R203, R205): all child words at one executor come from one source, the executor above
it. -/
def mayBegin (s : State) (j : TileJob) (k : Kid) : Bool :=
  match k.entered with
  | none => false
  | some e =>
    let before (q : Kid) : Bool := q.unit == k.unit && (match q.entered with | some e' => decide (e' < e) | none => false)
    k.begun.isNone && decide (running s k.unit false < runCap k.unit.level) &&
      s.tiles.jobs.all (fun p =>
        (p.kids.all (fun q => !before q || (if j.tw.async then q.begun.isSome else q.begun.isSome && (tileCtx s p).kidOver q))) &&
        (!j.tw.async || !(p.unit == k.unit && p.accepted && !p.started && !p.kernHeld && decide (p.entry < e))))

/-- A word's child word at an executor changed. -/
def TileJob.setKid (u : TileUnit) (f : Kid → Kid) (j : TileJob) : TileJob :=
  { j with kids := j.kids.map (fun k => if k.unit = u then f k else k) }

/-- A word's child word at an executor enters its queue and starts there, each where it may. -/
def moveKid (id : Nat) (s : State) (u : TileUnit) : State :=
  let may (p : TileJob → Kid → Bool) (s : State) : Bool :=
    match s.job? id with
    | some j => j.kids.any (fun k => k.unit == u && p j k)
    | none => false
  let s :=
    if may (mayEnter s) s then
      let (n, s) := s.fresh
      s.modJob id (TileJob.setKid u (fun k => { k with entered := some n }))
    else s
  if may (mayBegin s) s then
    let (n, s) := s.fresh
    s.modJob id (TileJob.setKid u (fun k => { k with begun := some n }))
  else s

/-- The child words of a word move on at the executors below, from the highest down. -/
def moveKids (id : Nat) (s : State) : State :=
  match s.job? id with
  | some j => (j.kids.map (fun k => k.unit)).foldl (moveKid id) s
  | none => s

end Sys2Proof.Machine
end

