-- ==== Sys2Proof/Machine/Tile.lean ====
section
/-! DEFINITION. What each tile word over records does at its executor (R206, R207, R210 to R214, R220 to R223, R451
to R467). -/

namespace Sys2Proof.Machine

/-! ### Reductions and scans over granules (R210 to R214) -/

/-- A granule or line with its value: output position (or line), granule, value. -/
abbrev Partial := Nat × Nat × Nat

/-- What T.RED and T.AMAX reduce: the operator, A's format, the count of reduced elements, and the position in A of
reduced element `j` of output position `pos` (R210, R459, R465). -/
structure Reduction where
  fn  : Nat
  fmt : Nat
  n   : Nat
  at' : Nat → Nat → Nat

/-- The position in A of reduced element `j` for output position `pos`: each dimension's window and whether it is
reduced, the innermost first (R210). -/
def redIndex : List (Nat × Bool) → Nat → Nat → Nat
  | [], _, _ => 0
  | (w, true) :: rest, pos, j => j % w + w * redIndex rest pos (j / w)
  | (w, false) :: rest, pos, j => pos % w + w * redIndex rest (pos / w) j

/-- The reduction of a job's word. -/
def TileCtx.reduction (c : TileCtx) : Reduction :=
  if c.job.op = 0x0B then ⟨3, c.fmt 1, c.count 1, fun _ j => j⟩
  else
    let dims := (c.shape 1).zipIdx.map (fun p => (p.1, bit (tmP0 c.job.tw) p.2))
    ⟨md c.job.tw 8 5, c.fmt 1, (dims.filter (fun d => d.2)).foldl (fun n d => n * d.1) 1, redIndex dims⟩

/-- granule(g) of R211 for an output position. -/
def TileCtx.granule (c : TileCtx) (x : Reduction) (leaf : Leaf) (pos g : Nat) (s : State) :
    State × Except ElemErr Partial :=
  andThen (each (fun i s => c.get leaf 1 (x.at' pos (64 * g + i)) pos s) (List.range (min 64 (x.n - 64 * g))) s)
    (fun vs s =>
      let a := (vs.map (fun v => redIn x.fn x.fmt v)).toArray
      (s, .ok (pos, g, (treeNode (tileRedOp x.fn (isFloat x.fmt)) (fun i => a[i]?) 6 0).getD 0)))

/-- The root of the combine tree over the granules of an output position: none while one is missing (R211, R212). -/
def rootOf (x : Reduction) (grans pos : Nat) (vals : List Partial) : Option Nat :=
  let mine := vals.filter (fun p => p.1 == pos)
  let at' (g : Nat) : Option Nat := (mine.find? (fun p => p.2.1 == g)).map (fun p => p.2.2)
  if (List.range grans).all (fun g => (at' g).isSome) then
    treeNode (tileRedOp x.fn (isFloat x.fmt)) at' (ceilLog2 grans) 0
  else none

/-- An output element of a reduction written (R452, R459). -/
def TileCtx.putReduced (c : TileCtx) (x : Reduction) (leaf : Leaf) (pos v : Nat) (s : State) :
    State × Except ElemErr Unit :=
  c.put leaf 0 pos pos
    (if c.job.op = 0x0B then v else c.out 0 pos (partialFv (isFloat x.fmt) v)) s

/-- The first pass of a reduction: every leaf tile reduces its granules; one that has them all writes its elements
(R212). -/
def TileCtx.reducePass (c : TileCtx) (r : TileRun) : TileRun × List Partial :=
  let x := c.reduction
  let (r, out) := c.runAll (fun leaf => c.split.lins leaf.part) (fun leaf pos s =>
    andThen (each (fun i s => c.granule x leaf pos (leaf.part.glo + i) s)
        (List.range (leaf.part.ghi - leaf.part.glo)) s)
      (fun vs s =>
        if c.wholeLeaf leaf then
          match rootOf x c.split.grans pos vs with
          | some v => andThen (c.putReduced x leaf pos v s) (fun _ s => (s, .ok vs))
          | none => (s, .ok vs)
        else (s, .ok vs))) r
  (r, out.flatten)

/-- The finished values of a reduction (R212). -/
def TileCtx.reduced (c : TileCtx) (vals : List Partial) : List Partial :=
  let x := c.reduction
  (c.split.lins c.split.whole).filterMap (fun pos => (rootOf x c.split.grans pos vals).map (fun v => (pos, 0, v)))

/-- The second pass of a reduction: the leaf tile that reduced granule 0 of an element writes it (R212). -/
def TileCtx.reduceWrite (c : TileCtx) (finals : List Partial) (r : TileRun) : TileRun :=
  let x := c.reduction
  (c.runAll (fun leaf => if leaf.part.glo = 0 ∧ c.wholeLeaf leaf = false then c.split.lins leaf.part else [])
    (fun leaf pos s =>
      match finals.find? (fun p => p.1 == pos) with
      | some p => c.putReduced x leaf pos p.2.2 s
      | none => (s, .ok ())) r).1

/-! T.SCAN -/

/-- The scanned dimension's length and its stride in positions. -/
def TileCtx.scanDim (c : TileCtx) : Nat × Nat :=
  let d := (tmP0 c.job.tw)
  let o := c.shape 0
  (o.getD d 1, (o.take d).foldl (fun n w => n * w) 1)

/-- The first positions of a part's lines (R460). -/
def TileCtx.lines (c : TileCtx) (p : Part) : List Nat :=
  c.split.lins { p with len := p.len.set (tmP0 c.job.tw) 1, lo := p.lo.set (tmP0 c.job.tw) 0 }

/-- The number of the line that starts at a position (R460). -/
def TileCtx.lineNo (c : TileCtx) (start : Nat) : Nat :=
  let (n, st) := c.scanDim
  start % st + start / (st * n) * st

/-- The element a scan takes at a position (R460). -/
def TileCtx.scanIn (c : TileCtx) (leaf : Leaf) (lin : Nat) (s : State) : State × Except ElemErr Nat :=
  andThen (c.get leaf 1 lin lin s) (fun a s =>
    if md c.job.tw 8 5 = 3 then
      andThen (c.get leaf 2 lin lin s) (fun b s => (s, .ok (widenCode (c.fmt 1) a + widenCode (c.fmt 2) b * 2 ^ 32)))
    else (s, .ok (widenCode (c.fmt 1) a)))

/-- The carry-in of a line (R460). -/
def TileCtx.scanCarryIn (c : TileCtx) (leaf : Leaf) (start : Nat) (s : State) :
    State × Except ElemErr (Option Nat) :=
  if (c.lay 3).isSome then
    andThen (c.get leaf 3 (c.lineNo start) start s) (fun h s =>
      (s, .ok (some (scanCarry (md c.job.tw 8 5) (widenCode (c.fmt 3) h)))))
  else (s, .ok none)

/-- The operator of a scan (R460). -/
def TileCtx.scanF (c : TileCtx) : Nat → Nat → Nat := scanOp (md c.job.tw 8 5) (isFloat (c.fmt 1))

/-- The running values of one granule of a line, by position (R214). -/
def TileCtx.scanLoc (c : TileCtx) (leaf : Leaf) (start g : Nat) (s : State) :
    State × Except ElemErr (List (Nat × Nat)) :=
  let (n, st) := c.scanDim
  let ps := (List.range (min 64 (n - 64 * g))).map (fun i => start + (64 * g + i) * st)
  andThen (each (fun p s => c.scanIn leaf p s) ps s) (fun xs s => (s, .ok (ps.zip (scanGranule c.scanF xs))))

/-- A scan's value at a position written (R460). -/
def TileCtx.scanPut (c : TileCtx) (leaf : Leaf) (carry : Option Nat) (p : Nat × Nat) (s : State) :
    State × Except ElemErr Unit :=
  let y := match carry with | some k => c.scanF k p.2 | none => p.2
  let y := if md c.job.tw 8 5 = 3 then y / 2 ^ 32 else y
  c.put leaf 0 p.1 p.1 (c.out 0 p.1 (partialFv (isFloat (c.fmt 1)) y)) s

/-- The last running value of a granule. -/
def lastOf (l : List (Nat × Nat)) : Nat := match l.getLast? with | some p => p.2 | none => 0

/-- The first pass of a scan: a leaf tile that has a whole line scans it; else it forms the running values and
totals of its granules (R214). A line's carry-in stands as the total of granule `grans`. -/
def TileCtx.scanPass (c : TileCtx) (r : TileRun) : TileRun × List Partial × List (Nat × Nat) :=
  let g := c.split.grans
  let (r, out) := c.runAll (fun leaf => c.lines leaf.part) (fun leaf start s =>
    andThen (if leaf.part.glo = 0 then c.scanCarryIn leaf start s else (s, .ok none)) (fun c0 s =>
      andThen (each (fun i s => c.scanLoc leaf start (leaf.part.glo + i) s)
          (List.range (leaf.part.ghi - leaf.part.glo)) s)
        (fun locs s =>
          if c.wholeLeaf leaf then
            let carries := scanCarries c.scanF c0 (locs.map lastOf)
            andThen (each (fun (q : List (Nat × Nat) × Option Nat) s => each (c.scanPut leaf q.2) q.1 s)
                (locs.zip carries) s)
              (fun _ s => (s, .ok (([] : List Partial), ([] : List (Nat × Nat)))))
          else
            let tots := locs.zipIdx.map (fun q => (c.lineNo start, leaf.part.glo + q.2, lastOf q.1))
            let cin := match c0 with | some v => [(c.lineNo start, g, v)] | none => []
            (s, .ok (tots ++ cin, locs.flatten))))) r
  (r, (out.map (fun p => p.1)).flatten, (out.map (fun p => p.2)).flatten)

/-- The carries into the granules of every line, as far as the totals before them are known (R214). -/
def TileCtx.carries (c : TileCtx) (vals : List Partial) : List Partial :=
  let g := c.split.grans
  let known := (vals.map (fun p => p.1)).eraseDups
  known.flatMap (fun line =>
    let mine := vals.filter (fun p => p.1 == line)
    let at' (i : Nat) : Option Nat := (mine.find? (fun p => p.2.1 == i)).map (fun p => p.2.2)
    let tots := ((List.range g).map at').takeWhile (fun t => t.isSome)
    ((scanCarries c.scanF (at' g) (tots.filterMap id)).zipIdx).filterMap (fun q =>
      q.1.map (fun k => (line, q.2, k))) ++
    -- granule 0 goes on without a carry where there is no carry-in
    (if (at' g).isNone then [(line, g, 0)] else []))

/-- The second pass of a scan: the leaf tiles apply the carries and write their granules (R214). -/
def TileCtx.scanWrite (c : TileCtx) (finals : List Partial) (locs : List (Nat × Nat)) (r : TileRun) : TileRun :=
  let (n, st) := c.scanDim
  let g := c.split.grans
  let items (leaf : Leaf) : List (Nat × Nat) :=
    if c.wholeLeaf leaf then []
    else
      (c.lines leaf.part).flatMap (fun start =>
        (List.range (leaf.part.ghi - leaf.part.glo)).map (fun i => (start, leaf.part.glo + i)))
  (c.runAll items (fun leaf q s =>
    let line := c.lineNo q.1
    let carry := (finals.find? (fun p => p.1 == line && p.2.1 == q.2)).map (fun p => p.2.2)
    let bare := q.2 == 0 && finals.any (fun p => p.1 == line && p.2.1 == g)
    if carry.isSome || bare then
      let ps := (List.range (min 64 (n - 64 * q.2))).map (fun i => q.1 + (64 * q.2 + i) * st)
      let mine := ps.filterMap (fun p => locs.find? (fun e => e.1 == p))
      andThen (each (c.scanPut leaf carry) mine s) (fun _ s => (s, .ok ()))
    else (s, .ok ())) r).1

/-! ### A turn of an executor -/

/-- Whether the granules of a level-5 word are split among the members, whose partials the root combines (R212,
R214). -/
def TileCtx.far (c : TileCtx) (s : State) : Bool :=
  decide (c.job.tw.level = 5) && c.split.byGranule s.members.length c.split.whole

/-- What the executor hands down once all partials are in: finished values, or a scan's carries (R212, R214). -/
def TileCtx.finals (c : TileCtx) (vals : List Partial) : List Partial :=
  if c.job.op = 0x06 then c.carries vals else c.reduced vals

/-- Whether member position `i` takes part in the second pass: for a scan every member with granules, else the one
with granule 0, and for a T.AMAX history every member (R212, R214, R465). -/
def TileCtx.second (c : TileCtx) (s : State) (i : Nat) : Bool :=
  if c.job.op = 0x0B ∧ md c.job.tw 5 5 = 1 then true
  else if c.job.op = 0x06 then (memberParts s c.split).any (fun q => q.1 == i)
  else i == 0

/-- The device at a member position. -/
def State.memberAt (s : State) (i : Nat) : Nat := s.members.getD i 0

/-- The members that a level-5 word goes to besides this device (R208, R209): those with a part; of a collective, and
of a T.AMAX that updates histories, all. -/
def otherMembers (s : State) (j : TileJob) : List Nat :=
  let all := (List.range s.members.length).filter (fun i => i != s.memberPos)
  if j.tw.level ≠ 5 ∨ j.member then []
  else if dataOp j.op then
    let c := tileCtx s j
    if j.op = 0x0B ∧ md j.tw 5 5 = 1 then all
    else all.filter (fun i => (memberParts s c.split).any (fun q => q.1 == i))
  else if j.op ≤ 0x13 then all
  else []

/-- Whether a member is told to stop, or knows of a fault of its own under STOPONFAULT (R223). -/
def TileJob.halts (j : TileJob) : Bool := j.stop || (j.tw.stop && j.fault.isSome)

/-- A member's report to the root of its level-5 word, with 1 where it is the last: its word ends here unless a second
pass is to come. -/
def memberReport (c : TileCtx) (s : State) : State :=
  match s.job? c.job.id with
  | none => s
  | some j =>
    let more := j.phase == 0 && c.far s && c.second s s.memberPos && !j.halts
    let s := s.post (.report j.origin j.far (if more then 0 else 1) j.fault j.count j.skipped (if j.phase = 0 ∧ c.far s then j.vals else []))
    if more then s.modJob j.id (fun j => { j with fault := none, count := 0, skipped := false })
    else { s with tiles := { s.tiles with jobs := s.tiles.jobs.filter (fun x => x.id != j.id) } }

/-- The root goes on to the second pass once every member has reported the first (R212, R214): after a stop it hands down
no values, so that the members have nothing more to do (R223). -/
def rootAdvance (id : Nat) (s : State) : State :=
  match s.job? id with
  | none => s
  | some j =>
    let c := tileCtx s j
    if j.executed && j.children.isEmpty && j.phase == 0 && !j.member && c.far s then
      let finals := if j.stop then [] else c.finals j.vals
      let others := (otherMembers s j).filter (fun i => c.second s i && !j.gone.contains i)
      let s := others.foldl (fun s i => s.post (.finish (s.memberAt i) id finals))
        (if j.stop then others.foldl (fun s i => s.post (.stop (s.memberAt i) id)) s else s)
      s.modJob id (fun j => { j with phase := 1, vals := finals, executed := false, children := others })
    else s

/-- The operands that an op writes (R456 to R467): O, and where they carry results B or C. -/
def TileCtx.outputs (c : TileCtx) : List Nat :=
  match c.job.op with
  | 0x07 => if md c.job.tw 6 5 = 2 then [0] else [0, 3]
  | 0x0A => [0, 3]
  | 0x0D => [0, 2, 3]
  | _ => [0]

/-- The tiles of some operands of a level-0 word. -/
def TileCtx.tilesOf (c : TileCtx) (ks : List Nat) : List Nat :=
  (c.lays.filter (fun p => ks.contains p.1)).filterMap (fun p => p.2.map (fun l => l.base))

/-- The tiles that a level-0 word reads and waits for (R455): all but those it only writes. -/
def TileCtx.sources (c : TileCtx) : List Nat :=
  c.tilesOf ((List.range 6).filter (fun k => c.job.op == 0x0D || !c.outputs.contains k))

/-- Whether the tile registers let a leaf tile run now (R235): of a level-0 word its sources and, in their turn, its
outputs (R455); of another those that its staging uses (R216, R234). -/
def TileCtx.tilesOpen (c : TileCtx) (s : State) (leaf : Leaf) : Bool :=
  let k := s.core leaf.core
  if c.job.tw.level = 0 then
    c.sources.all (fun t => k.unitReady (.read false) t) && (c.tilesOf c.outputs).all (fun t => k.unitReady (.write true) t)
  else (List.range 8).all (fun i => !Config.stagesTile c.job.id i || k.unitReady (.write false) (32 + i))

/-- Whether a leaf tile may run now (R203, R205): its core's unit has the word itself, or its child word, in progress, and
the tile registers are free for it. -/
def TileCtx.opens (c : TileCtx) (s : State) (leaf : Leaf) : Bool :=
  (decide (c.job.unit.level ≤ 1) || c.job.kids.any (fun k => k.unit == unitOf 1 leaf.core && k.begun.isSome)) &&
    c.tilesOpen s leaf

/-- The leaf tiles of this pass that a turn runs; where the word stops, all that are left, which do nothing (R223). -/
def TileCtx.ready (c : TileCtx) (s : State) : List Leaf :=
  c.leaves.filter (fun l => !c.job.ran.contains l.path && (c.job.halts || c.opens s l))

/-- What a turn leaves of the executor's work: the job takes what its leaf tiles met; the tile units that ran leave their
staging reserves as they please (R217); a level-0 word writes its output tiles as `.o` (R455). -/
def TileCtx.close (c : TileCtx) (r : TileRun) : State :=
  let (run, s) := r.s.fresh
  let s :=
    if c.job.tw.level = 0 then
      (if c.leaves.isEmpty then [] else c.tilesOf c.outputs).foldl (fun s t =>
        s.modCore c.job.core (fun x => x.tileAfter (.write true) t)) s
    else ((c.leaves.map (fun l => l.core)).eraseDups).foldl (fun s k => s.modCore k (fun x => x.stage run)) s
  s.modJob c.job.id (fun j =>
    { j with
      fault := leastFault j.fault r.fault, count := satAdd 65535 j.count r.count, dead := r.dead,
      skipped := j.skipped || r.skipped })

/-- Under STOPONFAULT a root that knows of a fault stops its members (R223): those that have work, or wait for the second
pass. -/
def spreadStop (id : Nat) (s : State) : State :=
  match s.job? id with
  | none => s
  | some j =>
    if j.tw.stop ∧ j.fault.isSome ∧ j.stop = false then
      let to' := if j.phase = 0 then (otherMembers s j).filter (fun i => !j.gone.contains i) else j.children
      let s := to'.foldl (fun s i => s.post (.stop (s.memberAt i) id)) s
      s.modJob id (fun j => { j with stop := true })
    else s

/-- The job of a word whose pass is over: executed, its child words over where no second pass is to come. `vals` are the
values that it keeps. -/
def TileJob.passOver (far : Bool) (vals : List Partial) (locs : List (Nat × Nat)) (j : TileJob) : TileJob :=
  let more := far && j.phase == 0
  { j with
    executed := true, ran := [], kids := if more then j.kids else [], vals := vals, locs := if more then locs else [],
    -- a history value that was not formed is not written (R465)
    hbase := if j.op = 0x0B ∧ vals = [] ∧ more = false then none else j.hbase }

/-- An executor's turn on a word in progress: its child words move on, and its leaf tiles that may run do; with the last
of them the pass is over. A level-5 word whose granules are split waits for its second pass (R203, R205, R212, R214,
R220, R223). -/
def tileTurn (pass : TileCtx → TileRun → TileRun × List Partial × List (Nat × Nat))
    (write : TileCtx → List Partial → List (Nat × Nat) → TileRun → TileRun) (s : State) : Meaning :=
  let s := moveKids s.focus.tile s
  match s.job? s.focus.tile with
  | none => .next s
  | some j =>
    if j.started && !j.executed then
      let all := tileCtx s j
      let c := { all with leaves := all.ready s }
      let last := all.leaves.all (fun l => j.ran.contains l.path || c.leaves.contains l)
      let far := all.far s
      let r : TileRun := ⟨s, none, 0, j.dead, false⟩
      let (r, vals, locs) : TileRun × List Partial × List (Nat × Nat) :=
        if j.stop then ({ r with skipped := !c.leaves.isEmpty }, [], [])
        else if j.phase = 0 then pass c r
        else (write c j.vals j.locs r, [], [])
      let vals := j.vals ++ vals
      let locs := j.locs ++ locs
      if !last && c.leaves.isEmpty then .next s
      else if !last then
        .next (spreadStop j.id ((c.close r).modJob j.id (fun x =>
          { x with ran := x.ran ++ c.leaves.map (fun l => l.path), vals := vals, locs := locs })))
      else
        let ends := j.phase == 0 && !far
        let r := if ends && !j.stop then write all (if all.split.grans = 0 then [] else all.finals vals) locs r else r
        let kept := if ends then (if j.op = 0x0B then all.finals vals else []) else vals
        let s := (c.close r).modJob j.id (TileJob.passOver far kept locs)
        let waits := match s.job? j.id with | some x => x.phase == 1 && x.op == 0x0B && x.hbase.isSome | none => false
        .next (if j.member then (if waits then s else memberReport all s) else rootAdvance j.id (spreadStop j.id s))
    else .next s

/-- A turn of a word without a combine tree: each leaf tile does its items. -/
def elementTurn {α : Type} (items : TileCtx → Leaf → List α)
    (f : TileCtx → Leaf → α → State → State × Except ElemErr Unit) (s : State) : Meaning :=
  tileTurn (fun c r => ((c.runAll (items c) (f c) r).1, [], [])) (fun _ _ _ r => r) s

/-- The positions of a leaf tile. -/
def TileCtx.elems (c : TileCtx) (leaf : Leaf) : List Nat := c.split.lins leaf.part

/-- The exact value of operand `k` at a position. -/
def TileCtx.val (c : TileCtx) (leaf : Leaf) (k lin : Nat) (s : State) : State × Except ElemErr Fv :=
  andThen (c.get leaf k lin lin s) (fun v s => (s, .ok (elemFv (c.fmt k) v)))

/-! ### Element operations (R456 to R458) -/

/-- T.COPY (R456): A's bits, unchanged. -/
def execTCopy (_ : TileWord) (s : State) : Meaning :=
  elementTurn TileCtx.elems (fun c leaf lin s => andThen (c.get leaf 1 lin lin s) (fun v s => c.put leaf 0 lin lin v s)) s

/-- T.FILL (R456). -/
def execTFill (w : TileWord) (s : State) : Meaning :=
  elementTurn TileCtx.elems (fun c leaf lin s => c.put leaf 0 lin lin ((tmP0 w) % 2 ^ fmtBits (c.fmt 0)) s) s

/-- T.EW (R457). -/
def execTEw (w : TileWord) (s : State) : Meaning :=
  elementTurn TileCtx.elems (fun c leaf lin s =>
    andThen (c.val leaf 1 lin s) (fun a s => andThen (c.val leaf 2 lin s) (fun b s => andThen (c.val leaf 3 lin s) (fun d s =>
      c.put leaf 0 lin lin (c.out 0 lin (ewX (md w 9 5) (tmRM w == 3) a b d)) s)))) s

/-- T.MAP (R458). -/
def execTMap (w : TileWord) (s : State) : Meaning :=
  elementTurn TileCtx.elems (fun c leaf lin s =>
    andThen (c.val leaf 1 lin s) (fun a s =>
      c.put leaf 0 lin lin (c.out 0 lin (mapX (md w 9 5) (Fmt.fp32.decode (tmP0 w)) a)) s)) s

/-! ### Reductions and scans (R459, R460) -/

/-- T.RED (R459). -/
def execTRed (_ : TileWord) (s : State) : Meaning :=
  tileTurn (fun c r => let (r, v) := c.reducePass r; (r, v, [])) (fun c finals _ r => c.reduceWrite finals r) s

/-- T.SCAN (R460). -/
def execTScan (_ : TileWord) (s : State) : Meaning := tileTurn TileCtx.scanPass TileCtx.scanWrite s

/-- T.AMAX (R465): its history is written by AMAX_HISTORY_WRITE. -/
def execTAmax (_ : TileWord) (s : State) : Meaning :=
  tileTurn (fun c r => let (r, v) := c.reducePass r; (r, v, [])) (fun c finals _ r => c.reduceWrite finals r) s

/-! ### Conversion (R461) -/

/-- The position of a scale in C for a position of the scaled record (R461). -/
def scaleLin (shape : List Nat) (lin : Nat) : Nat :=
  let w := shape.getD 0 1
  lin % w / 32 + (w + 31) / 32 * (lin / w)

/-- The blocks of 32 along dimension 0 of a part: first position and length (R284). -/
def TileCtx.blocks (c : TileCtx) (leaf : Leaf) : List (Nat × Nat) :=
  let p := leaf.part
  let len := p.len.getD 0 1
  (c.split.lins { p with len := p.len.set 0 1 }).flatMap (fun row =>
    (List.range ((len + 31) / 32)).map (fun b => (row + 32 * b, min 32 (len - 32 * b))))

/-- T.CVT with derived scales: a block's scale and its elements (R284, R461). -/
def cvtBlock (c : TileCtx) (leaf : Leaf) (b : Nat × Nat) (s : State) : State × Except ElemErr Unit :=
  let lins := (List.range b.2).map (fun i => b.1 + i)
  andThen (each (fun lin s => c.val leaf 1 lin s) lins s) (fun vs s =>
    let (x, es) := mxBlock (c.fmt 0) (tmRM c.job.tw) (fun i => c.rbits (b.1 + i)) vs
    andThen (each (fun (p : Nat × Nat) s => c.put leaf 0 p.1 p.1 p.2 s) (lins.zip es) s) (fun _ s =>
      c.put leaf 3 (scaleLin (c.shape 0) b.1) b.1 x s))

/-- T.CVT with applied scales (R283, R286, R461). -/
def cvtApplied (c : TileCtx) (leaf : Leaf) (lin : Nat) (s : State) : State × Except ElemErr Unit :=
  let at' := if c.count 1 = 1 then 0 else lin
  andThen (c.getPl leaf 1 at' lin (tmP1 c.job.tw) s) (fun v s =>
    andThen (c.get leaf 3 (scaleLin (c.shape 1) at') lin s) (fun x s =>
      let a := if c.fmt 1 = 16 then nqFv v (tmP1 c.job.tw) else elemFv (c.fmt 1) v
      c.put leaf 0 lin lin (c.out 0 lin (mulX (a.scaled x) (tensorScale (tmP0 c.job.tw)))) s))

/-- T.CVT with no scale, or under a delayed scale 2^e, whose inverse goes to C (R300, R461). -/
def cvtPlain (e : Option Int) (c : TileCtx) (leaf : Leaf) (lin : Nat) (s : State) : State × Except ElemErr Unit :=
  andThen (c.val leaf 1 lin s) (fun a s =>
    let k := e.getD 0
    andThen (c.put leaf 0 lin lin (c.out 0 lin (mulX a (.fin false 1 k))) s) (fun _ s =>
      if md c.job.tw 7 7 = 1 ∧ lin = 0 then c.put leaf 3 0 0 (Fmt.fp32.rne (.fin false 1 (-k))).1 s else (s, .ok ())))

/-- The part of a path that leads to this device: its member position where the word is a member's (R221). -/
def TileJob.topPath (s : State) (j : TileJob) : Nat := if j.member then s.memberPos * 2 ^ 48 else 0

/-- The level whose executor runs a job here (R208). -/
def TileJob.levelHere (j : TileJob) : Nat := if j.member then 4 else j.tw.level

/-- The executor's own fault (R221); POISON under the word's tag raises CORR (R130). -/
def TileRun.own (r : TileRun) (j : TileJob) (e : ElemErr) : TileRun :=
  { r with
    s := raiseCorr j.tag e.err.cause e.err.sub r.s,
    fault := leastFault
      (some ⟨e.err.cause, e.err.sub, j.levelHere, j.topPath r.s, e.addr, e.elem, e.handle, r.s.now⟩) r.fault,
    count := satAdd 65535 r.count 1 }

/-- The exponent of a delayed scale, from the history (R300). -/
def TileCtx.delayed (c : TileCtx) (s : State) : State × Except ElemErr (Option Int) :=
  let h := ((c.job.hbase.getD 0).toNat + 64 * (tmP0 c.job.tw)) % 2 ^ 64
  match committedRead c.job.root h 64 s with
  | (s, .ok bs) => (s, .ok (delayedExp (c.fmt 0) ((List.range 16).map (fun i => fromBytes ((bs.drop (4 * i)).take 4)))))
  | (s, .error e) => (s, .error ⟨e, BitVec.ofNat 64 h, 0xFFFF, 2 ^ 64 - 1⟩)

/-- The exponent of a delayed scale as a word's turns keep it: 0 for none, 1 and 2 for one of either sign, 3 where the
history could not be read. -/
def packExp (e : Option (Option Int)) : Partial :=
  match e with
  | none => (0, 3, 0)
  | some none => (0, 0, 0)
  | some (some k) => if 0 ≤ k then (0, 1, k.toNat) else (0, 2, (-k).toNat)
def unpackExp (p : Partial) : Option (Option Int) :=
  match p.2.1 with
  | 0 => some none
  | 1 => some (some p.2.2)
  | 2 => some (some (-p.2.2))
  | _ => none

/-- The turns of a T.CVT under a delayed scale: the first reads the history, for all leaf tiles (R300, R461). -/
def cvtDelayed (c : TileCtx) (r : TileRun) : TileRun × List Partial × List (Nat × Nat) :=
  let run (e : Option (Option Int)) (r : TileRun) : TileRun :=
    match e with
    | some e => (c.runAll c.elems (cvtPlain e c) r).1
    | none => r
  match c.job.vals with
  | p :: _ => (run (unpackExp p) r, [], [])
  | [] =>
    match c.delayed r.s with
    | (s, .ok e) => (run (some e) { r with s := s }, [packExp (some e)], [])
    | (s, .error x) => ({ r with s := s }.own c.job x, [packExp none], [])

/-- T.CVT (R461). -/
def execTCvt (w : TileWord) (s : State) : Meaning :=
  tileTurn (fun c r =>
    match md w 6 5, md w 7 7 with
    | 1, _ => ((c.runAll c.blocks (cvtBlock c) r).1, [], [])
    | 2, _ => ((c.runAll c.elems (cvtApplied c) r).1, [], [])
    | _, 0 => ((c.runAll c.elems (cvtPlain none c) r).1, [], [])
    | _, _ => cvtDelayed c r) (fun _ _ _ r => r) s

/-! ### Matrix words (R462 to R464) -/

/-- The values of A's row, each under its block's scale (R283, R462). -/
def TileCtx.rowA (c : TileCtx) (leaf : Leaf) (m elem : Nat) (s : State) : State × Except ElemErr (List Fv) :=
  let k := (c.shape 1).getD 0 0
  let kb := (k + 31) / 32
  andThen (each (fun i s => c.get leaf 1 (i + k * m) elem s) (List.range k) s) (fun vs s =>
    if (c.lay 4).isSome then
      andThen (each (fun b s => c.get leaf 4 (b + kb * m) elem s) (List.range kb) s) (fun xs s =>
        (s, .ok ((vs.zipIdx).map (fun p => (elemFv (c.fmt 1) p.1).scaled (xs.getD (p.2 / 32) 255)))))
    else (s, .ok (vs.map (elemFv (c.fmt 1)))))

/-- The k at which each of B's stored values stands (R463). -/
def TileCtx.placesB (c : TileCtx) (leaf : Leaf) (sparse : Bool) (n elem : Nat) (s : State) :
    State × Except ElemErr (List Nat) :=
  let kb := (c.shape 2).getD 0 0
  if sparse then
    let m := keptOf (md c.job.tw 10 10 == 1)
    let cb := (c.shape 3).getD 0 0
    andThen (each (fun t s => c.get leaf 3 (t + cb * n) elem s) (List.range cb) s) (fun ms s =>
      (s, .ok ((List.range kb).map (fun j => 4 * (j / m) + ms.getD (j / 4) 0 / 4 ^ (j % 4) % 4))))
  else (s, .ok (List.range kb))

/-- B's column: the k and the value of each stored value, under its block's scale (R283, R286, R462, R463). -/
def TileCtx.colB (c : TileCtx) (leaf : Leaf) (sparse : Bool) (n elem : Nat) (s : State) :
    State × Except ElemErr (List (Nat × Fv)) :=
  let kb := (c.shape 2).getD 0 0
  let nb := ((c.shape 1).getD 0 0 + 31) / 32
  let pl := tilePl c.job.tw
  let val (v : Nat) : Fv := if c.fmt 2 = 16 then nqFv v pl else elemFv (c.fmt 2) v
  andThen (c.placesB leaf sparse n elem s) (fun ks s =>
    andThen (each (fun j s => c.getPl leaf 2 (j + kb * n) elem pl s) (List.range kb) s) (fun vs s =>
      if (c.lay 5).isSome then
        andThen (each (fun b s => c.get leaf 5 (b + nb * n) elem s) (List.range nb) s) (fun xs s =>
          (s, .ok ((ks.zip vs).map (fun p => (p.1, (val p.2).scaled (xs.getD (p.1 / 32) 255))))))
      else (s, .ok ((ks.zip vs).map (fun p => (p.1, val p.2))))))

/-- An element of T.MMA or T.MMAS (R213, R302, R462, R463). -/
def mmaItem (sparse : Bool) (c : TileCtx) (leaf : Leaf) (lin : Nat) (s : State) : State × Except ElemErr Unit :=
  let cols := (c.shape 0).getD 0 1
  let k := (c.shape 1).getD 0 0
  andThen (c.rowA leaf (lin / cols) lin s) (fun row s =>
    andThen (c.colB leaf sparse (lin % cols) lin s) (fun col s =>
      andThen (if sparse then (s, .ok (.fin false 0 0)) else c.val leaf 3 lin s) (fun a0 s =>
        let ra := row.toArray
        let prods (g : Nat) : List (Option Fv) :=
          (col.filter (fun p => p.1 / 64 == g)).map (fun p => (ra.getD p.1 (.nan false)).mul p.2)
        let acc := accumulate (if (c.lay 3).isSome then a0 else .fin false 0 0)
          ((List.range ((k + 63) / 64)).map prods)
        c.put leaf 0 lin lin
          (outCode (c.fmt 0) (tmRM c.job.tw) (tmSAT c.job.tw) 0 (mulX acc (tensorScale (tmP1 c.job.tw)))) s)))

/-- T.MMA (R462). -/
def execTMma (_ : TileWord) (s : State) : Meaning := elementTurn TileCtx.elems (mmaItem false) s

/-- T.MMAS (R463). -/
def execTMmas (_ : TileWord) (s : State) : Meaning := elementTurn TileCtx.elems (mmaItem true) s

/-- The atoms of four elements of a T.CMP leaf: first position and length (R218). -/
def TileCtx.atoms (c : TileCtx) (leaf : Leaf) : List (Nat × Nat) :=
  let p := leaf.part
  let len := p.len.getD 0 1
  (c.split.lins { p with len := p.len.set 0 1 }).flatMap (fun row =>
    (List.range ((len + 3) / 4)).map (fun b => (row + 4 * b, min 4 (len - 4 * b))))

/-- An atom of T.CMP: the kept elements of its groups and their metadata byte (R464). -/
def cmpItem (c : TileCtx) (leaf : Leaf) (b : Nat × Nat) (s : State) : State × Except ElemErr Unit :=
  let m := keptOf (md c.job.tw 5 5 == 1)
  let ko := (c.shape 0).getD 0 1
  let ka := (c.shape 1).getD 0 1
  let n := b.1 / ko
  let j0 := b.1 % ko
  andThen (each (fun i s =>
      each (fun k s => c.get leaf 1 (4 * (j0 / m + i) + k + ka * n) b.1 s) (List.range 4) s)
      (List.range (b.2 / m)) s) (fun groups s =>
    let kept := groups.flatMap (fun vs => (keepMost m (vs.map (elemFv (c.fmt 1)))).map (fun i => (i, vs.getD i 0)))
    andThen (each (fun (p : (Nat × Nat) × Nat) s => c.put leaf 0 (b.1 + p.2) (b.1 + p.2) p.1.2 s) kept.zipIdx s)
      (fun _ s =>
        let byte := kept.zipIdx.foldl (fun v p => v + p.1.1 * 4 ^ p.2) 0
        c.put leaf 3 (j0 / 4 + (c.shape 3).getD 0 1 * n) b.1 byte s))

/-- T.CMP (R464). -/
def execTCmp (_ : TileWord) (s : State) : Meaning := elementTurn TileCtx.atoms cmpItem s

/-! ### Random fill and optimiser (R466, R467) -/

/-- T.RNG (R466). -/
def execTRng (w : TileWord) (s : State) : Meaning :=
  elementTurn TileCtx.elems (fun c leaf lin s =>
    let r := Sys2Proof.Machine.rbits c.job.key c.job.ctr lin
    let v :=
      if md w 5 5 = 1 then outCode (c.fmt 0) (tmRM w) (tmSAT w) 0 (.fin false (bits r 31 8) (-24))
      else r % 2 ^ fmtBits (c.fmt 0)
    c.put leaf 0 lin lin v s) s

/-- T.OPT (R467). -/
def execTOpt (w : TileWord) (s : State) : Meaning :=
  let kind := md w 6 5
  elementTurn TileCtx.elems (fun c leaf lin s =>
    andThen (c.val leaf 0 lin s) (fun wv s => andThen (c.val leaf 1 lin s) (fun g s =>
      andThen (c.val leaf 2 lin s) (fun m s => andThen (c.val leaf 3 lin s) (fun v s =>
        let (w1, m1, v1) := optX kind (tmRM w == 3) (Fmt.fp32.decode (tmP0 w)) (Fmt.bf16.decode ((tmP1 w) % 2 ^ 16))
          (Fmt.bf16.decode ((tmP1 w) / 2 ^ 16)) (.fin false 1 (-(md w 12 7 : Int))) wv g m v
        andThen (c.put leaf 0 lin lin (c.out 0 lin w1) s) (fun _ s =>
          andThen (if kind = 0 then (s, .ok ()) else c.put leaf 2 lin lin (outCode (c.fmt 2) 0 (tmSAT w) 0 m1) s)
            (fun _ s => if kind = 2 then c.put leaf 3 lin lin (outCode (c.fmt 3) 0 (tmSAT w) 0 v1) s else (s, .ok ())))))))) s

end Sys2Proof.Machine
end

