-- ==== Sys2Proof/Machine/Csr.lean ====
section
/-! DEFINITION. The control and status registers of a core and the words that read and write them (R150, R194,
R195, R228, R237, R242, R271, R298, R308, R311, R313, R344, R473). -/

namespace Sys2Proof.Machine

/-- The CSRs a stream may name (R344). -/
def csrListed (k : StreamKind) (n : Nat) : Bool :=
  decide (n ≤ 0x00A ∨ n = 0x012 ∨ n = 0x014 ∨ n = 0x015 ∨ (0x020 ≤ n ∧ n ≤ 0x023)) ||
    (decide (k = .x) && decide (n = 0x010 ∨ n = 0x011 ∨ n = 0x013))

/-- TXST (R150). -/
def TxSt.word (t : TxSt) : Word :=
  BitVec.ofNat 64 (t.tag + t.att * 2 ^ 6 + t.kind * 2 ^ 10 + t.gflags.toNat * 2 ^ 12 + t.pflags.toNat * 2 ^ 28)

/-- MEMCAP (R271): 64, 32, 32 and 8 bytes. -/
def memcap : Word := 0x08202040

/-- A CSR as the stream in execution reads it (R344). -/
def csrRead (s : State) (n : Nat) : Word :=
  let c := s.cur
  let x := s.strm
  match n with
  | 0x000 => c.coreCfg
  | 0x007 => match c.place with | some p => p.grpid | none => 0
  | 0x008 => memcap
  | 0x009 => c.txst.word
  | 0x00A => s.fab.dtime
  | 0x010 => c.vsh.setWidth 64
  | 0x011 => c.vxf.setWidth 64
  | 0x012 => c.sxf.setWidth 64
  | 0x013 => if c.vpend then 1 else 0
  | 0x014 => c.trapEn
  | 0x015 => c.frec
  | 0x020 => x.trapVec
  | 0x021 => trapCause s.focus.kind x
  | 0x022 => x.trapAddr
  | 0x023 => x.trapPc
  | _ => match c.place with | some p => p.lvidx.getD (n - 1) 0 | none => 0

/-- The RW bits of a CSR (R344). -/
def csrMask (n : Nat) : Word :=
  match n with
  | 0x010 => 0x1FFFFF
  | 0x012 => 0x1F
  | 0x013 => 1
  | 0x014 => 0xFF1F
  | 0x015 => 0x1FFE01
  | 0x020 => 0xFFFFFFFFFFFFFFFD
  | 0x023 => 0xFFFFFFFFFFFFFFFC
  | _ => 0

/-- A CSR's RW bits replaced by those of a value (R473). -/
def csrSet (n : Nat) (v : Word) (s : State) : State :=
  let v := (csrRead s n &&& ~~~(csrMask n)) ||| (v &&& csrMask n)
  match n with
  | 0x010 => s.modCur (fun c => { c with vsh := v.setWidth 21 })
  | 0x012 => s.modCur (fun c => { c with sxf := v.setWidth 5 })
  | 0x013 => s.modCur (fun c => { c with vpend := v.getLsbD 0 })
  | 0x014 => s.modCur (fun c => { c with trapEn := v })
  | 0x015 => s.modCur (fun c => { c with frec := v })
  | 0x020 => s.modStrm (fun x => { x with trapVec := v })
  | 0x023 => s.modStrm (fun x => { x with trapPc := v })
  | _ => s

/-- A CSR word (R473): the old value into xd, then the new value; `w1c` are the bits that W1C fields
receive. -/
def csrWord (i : Instr) (d n : Nat) (new w1c : Word) (s : State) : Meaning :=
  if csrListed s.focus.kind n then
    let old := csrRead s n
    let s := csrSet n new s
    let s := if n = 0x011 then s.modCur (fun c => c.clearLanes (w1c.setWidth 5)) else s
    .next (finish (s.wr d old))
  else .next (illegal i s)

/-- CSRR (R473). -/
def execCsrr (d csr : Nat) (s : State) : Meaning := csrWord (.csrr d csr) d csr (csrRead s csr) 0 s

/-- CSRW (R473). -/
def execCsrw (d a csr : Nat) (s : State) : Meaning := csrWord (.csrw d a csr) d csr (s.rd a) (s.rd a) s

/-- CSRS (R473). -/
def execCsrs (d a csr : Nat) (s : State) : Meaning := csrWord (.csrs d a csr) d csr (csrRead s csr ||| s.rd a) 0 s

/-- CSRC (R473). -/
def execCsrc (d a csr : Nat) (s : State) : Meaning := csrWord (.csrc d a csr) d csr (csrRead s csr &&& ~~~(s.rd a)) 0 s

end Sys2Proof.Machine
end

