-- ==== Sys2Proof/Machine/Sync.lean ====
section
/-! DEFINITION. Fences, releases, acquires, translation invalidation, timelines, barriers and prefetch (R262,
R263, R267, R268, R312, R389 to R391). -/

namespace Sys2Proof.Machine

/-- FENCE.S: REL.S followed at once by ACQ.S (R263). -/
def execFence (sc : Nat) (s : State) : Meaning :=
  let (s, ready) := release s.focus.core sc s
  .next (if ready then finish (acquire s.focus.core sc s) else block .release s)

/-- REL.S (R262). -/
def execRel (sc : Nat) (s : State) : Meaning :=
  let (s, ready) := release s.focus.core sc s
  .next (if ready then finish s else block .release s)

/-- ACQ.S (R263). -/
def execAcq (sc : Nat) (s : State) : Meaning := .next (finish (acquire s.focus.core sc s))

/-! ### INV (R390) -/

/-- Whether a TLB entry is one that an INV removes: of the address space, and of the page unless it removes
all. -/
def TlbEntry.hit (e : TlbEntry) (root va : Nat) (all : Bool) : Bool :=
  e.root == root && (all || e.base == va / 2 ^ e.bits * 2 ^ e.bits)

/-- The entries removed from the TLBs of some cores and of some quads (R390). -/
def dropTlbs (root va : Nat) (all : Bool) (core quad : Nat → Bool) (s : State) : State :=
  let cs (p : Nat × CoreSt) : Nat × CoreSt :=
    if core p.1 then (p.1, { p.2 with tlb := p.2.tlb.filter (fun e => !e.hit root va all) }) else p
  let qs (p : Nat × List TlbEntry) : Nat × List TlbEntry :=
    if quad p.1 then (p.1, p.2.filter (fun e => !e.hit root va all)) else p
  let s := { s with cores := s.cores.map cs }
  s.withMem { s.mem with l2tlb := s.mem.l2tlb.map qs }

/-- INV's removals on this device: the TLBs of the scope instance that holds the core (R390). -/
def invLocal (core root va : Nat) (all : Bool) (sc : Nat) (s : State) : State :=
  match sc with
  | 0 => dropTlbs root va all (fun c => c == core) (fun _ => false) s
  | 1 => dropTlbs root va all (fun c => c / 4 == core / 4) (fun q => q == core / 4) s
  | 2 => dropTlbs root va all (fun c => c / 64 == core / 64) (fun q => q / 16 == core / 64) s
  | _ => dropTlbs root va all (fun _ => true) (fun _ => true) s

/-- INV (R390): at sys it waits until every other member has acknowledged. -/
def execInv (a : Nat) (all : Bool) (sc : Nat) (s : State) : Meaning :=
  let core := s.focus.core
  let others := s.members.filter (fun d => d != s.self)
  match s.strm.wait with
  | some w => if w.result.isSome then .next (finish s) else .next (block .inv s)
  | none =>
    let va := (s.rd a).toNat
    let s := invLocal core s.cur.root va all sc s
    if sc ≠ 4 ∨ others = [] then .next (finish s)
    else
      let chain := match s.cur.place with | some p => p.chain | none => 0
      let (id, s) := s.fresh
      let s := s.modStrm (fun x => { x with wait := some ⟨id, none⟩ })
      .next (block .inv (others.foldl (fun s d => s.post (.inv d chain (BitVec.ofNat 64 va) all)) s))

/-! ### Timelines (R267, R312, R391) -/

/-- The widest declared scope of a timeline's operations up to a number (R267). -/
def Timeline.widest (t : Timeline) (n : Nat) : Nat :=
  t.scopes.foldl (fun m p => if p.1 ≤ n then max m p.2 else m) 0

/-- TLWAIT (R267, R312): it waits for the timeline to pass a number, acquires at the operations' declared
scopes, and then traps where an error is in its range and TLE enables it. -/
def execTlwait (a n : Nat) (s : State) : Meaning :=
  let k := (s.rd a).toNat
  let t := s.cur.tl n
  if t.passed < k then .next (block .tlwait s)
  else
    let s := acquire s.focus.core (t.widest k) s
    if t.errFirst ≠ 0 ∧ t.errFirst ≤ k ∧ s.cur.trapEn.getLsbD (8 + n) then
      .next (trapAfter 0x11 (BitVec.ofNat 64 n) s)
    else .next (finish s)

/-- TLREAD (R391). -/
def execTlread (d n sel : Nat) (s : State) : Meaning :=
  let t := s.cur.tl n
  let v := match sel with | 0 => t.passed | 1 => t.issued | _ => t.errFirst
  let s := if sel = 3 then s.modCur (fun c => c.setTl n { t with errFirst := 0 }) else s
  .next (finish (s.wr d (BitVec.ofNat 64 v)))

/-! ### Barriers (R268, R389) -/

/-- The memory of a barrier, with its faults in the order of R484: an object in HBM, local or remote. One in a scratchpad,
the own or by SPACE 2, or in host memory raises BARSPACE (R268, which governs over R389 by R16; log 35). -/
def barrierAt (core va : Nat) (write : Bool) (s : State) : State × Except MemErr (Nat × Phys) :=
  if inWindow va then (s, .error .barspace)
  else
    match coreXlat core va write s with
    | (s, .error e) => (s, .error e)
    | (s, .ok x) =>
      let bad := match x.phys with | .hbm _ | .domain _ => false | _ => true
      if bad then (s, .error .barspace)
      else if va % 64 ≠ 0 then (s, .error .align)
      else (s, .ok (x.pa, x.phys))

/-- BARV (R268, R389): REL.S, then the arrival; xd takes the token. -/
def execBarv (d a sc : Nat) (s : State) : Meaning :=
  let core := s.focus.core
  let va := (s.rd a).toNat
  match barrierAt core va true s with
  | (s, .error e) => .next (trapErr e (BitVec.ofNat 64 va) s)
  | (s, .ok (pa, ph)) =>
    let (s, ready) := if s.strm.wait.isSome then (s, true) else release core sc s
    if !ready then .next (block .release s)
    else
      match ph with
      | .hbm l =>
        match homeArrive l (s.ctx core) .iatomic s with
        | (s, .error e) => .next (trapErr e (BitVec.ofNat 64 va) s)
        | (s, .ok tok) =>
          let s := if l.ver.isSome then dropBlock core l.off s else forgetBytes core pa 64 s
          .next (finish (s.wr d (BitVec.ofNat 64 tok)))
      | _ =>
        let (s, r) := remoteCall .arrive va pa 12 [] false s
        .next (settle r va .remote (fun bs s => finish (s.wr d (BitVec.ofNat 64 (fromBytes (bs.take 4))))) s)

/-- Whether a barrier's phase completes a wait on a token (R268). -/
def phasePast (phase tok : Nat) : Bool :=
  let k := (phase + 2 ^ 32 - tok % 2 ^ 32) % 2 ^ 32
  decide (1 ≤ k ∧ k ≤ 2 ^ 31)

/-- BWAIT (R268, R389): it reads PHASE at the barrier's home until the token's phase is over, then acquires. -/
def execBwait (a b sc : Nat) (s : State) : Meaning :=
  let core := s.focus.core
  let va := (s.rd a).toNat
  let tok := (s.rd b).toNat % 2 ^ 32
  let done (phase : Nat) (s : State) : State :=
    if phasePast phase tok then finish (acquire core sc s) else block .bwait s
  match barrierAt core va false s with
  | (s, .error e) => .next (trapErr e (BitVec.ofNat 64 va) s)
  | (s, .ok (pa, ph)) =>
    match ph with
    | .hbm l =>
      match homeLoad { l with off := l.off + 8 } 4 (s.ctx core) s with
      | (s, .error e) => .next (trapErr e (BitVec.ofNat 64 va) s)
      | (s, .ok (bs, _)) => .next (done (fromBytes bs) s)
    | _ =>
      let (s, r) := remoteCall .load va (pa + 8) 4 [] false s
      .next (settle r va .bwait (fun bs s => done (fromBytes bs) s) s)

/-! ### PREF (R389) -/

/-- A remote-cacheable line fetched from its home into the L2, and with `l1` into the L1 (R57, R389): the signals bring
the outcomes; nothing comes in after an error, and versioned data never does (R275). -/
def fillFar (core pa : Nat) (l1 : Bool) (s : State) : State :=
  ((List.range 4).foldl (fun (acc : State × Bool) i =>
    let at' := pa / 128 * 128 + 32 * i
    if !acc.2 then acc
    else
      match coreRequest core .load at' 32 [] acc.1 with
      | (s, .data bs) =>
        let bs := (bs ++ List.replicate 32 0).take 32
        (if l1 then fillRemote core at' bs s else fillRemoteL2 core at' bs s, true)
      | (s, _) => (s, false)) (s, true)).1

/-- The line of a physical place prefetched (R57, R90, R389): plain local HBM and remote-cacheable lines into the L1 (0) or
the L2 (1), a versioned line into the L1 alone; the MSC (2) stands at the home already. -/
def prefetch (core lvl : Nat) (x : Xlat) (s : State) : State :=
  match x.phys with
  | .hbm l =>
    if lvl = 2 then s
    else if l.ver.isSome then
      (if lvl = 0 then (versionedCached l 1 ⟨core, (s.core core).txst.tag⟩ s).1 else s)
    else
      let s := reachCell core l.off s
      if lvl = 0 then fillLine core x.pa s else fillL2 core x.pa s
  | .domain _ => if x.rc && decide (lvl < 2) then fillFar core x.pa (lvl == 0) s else s
  | _ => s

/-- PREF (R389): it never faults and changes no value; an untranslatable or window address makes it do nothing. -/
def execPref (a lvl : Nat) (s : State) : Meaning :=
  let core := s.focus.core
  let va := (s.rd a).toNat
  if inWindow va then .next (finish s)
  else
    match coreXlat core va false s with
    | (s, .ok x) => .next (finish (prefetch core lvl x s))
    | (s, .error _) => .next (finish s)

end Sys2Proof.Machine
end

