-- ==== Sys2Proof/Machine/Tx.lean ====
section
/-! DEFINITION. The transaction words of the A-stream (R126, R131, R148, R394 to R396). -/

namespace Sys2Proof.Machine

/-- The precise TXSTATE trap. -/
def txState (s : State) : State := trap 0x0B 0 0 s

/-- Whether a core's TXBEGIN has asked for its tag already: it waits for one, or for the write of one (R85, R94). -/
def asked (core : Nat) (s : State) : Bool :=
  s.mem.waiting.contains (.core core) ||
    s.mem.writes.any (fun w => w.user == .core core && decide (w.state = .active))

/-- TXBEGIN (R85, R94, R148, R395): it waits in arrival order for the lowest free tag, and for the completion of that
tag's write. -/
def execTxbegin (d : Nat) (s : State) : Meaning :=
  let core := s.focus.core
  if s.cur.txst.kind ≠ 0 then .next (txState s)
  else
    match s.mem.given.find? (fun p => p.1 == core) with
    | some (_, t) =>
      let s := s.withMem { s.mem with given := s.mem.given.filter (fun p => p.1 != core) }
      let s := s.modCur (fun c => c.modTx (fun x =>
        { x with tag := t, kind := 2, att := 0, gflags := 0, outcome := none }))
      .next (finish (s.wr d (BitVec.ofNat 64 t)))
    | none =>
      let s :=
        if asked core s then s else s.withMem { s.mem with waiting := s.mem.waiting ++ [.core core] }
      .next (allocate (block .txn s))

/-- The flags a TXVOTE may set (R131, R394). -/
def voteMask : BitVec 16 := 0xE0FF

/-- TXVOTE (R131, R394): into the flags of every core of the group, or in a local transaction of the issuing
core alone. -/
def execTxvote (a : Nat) (s : State) : Meaning :=
  let f := (s.rd a).setWidth 16 &&& voteMask
  let put (c : CoreSt) : CoreSt := c.modTx (fun x => { x with gflags := x.gflags ||| f })
  match s.cur.txst.kind with
  | 0 => .next (txState s)
  | 1 =>
    let group := match s.cur.place with | some p => s.group? p.gid | none => none
    match group with
    | some g => .next (finish (g.cores.foldl (fun s c => s.modCore c put) s))
    | none => .next (finish (s.modCur put))
  | _ => .next (finish (s.modCur put))

/-- Whether everything a core issued under a tag is over (R396). -/
def tagWorkDone (core t : Nat) (s : State) : Bool :=
  let c := s.core core
  let mine (k : CopyCmd) : Bool := match k with | .copy (carry := k) .. => k.tag == t | .lrec .. => false
  !c.copyQ.any mine && !(match c.copyRun with | some r => mine r.cmd | none => false) &&
    !(c.m.run && c.m.carry.tag == t) &&
    !s.tiles.jobs.any (fun j => j.core == core && j.tag == t) &&
    !s.perg.colls.any (fun x => x.core == core && x.tag == t)

/-- A local transaction is decided (R84, R85, R148): the state write leaves, and the word waits for it. -/
def settleLocal (commit : Bool) (s : State) : State :=
  let t := s.cur.txst.tag
  let s := settleSpawns t commit
    (statusWrite t (if commit then .committed else .aborted) (.core s.focus.core) s)
  block .txn (s.modCur (fun c => c.modTx (fun x => { x with outcome := some commit })))

/-- Whether a state write of the transaction's tag is still on its way (R85). -/
def settling (s : State) : Bool := s.mem.writes.any (fun w => w.tag == s.cur.txst.tag)

/-- TXWAIT (R148, R396): it waits for all work under the tag, decides, and waits for the status write. -/
def execTxwait (d : Nat) (s : State) : Meaning :=
  let core := s.focus.core
  if s.cur.txst.kind ≠ 2 then .next (txState s)
  else
    match s.cur.txst.outcome with
    | some commit =>
      if settling s then .next (block .txn s)
      else .next (finish ((s.modCur (fun c => (dropVersioned c).endTx)).wr d (if commit then 0 else 1)))
    | none =>
      let (s, ready) := release core 4 s
      if !ready || !tagWorkDone core s.cur.txst.tag s then .next (block .txn s)
      else .next (settleLocal (decide ((s.cur.txst.gflags ||| sget 0 s.arb.hwFlags s.cur.txst.tag) &&& vetoMask = 0)) s)

/-- TXABORT (R148, R396): ABORTED is written at once, and the word waits for the write. -/
def execTxabort (s : State) : Meaning :=
  if s.cur.txst.kind ≠ 2 then .next (txState s)
  else
    match s.cur.txst.outcome with
    | some _ => if settling s then .next (block .txn s) else .next (finish (s.modCur CoreSt.endTx))
    | none => .next (settleLocal false s)

/-- TXREAD (R394). -/
def execTxread (d a sel : Nat) (s : State) : Meaning :=
  let t := (s.rd a).toNat % 64
  let v : Word :=
    if sel = 0 then s.cur.txst.word
    else if t = 0 then 0 else BitVec.ofNat 64 (sget .free s.mem.master t).code
  .next (finish (s.wr d v))

end Sys2Proof.Machine
end

