-- ==== Sys2Proof/Machine/System.lean ====
section
/-! DEFINITION. The system words but TISSUE: traps, return from a trap, EXIT, SPAWN, TFENCE, BRKD and NOP (R171,
R309, R311, R320, R471 to R475). -/

namespace Sys2Proof.Machine

/-- TRAP (R309, R472): SWTRAP with the immediate, resuming at the word after it. -/
def execTrap (imm : BitVec 20) (s : State) : Meaning := .next (trapAfter 0x12 (imm.setWidth 64) s)

/-- The stream after ERET (R309, R367): the handler's own levels are discarded, INTRAP is cleared, and the jump
to TRAPPC·4 acts on the held levels. -/
def StreamSt.returnFrom (x : StreamSt) : StreamSt :=
  let y := { x with loops := x.heldLevels, held := 0, inTrap := false }.jump x.trapPc
  { y with skip := (x.trapSkip.filter (fun p => p.1 == y.pc)).map (fun p => p.2), trapSkip := none }

/-- ERET (R309, R472): ILLEGAL outside a handler. -/
def execEret (s : State) : Meaning :=
  if s.strm.inTrap then
    .next (s.modCur (fun c =>
      (if s.focus.kind = .x then c.age else c).modStream s.focus.kind StreamSt.returnFrom))
  else .next (illegal .eret s)

/-- EXIT (R474): the stream ends with every pending vector write in effect and its loop levels discarded. -/
def execExit (s : State) : Meaning :=
  .next (s.modCur (fun c =>
    c.flush.modStream s.focus.kind (fun x =>
      { x with run := .exited, loops := [], held := 0, stall := none, stallCnt := 0, wait := none, parts := [] })))

/-! ### SPAWN (R171, R172, R475) -/

/-- Whether the spawn store is full, held packets with it (R171). -/
def storeFull (s : State) : Bool := decide (2048 ≤ s.host.store.length + s.arb.heldSp.length)

/-- SPAWN's effect once its packet is read (R475). -/
def spawnPacket (d chain : Nat) (ws : List Word) (s : State) : State :=
  if 4096 ≤ chain ∨ (s.chain chain).accepts = false then finish (s.wr d 1)
  else if storeFull s then block .queue s
  else if s.cur.txst.tag = 0 then finish ((appendSpawn chain ws s).wr d 0)
  else
    finish ({ s with arb := { s.arb with heldSp := s.arb.heldSp ++ [(s.cur.txst.tag, chain, ws)] } }.wr d 2)

/-- The addresses of a packet's sixteen words (R475). -/
def packetWords (va : Nat) : List Nat := (List.range 16).map (fun i => va + 8 * i)

/-- SPAWN (R475): REL.dev, then the packet's sixteen words, each a load of its own, then the append. -/
def execSpawn (d a b : Nat) (s : State) : Meaning :=
  let core := s.focus.core
  let va := (s.rd b).toNat
  match findTarget core va 8 false s with
  | (s, .error e) => .next (trapErr e (BitVec.ofNat 64 va) s)
  | (s, .ok _) =>
    if va % 128 ≠ 0 then .next (trapErr .align (BitVec.ofNat 64 va) s)
    else
      let (s, ready) := release core 3 s
      if !ready then .next (block .release s)
      else
        match loadRuns 8 (packetWords va) 0 s with
        | (s, .done bs, _) => .next (spawnPacket d (s.rd a).toNat (wordsOf 16 bs) s)
        | (s, .fault e, at') => .next (trapErr e (BitVec.ofNat 64 at') s)
        | (s, .wait, _) => .next (block .remote s)

/-! ### TFENCE, BRKD, NOP -/

/-- TFENCE (R311): the enabled flags raise FPE after it. -/
def execTfence (s : State) : Meaning :=
  let t := s.cur.enabledFlags
  .next (if t = 0 then finish s else trapAfter 0x10 (t.setWidth 64) s)

/-- BRKD (R320): under BRKHALT it halts its own slot and resumes at the word after it, else it raises BRK. -/
def execBrkd (s : State) : Meaning :=
  if s.dbg.brkHalt then
    match s.cur.place with
    | some p => .next (let s := finish s; if s.dbg.state = 0 then haltOne p.slot .brkd s else s)
    | none => .next (finish s)
  else .next (trapAfter 0x13 0 s)

/-- NOP (R472). -/
def execNop (s : State) : Meaning := .next (finish s)

end Sys2Proof.Machine
end

