-- ==== Sys2Proof/Machine/Tissue.lean ====
section
/-! DEFINITION. TISSUE: a tile word goes from the X-stream to its executor's queue (R202, R203, R207, R476). -/

namespace Sys2Proof.Machine

/-- The job of a word that a core issues (R206). -/
def tissueJob (core id num tl w : Nat) (s : State) : TileJob :=
  let c := s.core core
  let blank : TileJob := default
  let job : TileJob :=
    { blank with
      id := id, unit := unitOf (bits w 10 8) core, word := BitVec.ofNat 256 w, core := core, num := num, tl := tl,
      tag := c.txst.tag, att := c.txst.att, strict := c.txst.strict || bit w 11, txn := decide (c.txst.kind ≠ 0),
      loc := decide (c.txst.kind = 2), root := c.root, mark := c.mark, entry := id }
  match c.place with
  | none => job
  | some p =>
    { job with
      chain := p.chain, slot := p.slot, gid := p.gid,
      glevel := (match s.group? p.gid with | some g => g.level | none => 0),
      owner := (match s.group? p.gid with | some g => g.packet | none => 0) }

/-- TISSUE once its word is read (R476): the release, then the queue, then the number on the timeline. -/
def offerWord (d w : Nat) (s : State) : State :=
  let core := s.focus.core
  let lvl := bits w 10 8
  if 6 ≤ lvl then trap 0x21 0 0 s
  else
    let (s, ready) := release core (lvl - 1) s
    if !ready then block .release s
    else if queueCap (unitOf lvl core).level ≤ queued s (unitOf lvl core) then block .tissue s
    else
      let f := bits w 163 160
      let tl := if 3 ≤ f ∧ f ≤ 7 then f else 3
      let s := s.modCur (fun c => c.setTl tl ((c.tl tl).issue (lvl - 1)))
      let num := (s.cur.tl tl).issued
      let (id, s) := s.fresh
      let s := { s with tiles := { s.tiles with jobs := s.tiles.jobs ++ [tissueJob core id num tl w s] } }
      finish (s.wr d (BitVec.ofNat 64 num))

/-- TISSUE (R476). -/
def execTissue (d a : Nat) (s : State) : Meaning :=
  let va := (s.rd a).toNat
  match findTarget s.focus.core va 32 false s with
  | (s, .error e) => .next (trapErr e (BitVec.ofNat 64 va) s)
  | (s, .ok _) =>
    if va % 32 ≠ 0 then .next (trapErr .align (BitVec.ofNat 64 va) s)
    else
      let (s, r) := loadBytes va 32 s
      .next (settle r va .remote (fun bs s => offerWord d (fromBytes bs) s) s)

end Sys2Proof.Machine
end

