-- ==== Sys2Proof/Machine/TileLife.lean ====
section
/-! DEFINITION. The life of a tile word at its executor: acceptance, start, members' reports, completion, stop,
regrouping, the T.AMAX history, and the words that the executor performs itself (R197, R199, R203 to R208, R220 to
R223, R465, R468 to R470). -/

namespace Sys2Proof.Machine

/-! ### Words that end with their executor's own fault -/

/-- A job gone. -/
def dropJob (id : Nat) (s : State) : State :=
  { s with tiles := { s.tiles with jobs := s.tiles.jobs.filter (fun j => j.id != id) } }

/-- The receiving executor's own fault of a job (R221); POISON raises CORR against its tag (R130). -/
def ownFault (id : Nat) (cause : BitVec 8) (sub handle : Nat) (addr : Word) (s : State) : State :=
  match s.job? id with
  | none => s
  | some j =>
    (raiseCorr j.tag cause sub s).modJob id (fun j =>
      { j with
        fault := leastFault (some ⟨cause, sub, j.levelHere, j.topPath s, addr, 2 ^ 64 - 1, handle, s.now⟩) j.fault,
        count := satAdd 65535 j.count 1 })

/-- The fault of this device's part of a collective: the level-4 executor's, at this member's position for a word of
level 5 (R208, R221). -/
def partFault (id : Nat) (cause : BitVec 8) (addr : Word) (s : State) : State :=
  match s.job? id with
  | none => s
  | some j =>
    let path := if j.member || decide (j.tw.level = 5) then s.memberPos * 2 ^ 48 else 0
    (raiseCorr j.tag cause 0 s).modJob id (fun j =>
      { j with
        fault := leastFault (some ⟨cause, 0, 4, path, addr, 2 ^ 64 - 1, 0xFFFF, s.now⟩) j.fault,
        count := satAdd 65535 j.count 1 })

/-- A job that ends with a fault before anything is issued to children (R204); a member reports it at once. -/
def failJob (id : Nat) (cause : BitVec 8) (sub handle : Nat) (addr : Word) (s : State) : State :=
  let s := (ownFault id cause sub handle addr s).modJob id (fun j =>
    { j with accepted := true, started := true, executed := true, children := [], hbase := none })
  match s.job? id with
  | some j =>
    if j.member then
      dropJob id (s.post (.report j.origin j.far 1 j.fault j.count j.skipped []))
    else s
  | none => s

/-! ### Acceptance (R204) -/

/-- The faults of a BAR that names a word of memory (R469, R484). -/
def barFault (j : TileJob) (align : Nat) (write : Bool) (s : State) : State × Option MemErr :=
  let va := j.tw.bar.toNat
  let (s, x) : State × Option MemErr :=
    if inWindow va && decide (j.tw.level ≤ 1) then (s, none)
    else match agentXlat j.agent write va s with | (s, .ok _) => (s, none) | (s, .error e) => (s, some e)
  (s, x.orElse (fun _ => if va % align ≠ 0 then some .align else none))

/-- A regrouping T.KERN at acceptance (R197, R199, R468): its image is read and checked; its number passes. -/
def acceptKern (j : TileJob) (s : State) : State :=
  match barFault j 128 false s with
  | (s, some e) => failJob j.id e.cause e.sub 0xFFFF j.tw.bar s
  | (s, none) =>
    -- the image's words w11 to w14 are read, and no others
    match each (fun k s => agentRead j.agent (j.tw.bar.toNat + 8 * k) 8 s) [11, 12, 13, 14] s with
    | (s, .error e) => failJob j.id e.cause e.sub 0xFFFF j.tw.bar s
    | (s, .ok bs) =>
      let ws := List.replicate 11 0 ++ wordsOf 4 bs.flatten ++ [0]
      if kernOk j ws then
        completeTl j.core j.tl j.num j.tag none (s.modJob j.id (fun j => { j with accepted := true, img := ws }))
      else failJob j.id 0x22 0 0xFFFF 0 s

/-- Whether a packet's word may enter its executor's queue: there is room, and no earlier word of its chain waits (R202,
R205). -/
def packetEnters (j : TileJob) (s : State) : Bool :=
  decide (queued s j.unit < queueCap j.unit.level) &&
    (s.tiles.jobs.takeWhile (fun k => k.id != j.id)).all (fun k =>
      !(k.packet.isSome && k.chain == j.chain && k.unit == j.unit && !k.accepted))

/-- A packet's word enters the queue behind the words in it. -/
def enterQueue (id : Nat) (s : State) : State :=
  let (n, s) := s.fresh
  let mine := (s.tiles.jobs.filter (fun k => k.id == id)).map (fun k => { k with entry := n })
  { s with tiles := { s.tiles with jobs := s.tiles.jobs.filter (fun k => k.id != id) ++ mine } }

/-- A word received is checked, and queued or ended (R202, R204). -/
def acceptJob (id : Nat) (s : State) : State :=
  match s.job? id with
  | none => s
  | some j =>
    if j.accepted || (j.packet.isSome && !packetEnters j s) then s
    else
      let s := if j.packet.isSome then enterQueue id s else s
      match staticCheck ((s.job? id).getD j) s with
      | (s, .error c) => failJob id c 0 0xFFFF 0 s
      | (s, .ok j') =>
        if j.op = 0x18 then acceptKern j s
        else s.modJob id (fun _ => { j' with accepted := true })

/-- The tag that this device holds for an attempt of a launch (R206), its slot and its packet. -/
def memberTag (s : State) (dtid : Option Nat) (att : Nat) : Nat × Nat × Nat :=
  match dtid.bind s.attempt? with
  | some a => if a.att = att then (a.tag, a.slot, a.packet) else (0, 256, 0)
  | none => (0, 256, 0)

/-- The job of a level-5 word's copy on a member (R206, R208). -/
def memberJob (a : TileArrival) (id : Nat) (s : State) : TileJob :=
  let blank : TileJob := default
  let (tag, slot, owner) := memberTag s a.dtid a.att
  { blank with
    id := id, unit := ⟨4, 0⟩, word := a.word, core := a.core, member := true, origin := a.src, far := a.id,
    tag := tag, att := a.att, strict := a.strict, txn := a.txn, chain := a.chain, slot := slot, owner := owner,
    root := (s.chain a.chain).pt, entry := id, key := a.key, ctr := a.ctr }

/-- TILE_WORD_ACCEPT: word `id` that a TISSUE or packet of this device brought, or with `flag` the copy `tile` of
a level-5 word from another device, which waits while the queue is full (R202, R204, R208). -/
def execTileWordAccept (s : State) : Meaning :=
  if s.input.flag then
    let a := s.input.tile
    -- the copy waits for room, and for its attempt's tag on this device
    if queueCap 4 ≤ queued s ⟨4, 0⟩ ∨ (a.dtid.isSome ∧ (memberTag s a.dtid a.att).1 = 0) then .next s
    else
      let (id, s) := s.fresh
      .next (acceptJob id { s with tiles := { s.tiles with jobs := s.tiles.jobs ++ [memberJob s.input.tile id s] } })
  else .next (acceptJob s.input.id s)

/-! ### Start (R205) -/

/-- Whether two words come from one source (R205). -/
def sameSource (a b : TileJob) : Bool :=
  if a.member || b.member then a.member == b.member && a.origin == b.origin
  else
    match a.packet, b.packet with
    | some _, some _ => a.chain == b.chain
    | none, none => a.core == b.core
    | _, _ => false

/-- Whether an LREC that a word comes after has still to take effect: at levels 0 and 1 one before the BQPUSH whose value
the X-stream popped last (R481), above that one that the issuing core gave before the word (R388). -/
def lrecBefore (s : State) (j : TileJob) : Bool :=
  (decide (j.tw.level ≤ 1) && (s.core j.core).copyQ.any (fun k =>
    match k with | .lrec id .. => decide (id ≤ j.mark) | _ => false)) ||
  s.tiles.lrecs.any (fun l => l.core == j.core && l.unit == j.unit && decide (l.id < j.id))

/-- Whether a word may start (R203, R205, R469). -/
def mayStart (s : State) (j : TileJob) : Bool :=
  let before := (s.tiles.jobs.takeWhile (fun k => k.id != j.id)).filter (fun k =>
    k.unit == j.unit && !k.kernHeld && (k.packet.isNone || k.accepted))
  let here := running s j.unit (j.tw.level == 0)
  j.accepted && !j.started && j.op != 0x18 && decide (here < runCap j.unit.level) && !lrecBefore s j &&
    (if j.tw.async && j.op != 0x19 then
      before.all (fun k => k.started) &&
        s.tiles.jobs.all (fun p => p.kids.all (fun k =>
          !(k.unit == j.unit && k.begun.isNone && (match k.entered with | some e => decide (e < j.entry) | none => false))))
     else before.all (fun k => !sameSource k j))

/-- The record words of a job's handles as its table holds them: copies under 3·operand + extension. -/
def copyRecords (s : State) (j : TileJob) : Sparse (BitVec 768) :=
  if dataOp j.op then
    (List.range 6).flatMap (fun k =>
      if j.handle k = 0 then []
      else (recordWords s j.key' (j.handle k)).zipIdx.map (fun p => (3 * k + p.2, BitVec.ofNat 768 p.1)))
  else []

/-- The attempt of the launch a job belongs to. -/
def TileJob.dtid (s : State) (j : TileJob) : Option Nat := (j.launch s).bind (fun p => p.dtid)

/-- A word starts: it reads its records, or ends with the fault they give; a level-5 word goes to the members (R204,
R208, R388). -/
def startJob (j : TileJob) (s : State) : State :=
  match recordCheck s j with
  | some (c, h) => failJob j.id c 0 h 0 s
  | none =>
    let (begun, s) := s.fresh
    let j := { j with started := true, recs := copyRecords s j, begun := begun }
    let others := otherMembers s j
    let s := s.modJob j.id (fun _ => { j with children := others, kids := (tileCtx s j).newKids })
    others.foldl (fun s i => s.post (.tile (s.memberAt i)
      ⟨⟨4, 0⟩, j.word, j.core, j.tag, j.att, j.strict, j.txn, j.chain, s.self, j.id, j.dtid s, j.key, j.ctr⟩)) s

/-- A word starts where its turn has come (R205). -/
def startWord (j : TileJob) (s : State) : State := if mayStart s j then settleLrecs (startJob j s) else s

/-- TILE_WORD_START: word `id` starts where its turn has come (R205); with `flag` the member's word of root `dev` and
identifier `id` goes on to its second pass with the values `nats` that the root combined (R212, R214). -/
def execTileWordStart (s : State) : Meaning :=
  if s.input.flag then
    match s.tiles.jobs.find? (fun j => j.member && j.origin == s.input.dev && j.far == s.input.id) with
    | none => .next s
    | some j =>
      let vals := (List.range (s.input.nats.length / 3)).map (fun i =>
        (s.input.nats.getD (3 * i) 0, s.input.nats.getD (3 * i + 1) 0, s.input.nats.getD (3 * i + 2) 0))
      when (j.executed && j.phase == 0) (fun s =>
        s.modJob j.id (fun j => { j with phase := 1, executed := false, vals := vals })) s
  else
    match s.job? s.input.id with
    | none => .next s
    | some j => .next (startWord j (settleLrecs s))

/-! ### Reports and stops (R220 to R223) -/

/-- CHILD_WORD_COMPLETE: member `dev` reports on word `id`: with `flag` the least-path fault and count, with `wr` that
work was skipped, then its partials, in `nats`; `n` is 1 where it has no more work (R212, R220, R221, R223). -/
def execChildWordComplete (s : State) : Meaning :=
  let id := s.input.id
  let n := s.input.nats
  match s.job? id with
  | none => .next s
  | some j =>
    let pos := (s.members.filter (fun d => decide (d < s.input.dev))).length
    if j.member || !j.children.contains pos then .next s
    else
      let at' (i : Nat) : Nat := n.getD i 0
      let f : Option TileFault :=
        if s.input.flag then
          some ⟨BitVec.ofNat 8 (at' 0), at' 1, at' 2, at' 3, BitVec.ofNat 64 (at' 4), at' 5, at' 6, at' 7⟩
        else none
      let rest := n.drop 9
      let vals := (List.range (rest.length / 3)).map (fun i =>
        (rest.getD (3 * i) 0, rest.getD (3 * i + 1) 0, rest.getD (3 * i + 2) 0))
      let s := s.modJob id (fun j =>
        { j with
          children := j.children.filter (fun i => i != pos),
          gone := if s.input.n = 1 then j.gone ++ [pos] else j.gone, fault := leastFault j.fault f,
          count := satAdd 65535 j.count (at' 8), skipped := j.skipped || s.input.wr,
          vals := if j.phase = 0 then j.vals ++ vals else j.vals })
      .next (rootAdvance id (spreadStop id s))

/-- TILE_STOP: the stop signal of root `dev` for its word `id` reaches this member (R223); with `flag` the KILL of its
level-5 launch of chain `chain` (R173), with `wr` its teardown (R470). -/
def execTileStop (s : State) : Meaning :=
  let x := s.input
  if x.flag then
    let s := (s.sched.packets.filter (fun p => p.share && p.home == x.dev && p.chain == x.chain)).foldl
      (fun s p => if x.wr then endWaits p s else killPacket p.id s) s
    -- a share that waits for a slot ends at once
    .next (if x.wr then s
      else
        (s.sched.shares.filter (shareWaits x.dev x.chain)).foldl
          (fun s h => s.post (.shareEnd x.dev h.chain none 0 true)) (dropShares x.dev x.chain s))
  else .next { s with tiles := { s.tiles with jobs := s.tiles.jobs.map (fun j =>
    if j.member && j.origin == s.input.dev && j.far == s.input.id then { j with stop := true } else j) } }

/-! ### Completion (R207, R222) -/

/-- Whether an executor of levels 2 to 5 meets a versioned page, which it does not write (R80). -/
def TileJob.barred (j : TileJob) (x : Xlat) : Bool :=
  decide (2 ≤ j.tw.level) && (match x.phys with | .hbm l => l.ver.isSome | _ => false)

/-- A word's arrival on its barrier as it completes (R207, R268): none where it makes none. An executor that writes no
versioned page gets OWNER there (R80, R88; DESIGN CHOICE, log 89). -/
def arriveBar (j : TileJob) (s : State) : State × Except MemErr Unit :=
  if dataOp j.op ∧ j.tw.bar ≠ 0 then
    match barTarget j s with
    | (s, .error e) => (s, .error e)
    | (s, .ok x) =>
      if j.barred x then (s, .error .owner) else
      match x.phys with
      | .hbm l =>
        match homeArrive l ⟨j.core, j.tag⟩ .iatomic s with
        | (s, .ok _) => (if l.ver.isSome then dropBlock j.core l.off s else forgetBytes j.core x.pa 64 s, .ok ())
        | (s, .error e) => (s, .error e)
      | _ =>
        match engineRequest j.core .arrive x.pa 12 [] s with
        | (s, .ok _) => (s, .ok ())
        | (s, .error e) => (s, .error e)
  else (s, .ok ())

/-- The record of a job's fault (R222). -/
def TileJob.record (j : TileJob) : Option Rec :=
  j.fault.map (fun f =>
    { cause := f.cause, sub := f.sub, level := f.level, count := j.count, op := j.op, top := j.tw.level,
      stop := j.skipped, path := f.path, addr := f.addr, elem := f.elem, handle := f.handle, time := f.time })

/-- A release at sys of every core of a unit, and whether it is complete (R262). -/
def releaseUnit (u : TileUnit) (s : State) : State × Bool :=
  (unitCoreList u).foldl (fun (acc : State × Bool) k =>
    let (s, r) := release k 4 acc.1
    (s, acc.2 && r)) (s, true)

/-- Whether a job's work is over: its own, its members' and its history's. -/
def workOver (s : State) (j : TileJob) : Bool :=
  j.executed && j.children.isEmpty && !j.member && !(j.op == 0x0B && j.hbase.isSome) &&
    !(j.phase == 0 && j.fault.isNone && dataOp j.op && (tileCtx s j).far s)

/-- The launch of a regrouping T.KERN that failed completes with its error flag set (R197). -/
def failLaunch (j : TileJob) (s : State) : State :=
  match j.launch s with
  | some p => s.modPacket p.id (fun p => { p with e := true })
  | none => s

/-- A word leaves its executor: its timeline's entry or its packet takes the outcome (R207, R222). -/
def settleWord (j : TileJob) (s : State) : State :=
  let r := j.record
  let s := dropJob j.id s
  match j.packet with
  | none =>
    let s := completeTl j.core j.tl j.num j.tag r s
    if j.op = 0x18 ∧ r.isSome then failLaunch j s else s
  | some p =>
    let s :=
      match r with
      | some r =>
        raiseTag j.tag (if isPoison r.cause r.sub then flFAULT ||| flCORR else flFAULT)
          (slotRecord j.slot r (s.modPacket p (fun p => { p with e := true })))
      | none => s
    s.modPacket p (fun p => { p with done := true })

/-- TILE_WORD_COMPLETE: word `id` arrives on its barrier, then completes; a packet's after a release at sys (R170,
R207). -/
def execTileWordComplete (s : State) : Meaning :=
  match s.job? s.input.id with
  | none => .next s
  | some j =>
    if workOver s j then
      -- the completion word's release at sys covers the leaves' writes (R170)
      let (s, ready) := if j.packet.isSome then releaseUnit j.unit s else (s, true)
      if !ready then .next s
      else
        match arriveBar j s with
        | (s, .ok ()) => .next (settleLrecs (settleWord j s))
        | (s, .error e) =>
          let s := ownFault j.id e.cause e.sub 0xFFFF j.tw.bar s
          .next (settleLrecs (match s.job? j.id with | some j => settleWord j s | none => s))
    else .next s

/-! ### The T.AMAX history (R465) -/

/-- AMAX_HISTORY_WRITE: the home base die of the history word writes the finished value of word `id` (R87, R465). -/
def execAmaxHistoryWrite (s : State) : Meaning :=
  match s.job? s.input.id with
  | none => .next s
  | some j =>
    match j.hbase, j.vals with
    | some h, (_, _, a) :: _ =>
      if j.op = 0x0B ∧ j.executed ∧ (j.tw.level = 5 → j.phase = 1) then
        let va := h + BitVec.ofNat 64 (64 * ((tmP0 j.tw) % 2 ^ 16) + 4 * ((tmP1 j.tw) % 16))
        let (s, e) : State × Option MemErr :=
          match xlatAt 512 j.root va.toNat true s with
          | (s, .error e) => (s, some e)
          | (s, .ok x) =>
            match x.phys with
            | .hbm l =>
              match homeStore l (toBytes 4 a) ⟨j.core, j.tag⟩ .pergola s with
              | (s, .ok ()) => (s, none)
              | (s, .error e) => (s, some e)
            | _ => (s, some .xlate)
        let s := s.modJob j.id (fun j => { j with hbase := none })
        let s := match e with | some e => ownFault j.id e.cause e.sub 0xFFFF va s | none => s
        .next (if j.member then memberReport (tileCtx s j) s else s)
      else .next s
    | _, _ => .next s

/-! ### Regrouping (R197, R468) -/

/-- Whether the groups of a packet that hold a core of a unit have all retired and drained (R197). -/
def unitDrained (s : State) (packet : Nat) (u : TileUnit) : Bool :=
  (s.sched.groups.filter (fun g => g.packet == packet && g.cores.any (fun c => (unitCoreList u).contains c))).all
    (fun g => g.state == .idle)

/-- REGROUP_PLACEMENT: the T.KERN `id`, the oldest at its unit, places its groups once every core of the unit has
retired and drained (R197). -/
def execRegroupPlacement (s : State) : Meaning :=
  match s.job? s.input.id with
  | none => .next s
  | some j =>
    let first := (s.tiles.jobs.find? (fun k => k.unit == j.unit && k.kernHeld)).map (fun k => k.id)
    match j.launch s with
    | none => .next s
    | some p =>
      if j.kernHeld && first == some j.id && unitDrained s p.id j.unit && decide (pkGcount j.img ≤ gidsLeft s) then
        let tx : TxSt :=
          match p.dtid.bind s.attempt? with
          | some a =>
            { tag := a.tag, att := a.att, kind := 1, pflags := a.pflags, strict := pkStrict p.head.words || j.strict }
          | none => { strict := pkStrict p.head.words || j.strict }
        let l : Launch := ⟨p.id, p.slot, p.chain, p.root, j.img, tx, pkGcount j.img⟩
        let old := p.groups
        let s := placeGroups l (pkGlevel j.img) (unitFirst j.unit) (pkGcount j.img) 0 (dropJob j.id s)
        -- a pre-emption asked for before reaches the new groups too (R187)
        let fresh := (s.sched.groups.filter (fun g => g.packet == p.id && !old.contains g.gid)).flatMap (fun g => g.cores)
        let s := if p.preempt then fresh.foldl (fun s c => s.modCore c CoreSt.ask) s else s
        .next (settleLrecs s)
      else .next s

/-! ### T.SIG and T.WAITEV (R469, R470) -/

/-- A word that its executor performs itself is over, with a fault where one is given. -/
def performed (id : Nat) (addr : Word) (e : Option MemErr) (s : State) : State :=
  let s := s.modJob id (fun j => { j with executed := true })
  match e with
  | some e => ownFault id e.cause e.sub 0xFFFF addr s
  | none => s

/-- T.SIG's write at its event word, recorded at sys (R469); OWNER where its executor may not make it (R80). -/
def sigWrite (j : TileJob) (s : State) : State × Except MemErr Unit :=
  let v := (tmP1 j.tw) * 2 ^ 32 + (tmP0 j.tw)
  let va := j.tw.bar.toNat
  if inWindow va && decide (j.tw.level ≤ 1) then
    if md j.tw 5 5 = 0 then agentWrite j.agent va (toBytes 8 v) s
    else
      match windowAtomic j.core (va % 2 ^ 21) .add v 0 s with
      | (s, .ok _) => (s, .ok ())
      | (s, .error e) => (s, .error e)
  else
    match agentXlat j.agent true va s with
    | (s, .error e) => (s, .error e)
    | (s, .ok x) =>
      if j.barred x then (s, .error .owner)
      else if md j.tw 5 5 = 0 then agentWrite j.agent va (toBytes 8 v) s
      else
      match x.phys with
      | .hbm _ | .control _ =>
        match atomicAs ⟨j.core, j.tag⟩ (.segs [⟨va, 8, x.pa, x.phys, x.rc⟩]) .add v 0 s with
        | (s, .ok _) => (s, .ok ())
        | (s, .error e) => (s, .error e)
      | .host a => (hostWrite a (toBytes 8 ((fromBytes (hostBytes s a 8) + v) % 2 ^ 64)) s, .ok ())
      | _ =>
        match engineRequest j.core (.atomic .add false (BitVec.ofNat 64 v) 0) x.pa 8 [] s with
        | (s, .ok _) => (s, .ok ())
        | (s, .error e) => (s, .error e)

/-- T.SIG (R469): every write of the earlier words is performed at sys, then the event word is written. -/
def execTSig (_ : TileWord) (s : State) : Meaning :=
  match s.job? s.focus.tile with
  | none => .next s
  | some j =>
    if j.executed then .next s
    else
      match barFault j 8 true s with
      | (s, some e) => .next (performed j.id j.tw.bar (some e) s)
      | (s, none) =>
        let (s, ready) := releaseUnit j.unit s
        if !ready then .next s
        else
          match sigWrite j s with
          | (s, .ok ()) => .next (performed j.id 0 none s)
          | (s, .error e) => .next (performed j.id j.tw.bar (some e) s)

/-- T.WAITEV's event word as it stands at its home, under what the core has not written back: clean copies do not serve
the reading, which sees every write of this device (R470). -/
def eventRead (j : TileJob) (s : State) : State × Except MemErr (List Byte) :=
  let va := j.tw.bar.toNat
  let s :=
    if inWindow va && decide (j.tw.level ≤ 1) then s
    else match agentXlat j.agent false va s with | (s, .ok x) => forgetBytes j.core x.pa 8 s | (s, .error _) => s
  agentRead j.agent va 8 s

/-- A reading of T.WAITEV's event word (R470): once the condition holds, every core of the unit acquires at sys and
the word is over. -/
def waitevRead (id : Nat) (s : State) : State :=
  match s.job? id with
  | none => s
  | some j =>
    if j.op = 0x1A ∧ j.started ∧ j.executed = false then
      match barFault j 8 false s with
      | (s, some e) => performed id j.tw.bar (some e) s
      | (s, none) =>
        match eventRead j s with
        | (s, .error e) => performed id j.tw.bar (some e) s
        | (s, .ok bs) =>
          let v := fromBytes bs
          if bit v 63 ∨ (v % 2 ^ 32 + 2 ^ 32 - (tmP0 j.tw)) % 2 ^ 32 < 2 ^ 31 then
            performed id 0 none ((unitCoreList j.unit).foldl (fun s k => acquire k 4 s) s)
          else s
    else s

/-- T.WAITEV (R470): its first reading. -/
def execTWaitev (_ : TileWord) (s : State) : Meaning := .next (waitevRead s.focus.tile s)

/-- WAITEV_POLL: the T.WAITEV `id` reads its event word again (R470). -/
def execWaitevPoll (s : State) : Meaning := .next (waitevRead s.input.id s)

/-- T.KERN in progress at an executor: a packet's is placed at dispatch and a TISSUE's by REGROUP_PLACEMENT (R196,
R197, R468), so a turn of its own does nothing more. -/
def execTKern (_ : TileWord) (s : State) : Meaning := .next s

/-! ### Collectives (R118, R120) -/

/-- A collective word gives its collective to the Pergola, which issues it in its turn (R118, R120). -/
def collTurn (kind : Nat) (s : State) : Meaning :=
  match s.job? s.focus.tile with
  | none => .next s
  | some j =>
    -- words on one name are issued in the order in which they started (R118)
    let first := s.tiles.jobs.all (fun k =>
      !(0x10 ≤ k.op && k.op ≤ 0x13 && k.started && !k.executed && (tmP0 k.tw) % 2 ^ 16 == (tmP0 j.tw) % 2 ^ 16 &&
        decide (k.begun < j.begun) && !s.perg.colls.any (fun c => c.word == k.id)))
    if j.executed || s.perg.colls.any (fun c => c.word == j.id) || !first then .next s
    else
      let (id, s) := s.fresh
      let w := j.tw
      let hist := md w 5 5 == 1
      let c : CollSt :=
        { id := id, word := j.id, name := (tmP0 w) % 2 ^ 16, kind := kind, op := md w 2 0, count := (tmP1 w),
          root := bits (tmP0 w) 21 16, hist := hist, hidx := if hist then w.hc else 0,
          hbase := (j.hbase.getD 0).toNat, bar := w.bar, core := j.core, tag := j.tag, att := j.att,
          issued := false, seq := 0, time := 0, planes := [] }
      .next { s with perg := { s.perg with colls := s.perg.colls ++ [c] } }

/-- T.AR (R109, R120): all-reduce. -/
def execTAr (_ : TileWord) (s : State) : Meaning := collTurn 0 s
/-- T.AG (R109, R120): all-gather. -/
def execTAg (_ : TileWord) (s : State) : Meaning := collTurn 2 s
/-- T.RS (R109, R120): reduce-scatter. -/
def execTRs (_ : TileWord) (s : State) : Meaning := collTurn 1 s
/-- T.BC (R109, R120): broadcast. -/
def execTBc (_ : TileWord) (s : State) : Meaning := collTurn 3 s

end Sys2Proof.Machine
end

