-- ==== Sys2Proof/Machine/Sched.lean ====
section
/-! DEFINITION. From a published packet to its completion: fetch and refusal, waits, lateness and escalation, selection
and dispatch, retirement, draining and completion (R126 to R128, R163, R167 to R172, R177 to R184, R186, R199, R204,
R232, R315). -/

namespace Sys2Proof.Machine

/-! ### Fetch (R163, R166, R168, R169, R172) -/

/-- Whether a packet breaks the field rules under ERRCODE 1 (R166, R168). -/
def packetBad (ws : List Word) : Bool :=
  let w := pw ws
  decide (bits (w 0) 23 21 ≠ 0 ∨ bits (w 0) 63 48 ≠ 0 ∨ bits (w 6) 6 0 ≠ 0 ∨ bits (w 6) 63 56 ≠ 0 ∨
    bits (w 7) 30 24 ≠ 0 ∨ bits (w 8) 30 24 ≠ 0 ∨ bits (w 9) 30 24 ≠ 0 ∨ bits (w 10) 30 24 ≠ 0 ∨
    bits (w 11) 31 25 ≠ 0 ∨ bits (w 15) 11 0 ≠ 0 ∨ bits (w 15) 63 57 ≠ 0 ∨ 1 < pkType ws ∨ 5 < pkLevel ws ∨
    pkLate ws = 3 ∨ pkOnerr ws = 3) ||
  (!pkTxn ws && decide (pkTxLimit ws ≠ 0 ∨ pkScb ws ≠ 0)) ||
  (pkKern ws && decide (bits (w 11) 63 51 ≠ 0 ∨ bits (w 12) 11 0 ≠ 0 ∨ bits (w 12) 63 57 ≠ 0 ∨
    bits (w 14) 5 0 ≠ 0 ∨ bits (w 14) 63 57 ≠ 0))

/-- Whether a TILE packet and its tile word disagree (R168). -/
def packetSplit (ws : List Word) : Bool :=
  decide (pkType ws = 1 ∧ bits (pkTile ws) 10 8 ≠ pkLevel ws) ||
    (decide (pkType ws = 1) && (bit (pkTile ws) 12 != pkTxn ws || bit (pkTile ws) 11 != pkStrict ws))

/-- The cores of a launch's scope (R168, R184). -/
def scopeCores (s : State) (level : Nat) : Nat := if level = 5 then 512 * s.members.length else unitCores level

/-- Whether a T.KERN's counts are refused (R168). -/
def kernBad (s : State) (ws : List Word) : Bool :=
  pkKern ws && decide (pkGcount ws = 0 ∨ pkGlevel ws = 0 ∨ 4 < pkGlevel ws ∨ pkLevel ws < pkGlevel ws ∨
    scopeCores s (pkLevel ws) < pkGcount ws * unitCores (pkGlevel ws))

/-- Whether a transaction is refused (R128): the Pavilion translates its step context block. -/
def txnBad (root : Nat) (ws : List Word) (s : State) : State × Bool :=
  if !pkTxn ws then (s, false)
  else if pkTxLimit ws = 0 ∨ (pkLevel ws = 5 ∧ s.arb.valid = false) then (s, true)
  else
    match xlatAt 512 root (pkScb ws) false s with
    | (s, .ok x) => (s, !x.ver)
    | (s, .error _) => (s, true)

/-- The ERRCODE under which a fetched packet is refused (R168). -/
def refusal (c : Nat) (ws : List Word) (s : State) : State × Option Nat :=
  if packetBad ws then (s, some 1)
  else if packetSplit ws then (s, some 2)
  else if kernBad s ws then (s, some 3)
  else
    match txnBad (s.chain c).pt ws s with
    | (s, true) => (s, some 4)
    | (s, false) => (s, none)

/-- The head that a fetched packet becomes (R163, R167, R177, R182). -/
def newHead (s : State) (n : Nat) (ws : List Word) : Head :=
  { words := ws, seq := n, enq := s.now, waits := (List.range 4).map (fun k => !bit (pw ws (7 + k)) 31),
    eff := none, late := pkDeadline ws, esc := none, offered := false, att := 0, dtid := none, pflags := 0,
    saved := none }

/-- A fetched packet is refused, cancelled by the teardown in force, or becomes the head (R168, R173). -/
def takePacket (c n : Nat) (ws : List Word) (s : State) : State :=
  let (s, code) := refusal c ws s
  if (s.chain c).state = .tearing then complete c n ws true (code.getD 6) true s
  else
    match code with
    | some k => complete c n ws true k true s
    | none => s.modChain c (fun ch => { ch with hds := ch.hds ++ [newHead s n ws] })

/-- PACKET_FETCH of chain `chain` (R163, R169, R172): `results` bring the outcomes of a read beyond its own HBM. -/
def execPacketFetch (s : State) : Meaning :=
  let c := s.input.chain
  let ch := s.chain c
  when (s.pkg.stage == 7 && ch.state != .idle && ch.fetched != ch.tail && ch.hds.isEmpty) (fun s =>
    let n := ch.next + 1
    let s := s.modChain c (fun ch => { ch with fetched := ch.fetched + 1, next := n })
    if ch.fetchErr then complete c n [] true 6 false s
    else if ch.spawn then
      match s.host.store.find? (fun p => p.1 == c) with
      | none => s
      | some (_, ws) =>
        let rec drop : List (Nat × List Word) → List (Nat × List Word)
          | [] => []
          | p :: rest => if p.1 = c then rest else p :: drop rest
        takePacket c n ws { s with host := { s.host with store := drop s.host.store } }
    else
      match physRead false false ch.head 128 s with
      | (s, .ok bs) =>
        let ws := wordsOf 16 bs
        takePacket c n ws (s.modChain c (fun ch => { ch with head := pkNext ws }))
      | (s, .error _) =>
        complete c n [] true 5 false
          (s.modChain c (fun ch => { ch with fetchErr := true, state := .tearing }))) s

/-! ### Waits (R167) -/

/-- The head of a chain changed. -/
def modHead (c : Nat) (f : Head → Head) (s : State) : State :=
  s.modChain c (fun ch => match ch.hds with | h :: rest => { ch with hds := f h :: rest } | [] => ch)

/-- Wait `k` of a chain's head is satisfied, by a word with its error flag set where `bad` (R167). -/
def satisfyWait (c k : Nat) (bad : Bool) (s : State) : State :=
  match (s.chain c).hds with
  | [] => s
  | h :: _ =>
    let s := modHead c (fun h => { h with waits := h.waits.set k true }) s
    if !bad then s
    else
      match pkOnerr h.words with
      | 1 => cancelSeq c 6 h.seq s
      | 2 => if h.esc.isSome then s else escalate c false s
      | _ => s

/-- WAIT_POLL: wait `n` of the head of chain `chain` is read again (R167); `results` bring the
outcomes of a read beyond its own HBM. -/
def execWaitPoll (s : State) : Meaning :=
  let c := s.input.chain
  let k := s.input.n
  let ch := s.chain c
  match ch.hds with
  | [] => .next s
  | h :: _ =>
    when (s.pkg.stage == 7 && !(h.waits.getD k true)) (fun s =>
      match physRead true true (ch.ev + 8 * bits (pw h.words (7 + k)) 23 0) 8 s with
      | (s, .error _) => satisfyWait c k true s
      | (s, .ok bs) =>
        let v := fromBytes bs
        if bit v 63 then satisfyWait c k true s
        else if (v % 2 ^ 32 + 2 ^ 32 - bits (pw h.words (7 + k)) 63 32) % 2 ^ 32 < 2 ^ 31 then satisfyWait c k false s
        else s) s

/-! ### Lateness and escalation (R182, R183) -/

/-- Whether a head is late (R182). -/
def Head.isLate (h : Head) (now : Nat) : Bool := decide (h.late ≠ 0 ∧ h.late < now)

/-- A counter of SCHCNT raised. -/
def countLate (can : Bool) (s : State) : State :=
  { s with sched := if can then { s.sched with lateCan := satInc 65535 s.sched.lateCan }
                    else { s.sched with lateRun := satInc 65535 s.sched.lateRun } }

/-- A head completes by a cancel; the frames of a saved one are dropped (R182, R190). -/
def cancelLate (c : Nat) (h : Head) (s : State) : State :=
  let s := cancelSeq c 6 h.seq (countLate true s)
  match h.saved with | some i => releaseArea i s | none => s

/-- The check of one head: LATE CANCEL and ESCALATE, and an escalation offered again (R182, R183). -/
def lateCheck (c : Nat) (s : State) : State :=
  match (s.chain c).hds with
  | [] => s
  | h :: _ =>
    match h.esc with
    | some why => if h.offered then s else escalate c why s
    | none =>
      if h.isLate s.now then
        match pkLate h.words with
        | 1 => cancelLate c h s
        | 2 => escalate c true s
        | _ => s
      else s

/-- LATE_CHECK of chain `chain` (R182, R183). -/
def execLateCheck (s : State) : Meaning := when (s.pkg.stage == 7) (lateCheck s.input.chain) s

/-- ESCALATION_RELEASE of entry `n` of chain `chain` with effective deadline `t` (R183). -/
def execEscalationRelease (s : State) : Meaning :=
  let c := s.input.chain
  match (offeredHeads (s.chain c))[s.input.n]? with
  | none => .next s
  | some g =>
    .next ((answered c s.input.n s).modChain c (fun ch => { ch with hds := updateFirst (fun h => h.seq == g.seq) (fun h =>
      { h with esc := none, offered := false, eff := some s.input.t, late := s.input.t }) ch.hds }))

/-- ESCALATION_CANCEL of entry `n` of chain `chain` (R183). -/
def execEscalationCancel (s : State) : Meaning :=
  let c := s.input.chain
  match (offeredHeads (s.chain c))[s.input.n]? with
  | none => .next s
  | some h => .next (cancelLate c h s)

/-! ### Selection (R177 to R181) -/

/-- The effective deadline of a packet (R177). -/
def effective (s : State) (ws : List Word) (enq : Nat) : Nat :=
  if pkDeadline ws ≠ 0 then pkDeadline ws else enq + sget 1000000 s.sched.clbud (pkClass ws)

/-- The effective deadline of a head: a RELEASE's where one came (R177, R183). -/
def Head.deadline (s : State) (h : Head) : Nat := h.eff.getD (effective s h.words h.enq)

/-- A list with an element put before the first that is not less. -/
def insertBy {α : Type} (key : α → Nat) (a : α) : List α → List α
  | [] => [a]
  | b :: rest => if key a ≤ key b then a :: b :: rest else b :: insertBy key a rest

/-- The saved groups in their former order, each with its first position in another slot: the next unit of its level
(R184, R189); and the positions used. -/
def newPlaces (gs : List Group) : List (Nat × Nat) × Nat :=
  (gs.foldr (insertBy (fun g => g.cores.headD 0)) []).foldl (fun acc g =>
    let n := unitCores g.level
    let at' := (acc.2 + n - 1) / n * n
    (acc.1 ++ [(g.gid, at')], at' + n)) ([], 0)

/-- Whether a saved head fits a slot (R189). -/
def savedFits (s : State) (i j : Nat) (b : BindRec) (ws : List Word) : Bool :=
  i == j || (b.save && (s.slot i).held.isNone && fits b ws &&
    decide ((newPlaces (s.slot j).groups).2 ≤ unitCores (pkLevel ws)))

/-- Whether a chain's head is a candidate for slot `i` (R167, R177, R178, R189). -/
def isCandidate (s : State) (i : Nat) (b : BindRec) (c : Nat) : Bool :=
  let ch := s.chain c
  match ch.hds with
  | [] => false
  | h :: _ =>
    h.esc.isNone && h.waits.all id && (!pkSer h.words || ch.base + 1 == h.seq) &&
      (match h.saved with
       | some j => savedFits s i j b h.words
       | none => fits b h.words)

/-- The candidates of a slot: effective deadline and chain, or 4,096 for the oldest domain share (R177, R179). -/
def slotCandidates (s : State) (i : Nat) (b : BindRec) : List (Nat × Nat) :=
  let own := (b.chains.eraseDups.filter (isCandidate s i b)).filterMap (fun c =>
    ((s.chain c).hds.head?).map (fun h => (h.deadline s, c)))
  let dom := if b.dom then
      match s.sched.shares with
      | sh :: _ => [(effective s sh.words sh.enq, 4096)]
      | [] => []
    else []
  own ++ dom

/-- The candidate that a slot takes: the least effective deadline, then the least chain (R180). -/
def pickCandidate (l : List (Nat × Nat)) : Option Nat := (leastBy (fun p => p.1 * 2 ^ 13 + p.2) l).map (fun p => p.2)

/-- The cause for which a packet's tile word is refused at its executor before any work starts (R204): with the
handle concerned. -/
def wordCause (id : Nat) (s : State) : State × Option (BitVec 8 × Nat) :=
  match s.packet? id with
  | none => (s, none)
  | some p =>
    let ws := p.head.words
    if pkType ws = 0 ∨ p.share then (s, none)
    else
      let first := match (s.slot p.slot).bind with | some b => scopeCore b | none => 0
      let blank : TileJob := default
      let j : TileJob :=
        { blank with
          unit := unitOf (pkLevel ws) first, word := BitVec.ofNat 256 (pkTile ws), core := first, packet := some id,
          txn := pkTxn ws, chain := p.chain, root := p.root, slot := p.slot, owner := id }
      match staticCheck j s with
      | (s, .error c) => (s, some (c, 0xFFFF))
      | (s, .ok j) => (s, if pkTxn ws then recordCheck s j else none)

/-- A packet whose tile word is refused ends with its record and no attempt (R204). -/
def refuseWord (id : Nat) (cause : BitVec 8) (handle : Nat) (s : State) : State :=
  match s.packet? id with
  | none => s
  | some p =>
    let ws := p.head.words
    let r : Rec :=
      { cause := cause, level := pkLevel ws, op := pkTile ws % 256, top := pkLevel ws, handle := handle, time := s.now }
    (slotRecord p.slot r s).modPacket id (fun p => { p with e := true, done := true, settled := true })

/-- The next DTID of this root: a counter value whose DTID is settled on every member (R127); `nats` lists those that
other members have still to settle. -/
def nextDtid (s : State) : Nat → Nat → Nat × Nat
  | 0, k => (s.self * 1024 + k % 1024, k)
  | fuel + 1, k =>
    let d := s.self * 1024 + k % 1024
    let used := s.arb.attempts.any (fun a => a.dtid == d) || s.input.nats.contains d ||
      s.sched.packets.any (fun p => p.dtid == some d) || s.sched.shares.any (fun h => pkTxn h.words && h.dtid == d) ||
      s.host.chains.any (fun c => c.2.hds.any (fun h => h.dtid == some d))
    if used then nextDtid s fuel (k + 1) else (d, k)

/-- A launch that its packet's latch opens (R126, R127, R179): below level 5 an attempt of this device; at level 5 a
share to every member, this one included. DESIGN CHOICE (log 110): T_d of a packet that PREEMPT returned to selection
is taken from DTIME at its new dispatch (R128). -/
def openLaunch (id : Nat) (s : State) : State :=
  match s.packet? id with
  | none => s
  | some p =>
    let ws := p.head.words
    let (d, s) : Nat × State :=
      if !pkTxn ws then (0, s)
      else
        match p.head.dtid with
        | some d => (d, s)
        | none =>
          let (d, k) := nextDtid s 1024 s.arb.counter
          (d, { s with arb := { s.arb with counter := (k + 1) % 1024 } })
    let att := p.head.att
    let td := s.now + pkTxLimit ws * 1000
    let s := if pkTxn ws then s.modPacket id (fun p => { p with dtid := some d, att := att }) else s
    if pkLevel ws = 5 then
      let sh : Share :=
        { root := s.self, chain := p.chain, words := ws, enq := p.head.enq, dtid := d, att := att, td := td,
          pflags := p.head.pflags }
      let s := { s with sched := { s.sched with shares := s.sched.shares ++ [sh] } }
      let s := (s.members.filter (fun i => i != s.self)).foldl (fun s i => s.post (.share i sh)) s
      if pkTxn ws then s else startWork id s
    else if pkTxn ws then
      openAttempt
        { dtid := d, att := att, slot := p.slot, packet := id, state := .opening, tag := 0, td := td, hw := 0,
          gflags := 0, pflags := p.head.pflags, dec := none, settled := false, kill := false } false s
    else startWork id s

/-- A packet latched in a slot (R180). -/
def latch (i : Nat) (p : Packet) (s : State) : State :=
  let s := { s with sched := { s.sched with packets := s.sched.packets ++ [p] } }
  s.modSlot i (fun x => { x with state := .busy, packet := some p.id })

/-- The packet of a chain's head (R180). -/
def packetOf (id c i : Nat) (h : Head) (s : State) : Packet :=
  { id := id, chain := c, home := s.self, slot := i, root := (s.chain c).pt, share := false, head := h, e := false,
    tile := none, dtid := none, att := h.att, killed := false, preempt := false, groups := [], done := false,
    settled := false, faults := [] }

/-- The position of a saved core in another slot (R184, R189). -/
def newPos (gs : List Group) (f : SavedCore) : Nat :=
  match f.core.place with
  | none => f.pos
  | some pl =>
    match (newPlaces gs).1.find? (fun q => q.1 == pl.gid) with
    | some q => q.2 + pl.index
    | none => f.pos

/-- A saved head takes slot `i` (R189): its frames move to that slot's save area first where they lie in another's. -/
def latchSaved (c i j : Nat) (h : Head) (s : State) : State :=
  match (s.slot j).held with
  | none => s
  | some p =>
    let p := { p with slot := i, head := { h with saved := none }, preempt := false }
    let s :=
      if i = j then s
      else
        let x := s.slot j
        let dest := match (s.slot i).bind with | some b => b.base | none => 0
        let s := x.saved.foldl (fun s f =>
          let (s, bs) := frameRead x.saveT (x.heldBase + f.pos * 2 ^ 22) 0x3E0000 s
          frameWrite x.saveT (dest + newPos x.groups f * 2 ^ 22) bs s) s
        releaseArea j (s.modSlot i (fun y => { y with
          held := some p, groups := x.groups, heldBase := dest, saveT := x.saveT,
          saved := x.saved.map (fun f => { f with pos := newPos x.groups f }) }))
    let s := s.modChain c (fun ch => { ch with hds := ch.hds.drop 1 })
    let s := { s with tiles := { s.tiles with jobs := s.tiles.jobs.map (fun (k : TileJob) =>
      if k.owner = p.id then { k with slot := i } else k) } }
    latch i p (s.modSlot i (fun y => { y with held := some p }))

/-- A chain's head takes slot `i` (R180 to R182). -/
def latchHead (c i : Nat) (s : State) : State :=
  match (s.chain c).hds with
  | [] => s
  | h :: rest =>
    let s := if h.isLate s.now then countLate false s else s
    match h.saved with
    | some j => latchSaved c i j h s
    | none =>
      let s := s.modChain c (fun ch => { ch with hds := rest })
      let (id, s) := s.fresh
      let s := latch i (packetOf id c i h s) s
      if pkType h.words = 0 then
        complete c h.seq h.words false 0 true
          (s.modPacket id (fun p => { p with done := true, settled := true }))
      else
        match wordCause id s with
        | (s, some (cause, hd)) => refuseWord id cause hd s
        | (s, none) => openLaunch id s

/-- The oldest domain share takes slot `i` (R179). DESIGN CHOICE (log 110): a share brings no sequence number, and
SLOTST.SEQ reads 0 (R192). -/
def latchShare (i : Nat) (s : State) : State :=
  match s.sched.shares with
  | [] => s
  | sh :: rest =>
    let (id, s) := s.fresh
    let h := { newHead s 0 sh.words with enq := sh.enq, att := sh.att, pflags := sh.pflags, waits := [] }
    let p := { packetOf id sh.chain i h s with
      home := sh.root, share := true, dtid := if pkTxn sh.words then some sh.dtid else none }
    let s := latch i p { s with sched := { s.sched with shares := rest } }
    -- the launch was halted before its share took a slot (R317)
    let s := if s.dbg.far.any (fun f => shareOf f.1 f.2 sh) then noteHalt i (haltSlot i true s) else s
    if pkTxn sh.words then
      -- KILL or PREEMPT reached the root's packet before its own share took a slot
      let own := s.sched.packets.filter (fun q => !q.share && sh.root == s.self && q.dtid == some sh.dtid)
      let killed := own.any (fun q => q.killed)
      let asked := own.any (fun q => q.preempt)
      let opened := openAttempt
        { dtid := sh.dtid, att := sh.att, slot := i, packet := id, state := .opening, tag := 0, td := sh.td, hw := 0,
          gflags := 0, pflags := sh.pflags, dec := none, settled := false, kill := false } true s
      if killed || asked then stopAttempt sh.dtid flPREEMPT killed opened else opened
    else startWork id s

/-- Whether group IDs are free for the groups of the candidate of a chain, or of the oldest share: a launch that finds
too few waits for one to come free (R59, R184). A saved packet's groups keep theirs (R189). -/
def candidateIds (s : State) (c : Nat) : Bool :=
  if c = 4096 then match s.sched.shares with | h :: _ => idsFor s true h.words | [] => true
  else match (s.chain c).hds with | h :: _ => h.saved.isSome || idsFor s false h.words | [] => true

/-- SLOT_SELECT of slot `slot` (R180 to R182). -/
def execSlotSelect (s : State) : Meaning :=
  let i := s.input.slot
  match (s.slot i).bind with
  | none => .next s
  | some b =>
    when (s.pkg.stage == 7 && !s.dbg.thermal && (s.slot i).state == .free) (fun s =>
      let s := b.chains.eraseDups.foldl (fun s c => lateCheck c s) s
      match pickCandidate (slotCandidates s i b) with
      | none => s
      | some c => if !(candidateIds s c) then s else if c = 4096 then latchShare i s else latchHead c i s) s

/-- DOMAIN_SHARE: share `share` arrives (R179). -/
def execDomainShare (s : State) : Meaning :=
  when (s.pkg.stage == 7) (fun s => { s with sched := { s.sched with shares := s.sched.shares ++ [s.input.share] } }) s

/-! ### Retirement and draining (R186, R199, R232, R315) -/

/-- The bits of the queues that hold entries (R306). -/
def residue (c : CoreSt) : Nat :=
  ((List.range 8).map (fun q => if (c.queue q).isEmpty then 0 else 2 ^ q)).sum

/-- Whether a stream of a retiring core has ended. -/
def StreamSt.ended (x : StreamSt) : Bool := x.run == .exited || x.run == .faulted

/-- Whether a core of a group has ended (R186, R315): both streams have exited with the M-stream idle, or it, or with it
its faulted group, has stopped. -/
def coreEnded (g : Group) (c : CoreSt) : Bool :=
  !c.m.run && (c.fault.isSome || (c.a.ended && c.x.ended) ||
    (g.faulted && c.a.run != .running && c.x.run != .running))

/-- A core as its group retires: a local transaction left open aborts, and it retires faulted with TXSTATE, or with
QRESIDUE where a queue holds entries, unless it has stopped faulted already (R84, R148, R232). -/
def retireCore (core : Nat) (s : State) : State :=
  let c := s.core core
  let s := abortLocal core s
  let fail (cause : BitVec 8) (addr : Word) (s : State) : State :=
    s.modCore core (fun c => { c with fault := some ⟨cause, 0, addr⟩ })
  if c.fault.isSome then s
  else if c.txst.kind = 2 then fail 0x0B 0 s
  else if c.a.run = .exited ∧ c.x.run = .exited ∧ residue c ≠ 0 then fail 0x0F (BitVec.ofNat 64 (residue c)) s
  else s

/-- A group retires and becomes DRAINING: its faults and flags reach its packet (R130, R131, R186, R315). -/
def retireGroup (g : Group) (s : State) : State :=
  let s := g.cores.foldl (fun s c => retireCore c s) s
  match s.packet? g.packet with
  | none => s.modGroup g.gid (fun g => { g with state := .draining })
  | some p =>
    let level := pkLevel p.head.words
    let fs := g.cores.filterMap (fun c => (s.core c).fault.map (fun f => (kernPath s level c, f)))
    let s := s.modGroup g.gid (fun g => { g with state := .draining, faulted := !fs.isEmpty })
    let s := s.modPacket p.id (fun p => { p with faults := p.faults ++ fs, e := p.e || (p.dtid.isNone && !fs.isEmpty) })
    match p.dtid with
    | none => s
    | some d =>
      let fl := (s.core (g.cores.headD 0)).txst.gflags
      let s := s.modAttempt d (fun a => { a with gflags := a.gflags ||| fl })
      if fs.isEmpty then s else raiseAttempt d flFAULT s

/-- GROUP_RETIRE of group `gid` (R186, R232, R315). -/
def execGroupRetire (s : State) : Meaning :=
  match s.group? s.input.gid with
  | none => .next s
  | some g => when (g.state == .running && g.cores.all (fun c => coreEnded g (s.core c))) (retireGroup g) s

/-- Whether a core's issued work is over: copies, remote stores, tile words (R186, R199). -/
def coreDrained (s : State) (core : Nat) : Bool :=
  let c := s.core core
  c.copyQ.isEmpty && c.copyRun.isNone &&
    (flightsOf s core).all (fun f => match f.user with | .stream .. => true | _ => false) &&
    s.tiles.jobs.all (fun j => j.core != core || j.packet.isSome || j.member || j.kernHeld)

/-- A drained group's units become idle and its ID leaves use (R59, R186). -/
def idleGroup (g : Group) (s : State) : State :=
  let s := g.cores.foldl (fun s c => s.modCore c (fun x =>
    { x with place := none, fault := none, a := x.a.halt .exited, x := x.x.halt .exited })) s
  let s := retireGid g.gid s
  let s := { s with sched := { s.sched with groups := s.sched.groups.filter (fun x => x.gid != g.gid) } }
  s.modPacket g.packet (fun p => { p with groups := p.groups.filter (fun x => x != g.gid) })

/-- GROUP_DRAINED of group `gid`: its cores release at sys, what they still hold dirty being written back, and once all is
performed its units are idle (R186, R199, R266). -/
def execGroupDrained (s : State) : Meaning :=
  match s.group? s.input.gid with
  | none => .next s
  | some g =>
    if g.state = .draining ∧ g.cores.all (coreDrained s) then
      let s := g.cores.foldl (fun s c => releaseLines c 4 s) s
      .next (if g.cores.all (fun c => coreDrained s c && released s c 4) then idleGroup g s else s)
    else .next s

/-! ### Completion (R170, R315) -/

/-- The record of a T.KERN with faulted cores (R315). -/
def kernRecord (s : State) (ws : List Word) (fs : List (Nat × CoreFault)) (count : Nat) : Option Rec :=
  (leastBy (fun f => f.1) fs).map (fun f =>
    { cause := f.2.cause, sub := f.2.sub, level := 1, count := min 65535 count, op := 0x18, top := pkLevel ws,
      path := f.1, addr := f.2.addr,
      time := s.now })

/-- Whether a packet's work on this device is over (R170): one taken from a save is not before its restore (R189). -/
def packetOver (s : State) (p : Packet) : Bool :=
  if pkTxn p.head.words ∧ p.dtid.isSome then p.settled
  else p.settled || (!(s.slot p.slot).holds p.id && drained s p &&
    s.tiles.jobs.all (fun j => !j.regroups p.id && j.packet != some p.id) && (pkKern p.head.words || p.done))

/-- Whether a packet's completion has been given to its chain already. -/
def packetGiven (s : State) (p : Packet) : Bool :=
  let ch := s.chain p.chain
  decide (p.head.seq ≤ ch.base) || ch.done.any (fun d => d.1 == p.head.seq)

/-- A share is over: it reports its least fault and count to the root, and leaves its slot (R179, R315). -/
def endShare (p : Packet) (s : State) : State :=
  let f : Option TileFault :=
    (leastBy (fun f => f.1) p.faults).map (fun f =>
      ⟨f.2.cause, f.2.sub, 1, f.1, f.2.addr, 2 ^ 64 - 1, 0xFFFF, s.now⟩)
  let s := if p.home = s.self then
      s.modPacket ((s.sched.packets.find? (fun q => !q.share && q.chain == p.chain && pkLevel q.head.words == 5 &&
          q.dtid == p.dtid)).elim 0 (fun q => q.id))
        (fun q => { q with faults := q.faults ++ p.faults, e := q.e || p.e })
    else s.post (.shareEnd p.home p.chain f p.faults.length p.e)
  dropPacket p s

/-- Whether the share that a level-5 packet sent to its own root is still to end. -/
def ownShare (s : State) (p : Packet) : Bool :=
  s.sched.packets.any (fun q => q.share && q.home == s.self && q.chain == p.chain) ||
    s.sched.shares.any (fun h => h.root == s.self && h.chain == p.chain)

/-- PACKET_COMPLETE of packet `id` (R170): for a T.KERN or a transaction at level 5 `flag` says that every member's report is in, with `wr` their
error flag and `nats` the path, cause, address, count and sub-code of their least fault; `results` are the outcomes of
writes to SPACE 1 and SPACE 3. -/
def execPacketComplete (s : State) : Meaning :=
  match s.packet? s.input.id with
  | none => .next s
  | some p =>
    let ws := p.head.words
    let x := s.input
    let shared := pkLevel ws == 5 && (p.dtid.isSome || (pkKern ws && !p.settled))
    if !packetOver s p then .next s
    else if p.share then .next (endShare p s)
    else if packetGiven s p ∨ (shared ∧ (x.flag = false ∨
        ownShare s p = true)) then .next s
    else
      let far : List (Nat × CoreFault) :=
        if shared ∧ 4 ≤ x.nats.length ∧ 0 < x.nats.getD 3 0 then
          [(x.nats.getD 0 0, ⟨BitVec.ofNat 8 (x.nats.getD 1 0), x.nats.getD 4 0, BitVec.ofNat 64 (x.nats.getD 2 0)⟩)]
        else []
      let fs := p.faults ++ far
      let s := match kernRecord s ws fs (p.faults.length + (if far.isEmpty then 0 else x.nats.getD 3 0)) with
        | some r => slotRecord p.slot r s
        | none => s
      let e := p.e || (shared && (x.wr || !far.isEmpty))
      .next (complete p.chain p.head.seq ws e 0 true (s.modPacket p.id (fun p => { p with e := e })))

end Sys2Proof.Machine
end

