-- ==== Sys2Proof/Machine/Context.lean ====
section
/-! DEFINITION. Pre-emption points, and the save and restore of a packet's contexts (R187 to R191). -/

namespace Sys2Proof.Machine

/-! ### Pre-emption points (R187) -/

/-- PREEMPTION_POINT: stream `stream` of core `core` stands blocked at a pre-emption point, a nest only where MCFG names no
level (R448); a loop head, a drained LOOPS and an M-stream boundary stop by themselves. -/
def execPreemptionPoint (s : State) : Meaning :=
  let x := s.input
  let c := s.core x.core
  if c.halted then .next s
  else
    match x.stream with
    | .m => when (c.m.preempt && c.m.run && c.m.stall && decide (6 ≤ c.m.cfg.plev)) (fun s => s.modCore x.core (fun c =>
        { c with m := { c.m with stopped := true, preempt := false, stall := false, stallCnt := 0 } })) s
    | k =>
      let t := c.stream k
      when (t.preempt && t.run == .running && (match t.stall with | some w => w.point | none => false)) (fun s =>
        s.modCore x.core (fun c => c.modStream k StreamSt.atPoint)) s

/-- When the pre-emption of a core's packet was asked for (R187). -/
def askedAt (s : State) (core : Nat) : Nat :=
  match (s.core core).place with
  | some p => (s.slot p.slot).saveT
  | none => s.now

/-- Whether a stream stands at an instruction boundary: no response to a remote part of its word or of its fetch is
outstanding (R55, R187). -/
def StreamSt.atBoundary (x : StreamSt) : Bool := x.wait.isNone && x.fetch.id.isNone

/-- PREEMPT_TIMEOUT: PRTMO has passed without a pre-emption point, and stream `stream` of core `core` stops at its next
instruction boundary (R187). -/
def execPreemptTimeout (s : State) : Meaning :=
  let x := s.input
  let c := s.core x.core
  if c.halted ∨ s.now < askedAt s x.core + s.sched.prtmo * 1000 then .next s
  else
    match x.stream with
    | .m => when (c.m.preempt && c.m.run && c.m.fetch.id.isNone) (fun s => s.modCore x.core (fun c =>
        { c with m := { c.m with stopped := true, preempt := false } })) s
    | k => when ((c.stream k).preempt && (c.stream k).run == .running && (c.stream k).atBoundary) (fun s =>
        s.modCore x.core (fun c => c.modStream k StreamSt.atPoint)) s

/-! ### Frames (R188) -/

/-- The cores of a slot's groups in ascending order. -/
def heldCores (gs : List Group) : List Nat := gs.flatMap (fun g => g.cores)

/-- The running groups of a packet. -/
def groupsOf (s : State) (id : Nat) : List Group := s.sched.groups.filter (fun g => g.packet == id)

/-- Whether a core has stopped and drained (R188): no remote access of it is outstanding. -/
def coreStopped (s : State) (core : Nat) : Bool :=
  let c := s.core core
  c.a.run != .running && c.x.run != .running && (!c.m.run || c.m.stopped) && coreDrained s core &&
    (flightsOf s core).isEmpty

/-- CONTEXT_SAVE of slot `slot` (R188): every group has stopped and drained; dirty lines are written back at device
scope, and pending vector writes are in effect. -/
def execContextSave (s : State) : Meaning :=
  let i := s.input.slot
  match (s.slot i).packet.bind s.packet? with
  | none => .next s
  | some p =>
    let gs := groupsOf s p.id
    when ((s.slot i).state == .busy && p.preempt && !p.killed && !gs.isEmpty &&
        gs.all (fun g => g.state == .running) && (heldCores gs).all (coreStopped s)) (fun s =>
      let s := (heldCores gs).foldl (fun s c => (releaseLines c 3 s).modCore c CoreSt.flush) s
      s.modSlot i (fun x => { x with state := .saving, saveT := s.now })) s

/-- The frame parts whose layout R188 gives: offset in the frame and bytes. -/
def frameParts (c : CoreSt) (recs : Sparse (BitVec 768)) : List (Nat × List Byte) :=
  [ (0x2000, (List.range 8).flatMap (fun k => toBytes 256 (sget 0 c.masks k).toNat)),
    (0x2800, (List.range 16).flatMap (fun k => toBytes 256 (c.mstack.reverse.getD k 0).toNat)),
    (0x3800, (List.range 512).flatMap (fun l => toBytes 4 (sget 0 c.lanes l).toNat)),
    (0x4000, (List.range 32768).map (fun k => BitVec.ofNat 8
      (((List.range 8).map (fun j => if sget false c.tags (8 * k + j) then 2 ^ j else 0)).sum))),
    (0xC000 + 96, (List.range 1023).flatMap (fun h => toBytes 96 (sget 0 recs (h + 1)).toNat)),
    (0x40000, (List.range (2 ^ 18)).map (fun k => sget 0 c.vec k)),
    (0x80000, (List.range (40 * 32768)).map c.tileByte),
    (0x1C0000, c.spadBytes 0 (2 ^ 21)) ]

/-- A signed value as a 64-bit word. -/
def int64 (x : Int) : Nat := (BitVec.ofInt 64 x).toNat

/-- A stream's contents of its header part (R188): registers, predicates, PC, TRAPVEC, TRAPCAUSE, TRAPADDR, TRAPPC and the
hardware-loop levels. -/
def StreamSt.frameWords (x : StreamSt) : List Nat :=
  (List.range 32).map (fun n => (sget 0 x.regs n).toNat) ++
    [x.preds.toNat, x.pc.toNat, x.trapVec.toNat, x.trapCode.toNat, x.trapSub.toNat, x.inTrap.toNat, x.trapAddr.toNat,
      x.trapPc.toNat, x.loops.length] ++
    x.loops.flatMap (fun l => [l.start.toNat, l.stop.toNat, l.idx, l.n, l.stages, l.x, l.i0, l.lim, l.refill.toNat])

/-- Contents of a set of matrix loops and of a matrix configuration (R425). -/
def loopWords (l : Sparse MLevel) : List Nat :=
  (List.range 6).flatMap (fun n =>
    let x := sget {} l n
    [x.trip, int64 x.astr, int64 x.wstr, int64 x.cstr, int64 x.dstr])
def MConfig.frameWords (c : MConfig) : List Nat :=
  [c.abase, c.wbase, c.cbase, c.dbase, c.dscale.toNat, c.dctl.toNat, c.plev]

/-- The matrix engine's contents of its header part (R188, R425). -/
def MatrixSt.frameWords (m : MatrixSt) : List Nat :=
  loopWords m.shLoops ++ m.shCfg.frameWords ++ loopWords m.loops ++ m.cfg.frameWords ++
    (List.range 6).map (fun n => sget 0 m.idx n) ++ [m.start.toNat, m.pc.toNat, m.mp.toNat] ++
    (match m.weights with
     | some w => [1, w.fmt, w.mx.toNat, w.s.toNat, w.pl, w.addr, fromBytes w.data]
     | none => [0]) ++
    [m.nan.toNat, m.syncs, m.run.toNat, m.aborted.toNat, m.fault.toNat, m.nest]

/-- Contents of the header part of the group's identity and the core's registers (R188). -/
def identityWords (c : CoreSt) : List Nat :=
  (match c.place with
   | some p => [p.grpid.toNat, p.index] ++ p.lvidx.map (fun w => w.toNat)
   | none => []) ++
    [c.txst.word.toNat, c.coreCfg.toNat, c.vsh.toNat, c.sxf.toNat, c.vpend.toNat, c.trapEn.toNat, c.frec.toNat] ++
    (List.range 8).flatMap (fun n => let t := c.tl n; [t.issued, t.passed, t.errFirst])

/-- Contents of the header part of the queues, the cancel slots, the tile bits and the mask stack's depth (R188). -/
def queueWords (c : CoreSt) : List Nat :=
  [6, 7].flatMap (fun q => (c.queue q).length :: (c.queue q).map (fun e => fromBytes e.data)) ++
    (List.range 6).flatMap (fun q => (c.queue q).length :: (c.queue q).map (fun e => e.null.toNat)) ++
    c.cancels.flatMap (fun p =>
      [p.1, match p.2 with | .pending => 0 | .cancelling => 1 | .cancelled => 2 | .done => 3]) ++
    [c.full.toNat, c.mstack.length]

/-- The frame parts whose inner layout the spec does not give, with their contents in the order in which R188 names them:
offset, bytes, contents. -/
def openParts (c : CoreSt) : List (Nat × Nat × List Nat) :=
  [ (0, 0x400, identityWords c), (0x400, 0x400, c.a.frameWords), (0x800, 0x400, c.x.frameWords),
    (0xC00, 0x400, queueWords c), (0x1000, 0x1000, c.m.frameWords),
    (0x3C0000, 0x20000, (List.range 6).flatMap (fun q => (c.queue q).map (fun e => fromBytes e.data))) ]

/-- A core's frame written at a physical address by a save that started at DTIME `start` (R188). How the contents of an
open part stand in its bytes is free. -/
def writeFrame (start base : Nat) (c : CoreSt) (recs : Sparse (BitVec 768)) (s : State) : State :=
  ((openParts c).map (fun p => (p.1, (List.range p.2.1).map (Config.frameByte p.1 p.2.2))) ++ frameParts c recs).foldl
    (fun s p => frameWrite start (base + p.1) p.2 s) s

/-- CONTEXT_SAVE_COMPLETE of slot `slot` (R188): the frames are written; the slot is FREE with its area HELD; the packet
is its chain's head again, which under KILL is over at once (R191). -/
def execContextSaveComplete (s : State) : Meaning :=
  let i := s.input.slot
  let x := s.slot i
  match x.packet.bind s.packet?, x.bind with
  | some p, some b =>
    when (x.state == .saving) (fun s =>
      let gs := groupsOf s p.id
      let cs := heldCores gs
      let recs (c : Nat) : Sparse (BitVec 768) := sget [] s.tiles.tables (1024 + c)
      let saved := cs.map (fun c => (⟨s.core c, c - scopeCore b, recs c⟩ : SavedCore))
      let s := saved.foldl (fun s f => writeFrame x.saveT (b.base + f.pos * 2 ^ 22) f.core f.recs s) s
      let s := cs.foldl (fun s c => s.modCore c (fun y =>
        { y with place := none, a := {}, x := {}, m := {}, copyQ := [], copyRun := none })) s
      let h := { p.head with saved := some i, esc := none, offered := false }
      let s := { s with sched := { s.sched with
          groups := s.sched.groups.filter (fun g => g.packet != p.id),
          packets := s.sched.packets.filter (fun q => q.id != p.id),
          preempts := satInc 65535 s.sched.preempts } }
      let s := s.modSlot i (fun y => { y with held := some p, groups := gs, saved := saved, heldBase := b.base })
      let s := freeSlot i s
      let s := if p.share then s else s.modChain p.chain (fun ch => { ch with hds := h :: ch.hds })
      if (s.chain p.chain).kill ∧ p.share = false then cancelSeq p.chain 0 h.seq (dropSaved i s) else s) s
  | _, _ => .next s

/-! ### Restore (R189) -/

/-- A sparse list from bytes in order. -/
def fromBytesAt (bs : List Byte) : Sparse Byte := ((bs.zipIdx).filter (fun p => p.1 != 0)).map (fun p => (p.2, p.1))

/-- Values of `w` bytes each from a list, by number; those that are 0 are not listed. -/
def valuesAt {n : Nat} (w count first : Nat) (bs : List Byte) : Sparse (BitVec n) :=
  ((List.range count).map (fun k => (k + first, BitVec.ofNat n (fromBytes ((bs.drop (w * k)).take w))))).filter
    (fun p => p.2 != 0)

/-- The frame parts whose layout R188 gives: offset and length. -/
def frameSpans : List (Nat × Nat) :=
  [(0x2000, 2048), (0x2800, 4096), (0x3800, 2048), (0x4000, 32768), (0xC060, 96 * 1023), (0x40000, 2 ^ 18),
   (0x80000, 40 * 32768), (0x1C0000, 2 ^ 21)]

/-- Those parts of a frame read, by offset (R189). -/
def readFrame (start base : Nat) (s : State) : State × List (Nat × List Byte) :=
  frameSpans.foldl (fun acc p =>
    let (s, bs) := frameRead start (base + p.1) p.2 acc.1
    (s, acc.2 ++ [(p.1, bs)])) (s, [])

/-- A part of a frame read. -/
def partOf (l : List (Nat × List Byte)) (o : Nat) : List Byte :=
  match l.find? (fun p => p.1 == o) with | some p => p.2 | none => []

/-- A core restored from its frame (R188, R189): the parts that the frame holds by the spec's layout come from memory,
the rest from what was saved; the latched weights are loaded again from their block (R448); the L1 and the TLB are the
core's own. -/
def restoreCore (parts : List (Nat × List Byte)) (f : SavedCore) (now : CoreSt) (pl : Placement) : CoreSt :=
  let rd (o : Nat) : List Byte := partOf parts o
  let depth := f.core.mstack.length
  let c : CoreSt := { f.core with
    masks := valuesAt 256 8 0 (rd 0x2000),
    mstack := ((List.range depth).map (fun k => BitVec.ofNat 2048 (fromBytes (((rd 0x2800).drop (256 * k)).take 256)))).reverse,
    lanes := valuesAt 4 512 0 (rd 0x3800),
    tags := (List.range (2 ^ 18)).filterMap (fun k =>
      if bit (((rd 0x4000).getD (k / 8) 0).toNat) (k % 8) then some (k, true) else none),
    vec := fromBytesAt (rd 0x40000), tile := fromBytesAt (rd 0x80000),
    spad := fromBytesAt (rd 0x1C0000), staged := 0, kept := [],
    l1 := now.l1, tlb := now.tlb, place := some pl, halted := now.halted, copyStall := false, copyCnt := 0,
    a := f.core.a.wake, x := f.core.x.wake,
    m := { f.core.m with stopped := false, stall := false, stallCnt := 0, preempt := false } }
  { c with m := { c.m with weights := c.m.weights.map (fun w => w.reload c) } }

/-- The cores that a saved group takes in a slot: from its first core's position in the frames on (R189). -/
def newCores (b : BindRec) (saved : List SavedCore) (g : Group) : List Nat :=
  let first := match saved.find? (fun f =>
      match f.core.place with | some pl => pl.gid == g.gid && pl.index == 0 | none => false) with
    | some f => f.pos
    | none => 0
  (List.range g.cores.length).map (fun i => scopeCore b + first + i)

/-- One saved group restored (R189). -/
def restoreGroup (i : Nat) (b : BindRec) (p : Packet) (saved : List SavedCore) (g : Group) (s : State) : State :=
  let cs := newCores b saved g
  let s := (g.cores.zip cs).foldl (fun s q =>
    match saved.find? (fun f => match f.core.place with | some pl => pl.gid == g.gid && pl.index == q.1 - g.cores.headD 0 | none => false) with
    | none => s
    | some f =>
      match f.core.place with
      | none => s
      | some pl =>
        let pl := { pl with
          slot := i, lvidx := (List.range 6).map (fun n => lvidxWord s.self g.level q.2 (cs.headD 0) g.cores.length n) }
        let base := (s.slot i).heldBase + f.pos * 2 ^ 22
        let (s, parts) := readFrame (s.slot i).saveT base s
        let recs : Sparse (BitVec 768) := valuesAt 96 1023 1 (partOf parts 0xC060)
        let s := { s with tiles := { s.tiles with tables := sput s.tiles.tables (1024 + q.2) recs } }
        s.setCore q.2 (restoreCore parts f { s.core q.2 with halted := (s.slot i).halted } pl)) s
  let s := { s with fab := { s.fab with gids := smod {} s.fab.gids g.gid (fun x => { x with cores := cs }) } }
  { s with sched := { s.sched with groups := s.sched.groups ++ [{ g with cores := cs, packet := p.id }] } }

/-- CONTEXT_RESTORE of slot `slot` (R189): the saved packet latched there goes on, and its area is HELD no longer. -/
def execContextRestore (s : State) : Meaning :=
  let i := s.input.slot
  let x := s.slot i
  match x.held, x.bind with
  | some p, some b =>
    when (x.state == .busy && x.packet == some p.id) (fun s =>
      let s := x.groups.foldl (fun s g => restoreGroup i b p x.saved g s) s
      releaseArea i s) s
  | _, _ => .next s

end Sys2Proof.Machine
end

