-- ==== Sys2Proof/Machine/CopyEngine.lean ====
section
/-! DEFINITION. The copy engine: a command's start, its elements, its completion, a cancel's acknowledgement (R249,
R314, R350, R385 to R387, R478). -/

namespace Sys2Proof.Machine

/-- The record of a copy command that ends with an error (R314, R478). -/
def copyRec (num : Nat) (cause : BitVec 8) (sub : Nat) (addr : Word) (elem handle : Nat) (s : State) : Rec :=
  { cause := cause, sub := sub, path := num, addr := addr, elem := elem, handle := handle, time := s.now }

/-- The fields of a copy command that its completion uses. -/
def CopyCmd.num : CopyCmd → Nat
  | .copy num .. => num
  | .lrec .. => 0

/-- The tag a copy command carries. -/
def CopyCmd.tag : CopyCmd → Nat
  | .copy (carry := k) .. => k.tag
  | .lrec .. => 0

/-- A command leaves the engine: its cancel slot takes a final status and its tl0 number passes (R267, R387). -/
def endCopy (core : Nat) (cmd : CopyCmd) (st : CancelStatus) (err : Option Rec) (s : State) : State :=
  let s := s.modCore core (fun c => { c.endCancel cmd.num st with copyRun := none, copyStall := false, copyCnt := 0 })
  completeTl core 0 cmd.num cmd.tag err s

/-- COPY_COMMAND_START: the engine takes the queue's head: an LREC takes effect; a command reads its records and
checks them (R350, R385, R386, R388, R478). -/
def execCopyCommandStart (s : State) : Meaning :=
  let core := s.input.core
  let c := s.core core
  let key := tableKey 0 core
  if c.halted || c.copyRun.isSome then .next s
  else
    match c.copyQ with
    | [] => .next s
    | .lrec _ h r :: rest => .next ((s.modCore core (fun c => { c with copyQ := rest })).setRecord key h r)
    | .copy num dst src ow consume scope can k :: rest =>
      let cmd := CopyCmd.copy num dst src ow consume scope can k
      let s := s.modCore core (fun c => { c with copyQ := rest })
      let fail (h : Nat) : Meaning :=
        .next (endCopy core cmd .done (some (copyRec num 0x23 0 0 (2 ^ 64 - 1) h s)) s)
      match loadLayout s key src 1023, loadLayout s key dst 1023 with
      | none, _ => fail src
      | some _, none => fail dst
      | some a, some b =>
        if a.count ≠ b.count ∨ a.fmt ≠ b.fmt then fail src
        else
          let r : CopyRun :=
            ⟨cmd, (recordWords s key dst).map (BitVec.ofNat 768), (recordWords s key src).map (BitVec.ofNat 768)⟩
          .next (s.modCore core (fun c => { c with copyRun := some r, copyStall := !copyReady c r, copyCnt := 0 }))

/-- One position of a copy (R385, R386): the first that faults is kept, with its record's handle; each POISON raises CORR
against the command's tag (R130). -/
def copyElem (g : Agent) (a b : Layout) (src dst : Nat) (num lin : Nat) (acc : State × Option Rec) :
    State × Option Rec :=
  let (s, err) := acc
  let keep (s : State) (e : MemErr × Word) (h : Nat) : State × Option Rec :=
    (raiseCorr g.tag e.1.cause e.1.sub s, err.orElse (fun _ => some (copyRec num e.1.cause e.1.sub e.2 lin h s)))
  match elemRead g a lin s with
  | (s, .error e) => keep s e src
  | (s, .ok v) =>
    match elemWrite g b lin v s with
    | (s, .ok ()) => (s, err)
    | (s, .error e) => keep s e dst

/-- The first positions of a running command moved, with the record of the first that faulted. -/
def copyMove (core : Nat) (r : CopyRun) (n : Nat) (s : State) : State × Option Rec :=
  match r.cmd, r.layouts with
  | .copy num dst src _ _ scope _ k, some (a, b) =>
    let g : Agent := ⟨core, (s.core core).root, k.tag, scope, true⟩
    (List.range (min n a.count)).foldl (fun acc lin => copyElem g a b src dst num lin acc) (s, none)
  | _, _ => (s, none)

/-- COPY_COMMAND_COMPLETE: every position is moved, the tile bits change, and the tl0 number passes (R267, R385,
R386). A command whose tile bits do not let it go on waits. -/
def execCopyCommandComplete (s : State) : Meaning :=
  let core := s.input.core
  let c := s.core core
  match c.copyRun with
  | none => .next s
  | some r =>
    if c.halted then .next s
    else if !copyReady c r then .next (s.modCore core (fun c => { c with copyStall := true }))
    else
      match r.layouts with
      | none => .next s
      | some (a, _) =>
        let (s, err) := copyMove core r a.count s
        let s := s.modCore core (fun c => r.tiles.foldl (fun c p => c.tileAfter p.2 p.1) c)
        .next (endCopy core r.cmd .done err s)

/-- COPY_CANCEL_ACK: a running command that was asked to stop has moved its first `n` positions; it writes no
more, and its number passes without error (R387). -/
def execCopyCancelAck (s : State) : Meaning :=
  let core := s.input.core
  let c := s.core core
  match c.copyRun with
  | none => .next s
  | some r =>
    if !c.halted && c.cancels.any (fun e => e.1 == r.cmd.num && e.2 == .cancelling) then
      let began := copyReady c r && decide (0 < s.input.n)
      let s := if began then (copyMove core r s.input.n s).1 else s
      let s :=
        if began then
          s.modCore core (fun c => r.tiles.foldl (fun c p =>
            match p.2 with | .write _ => c.setFull p.1 true | _ => c) c)
        else s
      .next (endCopy core r.cmd .cancelled none s)
    else .next s

end Sys2Proof.Machine
end

