-- ==== Sys2Proof/Machine/Fabric.lean ====
section
/-! DEFINITION. The domain fabric's events: remote requests at their home, completions at their source, packets
forwarded, the link map, domain time, and barrier arrivals and translation invalidation from outside the core
(R48, R51 to R59, R64, R268, R270, R390). -/

namespace Sys2Proof.Machine

/-! ### Requests at their home (R51 to R54, R58) -/

/-- A packet delivered at a fabric port: its latency is an event of the capture units (R39). -/
def delivered (x : Input) (src time : Nat) (s : State) : State :=
  if src = s.self then s else capture 1 x.link (s.now - time) s

/-- REMOTE_REQUEST: a request for this device arrives (R27, R30, R51, R56); one of this device itself is one that loops
back (R44). -/
def execRemoteRequest (s : State) : Meaning :=
  let q := s.input.req
  when (s.pkg.stage == 7 && decide (paDev q.pa = s.self)) (fun s =>
    if q.src = s.self then
      match s.fab.loop.find? (fun p => p.id == q.id) with
      | some p => performUntil p s
      | none => s
    else
      let s := delivered s.input q.src q.time s
      if aged s q.time then countExpired s else performRequest q s) s

/-! ### Completions at the source (R53, R55, R56) -/

/-- The flight of an identifier. -/
def State.flight? (s : State) (id : Nat) : Option Flight := s.fab.flights.find? (fun f => f.req.id == id)

/-- Whether a response to a request has been collected for its halted core (R317). -/
def collected (s : State) (id : Nat) : Bool := s.fab.late.any (fun p => p.1 == id)

/-- A flight completes, and what waited for its acknowledgement may leave (R50, R55). -/
def endFlight (id : Nat) (r : RemoteResult) (s : State) : State :=
  match s.flight? id with
  | none => s
  | some f => releaseHeld (completeFlight f r s)

/-- A response or acknowledgement arrives: one for a halted core is collected in the ports (R317), and what looped back
is what this device's own home answered (R44). -/
def arriveResult (id : Nat) (r : RemoteResult) (s : State) : State :=
  match s.flight? id with
  | none => s
  | some f =>
    let take (r : RemoteResult) (s : State) : State :=
      if (s.core f.core).halted then { s with fab := { s.fab with late := s.fab.late ++ [(id, r)] } } else endFlight id r s
    if collected s id then s
    else if paDev f.req.pa = s.self then
      match s.fab.back.find? (fun p => p.1 == id) with
      | some p => take p.2 { s with fab := { s.fab with back := s.fab.back.filter (fun q => q.1 != id) } }
      | none => s
    else take r s

/-- Whether a request passes a number or a write-back rather than a word that waits for it. -/
def Flight.acked (f : Flight) : Bool := match f.user with | .stream .. => false | _ => true

/-- REMOTE_ACK: the acknowledgement of a store or of an atomic that returns nothing (R53); one whose request has timed
out is discarded (R56). -/
def execRemoteAck (s : State) : Meaning :=
  let x := s.input
  let r : RemoteResult := match x.err with | some e => .err e | none => .data []
  when ((s.flight? x.id).any Flight.acked) (arriveResult x.id r) s

/-- REMOTE_RESPONSE: the response to a request that returns (R55); one whose request has timed out is discarded
(R56). -/
def execRemoteResponse (s : State) : Meaning :=
  when ((s.flight? s.input.id).any (fun f => !f.acked)) (arriveResult s.input.id s.input.result) s

/-- REQUEST_EXPIRY: a request whose age exceeds FABTMO completes at its source with TIMEOUT; one of another device
that waits here for its tag is discarded and counted (R56, R379). -/
def execRequestExpiry (s : State) : Meaning :=
  let x := s.input
  let old (q : RemoteReq) : Bool := q.src == x.dev && q.id == x.id && aged s q.time
  let here (s : State) : State :=
    if s.fab.tagged.any old then
      countExpired { s with fab := { s.fab with tagged := s.fab.tagged.filter (fun q => !old q) } }
    else s
  let mine (s : State) : State :=
    if x.dev = s.self ∧ collected s x.id = false ∧ (s.flight? x.id).any (fun f => aged s f.req.time) = true then
      -- a request still held at the source never leaves it
      let out (m : FabMsg) : Bool := match m with | .request q => q.id == x.id | _ => false
      endFlight x.id (.err .timeout) { s with fab := { s.fab with held := s.fab.held.filter (fun m => !out m) } }
    else s
  .next (mine (here s))

/-! ### Routers and the link map (R48, R50) -/

/-- FABRIC_FORWARD: a packet for another device goes on along the route in its header where the next link is UP, else
along the route this device picks (R48); an aged request is discarded (R56). -/
def execFabricForward (s : State) : Meaning :=
  let p := s.input.pkt
  when (s.pkg.stage == 7 && decide (p.dst ≠ s.self)) (fun s =>
    let s := delivered s.input p.src p.time s
    let waits := s.waiting (FabMsg.forwarded p).vc p.dst
    if p.cls = .request ∧ aged s p.time = true then countExpired s
    else if waits then unroutable p s
    else
      match p.route with
      | d :: _ =>
        if portUp s s.self (portTo s.self d) ∧ p.hop + p.route.length ≤ 4 then forwardOn p p.route s
        else
          match pickRoute s p.dst (4 - p.hop) with
          | some r => forwardOn p r s
          | none => unroutable p s
      | [] =>
        match pickRoute s p.dst (4 - p.hop) with
        | some r => forwardOn p r s
        | none => unroutable p s) s

/-- LINK_MAP_UPDATE: the UP ports of another member, where they have changed (R48, R50). -/
def execLinkMapUpdate (s : State) : Meaning :=
  let x := s.input
  when (s.pkg.stage == 7 && decide (x.dev ≠ s.self ∧ sget 0 s.fab.map x.dev ≠ x.v.setWidth 14)) (fun s =>
    mapChanged { s with fab := { s.fab with map := sput s.fab.map x.dev (x.v.setWidth 14) } }) s

/-! ### Domain time (R64) -/

/-- TIME_MESSAGE_SEND: the time master sends its DTIME to every other member. -/
def execTimeMessageSend (s : State) : Meaning :=
  when s.fab.master (fun s =>
    (s.members.filter (fun d => d != s.self)).foldl (fun s d => s.post (.time d s.fab.dtime)) s) s

/-- A signed difference held in 16 bits (R66). -/
def offset16 (d : Int) : Nat := (BitVec.ofInt 16 (max (-32768) (min 32767 d))).toNat

/-- A time message taken (R64): the master's time by half the round trip; the one forward step of a member that joins;
the difference to slew away; LOCK from the second exchange on. -/
def takeTime (v : Word) (rtt : Nat) (s : State) : State :=
  let est := v.toNat + rtt / 2
  let f := s.fab
  let f := if f.joined then f else { f with joined := true, dtime := BitVec.ofNat 64 (max f.dtime.toNat est) }
  let d : Int := (f.dtime.toNat : Int) - est
  refreshWindows { s with fab :=
    { f with offset := offset16 d, slew := -d, exch := satInc 2 f.exch, lock := decide (1 ≤ f.exch) } }

/-- TIME_MESSAGE: a member other than the master takes one (R64). -/
def execTimeMessage (s : State) : Meaning :=
  when (s.pkg.stage == 7 && !s.fab.master && s.isMember s.self) (takeTime s.input.v s.input.t) s

/-! ### Barriers and translations (R268, R390) -/

/-- BARRIER_ARRIVAL: an arrival from outside the cores' words at a barrier of this device's HBM; the token goes to
its source (R268). -/
def execBarrierArrival (s : State) : Meaning :=
  let x := s.input
  match if s.pkg.stage = 7 then physOf s x.off else none with
  | some (.hbm l) =>
    let (s, r) := homeResult (toBytes 4) (homeArrive { l with ver := versionedAt s l.off } remoteCtx .iatomic s)
    .next (respondTo x.dev x.id r s)
  | _ => .next s

/-- INV_VC8_MESSAGE: the named translations of the chain's address space leave every TLB of this device, which
acknowledges (R390). -/
def execInvVc8Message (s : State) : Meaning :=
  let x := s.input
  when (s.pkg.stage == 7) (fun s =>
    (dropTlbs (s.chain x.chain).pt x.v.toNat x.flag (fun _ => true) (fun _ => true) s).post (.invAck x.dev)) s

end Sys2Proof.Machine
end

