-- ==== Sys2Proof/Machine/Fp.lean ====
section
/-! DEFINITION. Scalar floating point of the X-stream (R360 to R362). -/

namespace Sys2Proof.Machine

/-- The FP32 operand in a register's low half (R360). -/
def State.fp (s : State) (n : Nat) : Nat := (s.rd n).toNat % 2 ^ 32

/-- A floating-point result with the flags it raises (R360). -/
def fpResult (d : Nat) (r : Nat × Flags) (s : State) : Meaning :=
  result d (BitVec.ofNat 64 r.1) (raiseSxf r.2 s)

/-- A comparison's result with its flags (R361). -/
def fpCompare (d : Nat) (r : Bool × Flags) (s : State) : Meaning := result d (flag r.1) (raiseSxf r.2 s)

/-- FCVTFI's value (R290, R362): bits [2:0] the mode, bit 3 the width; mode SR draws no bits. -/
def cvtFI (x cv : Nat) : Word × Flags :=
  let w := if bit cv 3 then 64 else 32
  let r := toInt (Fmt.fp32.decode x) (rmodeOf (cv % 8)) 0 w
  (BitVec.ofInt 64 (sx r.1 w), r.2)

/-- FCVTIF's value (R290, R362): bit 3 the source width, bit 4 the target. -/
def cvtIF (x : Word) (cv : Nat) : Nat × Flags :=
  let v := sx x.toNat (if bit cv 3 then 64 else 32)
  (if bit cv 4 then Fmt.bf16 else Fmt.fp32).round (rmodeOf (cv % 8)) 1 0 (Fv.ofInt v)

def execFadd (d a b : Nat) (s : State) : Meaning := fpResult d (Fmt.fp32.fadd (s.fp a) (s.fp b)) s
def execFsub (d a b : Nat) (s : State) : Meaning := fpResult d (Fmt.fp32.fsub (s.fp a) (s.fp b)) s
def execFmul (d a b : Nat) (s : State) : Meaning := fpResult d (Fmt.fp32.fmul (s.fp a) (s.fp b)) s
def execFma (d a b c : Nat) (s : State) : Meaning :=
  fpResult d (Fmt.fp32.ffma false false (s.fp a) (s.fp b) (s.fp c)) s
def execFmin (d a b : Nat) (s : State) : Meaning := fpResult d (Fmt.fp32.fmin (s.fp a) (s.fp b)) s
def execFmax (d a b : Nat) (s : State) : Meaning := fpResult d (Fmt.fp32.fmax (s.fp a) (s.fp b)) s
def execFabs (d a : Nat) (s : State) : Meaning := fpResult d (Fmt.fp32.fabs (s.fp a)) s
def execFneg (d a : Nat) (s : State) : Meaning := fpResult d (Fmt.fp32.fneg (s.fp a)) s
def execFcmpeq (d a b : Nat) (s : State) : Meaning := fpCompare d (Fmt.fp32.feq (s.fp a) (s.fp b)) s
def execFcmplt (d a b : Nat) (s : State) : Meaning := fpCompare d (Fmt.fp32.flt (s.fp a) (s.fp b)) s
def execFcmple (d a b : Nat) (s : State) : Meaning := fpCompare d (Fmt.fp32.fle (s.fp a) (s.fp b)) s
def execFcvtfi (d a cv : Nat) (s : State) : Meaning :=
  let r := cvtFI (s.fp a) cv
  result d r.1 (raiseSxf r.2 s)
def execFcvtif (d a cv : Nat) (s : State) : Meaning := fpResult d (cvtIF (s.rd a) cv) s

end Sys2Proof.Machine
end

