-- ==== Sys2Proof/Machine/Host.lean ====
section
/-! DEFINITION. The host's side of the device: the Lodge's mailbox commands, the domain configuration with its digest,
and CXL.mem accesses (R155, R156, R159 to R161, R175, R176). -/

namespace Sys2Proof.Machine

/-! ### The mailbox (R158, R159) -/

/-- A mailbox argument. -/
def mbArg (s : State) (i : Nat) : Nat := (sget 0 s.host.mbArg i).toNat

/-- Whether command `code` is the one in the mailbox. -/
def mailHas (s : State) (code : Nat) : Bool := s.pkg.stage == 7 && s.host.mbGo && s.host.mbCode == code

/-- A command's response: STATUS 0 OK, 1 ILLEGAL, 2 REFUSED, 3 BUSY (R158). -/
def answer (status value : Nat) (s : State) : State :=
  raiseInt 0 { s with host := { s.host with mbGo := false, mbRsp := BitVec.ofNat 64 (status + value * 2 ^ 8) } }

/-- PING (R159). -/
def execPing (s : State) : Meaning := when (mailHas s 1) (answer 0 s.pkg.fwSvn) s

/-- MBCMD_ILLEGAL: a CODE that R159 does not list. -/
def execMbcmdIllegal (s : State) : Meaning :=
  when (s.pkg.stage == 7 && s.host.mbGo && !decide (1 ≤ s.host.mbCode ∧ s.host.mbCode ≤ 7)) (answer 1 0) s

/-- SVNSET (R29, R159). -/
def execSvnset (s : State) : Meaning :=
  let v := mbArg s 0
  when (mailHas s 5) (fun s =>
    if s.pkg.svn < v ∧ v ≤ s.pkg.fwSvn then answer 0 0 { s with pkg := { s.pkg with svn := v } }
    else answer 2 0 s) s

/-- PREEMPT (R159, R187): a chain that does not exist is ILLEGAL (DEDUCED, log 41). -/
def execPreempt (s : State) : Meaning :=
  let c := mbArg s 0
  when (mailHas s 6) (fun s => if c < 4096 then answer 0 0 (preemptChain c s) else answer 1 0 s) s

/-- The record of a mailbox command: its words, none where the address is unaligned, names no memory, or the read fails
(R159); `results` brings what leaves the device. -/
def mailRecord (n : Nat) (s : State) : State × Option (List Word) :=
  let pa := mbArg s 0
  if pa % (8 * n) ≠ 0 ∨ 2 ^ 56 ≤ pa then (s, none)
  else
    match physRead true false pa (8 * n) s with
    | (s, .ok bs) => (s, some (wordsOf n bs))
    | (s, .error _) => (s, none)

/-! ### BIND and UNBIND (R175, R176) -/

/-- The twelve-bit chain fields of w1 and w2, and their reserved bits (R175). -/
def chainFields (w : Nat) : List Nat := [bits w 11 0, bits w 27 16, bits w 43 32, bits w 59 48]
def chainRes (w : Nat) : Nat := bits w 15 12 + bits w 31 28 + bits w 47 44 + bits w 63 60

/-- A bind record read (R175): slot and record, none where R176 finds it ILLEGAL. -/
def parseBind (ws : List Word) : Option (Nat × BindRec) :=
  let w0 := pw ws 0
  let w3 := pw ws 3
  let chs := chainFields (pw ws 1) ++ chainFields (pw ws 2)
  let n := bits w0 39 37 + 1
  let r : BindRec :=
    { level := bits w0 10 8, dom := bit w0 11, save := bit w0 12, first := bits w0 25 16, nunits := bits w0 36 26,
      chains := chs.take n, base := bits w3 55 22 * 2 ^ 22 }
  let count := if r.level = 5 then 1 else unitCount r.level
  if bits w0 15 13 ≠ 0 ∨ bits w0 63 40 ≠ 0 ∨ chainRes (pw ws 1) ≠ 0 ∨ chainRes (pw ws 2) ≠ 0 ∨ bits w3 21 0 ≠ 0 ∨
      bits w3 63 56 ≠ 0 ∨ (chs.drop n).any (fun c => c ≠ 0) ∨ r.level = 0 ∨ 5 < r.level ∨ r.nunits = 0 ∨
      count < r.first + r.nunits ∨ (r.dom ∧ r.level ≠ 4) ∨ (r.save ∧ r.base = 0) then none
  else some (bits w0 7 0, r)

/-- Whether two bind records cover a unit in common (R176). -/
def overlap (a b : BindRec) : Bool :=
  if a.level = 5 ∨ b.level = 5 then a.level == b.level
  else
    decide (a.first * unitCores a.level < (b.first + b.nunits) * unitCores b.level ∧
      b.first * unitCores b.level < (a.first + a.nunits) * unitCores a.level)

/-- BIND (R176). -/
def bindRecord (ws : List Word) (s : State) : State :=
  match parseBind ws with
  | none => answer 1 0 s
  | some (i, r) =>
    let x := s.slot i
    let clash := (List.range 256).any (fun j => j != i &&
      (match (s.slot j).bind with | some b => overlap r b | none => false))
    let busy := x.state == .busy || x.state == .saving
    let old := x.bind
    let moved := match old with
      | some b => b.level != r.level || b.first != r.first || b.nunits != r.nunits
      | none => false
    let area := !r.save || r.base != x.heldBase
    if clash then answer 2 0 s
    else if (busy && moved) || (x.held.isSome && area) then answer 3 0 s
    else
      answer 0 0 (s.modSlot i (fun x =>
        { x with bind := some r, unbind := false, state := if busy then x.state else .free }))

/-- BIND (R159, R176). -/
def execBind (s : State) : Meaning :=
  when (mailHas s 2) (fun s =>
    match mailRecord 4 s with
    | (s, some ws) => bindRecord ws s
    | (s, none) => answer 1 0 s) s

/-- UNBIND (R176). -/
def execUnbind (s : State) : Meaning :=
  let i := mbArg s 0
  let x := s.slot i
  when (mailHas s 3) (fun s =>
    if 256 ≤ i ∨ x.bind.isNone then answer 1 0 s
    else if x.held.isSome then answer 3 0 s
    else if x.state = .free then answer 0 0 (s.modSlot i (fun x => { x with bind := none, state := .unbound }))
    else answer 0 0 (s.modSlot i (fun x => { x with unbind := true }))) s

/-! ### DOMCFG (R41, R64, R134, R152, R160) -/

/-- The fields of a node from a domain record (R152). -/
def nodeOf (v : Nat) : NodeSt :=
  { en := bit v 0, root := bit v 1, expect := bits v 5 2,
    pdev := bits v 11 6, pnode := bits v 12 12, height := bits v 14 13 }

/-- Whether a domain record is well formed (R160). -/
def domainOk (ws : List Word) : Bool :=
  let w0 := pw ws 0
  let m := pw ws 1
  let x := bits w0 2 0
  let y := bits w0 5 3
  let nc := bits w0 8 6 + 1
  let nr := bits w0 11 9 + 1
  decide (bits w0 63 12 = 0 ∧ bits (pw ws 2) 63 8 = 0 ∧ bits (pw ws 3) 63 15 = 0 ∧ bits (pw ws 4) 63 15 = 0 ∧
      pw ws 5 = 0 ∧ pw ws 6 = 0 ∧ pw ws 7 = 0 ∧ x < nc ∧ y < nr) &&
    bit m (8 * y + x) && (List.range 64).all (fun i => !bit m i || decide (i / 8 < nr ∧ i % 8 < nc))

/-- The digest of this device's shape, and its members (R160). -/
def ownDigest (s : State) : BitVec 6 × Word := (BitVec.ofNat 6 (s.fab.ncm1 + 8 * s.fab.nrm1), s.fab.members)

/-- ARBDEV.VALID as the record asks for it, kept at 0 while the digest differs from the time master's (R160). -/
def settleValid (s : State) : State :=
  let ok := s.self == 0 || s.arb.digest == some (ownDigest s)
  { s with arb := { s.arb with valid := s.arb.want && ok } }

/-- A domain record taken (R160): coordinates, members and tree; DTIME on the time master (R64); links; the link map
and the digests. DESIGN CHOICE (log 86): the time master's own LOCK is 1. -/
def configure (ws : List Word) (s : State) : State :=
  let w0 := pw ws 0
  let vote := pw ws 2
  let s := { s with fab := { s.fab with
      x := bits w0 2 0, y := bits w0 5 3, ncm1 := bits w0 8 6, nrm1 := bits w0 11 9,
      members := BitVec.ofNat 64 (pw ws 1) } }
  let master := s.self == 0
  let s := { s with fab := { s.fab with
      master := master, lock := master, exch := 0, joined := master, slew := 0, offset := 0, routes := [],
      dtime := if master ∧ s.fab.dtime.toNat < s.fab.dtset.toNat then s.fab.dtset else s.fab.dtime } }
  let s := { s with arb := { s.arb with
      vdev := bits vote 5 0, vnode := bits vote 6 6, want := bit vote 7,
      nodes := [0, 1].map (fun n => (n, { nodeOf (pw ws (3 + n)) with
        aimed := (s.input.aims.filter (fun a => a.1 == n)).map (fun a => a.2) })) } }
  let s := settleValid (refreshWindows s)
  let s := ((List.range 46).map (fun i => i + 12)).foldl (fun s i =>
    s.modLink i (fun l =>
      if (linkPartner s i).isSome then { l with state := .training, attempts := 0, retrain := false }
      else { l with state := .down, retrain := false })) s
  let s := mapChanged (sendMap s)
  let d := ownDigest s
  (s.members.filter (fun i => i != s.self)).foldl (fun s i => s.post (.digest i d.1 d.2)) s

/-- Whether a domain record must wait (R160): a launch transaction unsettled, a level-5 packet running, a collective
outstanding. -/
def domainBusy (s : State) : Bool :=
  !s.arb.attempts.isEmpty || s.sched.packets.any (fun p => pkLevel p.head.words == 5) || !s.perg.colls.isEmpty

/-- DOMCFG (R159, R160). -/
def execDomcfg (s : State) : Meaning :=
  when (mailHas s 4) (fun s =>
    match mailRecord 8 s with
    | (s, none) => answer 1 0 s
    | (s, some ws) =>
      if !domainOk ws then answer 1 0 s
      else if domainBusy s then answer 3 0 s
      else answer 0 0 (configure ws s)) s

/-- DOMAIN_DIGEST: device `dev`'s digest, shape `n` and members `v`, arrives; the time master's decides (R160). -/
def execDomainDigest (s : State) : Meaning :=
  let x := s.input
  when (s.pkg.stage == 7 && x.dev == 0 && s.self != 0) (fun s =>
    settleValid { s with arb := { s.arb with digest := some (BitVec.ofNat 6 x.n, x.v) } }) s

/-! ### IRTSET (R161) -/

/-- The bytes of a named buffer (R101). -/
def NbEntry.bytes (e : NbEntry) : Nat := e.cap * (if e.type = 1 then 2 else 4)

/-- IRTSET (R161). -/
def execIrtset (s : State) : Meaning :=
  let k := mbArg s 0
  let v := mbArg s 1
  let m := s.mem
  when (mailHas s 7) (fun s =>
    if 63 ≤ k ∨ 16 ≤ v then answer 1 0 s
    else if s.perg.nbt.any (fun e => decide (e.base / 2 ^ 33 ≤ k ∧ k ≤ (e.base + e.bytes - 1) / 2 ^ 33)) then answer 2 0 s
    else if !s.sched.packets.isEmpty || (freeTags s).length != 63 then answer 3 0 s
    else
      answer 0 0 (s.withMem { m with irtCode := sset 0 m.irtCode k (bits v 2 0),
                                     irtPs7 := sset false m.irtPs7 k (bit v 3) })) s

/-! ### CXL.mem (R155) -/

/-- What a CXL.mem read of 64 bytes returns to the host (R155, R323): region 63 reads as 0. -/
def cxlRead (off : Nat) (s : State) : State × PcResult :=
  if 63 * 2 ^ 33 ≤ off then (s, .data (List.replicate 64 0))
  else
    match plainRead 512 off 64 s with
    | (s, .ok bs) => (s, .data bs)
    | (s, .error _) => (s, .poison)

/-- CXL_MEM_ACCESS: the cell of 64 bytes at HBM offset `off` itself, written with `wr`, else read for the host; writes to
region 63 are ignored (R155). -/
def execCxlMemAccess (s : State) : Meaning :=
  let x := s.input
  when (s.pkg.stage == 7) (fun s =>
    if x.wr then (if x.off < 63 * 2 ^ 33 then plainWrite 512 x.off x.data s else s)
    else
      let (s, r) := cxlRead x.off s
      { s with host := { s.host with cxl := some r } }) s

end Sys2Proof.Machine
end

