-- ==== Sys2Proof/Machine/Stacks.lean ====
section
/-! DEFINITION. The stacks' events: pseudo-channels and their requests, refresh and self-refresh, ECC errors, the
normaliser, maintenance commands, and lines written back (R72 to R78, R84, R91 to R95, R117, R258, R323). -/

namespace Sys2Proof.Machine

/-! ### Pseudo-channels (R73 to R76) -/

/-- The requests of an event that belong to a pseudo-channel arrive at it. -/
def arrivePc (pc : Nat) (l : List PcReq) (s : State) : State :=
  (l.filter (fun q => (s.mem.cell q.off).1 * 64 + (s.mem.cell q.off).2.1 == pc)).foldl (fun s q =>
    s.modPc pc (fun p => p.arrive s.now q)) s

/-- PC_SELECT: requests arrive, and the pseudo-channel picks one; in self-refresh it waits for the exit (R76, R78). -/
def execPcSelect (s : State) : Meaning :=
  let x := s.input
  let s := arrivePc x.pc x.arr s
  .next (if (s.pcSt x.pc).selfRef then s else serve x.pc (fun i => x.nats.contains i) x.flag s)

/-! ### Refresh (R77, R78) -/

/-- Whether a DEADLINE request waits at a pseudo-channel. -/
def PcSt.deadline (p : PcSt) : Bool := p.queue.any (fun w => w.td.isSome)

/-- REFRESH_DUE: the refresh is postponed while DEADLINE requests wait and the limit allows, where the controller does
so (`flag`), else performed with those postponed (R77). -/
def execRefreshDue (s : State) : Meaning :=
  let x := s.input
  let p := s.pcSt x.pc
  let limit := min 8 (sget {} s.mem.bdies (x.pc / 64)).rfpost
  when (!p.selfRef) (fun s => s.modPc x.pc (fun p =>
    if x.flag && p.deadline && decide (p.postponed < limit) then { p with due := p.due + 1, postponed := p.postponed + 1 }
    else { p with due := p.due + 1, refreshes := p.refreshes + p.postponed + 1, postponed := 0 })) s

/-- SELF_REFRESH_ENTRY: entered once the idle time has passed with no request waiting; requests that arrive in its
cycle cancel it (R78). -/
def execSelfRefreshEntry (s : State) : Meaning :=
  let x := s.input
  let s := arrivePc x.pc x.arr s
  let p := s.pcSt x.pc
  let st := sget {} s.mem.bdies (x.pc / 64)
  if p.queue.isEmpty then
    when (st.srcEn && decide (p.idleFrom + 1000 * max 1 st.srcIdle ≤ s.now))
      (fun s => s.modPc x.pc (fun p => { p with selfRef := true })) s
  else .next (serve x.pc (fun i => x.nats.contains i) x.flag s)

/-- SELF_REFRESH_EXIT: the exit that a request's arrival starts completes, and the request is served (R78). -/
def execSelfRefreshExit (s : State) : Meaning :=
  let x := s.input
  let s := arrivePc x.pc x.arr s
  let p := s.pcSt x.pc
  when (p.selfRef && !p.queue.isEmpty) (fun s =>
    serve x.pc (fun i => x.nats.contains i) x.flag (s.modPc x.pc (fun p => { p with selfRef := false }))) s

/-- HBM_STACK_TEMPERATURE: above 95 °C the stack refreshes at the double rate (R40; R77 says at 95 °C too, log 90). -/
def execHbmStackTemperature (s : State) : Meaning :=
  .next (s.withMem (s.mem.modStack s.input.stack (fun x => { x with hot := decide (9500 < s.input.t) })))

/-! ### ECC errors (R91, R323) -/

/-- A clean line leaves the cache that holds it; the next access fetches it again (R323). -/
def dropClean (c : CacheKind) (key : Nat) (s : State) : State :=
  let f (m : Sparse Line) : Sparse Line := m.filter (fun p => !(p.1 == key && p.2.dirty == 0))
  match c with
  | .l1 core => modL1 core f s
  | .l2 quad => modL2 (4 * quad) f s
  | .msc _ => s

/-- The cached line of a key. -/
def lineAt (s : State) (c : CacheKind) (key : Nat) : Line :=
  match c with
  | .l1 core => sget Line.empty (s.core core).l1 key
  | .l2 quad => sget Line.empty (l2Of s (4 * quad)) key
  | .msc _ => Line.empty

/-- A byte that a line holds no longer. -/
def Line.drop (l : Line) (i : Nat) : Line :=
  let k := ~~~(BitVec.ofNat 128 (2 ^ i))
  if l.valid &&& k = 0 then Line.empty else { l with valid := l.valid &&& k, dirty := l.dirty &&& k }

/-- A dirty line whose granules fail: the others are written back with their data, and those that fail with poisoned ECC,
which a remote-cacheable line's home receives by a request; no older copy is left in an L2 (R323). -/
def poisonLine (c : CacheKind) (pa : Nat) (granules : List Nat) (s : State) : State :=
  let key := pa / 128
  let keep (r : Nat × List Byte) : Bool := !granules.contains (r.1 / 32)
  let s :=
    match c with
    | .l1 core =>
      let l := lineAt s c key
      let s := if (l.runs.filter keep).isEmpty then s else roomL2 core key s
      modL1 core (fun m => m.filter (fun p => p.1 != key))
        (modL2 core (fun m => (l.runs.filter keep).foldl (fun m r =>
          putLines (Line.store l.scope) m (key * 128 + r.1) r.2) m)
          (modL2 core (fun m => smod Line.empty m key (fun l => (granules.flatMap (fun g => (List.range 32).map (fun i => 32 * g + i))).foldl Line.drop l)) s))
    | .l2 quad =>
      let l := lineAt s c key
      modL2 (4 * quad) (fun m => m.filter (fun p => p.1 != key))
        ((l.runs.filter keep).foldl (fun s r => writeHome (4 * quad) (key * 128 + r.1) r.2 s) s)
    | .msc _ => s
  let core := match c with | .l1 core => core | .l2 quad => 4 * quad | .msc _ => 0
  granules.foldl (fun s g =>
    let a := key * 128 + 32 * g
    if 4 ≤ g then s
    else if localPa pa then s.withMem (s.mem.setPoison a true)
    else
      let (id, s) := s.fresh
      sendRequest core (.ack core) 0 ⟨s.self, id, .poison, a, 32, [], false, s.now⟩ s) s

/-- The block and the slot of a versioned page in which an HBM offset lies (R79). -/
def versionedCell (pages : List (Nat × Nat)) (off : Nat) : Option (Nat × Nat) :=
  match pageWith pages off with
  | some _ => some (off, 0)
  | none => (pages.find? (fun p => decide (p.1 + p.2 ≤ off ∧ off < p.1 + 2 * p.2))).map (fun p => (off - p.2, 1))

/-- An uncorrectable error at a cell of a block's slot that is not committed: the granule is poisoned, and CORR raised for
the tag that is writing it (R91). -/
def tentativePoison (block cell : Nat) (s : State) : State :=
  let md := s.mem.metaAt block
  if md.tag ≠ 0 ∧ s.mem.status (s.mem.stackOf block) md.tag = .active then
    raiseTag md.tag flCORR (s.withMem (s.mem.setPoison cell true))
  else s

/-- The effect of an uncorrectable error where it is found (R323). -/
def eccEffect (c : CacheKind) (site : EccSite) (s : State) : State :=
  match site with
  | .cleanLine pa => dropClean c (pa / 128) s
  | .dirtyLine pa gs => poisonLine c pa gs s
  | .committedSlot off =>
    if (versionedAt s off).isSome then poisonBlock off s else s
  | .tentativeSlot off =>
    match versionedAt s off with
    | none => s
    | some (_, p) => tentativePoison off (slotOff off p (s.mem.metaAt off).cur) s
  | .metadata off => metaError off s
  | .scratchpad core off => s.modCore core (fun c => { c with spadPois := sset false c.spadPois (off / 8) true })
  | .vector core off => s.modCore core (fun c => { c with vecPois := sset false c.vecPois (off / 8) true })
  | .tile core off => s.modCore core (fun c => { c with tilePois := sset false c.tilePois (off / 8) true })
  | .queue core q idx => s.modCore core (fun c =>
      { c with
        queues := c.queues.map (fun p =>
          if p.1 = q then (p.1, p.2.zipIdx.map (fun e => if e.2 = idx then { e.1 with poison := true } else e.1)) else p) })
  | .hbm off =>
    match versionedCell (versionedPages s) off with
    | none => s.withMem (s.mem.setPoison off true)
    | some (a, slot) =>
      if slot = committedSlot s.mem (s.mem.stackOf a) (s.mem.metaAt a) then poisonBlock a s
      else tentativePoison a off s

/-- ECC_ERROR: a corrected error is counted and nothing else; an uncorrectable one is counted and acts where it is
found (R323). -/
def execEccError (s : State) : Meaning :=
  let x := s.input
  if x.flag then .next { s with dbg := { s.dbg with ce := satInc (2 ^ 32 - 1) s.dbg.ce } }
  else .next (eccEffect x.cache x.site { s with dbg := { s.dbg with ue := satInc (2 ^ 32 - 1) s.dbg.ue } })

/-! ### Lines written back (R258) -/

/-- LINE_WRITE_BACK: a line of an L1 or L2 goes to the next level, and leaves where it is evicted; the MSC stands at
the home already (R72, R258). -/
def execLineWriteBack (s : State) : Meaning :=
  let x := s.input
  let drop (s : State) : State := if x.flag then dropClean x.cache x.n s else s
  when (decide (lineAt s x.cache x.n ≠ Line.empty)) (fun s =>
    match x.cache with
    | .l1 core => drop (backL1 core x.n s)
    | .l2 quad => drop (backL2 (4 * quad) x.n s)
    | .msc _ => s) s

/-! ### The normaliser (R84, R92, R117) -/

/-- NORMALISER_SWEEP_START: a die that is not sweeping starts a sweep while a tag is settled (R92). -/
def execNormaliserSweepStart (s : State) : Meaning :=
  let d := s.input.stack
  when (!(sget {} s.mem.bdies d).busy && anySettled s) (fun s =>
    s.withMem (s.mem.modStack d (fun x => { x with busy := true, started := (x.started + 1) % 2 ^ 32 }))) s

/-- The metadata words of a stack that hold something, by key (R81). -/
def metaKeys (m : MemSt) (st : Nat) : List Nat :=
  (m.hbm.filter (fun p => decide (p.1 / 2 ^ 36 = st ∧ p.1 / 2 ^ 24 % 64 = 63))).foldl (fun l p =>
    if l.getLast? = some (p.1 / 4 * 4) then l else l ++ [p.1 / 4 * 4]) []

/-- An NBT entry normalised by the state of its tag (R117). -/
def NbEntry.normal (e : NbEntry) (status : Nat → TagState) : NbEntry :=
  if e.tag ≠ 0 ∧ status e.tag ≠ .active then
    { e with seqc := if status e.tag = .committed then e.seqt else e.seqc, tag := 0 }
  else e

/-- NORMALISER_SWEEP_COMPLETE: every metadata word of the stack and every NBT entry is normalised, and the tags whose
sweeps have completed become FREE (R84, R92, R94, R117). -/
def execNormaliserSweepComplete (s : State) : Meaning :=
  let x := s.input
  when (sget {} s.mem.bdies x.stack).busy (fun s =>
    let s := (metaKeys s.mem x.stack).foldl (fun s k =>
      (throughPc ⟨0, .normaliser, metaOff k, .normalise, none, 512, 0, 0⟩ s).1) s
    let s := s.withMem
      (s.mem.modStack x.stack (fun b => { b with busy := false, lastMs := min (2 ^ 15 - 1) (x.t / 1000) }))
    let s := { s with perg := { s.perg with nbt := s.perg.nbt.map (fun e => e.normal (s.mem.status x.stack)) } }
    freeSettled (capture 7 x.stack x.t s)) s

/-! ### Maintenance commands (R95) -/

/-- The block of a maintenance command. -/
def vmBlock (m : MemSt) (i : Nat) : Nat := m.vm.addr / 256 * 256 + 256 * i

/-- The command's end on the stacks, with its RESULT. -/
def vmEnd (result : Nat) (s : State) : State :=
  s.withMem { s.mem with vm := { s.mem.vm with ran := true, result := result } }

/-- Whether a block lies in a versioned page, slot 0 of it (R95). -/
def vmInside (pages : List (Nat × Nat)) (a : Nat) : Bool := decide (a < 2 ^ 39) && (pageWith pages a).isSome

/-- Whether a block has an ACTIVE tag. -/
def vmActive (m : MemSt) (a : Nat) : Bool :=
  let md := m.metaAt a
  decide (md.tag ≠ 0) && decide (m.status (m.stackOf a) md.tag = .active)

/-- A maintenance command that waits runs over its blocks (R95): range, then the ACTIVE tags of OP 2 to 4, whose blocks
are normalised first. -/
def vmRun (op : Nat) (f : MemSt → Meta → Meta) (s : State) : Meaning :=
  let v := s.mem.vm
  when (v.go && !v.ran && decide (v.op = op)) (fun s =>
    let blocks := (List.range v.count).map (vmBlock s.mem)
    let s := blocks.foldl (fun s a => settleBlock a s) s
    if !blocks.all (vmInside (versionedPages s)) then vmEnd 3 s
    else
      let s := if op = 1 then s else blocks.foldl (fun s a => (checkMeta a s).1) s
      if decide (op ≠ 1) && blocks.any (vmActive s.mem) then vmEnd 1 s
      else
        vmEnd 0 (blocks.foldl (fun s a =>
          let md := s.mem.metaAt a
          let md := if op = 1 then md else normalise s.mem (s.mem.stackOf a) md
          s.withMem (s.mem.putMeta a (f s.mem md))) s)) s

/-- INIT (R95). -/
def execInit (s : State) : Meaning := vmRun 1 (fun m _ => ⟨0, 0, 0, m.vm.acc, false, 0⟩) s

/-- SETACC (R95). -/
def execSetacc (s : State) : Meaning := vmRun 2 (fun _ md => { md with acc := true }) s

/-- CLRACC (R95). -/
def execClracc (s : State) : Meaning := vmRun 3 (fun _ md => { md with acc := false }) s

/-- CLRPOISON (R95). -/
def execClrpoison (s : State) : Meaning := vmRun 4 (fun _ md => { md with poison := false }) s

/-- VMCMD_ILLEGAL: OP 5 to 15 (R95). DESIGN CHOICE (log 110): with COUNT 0 too, where R97 has a command of COUNT 0 give
OK. -/
def execVmcmdIllegal (s : State) : Meaning :=
  let v := s.mem.vm
  when (v.go && !v.ran && decide (5 ≤ v.op)) (vmEnd 2) s

/-- VMCMD_COMPLETE: the command has finished on all eight stacks; OP 0 does nothing and gives OK (R95, R97).
DESIGN CHOICE (log 110): the range check of R95 does not apply to OP 0. -/
def execVmcmdComplete (s : State) : Meaning :=
  let v := s.mem.vm
  when (v.go && (v.ran || decide (v.op = 0))) (fun s =>
    let s := if v.op = 0 then vmEnd 0 s else s
    s.withMem { s.mem with vm := { s.mem.vm with go := false, ran := false } }) s

end Sys2Proof.Machine
end

