-- ==== Sys2Proof/Machine/Pergola.lean ====
section
/-! DEFINITION. The Pergola's events: named buffers, the issue of collectives, chunks and marks at the endpoints, and the
ends of collectives (chapter 04). -/

namespace Sys2Proof.Machine

/-! ### Named buffers (R101, R102) -/

/-- The NBCMD command's end (R125). -/
def nbEnd (result : Nat) (s : State) : State := { s with perg := { s.perg with go := false, result := result } }

/-- The bytes of the record at NBREC: none where it cannot be read; only SPACE 0 and SPACE 3 hold records (R125). -/
def recordAt (s : State) : State × Option (List Byte) :=
  match physOf s s.perg.recAddr with
  | some (.hbm l) =>
    match plainRead 512 l.off 64 s with
    | (s, .ok bs) => (s, some bs)
    | (s, .error _) => (s, none)
  | some (.host a) => (s, some (hostBytes s a 64))
  | _ => (s, none)

/-- The entry that a registration record gives: none where a field lies outside its range (R101, R102). -/
def parseRecord (s : State) (v : Nat) : Option NbEntry :=
  let e : NbEntry := ⟨bits v 15 0, bits v 17 16, bits v 63 32, bits v 102 64, bits v 155 128, bits v 194 192,
    bits v 197 195, bits v 287 256, bits v 287 256, 0⟩
  if bits v 31 18 = 0 ∧ bits v 127 103 = 0 ∧ bits v 191 156 = 0 ∧ bits v 255 198 = 0 ∧ bits v 511 288 = 0 ∧ e.type ≠ 3 ∧
      1 ≤ e.tmo ∧ e.tmo ≤ 1000000 ∧ 1 ≤ e.cap ∧ e.xo ≤ s.fab.ncm1 ∧ e.yo ≤ s.fab.nrm1 ∧ e.base % 256 = 0 then some e
  else none

/-- The record that an entry gives back, with the sequence it offers and its tag (R102, R117). -/
def NbEntry.recordOf (e : NbEntry) (seq : Nat) : Nat :=
  e.name + e.type * 2 ^ 16 + e.tmo * 2 ^ 32 + e.base * 2 ^ 64 + e.cap * 2 ^ 128 + e.xo * 2 ^ 192 + e.yo * 2 ^ 195 +
    seq * 2 ^ 256 + e.tag * 2 ^ 288

/-- Whether a buffer lies wholly inside one code 7 region (R102). -/
def inStripe (s : State) (e : NbEntry) : Bool :=
  let k := e.base / 2 ^ 33
  decide (k = (e.base + e.bytes - 1) / 2 ^ 33 ∧ k < 63 ∧ sget 0 s.mem.irtCode k = 7)

/-- REGISTER (R102): the checks in order, then the entry. DESIGN CHOICE (log 110): a record that reads as POISON gives
ILLEGAL. -/
def execRegister (s : State) : Meaning :=
  when (s.perg.go && decide (s.perg.op = 1)) (fun s =>
    let (s, bs) := recordAt s
    match bs.bind (fun bs => parseRecord s (fromBytes bs)) with
    | none => nbEnd 1 s
    | some e =>
      if (s.nbEntry e.name).isSome then nbEnd 2 s
      else if !inStripe s e then nbEnd 3 s
      else if 256 ≤ s.perg.nbt.length then nbEnd 4 s
      else nbEnd 0 { s with perg := { s.perg with nbt := s.perg.nbt ++ [e] } }) s

/-- The state of a tag as the Pavilion holds it. -/
def tagState (s : State) (t : Nat) : TagState := sget .free s.mem.master t

/-- Whether a collective on a name is outstanding: issued, held, or accepted as a tile word. -/
def outstanding (s : State) (name : Nat) : Bool :=
  s.perg.colls.any (fun c => c.name == name) ||
    s.tiles.jobs.any (fun j => decide (0x10 ≤ j.op ∧ j.op ≤ 0x13) && j.accepted && !j.executed &&
      decide (tmP0 j.tw % 2 ^ 16 = name))

/-- DEREGISTER (R102). -/
def execDeregister (s : State) : Meaning :=
  when (s.perg.go && decide (s.perg.op = 2)) (fun s =>
    match s.nbEntry s.perg.name with
    | none => nbEnd 6 s
    | some e =>
      if outstanding s e.name || (decide (e.tag ≠ 0) && decide (tagState s e.tag = .active)) then nbEnd 5 s
      else nbEnd 0 { s with perg := { s.perg with nbt := s.perg.nbt.filter (fun x => x.name != e.name) } }) s

/-- seq_read of R117. -/
def NbEntry.seqRead (e : NbEntry) (s : State) : Nat :=
  if e.tag ≠ 0 ∧ tagState s e.tag = .committed then e.seqt else e.seqc

/-- QUERY (R102): the entry written back to NBREC. -/
def execQuery (s : State) : Meaning :=
  when (s.perg.go && decide (s.perg.op = 3)) (fun s =>
    match s.nbEntry s.perg.name with
    | none => nbEnd 6 s
    | some e =>
      let bs := toBytes 64 (e.recordOf (e.seqRead s))
      match physOf s s.perg.recAddr with
      | some (.hbm l) => nbEnd 0 (plainWrite 512 l.off bs s)
      | some (.host a) => nbEnd 0 (hostWrite a bs s)
      | _ => nbEnd 1 s) s

/-! ### Geometry (R98, R105, R106, R110) -/

/-- An endpoint's view of a collective on its plane: the ring lengths, its places from the origin and from ROOT, the
stripe's elements. -/
structure Endpoint where
  plane : Nat
  c     : CollSt
  e     : NbEntry
  nc    : Nat
  nr    : Nat
  kx    : Nat
  ky    : Nat
  dx    : Nat
  dy    : Nat
  elems : List Nat
  deriving DecidableEq, Repr

/-- The bytes of an element (R101). -/
def NbEntry.width (e : NbEntry) : Nat := if e.type = 1 then 2 else 4

/-- The endpoint of a plane for a collective on a registered name. -/
def endpoint (s : State) (plane : Nat) (c : CollSt) (e : NbEntry) : Endpoint :=
  let nc := s.fab.ncm1 + 1
  let nr := s.fab.nrm1 + 1
  { plane := plane, c := c, e := e, nc := nc, nr := nr,
    kx := (s.fab.x + nc - e.xo) % nc, ky := (s.fab.y + nr - e.yo) % nr,
    dx := (s.fab.x + nc - devX c.root) % nc, dy := (s.fab.y + nr - devY c.root) % nr,
    elems := (List.range c.count).filter (fun i => s.mem.stackOf (e.base + i * e.width) == plane) }

/-- The positions of a stripe. -/
def Endpoint.m (p : Endpoint) : Nat := p.elems.length

/-- Part `k` of `n` of a range (R106). -/
def splitPart (lo hi n k : Nat) : Nat × Nat := (lo + k * (hi - lo) / n, lo + (k + 1) * (hi - lo) / n)

/-- A row part, and a column part of this device's row part. -/
def Endpoint.rowPart (p : Endpoint) (q : Nat) : Nat × Nat := splitPart 0 p.m p.nc q
def Endpoint.colPart (p : Endpoint) (r : Nat) : Nat × Nat :=
  let (lo, hi) := p.rowPart p.kx
  splitPart lo hi p.nr r

/-- The phases of a kind whose ring has other members (R110): 0 row reduce, 1 column reduce, 2 column gather, 3 row
gather, 4 spread. -/
def Endpoint.phases (p : Endpoint) : List Nat :=
  let all := match p.c.kind with | 0 => [0, 1, 2, 3] | 1 => [0, 1] | 2 => [2, 3] | _ => [4]
  all.filter (fun f => match f with
    | 0 | 3 => decide (1 < p.nc)
    | 1 | 2 => decide (1 < p.nr)
    | _ => decide (1 < p.nc ∨ 1 < p.nr))

/-- Whether a phase moves partials. -/
def reduces (phase : Nat) : Bool := decide (phase ≤ 1)

/-- The values a chunk of a phase holds at most (R113). -/
def Endpoint.capacity (p : Endpoint) (phase : Nat) : Nat :=
  if p.e.type = 1 ∧ ¬ (reduces phase = true ∧ p.c.op = 0) then 2048 else 1024

/-- A range cut into chunks. -/
def chunked (cap lo hi : Nat) : List (Nat × Nat) :=
  (List.range ((hi - lo + cap - 1) / cap)).map (fun i => (lo + i * cap, min hi (lo + (i + 1) * cap)))

/-- The loads that an endpoint receives in a phase, step by step (R109, R110): the range, and whether it is the last
step's. -/
def Endpoint.loads (p : Endpoint) (phase : Nat) : List ((Nat × Nat) × Bool) :=
  let steps (n : Nat) (f : Nat → Nat × Nat) : List ((Nat × Nat) × Bool) :=
    (List.range (n - 1)).map (fun i => (f (i + 1), i + 2 == n))
  match phase with
  | 0 => steps p.nc (fun t => p.rowPart ((p.kx + 2 * p.nc - 1 - t) % p.nc))
  | 1 => steps p.nr (fun t => p.colPart ((p.ky + 2 * p.nr - 1 - t) % p.nr))
  | 2 => steps p.nr (fun t => p.colPart ((p.ky + p.nr - t) % p.nr))
  | 3 => steps p.nc (fun t => p.rowPart ((p.kx + p.nc - t) % p.nc))
  | _ => if p.dx = 0 ∧ p.dy = 0 then [] else [((0, p.m), true)]

/-- The chunks that an endpoint receives in a phase, in order. -/
def Endpoint.chunks (p : Endpoint) (phase : Nat) : List ((Nat × Nat) × Bool) :=
  (p.loads phase).flatMap (fun l => (chunked (p.capacity phase) l.1.1 l.1.2).map (fun c => (c, l.2)))

/-- The positions an endpoint's buffer takes (R110). -/
def Endpoint.takes (p : Endpoint) : List Nat :=
  let (lo, hi) := p.colPart p.ky
  (List.range p.m).filter (fun i =>
    let mine := decide (lo ≤ i ∧ i < hi)
    match p.c.kind with
    | 0 => true
    | 1 => mine
    | 2 => !mine
    | _ => decide (p.dx ≠ 0 ∨ p.dy ≠ 0))

/-! ### Values (R108, R111, R116) -/

/-- combine of R108; a BF16 partial stands as FP32. -/
def pergCombine (type op a b : Nat) : Nat :=
  if type = 2 then
    match op with
    | 0 => (a + b) % 2 ^ 32
    | 1 => if sx a 32 < sx b 32 then b else a
    | 2 => if sx b 32 < sx a 32 then b else a
    | 4 => a &&& b
    | _ => a ||| b
  else
    match op with
    | 0 => (Fmt.fp32.fadd a b).1
    | 1 => (Fmt.fp32.fmax a b).1
    | 2 => (Fmt.fp32.fmin a b).1
    | _ => (Fmt.fp32.famax a b).1

/-- A contribution as it enters the first combine (R108): a NaN as the canonical one, since no result of a base die carries
a payload (R281). -/
def contribution (type op v : Nat) : Nat :=
  let v := if type = 1 then v * 2 ^ 16 else v
  if type = 2 then v
  else if (Fmt.fp32.decode v).isNan then 0x7FC00000
  else if op = 3 then v % 2 ^ 31
  else v

/-- finish of R108. -/
def finishVal (type op v : Nat) : Nat :=
  if type = 1 then (if op = 0 then (Fmt.bf16.rne (Fmt.fp32.decode v)).1 else v / 2 ^ 16) else v

/-- A partial as a chunk carries it (R113). -/
def toWire (type op v : Nat) : Nat := if type = 1 ∧ op ≠ 0 then v / 2 ^ 16 else v
def fromWire (type op v : Nat) : Nat := if type = 1 ∧ op ≠ 0 then v * 2 ^ 16 % 2 ^ 32 else v

/-- Canonical NaN as an element (R116). -/
def nanElem (type : Nat) : Nat := if type = 1 then 0x7FC0 else 0x7FC00000

/-- The place of a plane status in R123's order. -/
def PlaneStatus.rank : PlaneStatus → Nat
  | .mismatch => 0 | .owner => 1 | .poison => 2 | .link => 3 | .timeout => 4 | .cancel => 5 | .ok => 6

/-- The status that wins of two (R123). -/
def PlaneStatus.worse (a b : PlaneStatus) : PlaneStatus := if a.rank ≤ b.rank then a else b

/-- The status that a refused Pergola write gives its plane (R88, R123). -/
def writeStatus : MemErr → PlaneStatus
  | .poison => .poison
  | .closed => .cancel
  | _ => .owner

/-- The offset of the element at a position. -/
def Endpoint.off (p : Endpoint) (pos : Nat) : Nat := p.e.base + (p.elems.getD pos 0) * p.e.width

/-- The identity a collective's accesses carry (R80, R111). -/
def Endpoint.ctx (p : Endpoint) : Ctx := ⟨p.c.core, p.c.tag⟩

/-! ### Slots (R113, R115) -/

def State.slotP (s : State) (plane idx : Nat) : Option SlotP := sget none (s.plane plane).slots idx
def State.modSlotP (s : State) (plane idx : Nat) (f : SlotP → SlotP) : State :=
  s.modPlane plane (fun p => { p with slots := smod none p.slots idx (fun o => o.map f) })

/-- The order in which a key's slots are probed (R115). -/
def probes (name seq : Nat) : List Nat :=
  let h := (name ^^^ name / 2 ^ 8 ^^^ seq ^^^ seq / 2 ^ 8) % 256
  (List.range 256).map (fun i => (h + i) % 256)

/-- The slot that holds a key. -/
def slotOf (p : PlaneSt) (name seq att : Nat) : Option Nat :=
  (probes name seq).find? (fun i => match sget none p.slots i with
    | some x => x.name == name && x.seq == seq && x.att == att
    | none => false)

/-- The slot that a new key takes. -/
def slotFor (p : PlaneSt) (name seq : Nat) : Option Nat :=
  (probes name seq).find? (fun i => (sget none p.slots i).isNone)

/-- A slot taken: the greatest use is kept (R125). -/
def takeSlot (plane idx : Nat) (x : SlotP) (s : State) : State :=
  s.modPlane plane (fun p =>
    let p := { p with slots := sput p.slots idx (some x) }
    { p with peak := max p.peak (p.slots.filter (fun e => e.2.isSome)).length })

/-- A slot that no chunk has reached. -/
def freshSlot (name seq att : Nat) (sig : Word) (now : Nat) (issued : Option Nat) : SlotP :=
  ⟨name, seq, att, sig, false, now, issued, [], 0, 0, [], [], .ok⟩

def freeSlotP (plane idx : Nat) (s : State) : State :=
  s.modPlane plane (fun p => { p with slots := sset none p.slots idx none })

/-- Chunks and marks discarded (R115, R125). -/
def staleChunks (plane n : Nat) (s : State) : State :=
  s.modPlane plane (fun p => { p with stale := satAdd 65535 p.stale n })

/-- The signature of a collective (R113). DESIGN CHOICE (log 86): R113's fields hold no CAP, so that a difference in CAP
alone, which R104 says changes the signature, is not detected. -/
def sigOf (c : CollSt) (e : NbEntry) : Word :=
  BitVec.ofNat 64 (c.kind + c.op * 4 + e.type * 32 + c.hist.toNat * 128 + c.count * 2 ^ 8 + c.name * 2 ^ 36 +
    (e.yo * 8 + e.xo) * 2 ^ 52 + c.seq % 64 * 2 ^ 58)

/-- A chunk's position word (R113). -/
def posOf (seq att phase n : Nat) (mark : Bool) : Word :=
  BitVec.ofNat 64 (seq + att * 2 ^ 32 + phase * 2 ^ 36 + mark.toNat * 2 ^ 39 + n * 2 ^ 40)

/-! ### Links (R98, R99) -/

/-- Whether link `j` of a plane carries traffic. -/
def ringUp (s : State) (plane j : Nat) : Bool := (s.link (26 + 4 * plane + j)).state.carries

/-- A chunk leaves on the positive link of its ring, or the other way round where that is DOWN (R99). -/
def sendRing (plane j : Nat) (sig pos : Word) (vals : List (BitVec 32)) (s : State) : State :=
  let j := if ringUp s plane j then j else j + 1
  s.modPlane plane (fun p => { p with sent := p.sent ++ [(j, sig, pos, vals)] })

/-- A range of positions sent in chunks; `row` chooses the ring (R110, R113). -/
def sendRange (p : Endpoint) (idx phase : Nat) (row : Bool) (r : Nat × Nat) (s : State) : State :=
  match s.slotP p.plane idx with
  | none => s
  | some x =>
    (chunked (p.capacity phase) r.1 r.2).foldl (fun s c =>
      let vals := (List.range (c.2 - c.1)).map (fun i =>
        let v := (sget 0 x.vals (c.1 + i)).toNat
        BitVec.ofNat 32 (if reduces phase then toWire p.e.type p.c.op v else v))
      sendRing p.plane (if row then 0 else 2) x.sig (posOf x.seq x.att phase vals.length false) vals s) s

/-! ### Writes of an endpoint (R103, R121, R122) -/

/-- A Pergola write's writeStatus kept in the slot's status. -/
def noteRefusal (p : Endpoint) (idx : Nat) (r : State × Except MemErr Unit) : State :=
  match r with
  | (s, .ok ()) => s
  | (s, .error e) => s.modSlotP p.plane idx (fun x => { x with status := x.status.worse (writeStatus e) })

/-- A request of an endpoint at a pseudo-channel: of class DEADLINE, with the issuing core's index and tag (R80, R100,
R111). -/
def Endpoint.request (p : Endpoint) (l : Loc) (a : PcAction) (s : State) : State × PcResult :=
  throughPc ⟨0, .pergola s.now, l.off, a, l.ver, p.c.core, p.c.tag, 0⟩ s

/-- The outcome of a request. -/
def PcResult.outcome (r : PcResult) : Except MemErr (List Byte) :=
  match r with
  | .data bs => .ok bs
  | .done => .ok []
  | .owner => .error .owner
  | .txclosed => .error .closed
  | .poison => .error .poison

/-- The outcome of a request that writes. -/
def wrote (r : State × PcResult) : State × Except MemErr Unit := (r.1, r.2.outcome.map (fun _ => ()))

/-- The table root of a collective's tile word. -/
def Endpoint.root (p : Endpoint) (s : State) : Nat := match s.job? p.c.word with | some j => j.root | none => 0

/-- A Pergola write at a virtual address (R121). -/
def pergStore (p : Endpoint) (va : Nat) (bs : List Byte) (s : State) : State × Except MemErr Unit :=
  match xlatAt 512 (p.root s) va true s with
  | (s, .error e) => (s, .error e)
  | (s, .ok x) =>
    match x.phys with
    | .hbm l => wrote (p.request l (.write bs) s)
    | _ => (s, .error .xlate)

/-- A position of the buffer written (R110), and with HIST its history entry (R121). -/
def writePos (p : Endpoint) (idx pos v : Nat) (final : Bool) (s : State) : State :=
  let s := s.modSlotP p.plane idx (fun x => { x with written := sput x.written pos true })
  let off := p.off pos
  let s := noteRefusal p idx (wrote (p.request ⟨off, versionedAt s off⟩ (.write (toBytes p.e.width v)) s))
  if p.c.hist && final then
    let h := p.c.hbase + 64 * (p.c.hidx + p.elems.getD pos 0) + 4 * (p.c.seq % 16)
    noteRefusal p idx (pergStore p (h % 2 ^ 64) (toBytes 4 (if p.e.type = 1 then v * 2 ^ 16 else v)) s)
  else s

/-- A plane's arrival on the barrier (R122, R268): a Pergola write, or an arrival sent to a barrier of SPACE 1.
Where BARV would raise ALIGN or BARSPACE, none is made (DEDUCED, log 92). -/
def pergArrive (p : Endpoint) (s : State) : State × Except MemErr Unit :=
  if p.c.bar.toNat % 64 ≠ 0 ∨ p.c.bar = 0 then (s, .ok ())
  else
    match xlatAt 512 (p.root s) p.c.bar.toNat true s with
    | (s, .error e) => (s, .error e)
    | (s, .ok x) =>
      match x.phys with
      | .hbm l =>
        wrote (p.request l .arrive s)
      | .domain _ =>
        let (id, s) := s.fresh
        (sendRequest p.c.core (.ack p.c.core) p.c.bar ⟨s.self, id, .arrive, x.pa, 12, [], false, s.now⟩ s, .ok ())
      | _ => (s, .ok ())

/-! ### The end of a collective on a plane (R114, R116, R122) -/

/-- A plane has a status: it arrives where it does, counts, and its slot is free (R115, R122, R125). -/
def endPlane (p : Endpoint) (idx : Option Nat) (st : PlaneStatus) (s : State) : State :=
  let arrives := decide (st ≠ .mismatch ∧ st ≠ .cancel)
  let (s, st) : State × PlaneStatus :=
    if arrives then
      match pergArrive p s with
      | (s, .ok ()) => (s, st)
      | (s, .error .owner) => (s, .owner)
      | (s, .error .poison) => (s, .poison)
      | (s, .error .closed) => (s, .cancel)
      | (s, .error _) => (s, st)
    else (s, st)
  let s := match idx with | some i => freeSlotP p.plane i s | none => s
  let s := s.modPlane p.plane (fun x =>
    match st with
    | .timeout | .link => { x with timeouts := satInc 65535 x.timeouts }
    | .mismatch => { x with mismatch := satInc 65535 x.mismatch }
    | .cancel => { x with cancels := satInc 65535 x.cancels }
    | _ => x)
  s.modColl p.c.id (fun c => { c with planes := sput c.planes p.plane (some st) })

/-- Unwritten positions receive canonical NaN, and the plane ends with TIMEOUT or LINK, whatever it met before (R99, R116;
DEDUCED, log 92). -/
def fillPlane (p : Endpoint) (idx : Nat) (st : PlaneStatus) (s : State) : State :=
  match s.slotP p.plane idx with
  | none => s
  | some x =>
    let todo := p.takes.filter (fun i => !sget false x.written i)
    let s := todo.foldl (fun s i => writePos p idx i (nanElem p.e.type) false s) s
    endPlane p (some idx) st s

/-- A MARK leaves on each of the plane's links that lead somewhere (R114). -/
def sendMarks (plane : Nat) (sig pos : Word) (s : State) : State :=
  (List.range 4).foldl (fun s j =>
    if (ringPartner s j).isSome then s.modPlane plane (fun p => { p with sent := p.sent ++ [(j, sig, pos, [])] })
    else s) s

/-- A slot is marked for a mismatch (R114): its MARKs leave, and where its collective was issued locally the plane ends
with MISMATCH. -/
def mismatchSlot (plane idx : Nat) (s : State) : State :=
  match s.slotP plane idx with
  | none => s
  | some x =>
    let s := s.modSlotP plane idx (fun x => { x with marked := true })
    let s := sendMarks plane x.sig (posOf x.seq x.att 0 0 true) s
    match x.issued.bind s.coll? with
    | none => s
    | some c =>
      match s.nbEntry c.name with
      | some e => endPlane (endpoint s plane c e) (some idx) .mismatch s
      | none => s

/-! ### Progress (R109, R110) -/

/-- The own loads with which an endpoint opens a phase (R110). -/
def openPhase (p : Endpoint) (idx phase : Nat) (s : State) : State :=
  match phase with
  | 0 => sendRange p idx 0 true (p.rowPart ((p.kx + p.nc - 1) % p.nc)) s
  | 1 => sendRange p idx 1 false (p.colPart ((p.ky + p.nr - 1) % p.nr)) s
  | 2 => sendRange p idx 2 false (p.colPart p.ky) s
  | 3 => sendRange p idx 3 true (p.rowPart p.kx) s
  | _ =>
    if p.dx = 0 ∧ p.dy = 0 then
      let s := if 1 < p.nc then sendRange p idx 4 true (0, p.m) s else s
      if 1 < p.nr then sendRange p idx 4 false (0, p.m) s else s
    else s

/-- The final values of the part that this device finishes, once its last reduce phase is over (R106, R108). -/
def finishPart (p : Endpoint) (idx : Nat) (s : State) : State :=
  let (lo, hi) := p.colPart p.ky
  (List.range (hi - lo)).foldl (fun s i =>
    let pos := lo + i
    let v := match s.slotP p.plane idx with | some x => (sget 0 x.vals pos).toNat | none => 0
    let v := finishVal p.e.type p.c.op v
    writePos p idx pos v true (s.modSlotP p.plane idx (fun x => { x with vals := sput x.vals pos (BitVec.ofNat 32 v) }))) s

/-- One chunk of the phase in progress acts at its positions (R109, R110). -/
def takeChunk (p : Endpoint) (idx phase : Nat) (r : Nat × Nat) (last : Bool) (vals : List (BitVec 32)) (s : State) :
    State :=
  let vs := vals.map BitVec.toNat
  if reduces phase then
    match s.slotP p.plane idx with
    | none => s
    | some x =>
      let out := (List.range (r.2 - r.1)).map (fun i =>
        pergCombine p.e.type p.c.op (fromWire p.e.type p.c.op (vs.getD i 0)) (sget 0 x.vals (r.1 + i)).toNat)
      let s := capture 3 p.plane ((s.plane p.plane).slots.filter (fun e => e.2.isSome)).length s
      if last then
        s.modSlotP p.plane idx (fun x =>
          { x with vals := (out.zipIdx r.1).foldl (fun m e => sput m e.2 (BitVec.ofNat 32 e.1)) x.vals })
      else
        sendRing p.plane (if phase = 0 then 0 else 2) x.sig (posOf x.seq x.att phase out.length false)
          (out.map (fun v => BitVec.ofNat 32 (toWire p.e.type p.c.op v))) s
  else
    let s := (vs.zipIdx r.1).foldl (fun s e =>
      writePos p idx e.2 e.1 true (s.modSlotP p.plane idx (fun x => { x with vals := sput x.vals e.2 (BitVec.ofNat 32 e.1) }))) s
    match phase with
    | 2 => if last then s else sendRange p idx 2 false r s
    | 3 => if last then s else sendRange p idx 3 true r s
    | _ =>
      if p.dy = 0 then
        let s := if p.dx + 1 < p.nc then sendRange p idx 4 true r s else s
        if 1 < p.nr then sendRange p idx 4 false r s else s
      else if p.dy + 1 < p.nr then sendRange p idx 4 false r s
      else s

/-- A slot goes on as far as its staged chunks allow: through the chunks of its phase in order, to the next phase, and to
its end. -/
def advanceSlot (p : Endpoint) (idx : Nat) : Nat → State → State
  | 0, s => s
  | fuel + 1, s =>
    match s.slotP p.plane idx with
    | none => s
    | some x =>
      match p.phases[x.phase]? with
      | none => endPlane p (some idx) x.status s
      | some phase =>
        match (p.chunks phase)[x.got]? with
        | none =>
          -- the phase is over: a further chunk of it has no place (R114), and the part is final after the last reduce phase
          if x.early.any (fun c => bits c.2.1.toNat 38 36 == phase) then mismatchSlot p.plane idx s else
          let next := p.phases[x.phase + 1]?
          let s := s.modSlotP p.plane idx (fun x => { x with phase := x.phase + 1, got := 0 })
          let s := if reduces phase && !(next.any reduces) then finishPart p idx s else s
          advanceSlot p idx fuel (match next with | some f => openPhase p idx f s | none => s)
        | some (r, last) =>
          match x.early.find? (fun c => bits c.2.1.toNat 38 36 == phase) with
          | none => s
          | some c =>
            if c.1 ≠ x.sig ∨ bits c.2.1.toNat 51 40 ≠ r.2 - r.1 then mismatchSlot p.plane idx s
            else
              let s := s.modSlotP p.plane idx (fun x => { x with early := x.early.erase c, got := x.got + 1 })
              advanceSlot p idx fuel (takeChunk p idx phase r last c.2.2 s)

/-- The turns a slot can take at most. -/
def Endpoint.turns (p : Endpoint) : Nat := (p.phases.flatMap p.chunks).length + p.phases.length + 2

/-! ### Issue (R111, R117, R118) -/

/-- seq_issue of R117: the sequence taken and the entry after it, or none where it raises OWNER. -/
def seqIssue (e : NbEntry) (tag : Nat) (status : Nat → TagState) : Option (Nat × NbEntry) :=
  if e.tag ≠ 0 ∧ status e.tag = .active ∧ e.tag ≠ tag then none
  else
    let e := e.normal status
    if tag = 0 then some (e.seqc, { e with seqc := (e.seqc + 1) % 2 ^ 32 })
    else
      let e := if e.tag = 0 then { e with seqt := e.seqc, tag := tag } else e
      some (e.seqt, { e with seqt := (e.seqt + 1) % 2 ^ 32 })

/-- The contributions of this device read through its MSC (R110, R111): a poisoned one enters as canonical NaN. DESIGN
CHOICE (log 86): all are read at the issue, where R112 leaves the moment open. -/
def readOwn (p : Endpoint) (idx : Nat) (s : State) : State :=
  let (lo, hi) := p.colPart p.ky
  let range := match p.c.kind with
    | 0 | 1 => (0, p.m)
    | 2 => (lo, hi)
    | _ => if p.dx = 0 ∧ p.dy = 0 then (0, p.m) else (0, 0)
  (List.range (range.2 - range.1)).foldl (fun s i =>
    let pos := range.1 + i
    let off := p.off pos
    let put (v : Nat) (s : State) : State :=
      let v := if p.c.kind ≤ 1 then contribution p.e.type p.c.op v else v
      s.modSlotP p.plane idx (fun x => { x with vals := sput x.vals pos (BitVec.ofNat 32 v) })
    let (s, r) := p.request ⟨off, versionedAt s off⟩ (.read p.e.width) s
    match r.outcome with
    | .ok bs => put (fromBytes bs) s
    | .error _ =>
      put (nanElem p.e.type) (s.modSlotP p.plane idx (fun x => { x with status := x.status.worse .poison }))) s

/-- Whether a ring that the collective needs has two DOWN links (R99): both of this device's, or with those of other
devices, as `rings` says; a T.BC needs the row ring of ROOT's row alone (R110). -/
def ringsDown (s : State) (p : Endpoint) (rings : List Nat) : Bool :=
  let row := decide (1 < p.nc) && p.phases.any (fun f => f == 0 || f == 3 || (f == 4 && p.dy == 0))
  let col := decide (1 < p.nr) && p.phases.any (fun f => f == 1 || f == 2 || f == 4)
  (row && (rings.contains (2 * p.plane) || (!ringUp s p.plane 0 && !ringUp s p.plane 1))) ||
    (col && (rings.contains (2 * p.plane + 1) || (!ringUp s p.plane 2 && !ringUp s p.plane 3)))

/-- A collective is issued on one plane (R105, R114, R115): an empty stripe is complete, unless a chunk or a MARK has
taken a slot for its key; elsewhere that slot is its slot. -/
def issuePlane (plane : Nat) (c : CollSt) (e : NbEntry) (rings : List Nat) (s : State) : State :=
  let p := endpoint s plane c e
  let sig := sigOf c e
  if p.m = 0 then
    match slotOf (s.plane plane) c.name c.seq c.att with
    | some i => mismatchSlot plane i (s.modSlotP plane i (fun x => { x with issued := some c.id, sig := sig }))
    | none => endPlane p none .ok s
  else
    let pl := s.plane plane
    let (idx, s) : Option Nat × State :=
      match slotOf pl c.name c.seq c.att with
      | some i => (some i, s.modSlotP plane i (fun x => { x with issued := some c.id }))
      | none =>
        match slotFor pl c.name c.seq with
        | some i => (some i, takeSlot plane i (freshSlot c.name c.seq c.att sig s.now (some c.id)) s)
        | none => (none, s)
    match idx with
    | none => s
    | some i =>
      let old := (s.slotP plane i).getD (freshSlot c.name c.seq c.att sig s.now none)
      let s := s.modSlotP plane i (fun x => { x with sig := sig })
      if old.marked ∨ old.sig ≠ sig then mismatchSlot plane i s
      else if ringsDown s p rings then fillPlane p i .link s
      else
        let s := readOwn p i s
        let s :=
          match p.phases with
          | [] => if p.c.kind ≤ 1 then finishPart p i s else s
          | f :: _ => openPhase p i f s
        advanceSlot p i p.turns s

/-- Whether every plane has a slot for a new collective (R115). -/
def slotsFree (s : State) (name seq att : Nat) : Bool :=
  (List.range 8).all (fun i => (slotOf (s.plane i) name seq att).isSome || (slotFor (s.plane i) name seq).isSome)

/-- The planes of a collective still without a status. -/
def CollSt.open (c : CollSt) : List Nat := (List.range 8).filter (fun i => (sget none c.planes i).isNone)

/-- seq_issue as the eight dies answer it, each by its own mirror (R86, R117): an OWNER that one of them raises refuses the
collective on every die. -/
def seqIssueAll (s : State) (e : NbEntry) (tag : Nat) : Option (Nat × NbEntry) :=
  if (List.range 8).any (fun st => (seqIssue e tag (s.mem.status st)).isNone) then none else seqIssue e tag (tagState s)

/-- COLLECTIVE_ISSUE: the collective `id` is issued once no earlier one on its name is outstanding (R117, R118); `nats`
names the rings elsewhere that have two DOWN links (R99). -/
def execCollectiveIssue (s : State) : Meaning :=
  let x := s.input
  match s.coll? x.id with
  | none => .next s
  | some c =>
    let first := (s.perg.colls.find? (fun d => d.name == c.name)).map (fun d => d.id)
    match s.nbEntry c.name with
    | none => .next s
    | some e =>
      if c.issued ∨ c.open = [] ∨ first ≠ some c.id then .next s
      else
        match seqIssueAll s e c.tag with
        | none =>
          .next (s.modColl c.id (fun c =>
            { c with issued := true, time := s.now, planes := (List.range 8).map (fun i => (i, some .owner)) }))
        | some (seq, e') =>
          if !slotsFree s c.name seq c.att then .next s
          else
            let c := { c with issued := true, seq := seq, time := s.now }
            let s := s.modColl c.id (fun _ => c)
            let s := { s with perg := { s.perg with nbt := s.perg.nbt.map (fun n => if n.name = e.name then e' else n) } }
            .next ((List.range 8).foldl (fun s i => issuePlane i c e' x.nats s) s)

/-! ### Arrivals (R99, R114, R115) -/

/-- Whether a chunk that arrives on a link is one that goes the other way round past this endpoint (R99): it came from
the positive side, and the ring's link on the other side is UP. -/
def passesBy (s : State) (plane j : Nat) : Bool := decide (j % 2 = 0) && ringUp s plane (j + 1)

/-- The endpoint of a slot's collective where it is issued locally. -/
def slotEndpoint (s : State) (plane : Nat) (x : SlotP) : Option Endpoint :=
  match x.issued.bind s.coll? with
  | none => none
  | some c => (s.nbEntry c.name).map (fun e => endpoint s plane c e)

/-- CHUNK_ARRIVAL: a chunk arrives at an endpoint of a READY device (R27, R30, R99, R114 to R116). One that finds no place waits at its sender. DESIGN
CHOICE (log 86): one of a phase that is past, or that the kind does not run, gives MISMATCH. -/
def execChunkArrival (s : State) : Meaning :=
  let x := s.input
  let plane := x.stack
  let sig := x.v
  let pos := x.u
  let name := bits sig.toNat 51 36
  let seq := bits pos.toNat 31 0
  let att := bits pos.toNat 35 32
  let pl := s.plane plane
  if s.pkg.stage ≠ 7 then .next s
  else if passesBy s plane x.link then
    .next (s.modPlane plane (fun p => { p with sent := p.sent ++ [(x.link + 1, sig, pos, x.vals)] }))
  else if (s.nbEntry name).isNone then .next (staleChunks plane 1 s)
  else
    match slotOf pl name seq att with
    | none =>
      match slotFor pl name seq with
      | none => .next s
      | some i => .next (takeSlot plane i { freshSlot name seq att sig s.now none with early := [(sig, pos, x.vals)] } s)
    | some i =>
      match s.slotP plane i with
      | none => .next s
      | some t =>
        if sig ≠ t.sig ∧ t.marked = false then .next (mismatchSlot plane i s)
        else
          match slotEndpoint s plane t with
          | none => when (decide (t.early.length < 2)) (fun s =>
              s.modSlotP plane i (fun t => { t with early := t.early ++ [(sig, pos, x.vals)] })) s
          | some p =>
            let phase := bits pos.toNat 38 36
            let s' := s.modSlotP plane i (fun t => { t with early := t.early ++ [(sig, pos, x.vals)] })
            if p.phases[t.phase]? = some phase then .next (advanceSlot p i p.turns s')
            else if (p.phases.drop t.phase).contains phase then when (decide (t.early.length < 2)) (fun _ => s') s
            else .next (mismatchSlot plane i s)

/-- MARK_ARRIVAL: a MARK arrives (R27, R30, R114, R115). DESIGN CHOICE (log 86): one at a slot that chunks took, neither issued
locally nor marked, marks it and sends no MARK. -/
def execMarkArrival (s : State) : Meaning :=
  let x := s.input
  let plane := x.stack
  let name := bits x.v.toNat 51 36
  let seq := bits x.u.toNat 31 0
  let att := bits x.u.toNat 35 32
  let pl := s.plane plane
  if s.pkg.stage ≠ 7 then .next s
  else if (s.nbEntry name).isNone then .next (staleChunks plane 1 s) else
  match slotOf pl name seq att with
  | none =>
    match slotFor pl name seq with
    | none => .next s
    | some i => .next (takeSlot plane i { freshSlot name seq att x.v s.now none with marked := true } s)
  | some i =>
    match s.slotP plane i with
    | none => .next s
    | some t =>
      if t.marked then .next s
      else if t.issued.isSome then .next (mismatchSlot plane i s)
      else .next (s.modSlotP plane i (fun t => { t with marked := true }))

/-! ### Ends from outside the ring (R114 to R116, R119, R123) -/

/-- The slot of a collective on a plane. -/
def slotOfColl (s : State) (plane : Nat) (c : CollSt) : Option Nat :=
  match slotOf (s.plane plane) c.name c.seq c.att with
  | some i => if (s.slotP plane i).any (fun x => x.issued == some c.id) then some i else none
  | none => none

/-- PLANE_CANCEL: after a MISMATCH or TIMEOUT on a plane, the collective `id` ends in the same way on its other planes
(R114, R116). -/
def execPlaneCancel (s : State) : Meaning :=
  match s.coll? s.input.id with
  | none => .next s
  | some c =>
    match s.nbEntry c.name with
    | none => .next s
    | some e =>
      let has (st : PlaneStatus) : Bool := (List.range 8).any (fun i => sget none c.planes i == some st)
      when (c.issued && (has .mismatch || has .timeout)) (fun s =>
        c.open.foldl (fun s i =>
          match slotOfColl s i c with
          | none => s
          | some k => if has .mismatch then mismatchSlot i k s else fillPlane (endpoint s i c e) k .timeout s) s) s

/-- SLOT_TMO_EXPIRY: a slot with no local issue is freed once TMO has passed; its chunks and MARK are counted (R115). -/
def execSlotTmoExpiry (s : State) : Meaning :=
  let x := s.input
  match s.slotP x.stack x.slot with
  | none => .next s
  | some t =>
    let tmo := match s.nbEntry t.name with | some e => e.tmo | none => 0
    when (t.issued.isNone && decide (t.taken + tmo * 1000 ≤ s.now)) (fun s =>
      staleChunks x.stack (t.early.length + t.marked.toNat) (freeSlotP x.stack x.slot s)) s

/-- COLLECTIVE_TIMEOUT: a collective whose ring has lost two links ends with LINK, where `nats` names the rings that lost
them elsewhere; one unfinished at issue + TMO ends with TIMEOUT (R99, R116). -/
def execCollectiveTimeout (s : State) : Meaning :=
  let x := s.input
  match s.slotP x.stack x.slot with
  | none => .next s
  | some t =>
    match t.issued.bind s.coll? with
    | none => .next s
    | some c =>
      match s.nbEntry c.name with
      | none => .next s
      | some e =>
        let p := endpoint s x.stack c e
        if ringsDown s p x.nats then .next (fillPlane p x.slot .link s)
        else when (decide (c.time + e.tmo * 1000 ≤ s.now)) (fillPlane p x.slot .timeout) s

/-- A collective cancelled (R119): no more elements, no arrival, no slot. -/
def cancelColl (c : CollSt) (s : State) : State :=
  if c.issued then
    match s.nbEntry c.name with
    | none => s
    | some e => c.open.foldl (fun s i =>
        match slotOfColl s i c with
        | some k => endPlane (endpoint s i c e) (some k) .cancel s
        | none => s) s
  else s.modColl c.id (fun c => { c with planes := (List.range 8).map (fun i => (i, some .cancel)) })

/-- COLLECTIVE_CANCEL: once the status write ABORTED of a tag is complete, every collective issued under it is cancelled
(R119). -/
def execCollectiveCancel (s : State) : Meaning :=
  let t := s.input.tag
  when (decide (t ≠ 0) && decide (tagState s t = .aborted) && s.mem.writes.all (fun w => w.tag != t)) (fun s =>
    (s.perg.colls.filter (fun c => c.tag == t)).foldl (fun s c => cancelColl c s) s) s

/-- The cause of a collective's record (R306). -/
def PlaneStatus.cause : PlaneStatus → BitVec 8
  | .mismatch => 0x28 | .owner => 0x07 | .poison => 0x08 | .link => 0x29 | .timeout => 0x2A | .cancel => 0x2B | .ok => 0

/-- The veto flag that a status raises (R123). -/
def PlaneStatus.veto : PlaneStatus → BitVec 16
  | .mismatch => flMISMATCH | .owner => flFAULT | .poison => flCORR | .link | .timeout => flTIMEOUT | .cancel | .ok => 0

/-- COLLECTIVE_COMPLETE: the planes' statuses are combined, and the tile word takes the outcome (R123). -/
def execCollectiveComplete (s : State) : Meaning :=
  match s.coll? s.input.id with
  | none => .next s
  | some c =>
    when c.open.isEmpty (fun s =>
      let st := (List.range 8).foldl (fun a i => a.worse ((sget none c.planes i).getD .ok)) PlaneStatus.ok
      let s := { s with perg := { s.perg with colls := s.perg.colls.filter (fun d => d.id != c.id) } }
      let s := raiseTag c.tag st.veto s
      let s := s.modJob c.word (fun j => { j with executed := true })
      let addr : Word := match st with | .owner | .poison => Config.collectiveAddr c.word | _ => 0
      let s := if st = .ok then s else partFault c.word st.cause addr s
      match s.job? c.word with
      | some j => if j.member then memberReport (tileCtx s j) s else s
      | none => s) s

end Sys2Proof.Machine
end

