-- ==== Sys2Proof/Machine/Release.lean ====
section
/-! DEFINITION. The ends of waits: words blocked on queues, tile bits, tags, nests, timelines, barriers and INV, and the
stall watchdog (R229, R235, R248, R267, R268, R316, R390, R429). -/

namespace Sys2Proof.Machine

/-- A word that can be blocked at the head of its stream, executed again. -/
def retryWord (i : Instr) (s : State) : Meaning :=
  match i with
  | .amo d a b op => execAmo d a b op s
  | .mcst d a b set => execMcst d a b set s
  | .cpy d a b sc => execCpy d a b sc s
  | .cpyc d a b sc => execCpyc d a b sc s
  | .lrec a b lvl => execLrec a b lvl s
  | .stb d b p post sc off => execStb d b p post sc off s
  | .sth d b p post sc off => execSth d b p post sc off s
  | .stw d b p post sc off => execStw d b p post sc off s
  | .std d b p post sc off => execStd d b p post sc off s
  | .ldq q b p post w off => execLdq q b p post w off s
  | .stq q b p post w off => execStq q b p post w off s
  | .bqpush a => execBqpush a s
  | .bqpop d => execBqpop d s
  | .bqpeek d nb => execBqpeek d nb s
  | .qskip d a q nb => execQskip d a q nb s
  | .qpop d q n => execQpop d q n s
  | .qpush q a => execQpush q a s
  | .ldf d b p post sys keep off => execLdf d b p post sys keep off s
  | .ste d b p post sys keep off => execSte d b p post sys keep off s
  | .rst d b p post ord off => execRst d b p post ord off s
  | .rsta d b p post ord off => execRsta d b p post ord off s
  | .spawn d a b => execSpawn d a b s
  | .tissue d a => execTissue d a s
  | .tlwait a n => execTlwait a n s
  | .bwait a b sc => execBwait a b sc s
  | .inv a all sc => execInv a all sc s
  | .mgo d a => execMgo d a s
  | .vpop vd q m n nf => execVpop vd q m n nf s
  | .vpush q va nf => execVpush q va nf s
  | .vmovt vd va sfx dir => execVmovt vd va sfx dir s
  | .mmac p af ac => execMmac p af ac s
  | .mmacs p af ac => execMmacs p af ac s
  | .mdrn p dt cc ov => execMdrn p dt cc ov s
  | .mzero p ov => execMzero p ov s
  | .mcmp p one fmt sc => execMcmp p one fmt sc s
  | _ => .next s

/-- The state a retry leads to; a word that cannot be blocked changes nothing. -/
def retried (s : State) (o : Meaning) : State := match o with | .next t => t | _ => s

/-- The word at the PC of a stream that is blocked for a reason is tried again. -/
def retryStream (core : Nat) (k : StreamKind) (why : Stall) (s : State) : State :=
  if issuing s core k ∧ k ≠ .m ∧ ((s.core core).stream k).stall = some why then
    let s := { s with focus := { s.focus with core := core, kind := k } }
    match fetchInstr core k s.pc.toNat s with
    | (t, .ok bs) =>
      match decode k bs with
      | .ok (i, _) => retried s (retryWord i t)
      | .error _ => s
    | (_, .error _) => s
  else s

/-- The step word at which a nest waits is tried again. -/
def retryMatrix (core : Nat) (s : State) : State :=
  if issuing s core .m ∧ (s.core core).m.stall then
    match stepWord core { s with focus := { s.focus with core := core, kind := .m } } with
    | (t, some i) => retried s (retryWord i t)
    | (_, none) => s
  else s

/-- Whether the copy command that waits for its tile bits may go on. -/
def copyOpen (c : CoreSt) : Bool :=
  c.copyStall && !c.halted && (match c.copyRun with | some r => copyReady c r | none => false)

/-- QUEUE_STALL_RELEASE: a stream stalled on a queue tries its word again (R229). -/
def execQueueStallRelease (s : State) : Meaning :=
  .next (retryStream s.input.core s.input.stream .queue s)

/-- TILE_ACCESS_PERFORMED: a waiting access is performed where its bit allows it and none that ranks higher is ready
(R235). -/
def execTileAccessPerformed (s : State) : Meaning :=
  let core := s.input.core
  match s.input.engine with
  | .copy => if copyOpen (s.core core) then execCopyCommandComplete s else .next s
  | .m => .next (retryMatrix core s)
  | .x => .next (retryStream core .x .tile s)
  | .a => .next (retryStream core .a .tile s)

/-- A tagged request from another core that waits at its word is performed where the tag allows it, or discarded for its
age (R56, R248, R379). -/
def retryTagged (src id : Nat) (s : State) : State :=
  match s.fab.tagged.find? (fun q => q.src == src && q.id == id) with
  | none => s
  | some q =>
    let gone (s : State) : State :=
      { s with fab := { s.fab with tagged := s.fab.tagged.filter (fun r => !(r.src == src && r.id == id)) } }
    if aged s q.time then countExpired (gone s)
    else
      match homeRequest q s with
      | (s, some r) => respondTo q.src q.id r (gone s)
      | (_, none) => s

/-- TAGGED_ACCESS_PERFORMED: a waiting LDF or STE of a stream, or (`flag`) of another core's request, is performed when
the tag reaches the state it needs (R248). -/
def execTaggedAccessPerformed (s : State) : Meaning :=
  let x := s.input
  .next (if x.flag then retryTagged x.dev x.id s else retryStream x.core x.stream .tag s)

/-- NEST_START: a waiting MGO starts its nest once the previous nest has ended (R429). -/
def execNestStart (s : State) : Meaning := .next (retryStream s.input.core s.input.stream .nest s)

/-- TLWAIT_COMPLETE (R267). -/
def execTlwaitComplete (s : State) : Meaning := .next (retryStream s.input.core s.input.stream .tlwait s)

/-- BWAIT_COMPLETE (R268). -/
def execBwaitComplete (s : State) : Meaning := .next (retryStream s.input.core s.input.stream .bwait s)

/-- INV_COMPLETE: every other member has acknowledged, and the waiting INV completes (R390). -/
def execInvComplete (s : State) : Meaning :=
  let core := s.input.core
  let k := s.input.stream
  when (decide (((s.core core).stream k).stall = some .inv)) (fun s =>
    retryStream core k .inv (s.modCore core (fun c => c.modStream k (fun x =>
      { x with wait := x.wait.map (fun w => { w with result := some (.data []) }) })))) s

/-- The count at which the watchdog acts (R316). -/
def watchLimit : Nat := 2 ^ 24

/-- The watchdog of an A- or X-stream: where its word is still blocked, a precise STALLWD trap (R316). -/
def watchStream (core : Nat) (k : StreamKind) (s : State) : State :=
  let x := (s.core core).stream k
  match x.stall with
  | none => s
  | some why =>
    if why.counted && decide (watchLimit ≤ x.stallCnt) && issuing s core k then
      let t := retryStream core k why s
      let y := (t.core core).stream k
      if y.stall = some why ∧ y.pc = x.pc ∧ y.stallCnt = x.stallCnt then trapEntry core k 0x0E 0 0 id s else t
    else s

/-- STALL_WATCHDOG: a head word blocked for 2^24 cycles; one whose condition has cleared proceeds (R316). -/
def execStallWatchdog (s : State) : Meaning :=
  let core := s.input.core
  let c := s.core core
  match s.input.engine with
  | .a => .next (watchStream core .a s)
  | .x => .next (watchStream core .x s)
  | .m =>
    when (c.m.stall && decide (watchLimit ≤ c.m.stallCnt) && issuing s core .m) (fun s =>
      let t := retryMatrix core s
      if (t.core core).m.stall then nestFault core 0x0E 0 0 s else t) s
  | .copy =>
    when (c.copyStall && decide (watchLimit ≤ c.copyCnt) && !c.halted) (fun s =>
      if copyOpen c then s.modCore core (fun c => { c with copyCnt := 0 })
      else
        match c.copyRun with
        | some r => endCopy core r.cmd .done (some { cause := 0x0E, path := r.cmd.num, time := s.now }) s
        | none => s) s

end Sys2Proof.Machine
end

