-- ==== Sys2Proof/Machine/Dispatch.lean ====
section
/-! DEFINITION. The one arm of each instruction: its meaning. -/

namespace Sys2Proof.Machine

/-- The meaning of every instruction. -/
def exec (i : Instr) (s : State) : Host.Outcome State Fault Refusal :=
  match i with
  | .add d a b => Sys2Proof.Machine.execAdd d a b s
  | .sub d a b => Sys2Proof.Machine.execSub d a b s
  | .mul d a b => Sys2Proof.Machine.execMul d a b s
  | .mulh d a b => Sys2Proof.Machine.execMulh d a b s
  | .mulhu d a b => Sys2Proof.Machine.execMulhu d a b s
  | .div d a b => Sys2Proof.Machine.execDiv d a b s
  | .divu d a b => Sys2Proof.Machine.execDivu d a b s
  | .rem d a b => Sys2Proof.Machine.execRem d a b s
  | .remu d a b => Sys2Proof.Machine.execRemu d a b s
  | .and d a b => Sys2Proof.Machine.execAnd d a b s
  | .or d a b => Sys2Proof.Machine.execOr d a b s
  | .xor d a b => Sys2Proof.Machine.execXor d a b s
  | .andn d a b => Sys2Proof.Machine.execAndn d a b s
  | .orn d a b => Sys2Proof.Machine.execOrn d a b s
  | .shl d a b => Sys2Proof.Machine.execShl d a b s
  | .shr d a b => Sys2Proof.Machine.execShr d a b s
  | .sra d a b => Sys2Proof.Machine.execSra d a b s
  | .rol d a b => Sys2Proof.Machine.execRol d a b s
  | .ror d a b => Sys2Proof.Machine.execRor d a b s
  | .min d a b => Sys2Proof.Machine.execMin d a b s
  | .max d a b => Sys2Proof.Machine.execMax d a b s
  | .minu d a b => Sys2Proof.Machine.execMinu d a b s
  | .maxu d a b => Sys2Proof.Machine.execMaxu d a b s
  | .slt d a b => Sys2Proof.Machine.execSlt d a b s
  | .sltu d a b => Sys2Proof.Machine.execSltu d a b s
  | .seq d a b => Sys2Proof.Machine.execSeq d a b s
  | .sel d a b n => Sys2Proof.Machine.execSel d a b n s
  | .clz d a => Sys2Proof.Machine.execClz d a s
  | .ctz d a => Sys2Proof.Machine.execCtz d a s
  | .popc d a => Sys2Proof.Machine.execPopc d a s
  | .brev d a => Sys2Proof.Machine.execBrev d a s
  | .bswap d a => Sys2Proof.Machine.execBswap d a s
  | .bfx d a b c => Sys2Proof.Machine.execBfx d a b c s
  | .bfi d a b c => Sys2Proof.Machine.execBfi d a b c s
  | .clmul d a b => Sys2Proof.Machine.execClmul d a b s
  | .clmulh d a b => Sys2Proof.Machine.execClmulh d a b s
  | .fadd d a b => Sys2Proof.Machine.execFadd d a b s
  | .fsub d a b => Sys2Proof.Machine.execFsub d a b s
  | .fmul d a b => Sys2Proof.Machine.execFmul d a b s
  | .fma d a b c => Sys2Proof.Machine.execFma d a b c s
  | .fmin d a b => Sys2Proof.Machine.execFmin d a b s
  | .fmax d a b => Sys2Proof.Machine.execFmax d a b s
  | .fabs d a => Sys2Proof.Machine.execFabs d a s
  | .fneg d a => Sys2Proof.Machine.execFneg d a s
  | .fcmpeq d a b => Sys2Proof.Machine.execFcmpeq d a b s
  | .fcmplt d a b => Sys2Proof.Machine.execFcmplt d a b s
  | .fcmple d a b => Sys2Proof.Machine.execFcmple d a b s
  | .fcvtfi d a cv => Sys2Proof.Machine.execFcvtfi d a cv s
  | .fcvtif d a cv => Sys2Proof.Machine.execFcvtif d a cv s
  | .pcmp d a b cond => Sys2Proof.Machine.execPcmp d a b cond s
  | .pand d a b => Sys2Proof.Machine.execPand d a b s
  | .por d a b => Sys2Proof.Machine.execPor d a b s
  | .pnot d a => Sys2Proof.Machine.execPnot d a s
  | .pmov d a mode => Sys2Proof.Machine.execPmov d a mode s
  | .addi d a imm => Sys2Proof.Machine.execAddi d a imm s
  | .andi d a imm => Sys2Proof.Machine.execAndi d a imm s
  | .ori d a imm => Sys2Proof.Machine.execOri d a imm s
  | .xori d a imm => Sys2Proof.Machine.execXori d a imm s
  | .shli d a sh => Sys2Proof.Machine.execShli d a sh s
  | .shri d a sh => Sys2Proof.Machine.execShri d a sh s
  | .srai d a sh => Sys2Proof.Machine.execSrai d a sh s
  | .slti d a imm => Sys2Proof.Machine.execSlti d a imm s
  | .sltiu d a imm => Sys2Proof.Machine.execSltiu d a imm s
  | .li d imm => Sys2Proof.Machine.execLi d imm s
  | .lui d imm => Sys2Proof.Machine.execLui d imm s
  | .beq a b off => Sys2Proof.Machine.execBeq a b off s
  | .bne a b off => Sys2Proof.Machine.execBne a b off s
  | .blt a b off => Sys2Proof.Machine.execBlt a b off s
  | .bge a b off => Sys2Proof.Machine.execBge a b off s
  | .bltu a b off => Sys2Proof.Machine.execBltu a b off s
  | .bgeu a b off => Sys2Proof.Machine.execBgeu a b off s
  | .j off => Sys2Proof.Machine.execJ off s
  | .jal off => Sys2Proof.Machine.execJal off s
  | .jr d a imm => Sys2Proof.Machine.execJr d a imm s
  | .loop d a len => Sys2Proof.Machine.execLoop d a len s
  | .loops d a st len => Sys2Proof.Machine.execLoops d a st len s
  | .ldb d b p post sx off => Sys2Proof.Machine.execLdb d b p post sx off s
  | .ldh d b p post sx off => Sys2Proof.Machine.execLdh d b p post sx off s
  | .ldw d b p post sx off => Sys2Proof.Machine.execLdw d b p post sx off s
  | .ldd d b p post off => Sys2Proof.Machine.execLdd d b p post off s
  | .stb d b p post sc off => Sys2Proof.Machine.execStb d b p post sc off s
  | .sth d b p post sc off => Sys2Proof.Machine.execSth d b p post sc off s
  | .stw d b p post sc off => Sys2Proof.Machine.execStw d b p post sc off s
  | .std d b p post sc off => Sys2Proof.Machine.execStd d b p post sc off s
  | .ldq q b p post w off => Sys2Proof.Machine.execLdq q b p post w off s
  | .stq q b p post w off => Sys2Proof.Machine.execStq q b p post w off s
  | .ldf d b p post sys keep off => Sys2Proof.Machine.execLdf d b p post sys keep off s
  | .ste d b p post sys keep off => Sys2Proof.Machine.execSte d b p post sys keep off s
  | .tagset d b p post off => Sys2Proof.Machine.execTagset d b p post off s
  | .tagclr d b p post off => Sys2Proof.Machine.execTagclr d b p post off s
  | .rld d b p post ord off => Sys2Proof.Machine.execRld d b p post ord off s
  | .rst d b p post ord off => Sys2Proof.Machine.execRst d b p post ord off s
  | .rsta d b p post ord off => Sys2Proof.Machine.execRsta d b p post ord off s
  | .amo d a b op => Sys2Proof.Machine.execAmo d a b op s
  | .amor d a b op => Sys2Proof.Machine.execAmor d a b op s
  | .mcst d a b set => Sys2Proof.Machine.execMcst d a b set s
  | .cpy d a b sc => Sys2Proof.Machine.execCpy d a b sc s
  | .cpyc d a b sc => Sys2Proof.Machine.execCpyc d a b sc s
  | .cpyx a => Sys2Proof.Machine.execCpyx a s
  | .cpyq d a => Sys2Proof.Machine.execCpyq d a s
  | .lrec a b lvl => Sys2Proof.Machine.execLrec a b lvl s
  | .fence sc => Sys2Proof.Machine.execFence sc s
  | .rel sc => Sys2Proof.Machine.execRel sc s
  | .acq sc => Sys2Proof.Machine.execAcq sc s
  | .inv a all sc => Sys2Proof.Machine.execInv a all sc s
  | .tlwait a n => Sys2Proof.Machine.execTlwait a n s
  | .tlread d n sel => Sys2Proof.Machine.execTlread d n sel s
  | .barv d a sc => Sys2Proof.Machine.execBarv d a sc s
  | .bwait a b sc => Sys2Proof.Machine.execBwait a b sc s
  | .pref a lvl => Sys2Proof.Machine.execPref a lvl s
  | .bqpush a => Sys2Proof.Machine.execBqpush a s
  | .bqpop d => Sys2Proof.Machine.execBqpop d s
  | .bqpeek d nb => Sys2Proof.Machine.execBqpeek d nb s
  | .qskip d a q nb => Sys2Proof.Machine.execQskip d a q nb s
  | .qpop d q n => Sys2Proof.Machine.execQpop d q n s
  | .qpush q a => Sys2Proof.Machine.execQpush q a s
  | .txbegin d => Sys2Proof.Machine.execTxbegin d s
  | .txvote a => Sys2Proof.Machine.execTxvote a s
  | .txwait d => Sys2Proof.Machine.execTxwait d s
  | .txabort => Sys2Proof.Machine.execTxabort s
  | .txread d a sel => Sys2Proof.Machine.execTxread d a sel s
  | .trap imm => Sys2Proof.Machine.execTrap imm s
  | .eret => Sys2Proof.Machine.execEret s
  | .csrr d csr => Sys2Proof.Machine.execCsrr d csr s
  | .csrw d a csr => Sys2Proof.Machine.execCsrw d a csr s
  | .csrs d a csr => Sys2Proof.Machine.execCsrs d a csr s
  | .csrc d a csr => Sys2Proof.Machine.execCsrc d a csr s
  | .exit => Sys2Proof.Machine.execExit s
  | .spawn d a b => Sys2Proof.Machine.execSpawn d a b s
  | .tissue d a => Sys2Proof.Machine.execTissue d a s
  | .tfence => Sys2Proof.Machine.execTfence s
  | .brkd => Sys2Proof.Machine.execBrkd s
  | .nop => Sys2Proof.Machine.execNop s
  | .mloop n a fld => Sys2Proof.Machine.execMloop n a fld s
  | .mcfg a fld => Sys2Proof.Machine.execMcfg a fld s
  | .mgo d a => Sys2Proof.Machine.execMgo d a s
  | .mstat d sel => Sys2Proof.Machine.execMstat d sel s
  | .mabort d => Sys2Proof.Machine.execMabort d s
  | .vadd vd va vb nf mk => Sys2Proof.Machine.execVadd vd va vb nf mk s
  | .vsub vd va vb nf mk => Sys2Proof.Machine.execVsub vd va vb nf mk s
  | .vmul vd va vb nf mk => Sys2Proof.Machine.execVmul vd va vb nf mk s
  | .vfma vd va vb nf mk => Sys2Proof.Machine.execVfma vd va vb nf mk s
  | .vfms vd va vb nf mk => Sys2Proof.Machine.execVfms vd va vb nf mk s
  | .vfnma vd va vb nf mk => Sys2Proof.Machine.execVfnma vd va vb nf mk s
  | .vmin vd va vb nf mk => Sys2Proof.Machine.execVmin vd va vb nf mk s
  | .vmax vd va vb nf mk => Sys2Proof.Machine.execVmax vd va vb nf mk s
  | .vabs vd va nf mk => Sys2Proof.Machine.execVabs vd va nf mk s
  | .vneg vd va nf mk => Sys2Proof.Machine.execVneg vd va nf mk s
  | .vrcp vd va nf mk => Sys2Proof.Machine.execVrcp vd va nf mk s
  | .vrsq vd va nf mk => Sys2Proof.Machine.execVrsq vd va nf mk s
  | .vsqrt vd va nf mk => Sys2Proof.Machine.execVsqrt vd va nf mk s
  | .vexp2 vd va nf mk => Sys2Proof.Machine.execVexp2 vd va nf mk s
  | .vlog2 vd va nf mk => Sys2Proof.Machine.execVlog2 vd va nf mk s
  | .vdiv vd va vb nf mk => Sys2Proof.Machine.execVdiv vd va vb nf mk s
  | .viadd vd va vb nf mk => Sys2Proof.Machine.execViadd vd va vb nf mk s
  | .visub vd va vb nf mk => Sys2Proof.Machine.execVisub vd va vb nf mk s
  | .vimul vd va vb nf mk => Sys2Proof.Machine.execVimul vd va vb nf mk s
  | .vimulh vd va vb nf mk => Sys2Proof.Machine.execVimulh vd va vb nf mk s
  | .vand vd va vb nf mk => Sys2Proof.Machine.execVand vd va vb nf mk s
  | .vor vd va vb nf mk => Sys2Proof.Machine.execVor vd va vb nf mk s
  | .vxor vd va vb nf mk => Sys2Proof.Machine.execVxor vd va vb nf mk s
  | .vshl vd va vb nf mk => Sys2Proof.Machine.execVshl vd va vb nf mk s
  | .vshr vd va vb nf mk => Sys2Proof.Machine.execVshr vd va vb nf mk s
  | .vsra vd va vb nf mk => Sys2Proof.Machine.execVsra vd va vb nf mk s
  | .vimin vd va vb nf mk => Sys2Proof.Machine.execVimin vd va vb nf mk s
  | .vimax vd va vb nf mk => Sys2Proof.Machine.execVimax vd va vb nf mk s
  | .vcmp vd va vb nf mk cond => Sys2Proof.Machine.execVcmp vd va vb nf mk cond s
  | .vsel vd va vb nf mk => Sys2Proof.Machine.execVsel vd va vb nf mk s
  | .vcvt vd va vb nf mk src dst mode sat => Sys2Proof.Machine.execVcvt vd va vb nf mk src dst mode sat s
  | .vpack vd va vb nf mk src dst mode sat => Sys2Proof.Machine.execVpack vd va vb nf mk src dst mode sat s
  | .vunpk vd va nf mk src dst half => Sys2Proof.Machine.execVunpk vd va nf mk src dst half s
  | .vperm vd va vb nf mk => Sys2Proof.Machine.execVperm vd va vb nf mk s
  | .vshuf vd va vb nf mk pat k => Sys2Proof.Machine.execVshuf vd va vb nf mk pat k s
  | .vbcast vd a nf mk => Sys2Proof.Machine.execVbcast vd a nf mk s
  | .vreds vd va nf mk op => Sys2Proof.Machine.execVreds vd va nf mk op s
  | .vscan vd va vb nf mk op => Sys2Proof.Machine.execVscan vd va vb nf mk op s
  | .vclmul vd va vb nf mk => Sys2Proof.Machine.execVclmul vd va vb nf mk s
  | .vrng vd va nf mk => Sys2Proof.Machine.execVrng vd va nf mk s
  | .vpop vd q m n nf => Sys2Proof.Machine.execVpop vd q m n nf s
  | .vpush q va nf => Sys2Proof.Machine.execVpush q va nf s
  | .vmovt vd va sfx dir => Sys2Proof.Machine.execVmovt vd va sfx dir s
  | .vldi vd nf mk imm => Sys2Proof.Machine.execVldi vd nf mk imm s
  | .vshape a nf ew len tv tsel => Sys2Proof.Machine.execVshape a nf ew len tv tsel s
  | .mpush n nf => Sys2Proof.Machine.execMpush n nf s
  | .minv nf => Sys2Proof.Machine.execMinv nf s
  | .mpop nf => Sys2Proof.Machine.execMpop nf s
  | .mset n va nf mk => Sys2Proof.Machine.execMset n va nf mk s
  | .bmz off => Sys2Proof.Machine.execBmz off s
  | .bmnz off => Sys2Proof.Machine.execBmnz off s
  | .vfrd vd nf => Sys2Proof.Machine.execVfrd vd nf s
  | .vfclr => Sys2Proof.Machine.execVfclr s
  | .mget n nf => Sys2Proof.Machine.execMget n nf s
  | .mldw p fmt mx sp pl => Sys2Proof.Machine.execMldw p fmt mx sp pl s
  | .mmac p af ac => Sys2Proof.Machine.execMmac p af ac s
  | .mmacs p af ac => Sys2Proof.Machine.execMmacs p af ac s
  | .mdrn p dt cc ov => Sys2Proof.Machine.execMdrn p dt cc ov s
  | .mzero p ov => Sys2Proof.Machine.execMzero p ov s
  | .mcmp p one fmt sc => Sys2Proof.Machine.execMcmp p one fmt sc s
  | .mpred cond lvl an inv => Sys2Proof.Machine.execMpred cond lvl an inv s
  | .msync => Sys2Proof.Machine.execMsync s
  | .mend => Sys2Proof.Machine.execMend s
  | .mnop => Sys2Proof.Machine.execMnop s
  | .tCopy w => Sys2Proof.Machine.execTCopy w s
  | .tFill w => Sys2Proof.Machine.execTFill w s
  | .tEw w => Sys2Proof.Machine.execTEw w s
  | .tMap w => Sys2Proof.Machine.execTMap w s
  | .tRed w => Sys2Proof.Machine.execTRed w s
  | .tScan w => Sys2Proof.Machine.execTScan w s
  | .tCvt w => Sys2Proof.Machine.execTCvt w s
  | .tMma w => Sys2Proof.Machine.execTMma w s
  | .tMmas w => Sys2Proof.Machine.execTMmas w s
  | .tCmp w => Sys2Proof.Machine.execTCmp w s
  | .tAmax w => Sys2Proof.Machine.execTAmax w s
  | .tRng w => Sys2Proof.Machine.execTRng w s
  | .tOpt w => Sys2Proof.Machine.execTOpt w s
  | .tAr w => Sys2Proof.Machine.execTAr w s
  | .tAg w => Sys2Proof.Machine.execTAg w s
  | .tRs w => Sys2Proof.Machine.execTRs w s
  | .tBc w => Sys2Proof.Machine.execTBc w s
  | .tKern w => Sys2Proof.Machine.execTKern w s
  | .tSig w => Sys2Proof.Machine.execTSig w s
  | .tWaitev w => Sys2Proof.Machine.execTWaitev w s
  | .linkTrainingDone => Sys2Proof.Machine.execLinkTrainingDone s
  | .trainingAttemptTimeout => Sys2Proof.Machine.execTrainingAttemptTimeout s
  | .linkLossOfLock => Sys2Proof.Machine.execLinkLossOfLock s
  | .internalLossOfLock => Sys2Proof.Machine.execInternalLossOfLock s
  | .retrain => Sys2Proof.Machine.execRetrain s
  | .moduleReset => Sys2Proof.Machine.execModuleReset s
  | .recoveryPackage => Sys2Proof.Machine.execRecoveryPackage s
  | .spdmRequest => Sys2Proof.Machine.execSpdmRequest s
  | .pwrcapWrite => Sys2Proof.Machine.execPwrcapWrite s
  | .arbiterSample => Sys2Proof.Machine.execArbiterSample s
  | .throttleLevelApply => Sys2Proof.Machine.execThrottleLevelApply s
  | .junctionTemperature => Sys2Proof.Machine.execJunctionTemperature s
  | .capClear => Sys2Proof.Machine.execCapClear s
  | .captureWindowEdge => Sys2Proof.Machine.execCaptureWindowEdge s
  | .captureEvent => Sys2Proof.Machine.execCaptureEvent s
  | .remoteRequest => Sys2Proof.Machine.execRemoteRequest s
  | .remoteAck => Sys2Proof.Machine.execRemoteAck s
  | .remoteResponse => Sys2Proof.Machine.execRemoteResponse s
  | .fabricForward => Sys2Proof.Machine.execFabricForward s
  | .requestExpiry => Sys2Proof.Machine.execRequestExpiry s
  | .linkMapUpdate => Sys2Proof.Machine.execLinkMapUpdate s
  | .timeMessageSend => Sys2Proof.Machine.execTimeMessageSend s
  | .timeMessage => Sys2Proof.Machine.execTimeMessage s
  | .fabtmoWrite => Sys2Proof.Machine.execFabtmoWrite s
  | .domainDigest => Sys2Proof.Machine.execDomainDigest s
  | .pcSelect => Sys2Proof.Machine.execPcSelect s
  | .refreshDue => Sys2Proof.Machine.execRefreshDue s
  | .selfRefreshEntry => Sys2Proof.Machine.execSelfRefreshEntry s
  | .selfRefreshExit => Sys2Proof.Machine.execSelfRefreshExit s
  | .eccError => Sys2Proof.Machine.execEccError s
  | .statusWriteApply => Sys2Proof.Machine.execStatusWriteApply s
  | .statusWriteComplete => Sys2Proof.Machine.execStatusWriteComplete s
  | .tagAllocation => Sys2Proof.Machine.execTagAllocation s
  | .normaliserSweepStart => Sys2Proof.Machine.execNormaliserSweepStart s
  | .normaliserSweepComplete => Sys2Proof.Machine.execNormaliserSweepComplete s
  | .init => Sys2Proof.Machine.execInit s
  | .setacc => Sys2Proof.Machine.execSetacc s
  | .clracc => Sys2Proof.Machine.execClracc s
  | .clrpoison => Sys2Proof.Machine.execClrpoison s
  | .vmcmdIllegal => Sys2Proof.Machine.execVmcmdIllegal s
  | .vmcmdComplete => Sys2Proof.Machine.execVmcmdComplete s
  | .register => Sys2Proof.Machine.execRegister s
  | .deregister => Sys2Proof.Machine.execDeregister s
  | .query => Sys2Proof.Machine.execQuery s
  | .collectiveIssue => Sys2Proof.Machine.execCollectiveIssue s
  | .chunkArrival => Sys2Proof.Machine.execChunkArrival s
  | .markArrival => Sys2Proof.Machine.execMarkArrival s
  | .planeCancel => Sys2Proof.Machine.execPlaneCancel s
  | .slotTmoExpiry => Sys2Proof.Machine.execSlotTmoExpiry s
  | .collectiveTimeout => Sys2Proof.Machine.execCollectiveTimeout s
  | .collectiveCancel => Sys2Proof.Machine.execCollectiveCancel s
  | .collectiveComplete => Sys2Proof.Machine.execCollectiveComplete s
  | .arbourVote => Sys2Proof.Machine.execArbourVote s
  | .arbourNodeTimer => Sys2Proof.Machine.execArbourNodeTimer s
  | .arbourDecision => Sys2Proof.Machine.execArbourDecision s
  | .attemptDeadline => Sys2Proof.Machine.execAttemptDeadline s
  | .attemptVote => Sys2Proof.Machine.execAttemptVote s
  | .attemptSettled => Sys2Proof.Machine.execAttemptSettled s
  | .registerWrite => Sys2Proof.Machine.execRegisterWrite s
  | .cxlReset => Sys2Proof.Machine.execCxlReset s
  | .cxlMemAccess => Sys2Proof.Machine.execCxlMemAccess s
  | .ping => Sys2Proof.Machine.execPing s
  | .bind => Sys2Proof.Machine.execBind s
  | .unbind => Sys2Proof.Machine.execUnbind s
  | .domcfg => Sys2Proof.Machine.execDomcfg s
  | .svnset => Sys2Proof.Machine.execSvnset s
  | .preempt => Sys2Proof.Machine.execPreempt s
  | .irtset => Sys2Proof.Machine.execIrtset s
  | .mbcmdIllegal => Sys2Proof.Machine.execMbcmdIllegal s
  | .chainEnable => Sys2Proof.Machine.execChainEnable s
  | .chtailWrite => Sys2Proof.Machine.execChtailWrite s
  | .tear => Sys2Proof.Machine.execTear s
  | .kill => Sys2Proof.Machine.execKill s
  | .packetFetch => Sys2Proof.Machine.execPacketFetch s
  | .waitPoll => Sys2Proof.Machine.execWaitPoll s
  | .packetComplete => Sys2Proof.Machine.execPacketComplete s
  | .slotSelect => Sys2Proof.Machine.execSlotSelect s
  | .domainShare => Sys2Proof.Machine.execDomainShare s
  | .lateCheck => Sys2Proof.Machine.execLateCheck s
  | .escalationRelease => Sys2Proof.Machine.execEscalationRelease s
  | .escalationCancel => Sys2Proof.Machine.execEscalationCancel s
  | .groupRetire => Sys2Proof.Machine.execGroupRetire s
  | .groupDrained => Sys2Proof.Machine.execGroupDrained s
  | .preemptionPoint => Sys2Proof.Machine.execPreemptionPoint s
  | .preemptTimeout => Sys2Proof.Machine.execPreemptTimeout s
  | .contextSave => Sys2Proof.Machine.execContextSave s
  | .contextSaveComplete => Sys2Proof.Machine.execContextSaveComplete s
  | .contextRestore => Sys2Proof.Machine.execContextRestore s
  | .schcfgWrite => Sys2Proof.Machine.execSchcfgWrite s
  | .tileWordAccept => Sys2Proof.Machine.execTileWordAccept s
  | .tileWordStart => Sys2Proof.Machine.execTileWordStart s
  | .childWordComplete => Sys2Proof.Machine.execChildWordComplete s
  | .tileWordComplete => Sys2Proof.Machine.execTileWordComplete s
  | .tileStop => Sys2Proof.Machine.execTileStop s
  | .regroupPlacement => Sys2Proof.Machine.execRegroupPlacement s
  | .amaxHistoryWrite => Sys2Proof.Machine.execAmaxHistoryWrite s
  | .waitevPoll => Sys2Proof.Machine.execWaitevPoll s
  | .queueStallRelease => Sys2Proof.Machine.execQueueStallRelease s
  | .tileAccessPerformed => Sys2Proof.Machine.execTileAccessPerformed s
  | .taggedAccessPerformed => Sys2Proof.Machine.execTaggedAccessPerformed s
  | .copyCommandStart => Sys2Proof.Machine.execCopyCommandStart s
  | .copyCommandComplete => Sys2Proof.Machine.execCopyCommandComplete s
  | .copyCancelAck => Sys2Proof.Machine.execCopyCancelAck s
  | .nestStart => Sys2Proof.Machine.execNestStart s
  | .nestEnd => Sys2Proof.Machine.execNestEnd s
  | .tlwaitComplete => Sys2Proof.Machine.execTlwaitComplete s
  | .barrierArrival => Sys2Proof.Machine.execBarrierArrival s
  | .bwaitComplete => Sys2Proof.Machine.execBwaitComplete s
  | .invComplete => Sys2Proof.Machine.execInvComplete s
  | .stallWatchdog => Sys2Proof.Machine.execStallWatchdog s
  | .halt => Sys2Proof.Machine.execHalt s
  | .haltMessage => Sys2Proof.Machine.execHaltMessage s
  | .resume => Sys2Proof.Machine.execResume s
  | .dbgdataAccess => Sys2Proof.Machine.execDbgdataAccess s
  | .lineWriteBack => Sys2Proof.Machine.execLineWriteBack s
  | .linkLevelReplay => Sys2Proof.Machine.execLinkLevelReplay s
  | .hbmStackTemperature => Sys2Proof.Machine.execHbmStackTemperature s
  | .invVc8Message => Sys2Proof.Machine.execInvVc8Message s

end Sys2Proof.Machine
end

