-- ==== Sys2Proof/Machine/Step.lean ====
section
/-! DEFINITION. One step: the next turn of the agenda, or a word of the stream in focus. -/

namespace Sys2Proof.Machine

/-- A step of the M-stream of a core: one step word of its nest (R430, R434). -/
def stepMatrix (core : Nat) (s : State) : Meaning :=
  if !issuing s core .m || (s.core core).m.ended then .next s
  else
    match stepWord core { s with focus := { s.focus with core := core, kind := .m } } with
    | (s, some i) => exec i s
    | (s, none) => .next s

/-- A step of an A- or X-stream of a core: the instruction at its PC (R224, R342), or the trap that its fetch
or its encoding raises (R338). -/
def stepStream (core : Nat) (k : StreamKind) (s : State) : Meaning :=
  if k = .m then stepMatrix core s
  else if !issuing s core k then .next s
  else
    let s := { s with focus := { s.focus with core := core, kind := k } }
    match fetchInstr core k s.pc.toNat s with
    | (s, .ok bs) =>
      match decode k bs with
      | .ok (i, _) => exec i s
      | .error _ => .next (trap 0x01 0 (BitVec.ofNat 64 (fromBytes (bs.take 4))) s)
    | (s, .error (.fault e)) => .next (trapErr e s.pc s)
    | (s, .error _) => .next (block .remote s)

/-- A step of an executor: it executes a tile word in progress (R203, R207); those of a halted slot stand still
(R317). -/
def stepTile (id : Nat) (results : List RemoteResult) (s : State) : Meaning :=
  match s.job? id with
  | none => .next s
  | some j =>
    if j.started && !j.executed && !(s.slot j.slot).halted then
      match decodeTile j.word.toNat with
      | .ok i => exec i { s with focus := { s.focus with tile := id }, input := { results := results } }
      | .error _ => .next s
    else .next s

/-- The cycles of 1.3 GHz in a time that passes. -/
def cyclesIn (ns : Nat) : Nat := ns * 13 / 10

/-- A stream's stall counter after some cycles (R316). -/
def StreamSt.elapse (x : StreamSt) (n : Nat) : StreamSt :=
  match x.stall with
  | some w => if w.counted then { x with stallCnt := x.stallCnt + n } else x
  | none => x

/-- A core's stall counters after some cycles; those of a halted core stand still (R316). -/
def CoreSt.elapse (c : CoreSt) (n : Nat) : CoreSt :=
  if c.halted then c
  else
    { c with a := c.a.elapse n, x := c.x.elapse n,
             m := if c.m.stall then { c.m with stallCnt := c.m.stallCnt + n } else c.m,
             copyCnt := if c.copyStall then c.copyCnt + n else c.copyCnt }

/-- The nanoseconds by which DTIME runs fast or slow over a time: at most 1,000 parts per million of it (R64). -/
def slewIn (ns : Nat) (slew : Int) : Int := max (-(ns / 1000 : Int)) (min (ns / 1000 : Int) slew)

/-- Time passes (R64): DTIME, slewed toward the time master's, with the capture windows (R38), the stall counters, and
a halt in progress, whose cores have stopped (R317, R319; DEDUCED, log 87). -/
def elapse (ns : Nat) (s : State) : State :=
  let d := slewIn ns s.fab.slew
  refreshWindows { s with
           dbg := { s.dbg with state := if s.dbg.state = 1 then 2 else s.dbg.state },
           fab := { s.fab with dtime := s.fab.dtime + BitVec.ofNat 64 ((ns : Int) + d).toNat, slew := s.fab.slew - d },
           cores := s.cores.map (fun p => (p.1, p.2.elapse (cyclesIn ns))) }

/-- A turn taken on a state: an event with its signals, a word of a stream or of an executor, time, a host write. -/
def runTurn (t : Turn) (s : State) : Meaning :=
  match t with
  | .event i x => if i.isEvent && inputWf i x then exec i { s with input := x } else .fault .illFormedEvent
  | .stream core k => stepStream core k s
  | .tile id results => stepTile id results s
  | .elapse ns => .next (elapse ns s)
  | .hostStore a bs => .next (hostWrite a bs s)

/-- The end of a turn: one that must wait for an internal link that trains (R25), or for an earlier request to leave
(R49), has had no effect, and leaves `back` (DESIGN CHOICE, log 109). -/
def settleTurn (back : State) (o : Meaning) : Meaning :=
  match o with
  | .next t => if t.focus.waits then .next back else .next t
  | o => o

/-- One step of the machine: the next turn of the agenda; with none, a word of the stream in focus. A turn that must wait
is taken again after the others. -/
def step (s : State) : Host.Outcome State Fault Refusal :=
  match s.agenda with
  | [] => settleTurn s (stepStream s.focus.core s.focus.kind s)
  | t :: rest => settleTurn { s with agenda := rest ++ [t] } (runTurn t { s with agenda := rest })

/-- The base of the scratchpad window (R370). -/
def windowBase : Nat := 2 ^ 64 - 2 ^ 21

/-- The state with an instruction stored where `step` fetches its next one: a stream word in the scratchpad
of core 0, its stream running there; a tile word in an executor's hands. -/
def State.withFetchWord (s : State) (nbits w : Nat) : State :=
  if 64 < nbits then
    let j : TileJob := { (default : TileJob) with id := 0, word := BitVec.ofNat 256 w, started := true }
    { s with agenda := [.tile 0 []], tiles := { s.tiles with jobs := j :: s.tiles.jobs } }
  else
    let bs := leBytes 8 w
    let k : StreamKind :=
      if (decode .x bs).isOk then .x else if (decode .a bs).isOk then .a else if (decode .m bs).isOk then .m else .x
    let pc := BitVec.ofNat 64 windowBase
    let c := s.core 0
    let c := c.spadWrite 0 bs
    let c :=
      match k with
      | .m => { c with m := { c.m with run := true, stopped := false, ended := false, start := pc, pc := pc } }
      | k => c.modStream k (fun x => { x with pc := pc, run := .running })
    { s.setCore 0 c with agenda := [], focus := { core := 0, kind := k, tile := 0 } }

end Sys2Proof.Machine
end

