-- ==== Sys2Proof/Laws/PerInstr.lean ====
section
/-! SUPPORT. Statements about every instruction as syntax, one lemma for each constructor. -/

/-- The words of a well-formed instruction fit their length: a word, a word with its extension, or a tile word
(R334, R339, R341, R345). -/
def Sys2Proof.Laws.EncodeFits.Statement (i : Sys2Proof.Instr) : Prop :=
  ∀ n w, Sys2Proof.wellFormed i = true → Sys2Proof.encode i = some (n, w) →
    (n = 4 ∨ n = 8 ∨ n = 32) ∧ w < 2 ^ (8 * n)

namespace Sys2Proof.Laws

open Sys2Proof

theorem bool_le (b : Bool) : b.toNat ≤ 1 := by cases b <;> decide

theorem tileBits_lt (w : TileWord) (h : w.wf = true) (op : Nat) (ho : op < 256) : op + tileBits w < 2 ^ 256 := by
  simp only [TileWord.wf, decide_eq_true_eq] at h
  have h1 := bool_le w.strict
  have h2 := bool_le w.txn
  have h3 := bool_le w.async
  have h4 := bool_le w.stop
  have h5 := bool_le w.rsv15
  have h6 := w.mode.isLt
  have h7 := w.p0.isLt
  have h8 := w.p1.isLt
  have h9 := w.rsv.isLt
  have h10 := w.bar.isLt
  unfold tileBits
  norm_num at *
  omega

end Sys2Proof.Laws

section OneByOne

set_option Elab.async false

theorem Sys2Proof.Laws.EncodeFits.add (d a b : Nat) :
    Sys2Proof.Laws.EncodeFits.Statement (Sys2Proof.Instr.add d a b) := by
  intro n w h e
  cases e
  simp [Sys2Proof.wellFormed, Sys2Proof.fields] at *
  omega

theorem Sys2Proof.Laws.EncodeFits.sub (d a b : Nat) :
    Sys2Proof.Laws.EncodeFits.Statement (Sys2Proof.Instr.sub d a b) := by
  intro n w h e
  cases e
  simp [Sys2Proof.wellFormed, Sys2Proof.fields] at *
  omega

theorem Sys2Proof.Laws.EncodeFits.mul (d a b : Nat) :
    Sys2Proof.Laws.EncodeFits.Statement (Sys2Proof.Instr.mul d a b) := by
  intro n w h e
  cases e
  simp [Sys2Proof.wellFormed, Sys2Proof.fields] at *
  omega

theorem Sys2Proof.Laws.EncodeFits.mulh (d a b : Nat) :
    Sys2Proof.Laws.EncodeFits.Statement (Sys2Proof.Instr.mulh d a b) := by
  intro n w h e
  cases e
  simp [Sys2Proof.wellFormed, Sys2Proof.fields] at *
  omega

theorem Sys2Proof.Laws.EncodeFits.mulhu (d a b : Nat) :
    Sys2Proof.Laws.EncodeFits.Statement (Sys2Proof.Instr.mulhu d a b) := by
  intro n w h e
  cases e
  simp [Sys2Proof.wellFormed, Sys2Proof.fields] at *
  omega

theorem Sys2Proof.Laws.EncodeFits.div (d a b : Nat) :
    Sys2Proof.Laws.EncodeFits.Statement (Sys2Proof.Instr.div d a b) := by
  intro n w h e
  cases e
  simp [Sys2Proof.wellFormed, Sys2Proof.fields] at *
  omega

theorem Sys2Proof.Laws.EncodeFits.divu (d a b : Nat) :
    Sys2Proof.Laws.EncodeFits.Statement (Sys2Proof.Instr.divu d a b) := by
  intro n w h e
  cases e
  simp [Sys2Proof.wellFormed, Sys2Proof.fields] at *
  omega

theorem Sys2Proof.Laws.EncodeFits.rem (d a b : Nat) :
    Sys2Proof.Laws.EncodeFits.Statement (Sys2Proof.Instr.rem d a b) := by
  intro n w h e
  cases e
  simp [Sys2Proof.wellFormed, Sys2Proof.fields] at *
  omega

theorem Sys2Proof.Laws.EncodeFits.remu (d a b : Nat) :
    Sys2Proof.Laws.EncodeFits.Statement (Sys2Proof.Instr.remu d a b) := by
  intro n w h e
  cases e
  simp [Sys2Proof.wellFormed, Sys2Proof.fields] at *
  omega

theorem Sys2Proof.Laws.EncodeFits.and (d a b : Nat) :
    Sys2Proof.Laws.EncodeFits.Statement (Sys2Proof.Instr.and d a b) := by
  intro n w h e
  cases e
  simp [Sys2Proof.wellFormed, Sys2Proof.fields] at *
  omega

theorem Sys2Proof.Laws.EncodeFits.or (d a b : Nat) :
    Sys2Proof.Laws.EncodeFits.Statement (Sys2Proof.Instr.or d a b) := by
  intro n w h e
  cases e
  simp [Sys2Proof.wellFormed, Sys2Proof.fields] at *
  omega

theorem Sys2Proof.Laws.EncodeFits.xor (d a b : Nat) :
    Sys2Proof.Laws.EncodeFits.Statement (Sys2Proof.Instr.xor d a b) := by
  intro n w h e
  cases e
  simp [Sys2Proof.wellFormed, Sys2Proof.fields] at *
  omega

theorem Sys2Proof.Laws.EncodeFits.andn (d a b : Nat) :
    Sys2Proof.Laws.EncodeFits.Statement (Sys2Proof.Instr.andn d a b) := by
  intro n w h e
  cases e
  simp [Sys2Proof.wellFormed, Sys2Proof.fields] at *
  omega

theorem Sys2Proof.Laws.EncodeFits.orn (d a b : Nat) :
    Sys2Proof.Laws.EncodeFits.Statement (Sys2Proof.Instr.orn d a b) := by
  intro n w h e
  cases e
  simp [Sys2Proof.wellFormed, Sys2Proof.fields] at *
  omega

theorem Sys2Proof.Laws.EncodeFits.shl (d a b : Nat) :
    Sys2Proof.Laws.EncodeFits.Statement (Sys2Proof.Instr.shl d a b) := by
  intro n w h e
  cases e
  simp [Sys2Proof.wellFormed, Sys2Proof.fields] at *
  omega

theorem Sys2Proof.Laws.EncodeFits.shr (d a b : Nat) :
    Sys2Proof.Laws.EncodeFits.Statement (Sys2Proof.Instr.shr d a b) := by
  intro n w h e
  cases e
  simp [Sys2Proof.wellFormed, Sys2Proof.fields] at *
  omega

theorem Sys2Proof.Laws.EncodeFits.sra (d a b : Nat) :
    Sys2Proof.Laws.EncodeFits.Statement (Sys2Proof.Instr.sra d a b) := by
  intro n w h e
  cases e
  simp [Sys2Proof.wellFormed, Sys2Proof.fields] at *
  omega

theorem Sys2Proof.Laws.EncodeFits.rol (d a b : Nat) :
    Sys2Proof.Laws.EncodeFits.Statement (Sys2Proof.Instr.rol d a b) := by
  intro n w h e
  cases e
  simp [Sys2Proof.wellFormed, Sys2Proof.fields] at *
  omega

theorem Sys2Proof.Laws.EncodeFits.ror (d a b : Nat) :
    Sys2Proof.Laws.EncodeFits.Statement (Sys2Proof.Instr.ror d a b) := by
  intro n w h e
  cases e
  simp [Sys2Proof.wellFormed, Sys2Proof.fields] at *
  omega

theorem Sys2Proof.Laws.EncodeFits.min (d a b : Nat) :
    Sys2Proof.Laws.EncodeFits.Statement (Sys2Proof.Instr.min d a b) := by
  intro n w h e
  cases e
  simp [Sys2Proof.wellFormed, Sys2Proof.fields] at *
  omega

theorem Sys2Proof.Laws.EncodeFits.max (d a b : Nat) :
    Sys2Proof.Laws.EncodeFits.Statement (Sys2Proof.Instr.max d a b) := by
  intro n w h e
  cases e
  simp [Sys2Proof.wellFormed, Sys2Proof.fields] at *
  omega

theorem Sys2Proof.Laws.EncodeFits.minu (d a b : Nat) :
    Sys2Proof.Laws.EncodeFits.Statement (Sys2Proof.Instr.minu d a b) := by
  intro n w h e
  cases e
  simp [Sys2Proof.wellFormed, Sys2Proof.fields] at *
  omega

theorem Sys2Proof.Laws.EncodeFits.maxu (d a b : Nat) :
    Sys2Proof.Laws.EncodeFits.Statement (Sys2Proof.Instr.maxu d a b) := by
  intro n w h e
  cases e
  simp [Sys2Proof.wellFormed, Sys2Proof.fields] at *
  omega

theorem Sys2Proof.Laws.EncodeFits.slt (d a b : Nat) :
    Sys2Proof.Laws.EncodeFits.Statement (Sys2Proof.Instr.slt d a b) := by
  intro n w h e
  cases e
  simp [Sys2Proof.wellFormed, Sys2Proof.fields] at *
  omega

theorem Sys2Proof.Laws.EncodeFits.sltu (d a b : Nat) :
    Sys2Proof.Laws.EncodeFits.Statement (Sys2Proof.Instr.sltu d a b) := by
  intro n w h e
  cases e
  simp [Sys2Proof.wellFormed, Sys2Proof.fields] at *
  omega

theorem Sys2Proof.Laws.EncodeFits.seq (d a b : Nat) :
    Sys2Proof.Laws.EncodeFits.Statement (Sys2Proof.Instr.seq d a b) := by
  intro n w h e
  cases e
  simp [Sys2Proof.wellFormed, Sys2Proof.fields] at *
  omega

theorem Sys2Proof.Laws.EncodeFits.sel (d a b n : Nat) :
    Sys2Proof.Laws.EncodeFits.Statement (Sys2Proof.Instr.sel d a b n) := by
  intro n w h e
  cases e
  simp [Sys2Proof.wellFormed, Sys2Proof.fields] at *
  omega

theorem Sys2Proof.Laws.EncodeFits.clz (d a : Nat) :
    Sys2Proof.Laws.EncodeFits.Statement (Sys2Proof.Instr.clz d a) := by
  intro n w h e
  cases e
  simp [Sys2Proof.wellFormed, Sys2Proof.fields] at *
  omega

theorem Sys2Proof.Laws.EncodeFits.ctz (d a : Nat) :
    Sys2Proof.Laws.EncodeFits.Statement (Sys2Proof.Instr.ctz d a) := by
  intro n w h e
  cases e
  simp [Sys2Proof.wellFormed, Sys2Proof.fields] at *
  omega

theorem Sys2Proof.Laws.EncodeFits.popc (d a : Nat) :
    Sys2Proof.Laws.EncodeFits.Statement (Sys2Proof.Instr.popc d a) := by
  intro n w h e
  cases e
  simp [Sys2Proof.wellFormed, Sys2Proof.fields] at *
  omega

theorem Sys2Proof.Laws.EncodeFits.brev (d a : Nat) :
    Sys2Proof.Laws.EncodeFits.Statement (Sys2Proof.Instr.brev d a) := by
  intro n w h e
  cases e
  simp [Sys2Proof.wellFormed, Sys2Proof.fields] at *
  omega

theorem Sys2Proof.Laws.EncodeFits.bswap (d a : Nat) :
    Sys2Proof.Laws.EncodeFits.Statement (Sys2Proof.Instr.bswap d a) := by
  intro n w h e
  cases e
  simp [Sys2Proof.wellFormed, Sys2Proof.fields] at *
  omega

theorem Sys2Proof.Laws.EncodeFits.bfx (d a b c : Nat) :
    Sys2Proof.Laws.EncodeFits.Statement (Sys2Proof.Instr.bfx d a b c) := by
  intro n w h e
  cases e
  simp [Sys2Proof.wellFormed, Sys2Proof.fields] at *
  omega

theorem Sys2Proof.Laws.EncodeFits.bfi (d a b c : Nat) :
    Sys2Proof.Laws.EncodeFits.Statement (Sys2Proof.Instr.bfi d a b c) := by
  intro n w h e
  cases e
  simp [Sys2Proof.wellFormed, Sys2Proof.fields] at *
  omega

theorem Sys2Proof.Laws.EncodeFits.clmul (d a b : Nat) :
    Sys2Proof.Laws.EncodeFits.Statement (Sys2Proof.Instr.clmul d a b) := by
  intro n w h e
  cases e
  simp [Sys2Proof.wellFormed, Sys2Proof.fields] at *
  omega

theorem Sys2Proof.Laws.EncodeFits.clmulh (d a b : Nat) :
    Sys2Proof.Laws.EncodeFits.Statement (Sys2Proof.Instr.clmulh d a b) := by
  intro n w h e
  cases e
  simp [Sys2Proof.wellFormed, Sys2Proof.fields] at *
  omega

theorem Sys2Proof.Laws.EncodeFits.fadd (d a b : Nat) :
    Sys2Proof.Laws.EncodeFits.Statement (Sys2Proof.Instr.fadd d a b) := by
  intro n w h e
  cases e
  simp [Sys2Proof.wellFormed, Sys2Proof.fields] at *
  omega

theorem Sys2Proof.Laws.EncodeFits.fsub (d a b : Nat) :
    Sys2Proof.Laws.EncodeFits.Statement (Sys2Proof.Instr.fsub d a b) := by
  intro n w h e
  cases e
  simp [Sys2Proof.wellFormed, Sys2Proof.fields] at *
  omega

theorem Sys2Proof.Laws.EncodeFits.fmul (d a b : Nat) :
    Sys2Proof.Laws.EncodeFits.Statement (Sys2Proof.Instr.fmul d a b) := by
  intro n w h e
  cases e
  simp [Sys2Proof.wellFormed, Sys2Proof.fields] at *
  omega

theorem Sys2Proof.Laws.EncodeFits.fma (d a b c : Nat) :
    Sys2Proof.Laws.EncodeFits.Statement (Sys2Proof.Instr.fma d a b c) := by
  intro n w h e
  cases e
  simp [Sys2Proof.wellFormed, Sys2Proof.fields] at *
  omega

theorem Sys2Proof.Laws.EncodeFits.fmin (d a b : Nat) :
    Sys2Proof.Laws.EncodeFits.Statement (Sys2Proof.Instr.fmin d a b) := by
  intro n w h e
  cases e
  simp [Sys2Proof.wellFormed, Sys2Proof.fields] at *
  omega

theorem Sys2Proof.Laws.EncodeFits.fmax (d a b : Nat) :
    Sys2Proof.Laws.EncodeFits.Statement (Sys2Proof.Instr.fmax d a b) := by
  intro n w h e
  cases e
  simp [Sys2Proof.wellFormed, Sys2Proof.fields] at *
  omega

theorem Sys2Proof.Laws.EncodeFits.fabs (d a : Nat) :
    Sys2Proof.Laws.EncodeFits.Statement (Sys2Proof.Instr.fabs d a) := by
  intro n w h e
  cases e
  simp [Sys2Proof.wellFormed, Sys2Proof.fields] at *
  omega

theorem Sys2Proof.Laws.EncodeFits.fneg (d a : Nat) :
    Sys2Proof.Laws.EncodeFits.Statement (Sys2Proof.Instr.fneg d a) := by
  intro n w h e
  cases e
  simp [Sys2Proof.wellFormed, Sys2Proof.fields] at *
  omega

theorem Sys2Proof.Laws.EncodeFits.fcmpeq (d a b : Nat) :
    Sys2Proof.Laws.EncodeFits.Statement (Sys2Proof.Instr.fcmpeq d a b) := by
  intro n w h e
  cases e
  simp [Sys2Proof.wellFormed, Sys2Proof.fields] at *
  omega

theorem Sys2Proof.Laws.EncodeFits.fcmplt (d a b : Nat) :
    Sys2Proof.Laws.EncodeFits.Statement (Sys2Proof.Instr.fcmplt d a b) := by
  intro n w h e
  cases e
  simp [Sys2Proof.wellFormed, Sys2Proof.fields] at *
  omega

theorem Sys2Proof.Laws.EncodeFits.fcmple (d a b : Nat) :
    Sys2Proof.Laws.EncodeFits.Statement (Sys2Proof.Instr.fcmple d a b) := by
  intro n w h e
  cases e
  simp [Sys2Proof.wellFormed, Sys2Proof.fields] at *
  omega

theorem Sys2Proof.Laws.EncodeFits.fcvtfi (d a cv : Nat) :
    Sys2Proof.Laws.EncodeFits.Statement (Sys2Proof.Instr.fcvtfi d a cv) := by
  intro n w h e
  cases e
  simp [Sys2Proof.wellFormed, Sys2Proof.fields] at *
  omega

theorem Sys2Proof.Laws.EncodeFits.fcvtif (d a cv : Nat) :
    Sys2Proof.Laws.EncodeFits.Statement (Sys2Proof.Instr.fcvtif d a cv) := by
  intro n w h e
  cases e
  simp [Sys2Proof.wellFormed, Sys2Proof.fields] at *
  omega

theorem Sys2Proof.Laws.EncodeFits.pcmp (d a b cond : Nat) :
    Sys2Proof.Laws.EncodeFits.Statement (Sys2Proof.Instr.pcmp d a b cond) := by
  intro n w h e
  cases e
  simp [Sys2Proof.wellFormed, Sys2Proof.fields] at *
  omega

theorem Sys2Proof.Laws.EncodeFits.pand (d a b : Nat) :
    Sys2Proof.Laws.EncodeFits.Statement (Sys2Proof.Instr.pand d a b) := by
  intro n w h e
  cases e
  simp [Sys2Proof.wellFormed, Sys2Proof.fields] at *
  omega

theorem Sys2Proof.Laws.EncodeFits.por (d a b : Nat) :
    Sys2Proof.Laws.EncodeFits.Statement (Sys2Proof.Instr.por d a b) := by
  intro n w h e
  cases e
  simp [Sys2Proof.wellFormed, Sys2Proof.fields] at *
  omega

theorem Sys2Proof.Laws.EncodeFits.pnot (d a : Nat) :
    Sys2Proof.Laws.EncodeFits.Statement (Sys2Proof.Instr.pnot d a) := by
  intro n w h e
  cases e
  simp [Sys2Proof.wellFormed, Sys2Proof.fields] at *
  omega

theorem Sys2Proof.Laws.EncodeFits.pmov (d a mode : Nat) :
    Sys2Proof.Laws.EncodeFits.Statement (Sys2Proof.Instr.pmov d a mode) := by
  intro n w h e
  cases e
  simp [Sys2Proof.wellFormed, Sys2Proof.fields] at *
  omega

theorem Sys2Proof.Laws.EncodeFits.addi (d a : Nat) (imm : BitVec 16) :
    Sys2Proof.Laws.EncodeFits.Statement (Sys2Proof.Instr.addi d a imm) := by
  intro n w h e
  cases e
  have := imm.isLt
  simp [Sys2Proof.wellFormed, Sys2Proof.fields] at *
  omega

theorem Sys2Proof.Laws.EncodeFits.andi (d a : Nat) (imm : BitVec 16) :
    Sys2Proof.Laws.EncodeFits.Statement (Sys2Proof.Instr.andi d a imm) := by
  intro n w h e
  cases e
  have := imm.isLt
  simp [Sys2Proof.wellFormed, Sys2Proof.fields] at *
  omega

theorem Sys2Proof.Laws.EncodeFits.ori (d a : Nat) (imm : BitVec 16) :
    Sys2Proof.Laws.EncodeFits.Statement (Sys2Proof.Instr.ori d a imm) := by
  intro n w h e
  cases e
  have := imm.isLt
  simp [Sys2Proof.wellFormed, Sys2Proof.fields] at *
  omega

theorem Sys2Proof.Laws.EncodeFits.xori (d a : Nat) (imm : BitVec 16) :
    Sys2Proof.Laws.EncodeFits.Statement (Sys2Proof.Instr.xori d a imm) := by
  intro n w h e
  cases e
  have := imm.isLt
  simp [Sys2Proof.wellFormed, Sys2Proof.fields] at *
  omega

theorem Sys2Proof.Laws.EncodeFits.shli (d a sh : Nat) :
    Sys2Proof.Laws.EncodeFits.Statement (Sys2Proof.Instr.shli d a sh) := by
  intro n w h e
  cases e
  simp [Sys2Proof.wellFormed, Sys2Proof.fields] at *
  omega

theorem Sys2Proof.Laws.EncodeFits.shri (d a sh : Nat) :
    Sys2Proof.Laws.EncodeFits.Statement (Sys2Proof.Instr.shri d a sh) := by
  intro n w h e
  cases e
  simp [Sys2Proof.wellFormed, Sys2Proof.fields] at *
  omega

theorem Sys2Proof.Laws.EncodeFits.srai (d a sh : Nat) :
    Sys2Proof.Laws.EncodeFits.Statement (Sys2Proof.Instr.srai d a sh) := by
  intro n w h e
  cases e
  simp [Sys2Proof.wellFormed, Sys2Proof.fields] at *
  omega

theorem Sys2Proof.Laws.EncodeFits.slti (d a : Nat) (imm : BitVec 16) :
    Sys2Proof.Laws.EncodeFits.Statement (Sys2Proof.Instr.slti d a imm) := by
  intro n w h e
  cases e
  have := imm.isLt
  simp [Sys2Proof.wellFormed, Sys2Proof.fields] at *
  omega

theorem Sys2Proof.Laws.EncodeFits.sltiu (d a : Nat) (imm : BitVec 16) :
    Sys2Proof.Laws.EncodeFits.Statement (Sys2Proof.Instr.sltiu d a imm) := by
  intro n w h e
  cases e
  have := imm.isLt
  simp [Sys2Proof.wellFormed, Sys2Proof.fields] at *
  omega

theorem Sys2Proof.Laws.EncodeFits.li (d : Nat) (imm : BitVec 16) :
    Sys2Proof.Laws.EncodeFits.Statement (Sys2Proof.Instr.li d imm) := by
  intro n w h e
  cases e
  have := imm.isLt
  simp [Sys2Proof.wellFormed, Sys2Proof.fields] at *
  omega

theorem Sys2Proof.Laws.EncodeFits.lui (d : Nat) (imm : BitVec 16) :
    Sys2Proof.Laws.EncodeFits.Statement (Sys2Proof.Instr.lui d imm) := by
  intro n w h e
  cases e
  have := imm.isLt
  simp [Sys2Proof.wellFormed, Sys2Proof.fields] at *
  omega

theorem Sys2Proof.Laws.EncodeFits.beq (a b : Nat) (off : BitVec 16) :
    Sys2Proof.Laws.EncodeFits.Statement (Sys2Proof.Instr.beq a b off) := by
  intro n w h e
  cases e
  have := off.isLt
  simp [Sys2Proof.wellFormed, Sys2Proof.fields] at *
  omega

theorem Sys2Proof.Laws.EncodeFits.bne (a b : Nat) (off : BitVec 16) :
    Sys2Proof.Laws.EncodeFits.Statement (Sys2Proof.Instr.bne a b off) := by
  intro n w h e
  cases e
  have := off.isLt
  simp [Sys2Proof.wellFormed, Sys2Proof.fields] at *
  omega

theorem Sys2Proof.Laws.EncodeFits.blt (a b : Nat) (off : BitVec 16) :
    Sys2Proof.Laws.EncodeFits.Statement (Sys2Proof.Instr.blt a b off) := by
  intro n w h e
  cases e
  have := off.isLt
  simp [Sys2Proof.wellFormed, Sys2Proof.fields] at *
  omega

theorem Sys2Proof.Laws.EncodeFits.bge (a b : Nat) (off : BitVec 16) :
    Sys2Proof.Laws.EncodeFits.Statement (Sys2Proof.Instr.bge a b off) := by
  intro n w h e
  cases e
  have := off.isLt
  simp [Sys2Proof.wellFormed, Sys2Proof.fields] at *
  omega

theorem Sys2Proof.Laws.EncodeFits.bltu (a b : Nat) (off : BitVec 16) :
    Sys2Proof.Laws.EncodeFits.Statement (Sys2Proof.Instr.bltu a b off) := by
  intro n w h e
  cases e
  have := off.isLt
  simp [Sys2Proof.wellFormed, Sys2Proof.fields] at *
  omega

theorem Sys2Proof.Laws.EncodeFits.bgeu (a b : Nat) (off : BitVec 16) :
    Sys2Proof.Laws.EncodeFits.Statement (Sys2Proof.Instr.bgeu a b off) := by
  intro n w h e
  cases e
  have := off.isLt
  simp [Sys2Proof.wellFormed, Sys2Proof.fields] at *
  omega

theorem Sys2Proof.Laws.EncodeFits.j (off : BitVec 26) :
    Sys2Proof.Laws.EncodeFits.Statement (Sys2Proof.Instr.j off) := by
  intro n w h e
  cases e
  have := off.isLt
  simp [Sys2Proof.fields] at *
  omega

theorem Sys2Proof.Laws.EncodeFits.jal (off : BitVec 26) :
    Sys2Proof.Laws.EncodeFits.Statement (Sys2Proof.Instr.jal off) := by
  intro n w h e
  cases e
  have := off.isLt
  simp [Sys2Proof.fields] at *
  omega

theorem Sys2Proof.Laws.EncodeFits.jr (d a : Nat) (imm : BitVec 16) :
    Sys2Proof.Laws.EncodeFits.Statement (Sys2Proof.Instr.jr d a imm) := by
  intro n w h e
  cases e
  have := imm.isLt
  simp [Sys2Proof.wellFormed, Sys2Proof.fields] at *
  omega

theorem Sys2Proof.Laws.EncodeFits.loop (d a len : Nat) :
    Sys2Proof.Laws.EncodeFits.Statement (Sys2Proof.Instr.loop d a len) := by
  intro n w h e
  cases e
  simp [Sys2Proof.wellFormed, Sys2Proof.fields] at *
  omega

theorem Sys2Proof.Laws.EncodeFits.loops (d a st len : Nat) :
    Sys2Proof.Laws.EncodeFits.Statement (Sys2Proof.Instr.loops d a st len) := by
  intro n w h e
  cases e
  simp [Sys2Proof.wellFormed, Sys2Proof.fields] at *
  omega

theorem Sys2Proof.Laws.EncodeFits.ldb (d b p : Nat) (post sx : Bool) (off : BitVec 10) :
    Sys2Proof.Laws.EncodeFits.Statement (Sys2Proof.Instr.ldb d b p post sx off) := by
  intro n w h e
  cases e
  have := Sys2Proof.Laws.bool_le post
  have := Sys2Proof.Laws.bool_le sx
  have := off.isLt
  simp [Sys2Proof.wellFormed, Sys2Proof.fields] at *
  omega

theorem Sys2Proof.Laws.EncodeFits.ldh (d b p : Nat) (post sx : Bool) (off : BitVec 10) :
    Sys2Proof.Laws.EncodeFits.Statement (Sys2Proof.Instr.ldh d b p post sx off) := by
  intro n w h e
  cases e
  have := Sys2Proof.Laws.bool_le post
  have := Sys2Proof.Laws.bool_le sx
  have := off.isLt
  simp [Sys2Proof.wellFormed, Sys2Proof.fields] at *
  omega

theorem Sys2Proof.Laws.EncodeFits.ldw (d b p : Nat) (post sx : Bool) (off : BitVec 10) :
    Sys2Proof.Laws.EncodeFits.Statement (Sys2Proof.Instr.ldw d b p post sx off) := by
  intro n w h e
  cases e
  have := Sys2Proof.Laws.bool_le post
  have := Sys2Proof.Laws.bool_le sx
  have := off.isLt
  simp [Sys2Proof.wellFormed, Sys2Proof.fields] at *
  omega

theorem Sys2Proof.Laws.EncodeFits.ldd (d b p : Nat) (post : Bool) (off : BitVec 10) :
    Sys2Proof.Laws.EncodeFits.Statement (Sys2Proof.Instr.ldd d b p post off) := by
  intro n w h e
  cases e
  have := Sys2Proof.Laws.bool_le post
  have := off.isLt
  simp [Sys2Proof.wellFormed, Sys2Proof.fields] at *
  omega

theorem Sys2Proof.Laws.EncodeFits.stb (d b p : Nat) (post : Bool) (sc : Nat) (off : BitVec 10) :
    Sys2Proof.Laws.EncodeFits.Statement (Sys2Proof.Instr.stb d b p post sc off) := by
  intro n w h e
  cases e
  have := Sys2Proof.Laws.bool_le post
  have := off.isLt
  simp [Sys2Proof.wellFormed, Sys2Proof.fields] at *
  omega

theorem Sys2Proof.Laws.EncodeFits.sth (d b p : Nat) (post : Bool) (sc : Nat) (off : BitVec 10) :
    Sys2Proof.Laws.EncodeFits.Statement (Sys2Proof.Instr.sth d b p post sc off) := by
  intro n w h e
  cases e
  have := Sys2Proof.Laws.bool_le post
  have := off.isLt
  simp [Sys2Proof.wellFormed, Sys2Proof.fields] at *
  omega

theorem Sys2Proof.Laws.EncodeFits.stw (d b p : Nat) (post : Bool) (sc : Nat) (off : BitVec 10) :
    Sys2Proof.Laws.EncodeFits.Statement (Sys2Proof.Instr.stw d b p post sc off) := by
  intro n w h e
  cases e
  have := Sys2Proof.Laws.bool_le post
  have := off.isLt
  simp [Sys2Proof.wellFormed, Sys2Proof.fields] at *
  omega

theorem Sys2Proof.Laws.EncodeFits.std (d b p : Nat) (post : Bool) (sc : Nat) (off : BitVec 10) :
    Sys2Proof.Laws.EncodeFits.Statement (Sys2Proof.Instr.std d b p post sc off) := by
  intro n w h e
  cases e
  have := Sys2Proof.Laws.bool_le post
  have := off.isLt
  simp [Sys2Proof.wellFormed, Sys2Proof.fields] at *
  omega

theorem Sys2Proof.Laws.EncodeFits.ldq (q b p : Nat) (post w : Bool) (off : BitVec 10) :
    Sys2Proof.Laws.EncodeFits.Statement (Sys2Proof.Instr.ldq q b p post w off) := by
  intro n w h e
  cases e
  have := Sys2Proof.Laws.bool_le post
  have := Sys2Proof.Laws.bool_le w
  have := off.isLt
  simp [Sys2Proof.wellFormed, Sys2Proof.fields] at *
  omega

theorem Sys2Proof.Laws.EncodeFits.stq (q b p : Nat) (post w : Bool) (off : BitVec 10) :
    Sys2Proof.Laws.EncodeFits.Statement (Sys2Proof.Instr.stq q b p post w off) := by
  intro n w h e
  cases e
  have := Sys2Proof.Laws.bool_le post
  have := Sys2Proof.Laws.bool_le w
  have := off.isLt
  simp [Sys2Proof.wellFormed, Sys2Proof.fields] at *
  omega

theorem Sys2Proof.Laws.EncodeFits.ldf (d b p : Nat) (post sys keep : Bool) (off : BitVec 10) :
    Sys2Proof.Laws.EncodeFits.Statement (Sys2Proof.Instr.ldf d b p post sys keep off) := by
  intro n w h e
  cases e
  have := Sys2Proof.Laws.bool_le post
  have := Sys2Proof.Laws.bool_le sys
  have := Sys2Proof.Laws.bool_le keep
  have := off.isLt
  simp [Sys2Proof.wellFormed, Sys2Proof.fields] at *
  omega

theorem Sys2Proof.Laws.EncodeFits.ste (d b p : Nat) (post sys keep : Bool) (off : BitVec 10) :
    Sys2Proof.Laws.EncodeFits.Statement (Sys2Proof.Instr.ste d b p post sys keep off) := by
  intro n w h e
  cases e
  have := Sys2Proof.Laws.bool_le post
  have := Sys2Proof.Laws.bool_le sys
  have := Sys2Proof.Laws.bool_le keep
  have := off.isLt
  simp [Sys2Proof.wellFormed, Sys2Proof.fields] at *
  omega

theorem Sys2Proof.Laws.EncodeFits.tagset (d b p : Nat) (post : Bool) (off : BitVec 10) :
    Sys2Proof.Laws.EncodeFits.Statement (Sys2Proof.Instr.tagset d b p post off) := by
  intro n w h e
  cases e
  have := Sys2Proof.Laws.bool_le post
  have := off.isLt
  simp [Sys2Proof.wellFormed, Sys2Proof.fields] at *
  omega

theorem Sys2Proof.Laws.EncodeFits.tagclr (d b p : Nat) (post : Bool) (off : BitVec 10) :
    Sys2Proof.Laws.EncodeFits.Statement (Sys2Proof.Instr.tagclr d b p post off) := by
  intro n w h e
  cases e
  have := Sys2Proof.Laws.bool_le post
  have := off.isLt
  simp [Sys2Proof.wellFormed, Sys2Proof.fields] at *
  omega

theorem Sys2Proof.Laws.EncodeFits.rld (d b p : Nat) (post ord : Bool) (off : BitVec 10) :
    Sys2Proof.Laws.EncodeFits.Statement (Sys2Proof.Instr.rld d b p post ord off) := by
  intro n w h e
  cases e
  have := Sys2Proof.Laws.bool_le post
  have := Sys2Proof.Laws.bool_le ord
  have := off.isLt
  simp [Sys2Proof.wellFormed, Sys2Proof.fields] at *
  omega

theorem Sys2Proof.Laws.EncodeFits.rst (d b p : Nat) (post ord : Bool) (off : BitVec 10) :
    Sys2Proof.Laws.EncodeFits.Statement (Sys2Proof.Instr.rst d b p post ord off) := by
  intro n w h e
  cases e
  have := Sys2Proof.Laws.bool_le post
  have := Sys2Proof.Laws.bool_le ord
  have := off.isLt
  simp [Sys2Proof.wellFormed, Sys2Proof.fields] at *
  omega

theorem Sys2Proof.Laws.EncodeFits.rsta (d b p : Nat) (post ord : Bool) (off : BitVec 10) :
    Sys2Proof.Laws.EncodeFits.Statement (Sys2Proof.Instr.rsta d b p post ord off) := by
  intro n w h e
  cases e
  have := Sys2Proof.Laws.bool_le post
  have := Sys2Proof.Laws.bool_le ord
  have := off.isLt
  simp [Sys2Proof.wellFormed, Sys2Proof.fields] at *
  omega

theorem Sys2Proof.Laws.EncodeFits.amo (d a b op : Nat) :
    Sys2Proof.Laws.EncodeFits.Statement (Sys2Proof.Instr.amo d a b op) := by
  intro n w h e
  cases e
  simp [Sys2Proof.wellFormed, Sys2Proof.fields] at *
  omega

theorem Sys2Proof.Laws.EncodeFits.amor (d a b op : Nat) :
    Sys2Proof.Laws.EncodeFits.Statement (Sys2Proof.Instr.amor d a b op) := by
  intro n w h e
  cases e
  simp [Sys2Proof.wellFormed, Sys2Proof.fields] at *
  omega

theorem Sys2Proof.Laws.EncodeFits.mcst (d a b set : Nat) :
    Sys2Proof.Laws.EncodeFits.Statement (Sys2Proof.Instr.mcst d a b set) := by
  intro n w h e
  cases e
  simp [Sys2Proof.wellFormed, Sys2Proof.fields] at *
  omega

theorem Sys2Proof.Laws.EncodeFits.cpy (d a b sc : Nat) :
    Sys2Proof.Laws.EncodeFits.Statement (Sys2Proof.Instr.cpy d a b sc) := by
  intro n w h e
  cases e
  simp [Sys2Proof.wellFormed, Sys2Proof.fields] at *
  omega

theorem Sys2Proof.Laws.EncodeFits.cpyc (d a b sc : Nat) :
    Sys2Proof.Laws.EncodeFits.Statement (Sys2Proof.Instr.cpyc d a b sc) := by
  intro n w h e
  cases e
  simp [Sys2Proof.wellFormed, Sys2Proof.fields] at *
  omega

theorem Sys2Proof.Laws.EncodeFits.cpyx (a : Nat) :
    Sys2Proof.Laws.EncodeFits.Statement (Sys2Proof.Instr.cpyx a) := by
  intro n w h e
  cases e
  simp [Sys2Proof.wellFormed, Sys2Proof.fields] at *
  omega

theorem Sys2Proof.Laws.EncodeFits.cpyq (d a : Nat) :
    Sys2Proof.Laws.EncodeFits.Statement (Sys2Proof.Instr.cpyq d a) := by
  intro n w h e
  cases e
  simp [Sys2Proof.wellFormed, Sys2Proof.fields] at *
  omega

theorem Sys2Proof.Laws.EncodeFits.lrec (a b lvl : Nat) :
    Sys2Proof.Laws.EncodeFits.Statement (Sys2Proof.Instr.lrec a b lvl) := by
  intro n w h e
  cases e
  simp [Sys2Proof.wellFormed, Sys2Proof.fields] at *
  omega

theorem Sys2Proof.Laws.EncodeFits.fence (sc : Nat) :
    Sys2Proof.Laws.EncodeFits.Statement (Sys2Proof.Instr.fence sc) := by
  intro n w h e
  cases e
  simp [Sys2Proof.wellFormed, Sys2Proof.fields] at *
  omega

theorem Sys2Proof.Laws.EncodeFits.rel (sc : Nat) :
    Sys2Proof.Laws.EncodeFits.Statement (Sys2Proof.Instr.rel sc) := by
  intro n w h e
  cases e
  simp [Sys2Proof.wellFormed, Sys2Proof.fields] at *
  omega

theorem Sys2Proof.Laws.EncodeFits.acq (sc : Nat) :
    Sys2Proof.Laws.EncodeFits.Statement (Sys2Proof.Instr.acq sc) := by
  intro n w h e
  cases e
  simp [Sys2Proof.wellFormed, Sys2Proof.fields] at *
  omega

theorem Sys2Proof.Laws.EncodeFits.inv (a : Nat) (all : Bool) (sc : Nat) :
    Sys2Proof.Laws.EncodeFits.Statement (Sys2Proof.Instr.inv a all sc) := by
  intro n w h e
  cases e
  have := Sys2Proof.Laws.bool_le all
  simp [Sys2Proof.wellFormed, Sys2Proof.fields] at *
  omega

theorem Sys2Proof.Laws.EncodeFits.tlwait (a n : Nat) :
    Sys2Proof.Laws.EncodeFits.Statement (Sys2Proof.Instr.tlwait a n) := by
  intro n w h e
  cases e
  simp [Sys2Proof.wellFormed, Sys2Proof.fields] at *
  omega

theorem Sys2Proof.Laws.EncodeFits.tlread (d n sel : Nat) :
    Sys2Proof.Laws.EncodeFits.Statement (Sys2Proof.Instr.tlread d n sel) := by
  intro n w h e
  cases e
  simp [Sys2Proof.wellFormed, Sys2Proof.fields] at *
  omega

theorem Sys2Proof.Laws.EncodeFits.barv (d a sc : Nat) :
    Sys2Proof.Laws.EncodeFits.Statement (Sys2Proof.Instr.barv d a sc) := by
  intro n w h e
  cases e
  simp [Sys2Proof.wellFormed, Sys2Proof.fields] at *
  omega

theorem Sys2Proof.Laws.EncodeFits.bwait (a b sc : Nat) :
    Sys2Proof.Laws.EncodeFits.Statement (Sys2Proof.Instr.bwait a b sc) := by
  intro n w h e
  cases e
  simp [Sys2Proof.wellFormed, Sys2Proof.fields] at *
  omega

theorem Sys2Proof.Laws.EncodeFits.pref (a lvl : Nat) :
    Sys2Proof.Laws.EncodeFits.Statement (Sys2Proof.Instr.pref a lvl) := by
  intro n w h e
  cases e
  simp [Sys2Proof.wellFormed, Sys2Proof.fields] at *
  omega

theorem Sys2Proof.Laws.EncodeFits.bqpush (a : Nat) :
    Sys2Proof.Laws.EncodeFits.Statement (Sys2Proof.Instr.bqpush a) := by
  intro n w h e
  cases e
  simp [Sys2Proof.wellFormed, Sys2Proof.fields] at *
  omega

theorem Sys2Proof.Laws.EncodeFits.bqpop (d : Nat) :
    Sys2Proof.Laws.EncodeFits.Statement (Sys2Proof.Instr.bqpop d) := by
  intro n w h e
  cases e
  simp [Sys2Proof.wellFormed, Sys2Proof.fields] at *
  omega

theorem Sys2Proof.Laws.EncodeFits.bqpeek (d : Nat) (nb : Bool) :
    Sys2Proof.Laws.EncodeFits.Statement (Sys2Proof.Instr.bqpeek d nb) := by
  intro n w h e
  cases e
  have := Sys2Proof.Laws.bool_le nb
  simp [Sys2Proof.wellFormed, Sys2Proof.fields] at *
  omega

theorem Sys2Proof.Laws.EncodeFits.qskip (d a q : Nat) (nb : Bool) :
    Sys2Proof.Laws.EncodeFits.Statement (Sys2Proof.Instr.qskip d a q nb) := by
  intro n w h e
  cases e
  have := Sys2Proof.Laws.bool_le nb
  simp [Sys2Proof.wellFormed, Sys2Proof.fields] at *
  omega

theorem Sys2Proof.Laws.EncodeFits.qpop (d q n : Nat) :
    Sys2Proof.Laws.EncodeFits.Statement (Sys2Proof.Instr.qpop d q n) := by
  intro n w h e
  cases e
  simp [Sys2Proof.wellFormed, Sys2Proof.fields] at *
  omega

theorem Sys2Proof.Laws.EncodeFits.qpush (q a : Nat) :
    Sys2Proof.Laws.EncodeFits.Statement (Sys2Proof.Instr.qpush q a) := by
  intro n w h e
  cases e
  simp [Sys2Proof.wellFormed, Sys2Proof.fields] at *
  omega

theorem Sys2Proof.Laws.EncodeFits.txbegin (d : Nat) :
    Sys2Proof.Laws.EncodeFits.Statement (Sys2Proof.Instr.txbegin d) := by
  intro n w h e
  cases e
  simp [Sys2Proof.wellFormed, Sys2Proof.fields] at *
  omega

theorem Sys2Proof.Laws.EncodeFits.txvote (a : Nat) :
    Sys2Proof.Laws.EncodeFits.Statement (Sys2Proof.Instr.txvote a) := by
  intro n w h e
  cases e
  simp [Sys2Proof.wellFormed, Sys2Proof.fields] at *
  omega

theorem Sys2Proof.Laws.EncodeFits.txwait (d : Nat) :
    Sys2Proof.Laws.EncodeFits.Statement (Sys2Proof.Instr.txwait d) := by
  intro n w h e
  cases e
  simp [Sys2Proof.wellFormed, Sys2Proof.fields] at *
  omega

theorem Sys2Proof.Laws.EncodeFits.txabort :
    Sys2Proof.Laws.EncodeFits.Statement (Sys2Proof.Instr.txabort) := by
  intro n w _ e; cases e; decide

theorem Sys2Proof.Laws.EncodeFits.txread (d a sel : Nat) :
    Sys2Proof.Laws.EncodeFits.Statement (Sys2Proof.Instr.txread d a sel) := by
  intro n w h e
  cases e
  simp [Sys2Proof.wellFormed, Sys2Proof.fields] at *
  omega

theorem Sys2Proof.Laws.EncodeFits.trap (imm : BitVec 20) :
    Sys2Proof.Laws.EncodeFits.Statement (Sys2Proof.Instr.trap imm) := by
  intro n w h e
  cases e
  have := imm.isLt
  simp [Sys2Proof.fields] at *
  omega

theorem Sys2Proof.Laws.EncodeFits.eret :
    Sys2Proof.Laws.EncodeFits.Statement (Sys2Proof.Instr.eret) := by
  intro n w _ e; cases e; decide

theorem Sys2Proof.Laws.EncodeFits.csrr (d csr : Nat) :
    Sys2Proof.Laws.EncodeFits.Statement (Sys2Proof.Instr.csrr d csr) := by
  intro n w h e
  cases e
  simp [Sys2Proof.wellFormed, Sys2Proof.fields] at *
  omega

theorem Sys2Proof.Laws.EncodeFits.csrw (d a csr : Nat) :
    Sys2Proof.Laws.EncodeFits.Statement (Sys2Proof.Instr.csrw d a csr) := by
  intro n w h e
  cases e
  simp [Sys2Proof.wellFormed, Sys2Proof.fields] at *
  omega

theorem Sys2Proof.Laws.EncodeFits.csrs (d a csr : Nat) :
    Sys2Proof.Laws.EncodeFits.Statement (Sys2Proof.Instr.csrs d a csr) := by
  intro n w h e
  cases e
  simp [Sys2Proof.wellFormed, Sys2Proof.fields] at *
  omega

theorem Sys2Proof.Laws.EncodeFits.csrc (d a csr : Nat) :
    Sys2Proof.Laws.EncodeFits.Statement (Sys2Proof.Instr.csrc d a csr) := by
  intro n w h e
  cases e
  simp [Sys2Proof.wellFormed, Sys2Proof.fields] at *
  omega

theorem Sys2Proof.Laws.EncodeFits.exit :
    Sys2Proof.Laws.EncodeFits.Statement (Sys2Proof.Instr.exit) := by
  intro n w _ e; cases e; decide

theorem Sys2Proof.Laws.EncodeFits.spawn (d a b : Nat) :
    Sys2Proof.Laws.EncodeFits.Statement (Sys2Proof.Instr.spawn d a b) := by
  intro n w h e
  cases e
  simp [Sys2Proof.wellFormed, Sys2Proof.fields] at *
  omega

theorem Sys2Proof.Laws.EncodeFits.tissue (d a : Nat) :
    Sys2Proof.Laws.EncodeFits.Statement (Sys2Proof.Instr.tissue d a) := by
  intro n w h e
  cases e
  simp [Sys2Proof.wellFormed, Sys2Proof.fields] at *
  omega

theorem Sys2Proof.Laws.EncodeFits.tfence :
    Sys2Proof.Laws.EncodeFits.Statement (Sys2Proof.Instr.tfence) := by
  intro n w _ e; cases e; decide

theorem Sys2Proof.Laws.EncodeFits.brkd :
    Sys2Proof.Laws.EncodeFits.Statement (Sys2Proof.Instr.brkd) := by
  intro n w _ e; cases e; decide

theorem Sys2Proof.Laws.EncodeFits.nop :
    Sys2Proof.Laws.EncodeFits.Statement (Sys2Proof.Instr.nop) := by
  intro n w _ e; cases e; decide

theorem Sys2Proof.Laws.EncodeFits.mloop (n a fld : Nat) :
    Sys2Proof.Laws.EncodeFits.Statement (Sys2Proof.Instr.mloop n a fld) := by
  intro n w h e
  cases e
  simp [Sys2Proof.wellFormed, Sys2Proof.fields] at *
  omega

theorem Sys2Proof.Laws.EncodeFits.mcfg (a fld : Nat) :
    Sys2Proof.Laws.EncodeFits.Statement (Sys2Proof.Instr.mcfg a fld) := by
  intro n w h e
  cases e
  simp [Sys2Proof.wellFormed, Sys2Proof.fields] at *
  omega

theorem Sys2Proof.Laws.EncodeFits.mgo (d a : Nat) :
    Sys2Proof.Laws.EncodeFits.Statement (Sys2Proof.Instr.mgo d a) := by
  intro n w h e
  cases e
  simp [Sys2Proof.wellFormed, Sys2Proof.fields] at *
  omega

theorem Sys2Proof.Laws.EncodeFits.mstat (d sel : Nat) :
    Sys2Proof.Laws.EncodeFits.Statement (Sys2Proof.Instr.mstat d sel) := by
  intro n w h e
  cases e
  simp [Sys2Proof.wellFormed, Sys2Proof.fields] at *
  omega

theorem Sys2Proof.Laws.EncodeFits.mabort (d : Nat) :
    Sys2Proof.Laws.EncodeFits.Statement (Sys2Proof.Instr.mabort d) := by
  intro n w h e
  cases e
  simp [Sys2Proof.wellFormed, Sys2Proof.fields] at *
  omega

theorem Sys2Proof.Laws.EncodeFits.vadd (vd va vb : Nat) (nf mk : Bool) :
    Sys2Proof.Laws.EncodeFits.Statement (Sys2Proof.Instr.vadd vd va vb nf mk) := by
  intro n w h e
  cases e
  have := Sys2Proof.Laws.bool_le nf
  have := Sys2Proof.Laws.bool_le mk
  simp [Sys2Proof.wellFormed, Sys2Proof.fields] at *
  omega

theorem Sys2Proof.Laws.EncodeFits.vsub (vd va vb : Nat) (nf mk : Bool) :
    Sys2Proof.Laws.EncodeFits.Statement (Sys2Proof.Instr.vsub vd va vb nf mk) := by
  intro n w h e
  cases e
  have := Sys2Proof.Laws.bool_le nf
  have := Sys2Proof.Laws.bool_le mk
  simp [Sys2Proof.wellFormed, Sys2Proof.fields] at *
  omega

theorem Sys2Proof.Laws.EncodeFits.vmul (vd va vb : Nat) (nf mk : Bool) :
    Sys2Proof.Laws.EncodeFits.Statement (Sys2Proof.Instr.vmul vd va vb nf mk) := by
  intro n w h e
  cases e
  have := Sys2Proof.Laws.bool_le nf
  have := Sys2Proof.Laws.bool_le mk
  simp [Sys2Proof.wellFormed, Sys2Proof.fields] at *
  omega

theorem Sys2Proof.Laws.EncodeFits.vfma (vd va vb : Nat) (nf mk : Bool) :
    Sys2Proof.Laws.EncodeFits.Statement (Sys2Proof.Instr.vfma vd va vb nf mk) := by
  intro n w h e
  cases e
  have := Sys2Proof.Laws.bool_le nf
  have := Sys2Proof.Laws.bool_le mk
  simp [Sys2Proof.wellFormed, Sys2Proof.fields] at *
  omega

theorem Sys2Proof.Laws.EncodeFits.vfms (vd va vb : Nat) (nf mk : Bool) :
    Sys2Proof.Laws.EncodeFits.Statement (Sys2Proof.Instr.vfms vd va vb nf mk) := by
  intro n w h e
  cases e
  have := Sys2Proof.Laws.bool_le nf
  have := Sys2Proof.Laws.bool_le mk
  simp [Sys2Proof.wellFormed, Sys2Proof.fields] at *
  omega

theorem Sys2Proof.Laws.EncodeFits.vfnma (vd va vb : Nat) (nf mk : Bool) :
    Sys2Proof.Laws.EncodeFits.Statement (Sys2Proof.Instr.vfnma vd va vb nf mk) := by
  intro n w h e
  cases e
  have := Sys2Proof.Laws.bool_le nf
  have := Sys2Proof.Laws.bool_le mk
  simp [Sys2Proof.wellFormed, Sys2Proof.fields] at *
  omega

theorem Sys2Proof.Laws.EncodeFits.vmin (vd va vb : Nat) (nf mk : Bool) :
    Sys2Proof.Laws.EncodeFits.Statement (Sys2Proof.Instr.vmin vd va vb nf mk) := by
  intro n w h e
  cases e
  have := Sys2Proof.Laws.bool_le nf
  have := Sys2Proof.Laws.bool_le mk
  simp [Sys2Proof.wellFormed, Sys2Proof.fields] at *
  omega

theorem Sys2Proof.Laws.EncodeFits.vmax (vd va vb : Nat) (nf mk : Bool) :
    Sys2Proof.Laws.EncodeFits.Statement (Sys2Proof.Instr.vmax vd va vb nf mk) := by
  intro n w h e
  cases e
  have := Sys2Proof.Laws.bool_le nf
  have := Sys2Proof.Laws.bool_le mk
  simp [Sys2Proof.wellFormed, Sys2Proof.fields] at *
  omega

theorem Sys2Proof.Laws.EncodeFits.vabs (vd va : Nat) (nf mk : Bool) :
    Sys2Proof.Laws.EncodeFits.Statement (Sys2Proof.Instr.vabs vd va nf mk) := by
  intro n w h e
  cases e
  have := Sys2Proof.Laws.bool_le nf
  have := Sys2Proof.Laws.bool_le mk
  simp [Sys2Proof.wellFormed, Sys2Proof.fields] at *
  omega

theorem Sys2Proof.Laws.EncodeFits.vneg (vd va : Nat) (nf mk : Bool) :
    Sys2Proof.Laws.EncodeFits.Statement (Sys2Proof.Instr.vneg vd va nf mk) := by
  intro n w h e
  cases e
  have := Sys2Proof.Laws.bool_le nf
  have := Sys2Proof.Laws.bool_le mk
  simp [Sys2Proof.wellFormed, Sys2Proof.fields] at *
  omega

theorem Sys2Proof.Laws.EncodeFits.vrcp (vd va : Nat) (nf mk : Bool) :
    Sys2Proof.Laws.EncodeFits.Statement (Sys2Proof.Instr.vrcp vd va nf mk) := by
  intro n w h e
  cases e
  have := Sys2Proof.Laws.bool_le nf
  have := Sys2Proof.Laws.bool_le mk
  simp [Sys2Proof.wellFormed, Sys2Proof.fields] at *
  omega

theorem Sys2Proof.Laws.EncodeFits.vrsq (vd va : Nat) (nf mk : Bool) :
    Sys2Proof.Laws.EncodeFits.Statement (Sys2Proof.Instr.vrsq vd va nf mk) := by
  intro n w h e
  cases e
  have := Sys2Proof.Laws.bool_le nf
  have := Sys2Proof.Laws.bool_le mk
  simp [Sys2Proof.wellFormed, Sys2Proof.fields] at *
  omega

theorem Sys2Proof.Laws.EncodeFits.vsqrt (vd va : Nat) (nf mk : Bool) :
    Sys2Proof.Laws.EncodeFits.Statement (Sys2Proof.Instr.vsqrt vd va nf mk) := by
  intro n w h e
  cases e
  have := Sys2Proof.Laws.bool_le nf
  have := Sys2Proof.Laws.bool_le mk
  simp [Sys2Proof.wellFormed, Sys2Proof.fields] at *
  omega

theorem Sys2Proof.Laws.EncodeFits.vexp2 (vd va : Nat) (nf mk : Bool) :
    Sys2Proof.Laws.EncodeFits.Statement (Sys2Proof.Instr.vexp2 vd va nf mk) := by
  intro n w h e
  cases e
  have := Sys2Proof.Laws.bool_le nf
  have := Sys2Proof.Laws.bool_le mk
  simp [Sys2Proof.wellFormed, Sys2Proof.fields] at *
  omega

theorem Sys2Proof.Laws.EncodeFits.vlog2 (vd va : Nat) (nf mk : Bool) :
    Sys2Proof.Laws.EncodeFits.Statement (Sys2Proof.Instr.vlog2 vd va nf mk) := by
  intro n w h e
  cases e
  have := Sys2Proof.Laws.bool_le nf
  have := Sys2Proof.Laws.bool_le mk
  simp [Sys2Proof.wellFormed, Sys2Proof.fields] at *
  omega

theorem Sys2Proof.Laws.EncodeFits.vdiv (vd va vb : Nat) (nf mk : Bool) :
    Sys2Proof.Laws.EncodeFits.Statement (Sys2Proof.Instr.vdiv vd va vb nf mk) := by
  intro n w h e
  cases e
  have := Sys2Proof.Laws.bool_le nf
  have := Sys2Proof.Laws.bool_le mk
  simp [Sys2Proof.wellFormed, Sys2Proof.fields] at *
  omega

theorem Sys2Proof.Laws.EncodeFits.viadd (vd va vb : Nat) (nf mk : Bool) :
    Sys2Proof.Laws.EncodeFits.Statement (Sys2Proof.Instr.viadd vd va vb nf mk) := by
  intro n w h e
  cases e
  have := Sys2Proof.Laws.bool_le nf
  have := Sys2Proof.Laws.bool_le mk
  simp [Sys2Proof.wellFormed, Sys2Proof.fields] at *
  omega

theorem Sys2Proof.Laws.EncodeFits.visub (vd va vb : Nat) (nf mk : Bool) :
    Sys2Proof.Laws.EncodeFits.Statement (Sys2Proof.Instr.visub vd va vb nf mk) := by
  intro n w h e
  cases e
  have := Sys2Proof.Laws.bool_le nf
  have := Sys2Proof.Laws.bool_le mk
  simp [Sys2Proof.wellFormed, Sys2Proof.fields] at *
  omega

theorem Sys2Proof.Laws.EncodeFits.vimul (vd va vb : Nat) (nf mk : Bool) :
    Sys2Proof.Laws.EncodeFits.Statement (Sys2Proof.Instr.vimul vd va vb nf mk) := by
  intro n w h e
  cases e
  have := Sys2Proof.Laws.bool_le nf
  have := Sys2Proof.Laws.bool_le mk
  simp [Sys2Proof.wellFormed, Sys2Proof.fields] at *
  omega

theorem Sys2Proof.Laws.EncodeFits.vimulh (vd va vb : Nat) (nf mk : Bool) :
    Sys2Proof.Laws.EncodeFits.Statement (Sys2Proof.Instr.vimulh vd va vb nf mk) := by
  intro n w h e
  cases e
  have := Sys2Proof.Laws.bool_le nf
  have := Sys2Proof.Laws.bool_le mk
  simp [Sys2Proof.wellFormed, Sys2Proof.fields] at *
  omega

theorem Sys2Proof.Laws.EncodeFits.vand (vd va vb : Nat) (nf mk : Bool) :
    Sys2Proof.Laws.EncodeFits.Statement (Sys2Proof.Instr.vand vd va vb nf mk) := by
  intro n w h e
  cases e
  have := Sys2Proof.Laws.bool_le nf
  have := Sys2Proof.Laws.bool_le mk
  simp [Sys2Proof.wellFormed, Sys2Proof.fields] at *
  omega

theorem Sys2Proof.Laws.EncodeFits.vor (vd va vb : Nat) (nf mk : Bool) :
    Sys2Proof.Laws.EncodeFits.Statement (Sys2Proof.Instr.vor vd va vb nf mk) := by
  intro n w h e
  cases e
  have := Sys2Proof.Laws.bool_le nf
  have := Sys2Proof.Laws.bool_le mk
  simp [Sys2Proof.wellFormed, Sys2Proof.fields] at *
  omega

theorem Sys2Proof.Laws.EncodeFits.vxor (vd va vb : Nat) (nf mk : Bool) :
    Sys2Proof.Laws.EncodeFits.Statement (Sys2Proof.Instr.vxor vd va vb nf mk) := by
  intro n w h e
  cases e
  have := Sys2Proof.Laws.bool_le nf
  have := Sys2Proof.Laws.bool_le mk
  simp [Sys2Proof.wellFormed, Sys2Proof.fields] at *
  omega

theorem Sys2Proof.Laws.EncodeFits.vshl (vd va vb : Nat) (nf mk : Bool) :
    Sys2Proof.Laws.EncodeFits.Statement (Sys2Proof.Instr.vshl vd va vb nf mk) := by
  intro n w h e
  cases e
  have := Sys2Proof.Laws.bool_le nf
  have := Sys2Proof.Laws.bool_le mk
  simp [Sys2Proof.wellFormed, Sys2Proof.fields] at *
  omega

theorem Sys2Proof.Laws.EncodeFits.vshr (vd va vb : Nat) (nf mk : Bool) :
    Sys2Proof.Laws.EncodeFits.Statement (Sys2Proof.Instr.vshr vd va vb nf mk) := by
  intro n w h e
  cases e
  have := Sys2Proof.Laws.bool_le nf
  have := Sys2Proof.Laws.bool_le mk
  simp [Sys2Proof.wellFormed, Sys2Proof.fields] at *
  omega

theorem Sys2Proof.Laws.EncodeFits.vsra (vd va vb : Nat) (nf mk : Bool) :
    Sys2Proof.Laws.EncodeFits.Statement (Sys2Proof.Instr.vsra vd va vb nf mk) := by
  intro n w h e
  cases e
  have := Sys2Proof.Laws.bool_le nf
  have := Sys2Proof.Laws.bool_le mk
  simp [Sys2Proof.wellFormed, Sys2Proof.fields] at *
  omega

theorem Sys2Proof.Laws.EncodeFits.vimin (vd va vb : Nat) (nf mk : Bool) :
    Sys2Proof.Laws.EncodeFits.Statement (Sys2Proof.Instr.vimin vd va vb nf mk) := by
  intro n w h e
  cases e
  have := Sys2Proof.Laws.bool_le nf
  have := Sys2Proof.Laws.bool_le mk
  simp [Sys2Proof.wellFormed, Sys2Proof.fields] at *
  omega

theorem Sys2Proof.Laws.EncodeFits.vimax (vd va vb : Nat) (nf mk : Bool) :
    Sys2Proof.Laws.EncodeFits.Statement (Sys2Proof.Instr.vimax vd va vb nf mk) := by
  intro n w h e
  cases e
  have := Sys2Proof.Laws.bool_le nf
  have := Sys2Proof.Laws.bool_le mk
  simp [Sys2Proof.wellFormed, Sys2Proof.fields] at *
  omega

theorem Sys2Proof.Laws.EncodeFits.vcmp (vd va vb : Nat) (nf mk : Bool) (cond : Nat) :
    Sys2Proof.Laws.EncodeFits.Statement (Sys2Proof.Instr.vcmp vd va vb nf mk cond) := by
  intro n w h e
  cases e
  have := Sys2Proof.Laws.bool_le nf
  have := Sys2Proof.Laws.bool_le mk
  simp [Sys2Proof.wellFormed, Sys2Proof.fields] at *
  omega

theorem Sys2Proof.Laws.EncodeFits.vsel (vd va vb : Nat) (nf mk : Bool) :
    Sys2Proof.Laws.EncodeFits.Statement (Sys2Proof.Instr.vsel vd va vb nf mk) := by
  intro n w h e
  cases e
  have := Sys2Proof.Laws.bool_le nf
  have := Sys2Proof.Laws.bool_le mk
  simp [Sys2Proof.wellFormed, Sys2Proof.fields] at *
  omega

theorem Sys2Proof.Laws.EncodeFits.vcvt (vd va vb : Nat) (nf mk : Bool) (src dst mode : Nat) (sat : Bool) :
    Sys2Proof.Laws.EncodeFits.Statement (Sys2Proof.Instr.vcvt vd va vb nf mk src dst mode sat) := by
  intro n w h e
  cases e
  have := Sys2Proof.Laws.bool_le nf
  have := Sys2Proof.Laws.bool_le mk
  have := Sys2Proof.Laws.bool_le sat
  simp [Sys2Proof.wellFormed, Sys2Proof.fields] at *
  omega

theorem Sys2Proof.Laws.EncodeFits.vpack (vd va vb : Nat) (nf mk : Bool) (src dst mode : Nat) (sat : Bool) :
    Sys2Proof.Laws.EncodeFits.Statement (Sys2Proof.Instr.vpack vd va vb nf mk src dst mode sat) := by
  intro n w h e
  cases e
  have := Sys2Proof.Laws.bool_le nf
  have := Sys2Proof.Laws.bool_le mk
  have := Sys2Proof.Laws.bool_le sat
  simp [Sys2Proof.wellFormed, Sys2Proof.fields] at *
  omega

theorem Sys2Proof.Laws.EncodeFits.vunpk (vd va : Nat) (nf mk : Bool) (src dst : Nat) (half : Bool) :
    Sys2Proof.Laws.EncodeFits.Statement (Sys2Proof.Instr.vunpk vd va nf mk src dst half) := by
  intro n w h e
  cases e
  have := Sys2Proof.Laws.bool_le nf
  have := Sys2Proof.Laws.bool_le mk
  have := Sys2Proof.Laws.bool_le half
  simp [Sys2Proof.wellFormed, Sys2Proof.fields] at *
  omega

theorem Sys2Proof.Laws.EncodeFits.vperm (vd va vb : Nat) (nf mk : Bool) :
    Sys2Proof.Laws.EncodeFits.Statement (Sys2Proof.Instr.vperm vd va vb nf mk) := by
  intro n w h e
  cases e
  have := Sys2Proof.Laws.bool_le nf
  have := Sys2Proof.Laws.bool_le mk
  simp [Sys2Proof.wellFormed, Sys2Proof.fields] at *
  omega

theorem Sys2Proof.Laws.EncodeFits.vshuf (vd va vb : Nat) (nf mk : Bool) (pat k : Nat) :
    Sys2Proof.Laws.EncodeFits.Statement (Sys2Proof.Instr.vshuf vd va vb nf mk pat k) := by
  intro n w h e
  cases e
  have := Sys2Proof.Laws.bool_le nf
  have := Sys2Proof.Laws.bool_le mk
  simp [Sys2Proof.wellFormed, Sys2Proof.fields] at *
  omega

theorem Sys2Proof.Laws.EncodeFits.vbcast (vd a : Nat) (nf mk : Bool) :
    Sys2Proof.Laws.EncodeFits.Statement (Sys2Proof.Instr.vbcast vd a nf mk) := by
  intro n w h e
  cases e
  have := Sys2Proof.Laws.bool_le nf
  have := Sys2Proof.Laws.bool_le mk
  simp [Sys2Proof.wellFormed, Sys2Proof.fields] at *
  omega

theorem Sys2Proof.Laws.EncodeFits.vreds (vd va : Nat) (nf mk : Bool) (op : Nat) :
    Sys2Proof.Laws.EncodeFits.Statement (Sys2Proof.Instr.vreds vd va nf mk op) := by
  intro n w h e
  cases e
  have := Sys2Proof.Laws.bool_le nf
  have := Sys2Proof.Laws.bool_le mk
  simp [Sys2Proof.wellFormed, Sys2Proof.fields] at *
  omega

theorem Sys2Proof.Laws.EncodeFits.vscan (vd va vb : Nat) (nf mk : Bool) (op : Nat) :
    Sys2Proof.Laws.EncodeFits.Statement (Sys2Proof.Instr.vscan vd va vb nf mk op) := by
  intro n w h e
  cases e
  have := Sys2Proof.Laws.bool_le nf
  have := Sys2Proof.Laws.bool_le mk
  simp [Sys2Proof.wellFormed, Sys2Proof.fields] at *
  omega

theorem Sys2Proof.Laws.EncodeFits.vclmul (vd va vb : Nat) (nf mk : Bool) :
    Sys2Proof.Laws.EncodeFits.Statement (Sys2Proof.Instr.vclmul vd va vb nf mk) := by
  intro n w h e
  cases e
  have := Sys2Proof.Laws.bool_le nf
  have := Sys2Proof.Laws.bool_le mk
  simp [Sys2Proof.wellFormed, Sys2Proof.fields] at *
  omega

theorem Sys2Proof.Laws.EncodeFits.vrng (vd va : Nat) (nf mk : Bool) :
    Sys2Proof.Laws.EncodeFits.Statement (Sys2Proof.Instr.vrng vd va nf mk) := by
  intro n w h e
  cases e
  have := Sys2Proof.Laws.bool_le nf
  have := Sys2Proof.Laws.bool_le mk
  simp [Sys2Proof.wellFormed, Sys2Proof.fields] at *
  omega

theorem Sys2Proof.Laws.EncodeFits.vpop (vd q : Nat) (m : Bool) (n : Nat) (nf : Bool) :
    Sys2Proof.Laws.EncodeFits.Statement (Sys2Proof.Instr.vpop vd q m n nf) := by
  intro n w h e
  cases e
  have := Sys2Proof.Laws.bool_le m
  have := Sys2Proof.Laws.bool_le nf
  simp [Sys2Proof.wellFormed, Sys2Proof.fields] at *
  omega

theorem Sys2Proof.Laws.EncodeFits.vpush (q va : Nat) (nf : Bool) :
    Sys2Proof.Laws.EncodeFits.Statement (Sys2Proof.Instr.vpush q va nf) := by
  intro n w h e
  cases e
  have := Sys2Proof.Laws.bool_le nf
  simp [Sys2Proof.wellFormed, Sys2Proof.fields] at *
  omega

theorem Sys2Proof.Laws.EncodeFits.vmovt (vd va : Nat) (sfx dir : Bool) :
    Sys2Proof.Laws.EncodeFits.Statement (Sys2Proof.Instr.vmovt vd va sfx dir) := by
  intro n w h e
  cases e
  have := Sys2Proof.Laws.bool_le sfx
  have := Sys2Proof.Laws.bool_le dir
  simp [Sys2Proof.wellFormed, Sys2Proof.fields] at *
  omega

theorem Sys2Proof.Laws.EncodeFits.vldi (vd : Nat) (nf mk : Bool) (imm : BitVec 32) :
    Sys2Proof.Laws.EncodeFits.Statement (Sys2Proof.Instr.vldi vd nf mk imm) := by
  intro n w h e
  cases e
  have := Sys2Proof.Laws.bool_le nf
  have := Sys2Proof.Laws.bool_le mk
  have := imm.isLt
  simp [Sys2Proof.wellFormed, Sys2Proof.fields] at *
  omega

theorem Sys2Proof.Laws.EncodeFits.vshape (a : Nat) (nf : Bool) (ew len : Nat) (tv : Bool) (tsel : Nat) :
    Sys2Proof.Laws.EncodeFits.Statement (Sys2Proof.Instr.vshape a nf ew len tv tsel) := by
  intro n w h e
  cases e
  have := Sys2Proof.Laws.bool_le nf
  have := Sys2Proof.Laws.bool_le tv
  simp [Sys2Proof.wellFormed, Sys2Proof.fields] at *
  omega

theorem Sys2Proof.Laws.EncodeFits.mpush (n : Nat) (nf : Bool) :
    Sys2Proof.Laws.EncodeFits.Statement (Sys2Proof.Instr.mpush n nf) := by
  intro n w h e
  cases e
  have := Sys2Proof.Laws.bool_le nf
  simp [Sys2Proof.wellFormed, Sys2Proof.fields] at *
  omega

theorem Sys2Proof.Laws.EncodeFits.minv (nf : Bool) :
    Sys2Proof.Laws.EncodeFits.Statement (Sys2Proof.Instr.minv nf) := by
  intro n w h e
  cases e
  have := Sys2Proof.Laws.bool_le nf
  simp [Sys2Proof.fields] at *
  omega

theorem Sys2Proof.Laws.EncodeFits.mpop (nf : Bool) :
    Sys2Proof.Laws.EncodeFits.Statement (Sys2Proof.Instr.mpop nf) := by
  intro n w h e
  cases e
  have := Sys2Proof.Laws.bool_le nf
  simp [Sys2Proof.fields] at *
  omega

theorem Sys2Proof.Laws.EncodeFits.mset (n va : Nat) (nf mk : Bool) :
    Sys2Proof.Laws.EncodeFits.Statement (Sys2Proof.Instr.mset n va nf mk) := by
  intro n w h e
  cases e
  have := Sys2Proof.Laws.bool_le nf
  have := Sys2Proof.Laws.bool_le mk
  simp [Sys2Proof.wellFormed, Sys2Proof.fields] at *
  omega

theorem Sys2Proof.Laws.EncodeFits.bmz (off : BitVec 32) :
    Sys2Proof.Laws.EncodeFits.Statement (Sys2Proof.Instr.bmz off) := by
  intro n w h e
  cases e
  have := off.isLt
  simp [Sys2Proof.fields] at *
  omega

theorem Sys2Proof.Laws.EncodeFits.bmnz (off : BitVec 32) :
    Sys2Proof.Laws.EncodeFits.Statement (Sys2Proof.Instr.bmnz off) := by
  intro n w h e
  cases e
  have := off.isLt
  simp [Sys2Proof.fields] at *
  omega

theorem Sys2Proof.Laws.EncodeFits.vfrd (vd : Nat) (nf : Bool) :
    Sys2Proof.Laws.EncodeFits.Statement (Sys2Proof.Instr.vfrd vd nf) := by
  intro n w h e
  cases e
  have := Sys2Proof.Laws.bool_le nf
  simp [Sys2Proof.wellFormed, Sys2Proof.fields] at *
  omega

theorem Sys2Proof.Laws.EncodeFits.vfclr :
    Sys2Proof.Laws.EncodeFits.Statement (Sys2Proof.Instr.vfclr) := by
  intro n w _ e; cases e; decide

theorem Sys2Proof.Laws.EncodeFits.mget (n : Nat) (nf : Bool) :
    Sys2Proof.Laws.EncodeFits.Statement (Sys2Proof.Instr.mget n nf) := by
  intro n w h e
  cases e
  have := Sys2Proof.Laws.bool_le nf
  simp [Sys2Proof.wellFormed, Sys2Proof.fields] at *
  omega

theorem Sys2Proof.Laws.EncodeFits.mldw (p : Bool) (fmt : Nat) (mx s : Bool) (pl : Nat) :
    Sys2Proof.Laws.EncodeFits.Statement (Sys2Proof.Instr.mldw p fmt mx s pl) := by
  intro n w h e
  cases e
  have := Sys2Proof.Laws.bool_le p
  have := Sys2Proof.Laws.bool_le mx
  have := Sys2Proof.Laws.bool_le s
  simp [Sys2Proof.wellFormed, Sys2Proof.fields] at *
  omega

theorem Sys2Proof.Laws.EncodeFits.mmac (p : Bool) (af : Nat) (ac : Bool) :
    Sys2Proof.Laws.EncodeFits.Statement (Sys2Proof.Instr.mmac p af ac) := by
  intro n w h e
  cases e
  have := Sys2Proof.Laws.bool_le p
  have := Sys2Proof.Laws.bool_le ac
  simp [Sys2Proof.wellFormed, Sys2Proof.fields] at *
  omega

theorem Sys2Proof.Laws.EncodeFits.mmacs (p : Bool) (af : Nat) (ac : Bool) :
    Sys2Proof.Laws.EncodeFits.Statement (Sys2Proof.Instr.mmacs p af ac) := by
  intro n w h e
  cases e
  have := Sys2Proof.Laws.bool_le p
  have := Sys2Proof.Laws.bool_le ac
  simp [Sys2Proof.wellFormed, Sys2Proof.fields] at *
  omega

theorem Sys2Proof.Laws.EncodeFits.mdrn (p dt cc ov : Bool) :
    Sys2Proof.Laws.EncodeFits.Statement (Sys2Proof.Instr.mdrn p dt cc ov) := by
  intro n w h e
  cases e
  have := Sys2Proof.Laws.bool_le p
  have := Sys2Proof.Laws.bool_le dt
  have := Sys2Proof.Laws.bool_le cc
  have := Sys2Proof.Laws.bool_le ov
  simp [Sys2Proof.fields] at *
  omega

theorem Sys2Proof.Laws.EncodeFits.mzero (p ov : Bool) :
    Sys2Proof.Laws.EncodeFits.Statement (Sys2Proof.Instr.mzero p ov) := by
  intro n w h e
  cases e
  have := Sys2Proof.Laws.bool_le p
  have := Sys2Proof.Laws.bool_le ov
  simp [Sys2Proof.fields] at *
  omega

theorem Sys2Proof.Laws.EncodeFits.mcmp (p one : Bool) (fmt : Nat) (sc : Bool) :
    Sys2Proof.Laws.EncodeFits.Statement (Sys2Proof.Instr.mcmp p one fmt sc) := by
  intro n w h e
  cases e
  have := Sys2Proof.Laws.bool_le p
  have := Sys2Proof.Laws.bool_le one
  have := Sys2Proof.Laws.bool_le sc
  simp [Sys2Proof.wellFormed, Sys2Proof.fields] at *
  omega

theorem Sys2Proof.Laws.EncodeFits.mpred (cond lvl : Nat) (and inv : Bool) :
    Sys2Proof.Laws.EncodeFits.Statement (Sys2Proof.Instr.mpred cond lvl and inv) := by
  intro n w h e
  cases e
  have := Sys2Proof.Laws.bool_le and
  have := Sys2Proof.Laws.bool_le inv
  simp [Sys2Proof.wellFormed, Sys2Proof.fields] at *
  omega

theorem Sys2Proof.Laws.EncodeFits.msync :
    Sys2Proof.Laws.EncodeFits.Statement (Sys2Proof.Instr.msync) := by
  intro n w _ e; cases e; decide

theorem Sys2Proof.Laws.EncodeFits.mend :
    Sys2Proof.Laws.EncodeFits.Statement (Sys2Proof.Instr.mend) := by
  intro n w _ e; cases e; decide

theorem Sys2Proof.Laws.EncodeFits.mnop :
    Sys2Proof.Laws.EncodeFits.Statement (Sys2Proof.Instr.mnop) := by
  intro n w _ e; cases e; decide

theorem Sys2Proof.Laws.EncodeFits.tCopy (w : Sys2Proof.TileWord) :
    Sys2Proof.Laws.EncodeFits.Statement (Sys2Proof.Instr.tCopy w) := by
  intro n w h e; cases e; exact ⟨by decide, Sys2Proof.Laws.tileBits_lt _ h _ (by decide)⟩

theorem Sys2Proof.Laws.EncodeFits.tFill (w : Sys2Proof.TileWord) :
    Sys2Proof.Laws.EncodeFits.Statement (Sys2Proof.Instr.tFill w) := by
  intro n w h e; cases e; exact ⟨by decide, Sys2Proof.Laws.tileBits_lt _ h _ (by decide)⟩

theorem Sys2Proof.Laws.EncodeFits.tEw (w : Sys2Proof.TileWord) :
    Sys2Proof.Laws.EncodeFits.Statement (Sys2Proof.Instr.tEw w) := by
  intro n w h e; cases e; exact ⟨by decide, Sys2Proof.Laws.tileBits_lt _ h _ (by decide)⟩

theorem Sys2Proof.Laws.EncodeFits.tMap (w : Sys2Proof.TileWord) :
    Sys2Proof.Laws.EncodeFits.Statement (Sys2Proof.Instr.tMap w) := by
  intro n w h e; cases e; exact ⟨by decide, Sys2Proof.Laws.tileBits_lt _ h _ (by decide)⟩

theorem Sys2Proof.Laws.EncodeFits.tRed (w : Sys2Proof.TileWord) :
    Sys2Proof.Laws.EncodeFits.Statement (Sys2Proof.Instr.tRed w) := by
  intro n w h e; cases e; exact ⟨by decide, Sys2Proof.Laws.tileBits_lt _ h _ (by decide)⟩

theorem Sys2Proof.Laws.EncodeFits.tScan (w : Sys2Proof.TileWord) :
    Sys2Proof.Laws.EncodeFits.Statement (Sys2Proof.Instr.tScan w) := by
  intro n w h e; cases e; exact ⟨by decide, Sys2Proof.Laws.tileBits_lt _ h _ (by decide)⟩

theorem Sys2Proof.Laws.EncodeFits.tCvt (w : Sys2Proof.TileWord) :
    Sys2Proof.Laws.EncodeFits.Statement (Sys2Proof.Instr.tCvt w) := by
  intro n w h e; cases e; exact ⟨by decide, Sys2Proof.Laws.tileBits_lt _ h _ (by decide)⟩

theorem Sys2Proof.Laws.EncodeFits.tMma (w : Sys2Proof.TileWord) :
    Sys2Proof.Laws.EncodeFits.Statement (Sys2Proof.Instr.tMma w) := by
  intro n w h e; cases e; exact ⟨by decide, Sys2Proof.Laws.tileBits_lt _ h _ (by decide)⟩

theorem Sys2Proof.Laws.EncodeFits.tMmas (w : Sys2Proof.TileWord) :
    Sys2Proof.Laws.EncodeFits.Statement (Sys2Proof.Instr.tMmas w) := by
  intro n w h e; cases e; exact ⟨by decide, Sys2Proof.Laws.tileBits_lt _ h _ (by decide)⟩

theorem Sys2Proof.Laws.EncodeFits.tCmp (w : Sys2Proof.TileWord) :
    Sys2Proof.Laws.EncodeFits.Statement (Sys2Proof.Instr.tCmp w) := by
  intro n w h e; cases e; exact ⟨by decide, Sys2Proof.Laws.tileBits_lt _ h _ (by decide)⟩

theorem Sys2Proof.Laws.EncodeFits.tAmax (w : Sys2Proof.TileWord) :
    Sys2Proof.Laws.EncodeFits.Statement (Sys2Proof.Instr.tAmax w) := by
  intro n w h e; cases e; exact ⟨by decide, Sys2Proof.Laws.tileBits_lt _ h _ (by decide)⟩

theorem Sys2Proof.Laws.EncodeFits.tRng (w : Sys2Proof.TileWord) :
    Sys2Proof.Laws.EncodeFits.Statement (Sys2Proof.Instr.tRng w) := by
  intro n w h e; cases e; exact ⟨by decide, Sys2Proof.Laws.tileBits_lt _ h _ (by decide)⟩

theorem Sys2Proof.Laws.EncodeFits.tOpt (w : Sys2Proof.TileWord) :
    Sys2Proof.Laws.EncodeFits.Statement (Sys2Proof.Instr.tOpt w) := by
  intro n w h e; cases e; exact ⟨by decide, Sys2Proof.Laws.tileBits_lt _ h _ (by decide)⟩

theorem Sys2Proof.Laws.EncodeFits.tAr (w : Sys2Proof.TileWord) :
    Sys2Proof.Laws.EncodeFits.Statement (Sys2Proof.Instr.tAr w) := by
  intro n w h e; cases e; exact ⟨by decide, Sys2Proof.Laws.tileBits_lt _ h _ (by decide)⟩

theorem Sys2Proof.Laws.EncodeFits.tAg (w : Sys2Proof.TileWord) :
    Sys2Proof.Laws.EncodeFits.Statement (Sys2Proof.Instr.tAg w) := by
  intro n w h e; cases e; exact ⟨by decide, Sys2Proof.Laws.tileBits_lt _ h _ (by decide)⟩

theorem Sys2Proof.Laws.EncodeFits.tRs (w : Sys2Proof.TileWord) :
    Sys2Proof.Laws.EncodeFits.Statement (Sys2Proof.Instr.tRs w) := by
  intro n w h e; cases e; exact ⟨by decide, Sys2Proof.Laws.tileBits_lt _ h _ (by decide)⟩

theorem Sys2Proof.Laws.EncodeFits.tBc (w : Sys2Proof.TileWord) :
    Sys2Proof.Laws.EncodeFits.Statement (Sys2Proof.Instr.tBc w) := by
  intro n w h e; cases e; exact ⟨by decide, Sys2Proof.Laws.tileBits_lt _ h _ (by decide)⟩

theorem Sys2Proof.Laws.EncodeFits.tKern (w : Sys2Proof.TileWord) :
    Sys2Proof.Laws.EncodeFits.Statement (Sys2Proof.Instr.tKern w) := by
  intro n w h e; cases e; exact ⟨by decide, Sys2Proof.Laws.tileBits_lt _ h _ (by decide)⟩

theorem Sys2Proof.Laws.EncodeFits.tSig (w : Sys2Proof.TileWord) :
    Sys2Proof.Laws.EncodeFits.Statement (Sys2Proof.Instr.tSig w) := by
  intro n w h e; cases e; exact ⟨by decide, Sys2Proof.Laws.tileBits_lt _ h _ (by decide)⟩

theorem Sys2Proof.Laws.EncodeFits.tWaitev (w : Sys2Proof.TileWord) :
    Sys2Proof.Laws.EncodeFits.Statement (Sys2Proof.Instr.tWaitev w) := by
  intro n w h e; cases e; exact ⟨by decide, Sys2Proof.Laws.tileBits_lt _ h _ (by decide)⟩

theorem Sys2Proof.Laws.EncodeFits.linkTrainingDone :
    Sys2Proof.Laws.EncodeFits.Statement (Sys2Proof.Instr.linkTrainingDone) := by
  intro n w _ h; cases h

theorem Sys2Proof.Laws.EncodeFits.trainingAttemptTimeout :
    Sys2Proof.Laws.EncodeFits.Statement (Sys2Proof.Instr.trainingAttemptTimeout) := by
  intro n w _ h; cases h

theorem Sys2Proof.Laws.EncodeFits.linkLossOfLock :
    Sys2Proof.Laws.EncodeFits.Statement (Sys2Proof.Instr.linkLossOfLock) := by
  intro n w _ h; cases h

theorem Sys2Proof.Laws.EncodeFits.internalLossOfLock :
    Sys2Proof.Laws.EncodeFits.Statement (Sys2Proof.Instr.internalLossOfLock) := by
  intro n w _ h; cases h

theorem Sys2Proof.Laws.EncodeFits.retrain :
    Sys2Proof.Laws.EncodeFits.Statement (Sys2Proof.Instr.retrain) := by
  intro n w _ h; cases h

theorem Sys2Proof.Laws.EncodeFits.moduleReset :
    Sys2Proof.Laws.EncodeFits.Statement (Sys2Proof.Instr.moduleReset) := by
  intro n w _ h; cases h

theorem Sys2Proof.Laws.EncodeFits.recoveryPackage :
    Sys2Proof.Laws.EncodeFits.Statement (Sys2Proof.Instr.recoveryPackage) := by
  intro n w _ h; cases h

theorem Sys2Proof.Laws.EncodeFits.spdmRequest :
    Sys2Proof.Laws.EncodeFits.Statement (Sys2Proof.Instr.spdmRequest) := by
  intro n w _ h; cases h

theorem Sys2Proof.Laws.EncodeFits.pwrcapWrite :
    Sys2Proof.Laws.EncodeFits.Statement (Sys2Proof.Instr.pwrcapWrite) := by
  intro n w _ h; cases h

theorem Sys2Proof.Laws.EncodeFits.arbiterSample :
    Sys2Proof.Laws.EncodeFits.Statement (Sys2Proof.Instr.arbiterSample) := by
  intro n w _ h; cases h

theorem Sys2Proof.Laws.EncodeFits.throttleLevelApply :
    Sys2Proof.Laws.EncodeFits.Statement (Sys2Proof.Instr.throttleLevelApply) := by
  intro n w _ h; cases h

theorem Sys2Proof.Laws.EncodeFits.junctionTemperature :
    Sys2Proof.Laws.EncodeFits.Statement (Sys2Proof.Instr.junctionTemperature) := by
  intro n w _ h; cases h

theorem Sys2Proof.Laws.EncodeFits.capClear :
    Sys2Proof.Laws.EncodeFits.Statement (Sys2Proof.Instr.capClear) := by
  intro n w _ h; cases h

theorem Sys2Proof.Laws.EncodeFits.captureWindowEdge :
    Sys2Proof.Laws.EncodeFits.Statement (Sys2Proof.Instr.captureWindowEdge) := by
  intro n w _ h; cases h

theorem Sys2Proof.Laws.EncodeFits.captureEvent :
    Sys2Proof.Laws.EncodeFits.Statement (Sys2Proof.Instr.captureEvent) := by
  intro n w _ h; cases h

theorem Sys2Proof.Laws.EncodeFits.remoteRequest :
    Sys2Proof.Laws.EncodeFits.Statement (Sys2Proof.Instr.remoteRequest) := by
  intro n w _ h; cases h

theorem Sys2Proof.Laws.EncodeFits.remoteAck :
    Sys2Proof.Laws.EncodeFits.Statement (Sys2Proof.Instr.remoteAck) := by
  intro n w _ h; cases h

theorem Sys2Proof.Laws.EncodeFits.remoteResponse :
    Sys2Proof.Laws.EncodeFits.Statement (Sys2Proof.Instr.remoteResponse) := by
  intro n w _ h; cases h

theorem Sys2Proof.Laws.EncodeFits.fabricForward :
    Sys2Proof.Laws.EncodeFits.Statement (Sys2Proof.Instr.fabricForward) := by
  intro n w _ h; cases h

theorem Sys2Proof.Laws.EncodeFits.requestExpiry :
    Sys2Proof.Laws.EncodeFits.Statement (Sys2Proof.Instr.requestExpiry) := by
  intro n w _ h; cases h

theorem Sys2Proof.Laws.EncodeFits.linkMapUpdate :
    Sys2Proof.Laws.EncodeFits.Statement (Sys2Proof.Instr.linkMapUpdate) := by
  intro n w _ h; cases h

theorem Sys2Proof.Laws.EncodeFits.timeMessageSend :
    Sys2Proof.Laws.EncodeFits.Statement (Sys2Proof.Instr.timeMessageSend) := by
  intro n w _ h; cases h

theorem Sys2Proof.Laws.EncodeFits.timeMessage :
    Sys2Proof.Laws.EncodeFits.Statement (Sys2Proof.Instr.timeMessage) := by
  intro n w _ h; cases h

theorem Sys2Proof.Laws.EncodeFits.fabtmoWrite :
    Sys2Proof.Laws.EncodeFits.Statement (Sys2Proof.Instr.fabtmoWrite) := by
  intro n w _ h; cases h

theorem Sys2Proof.Laws.EncodeFits.domainDigest :
    Sys2Proof.Laws.EncodeFits.Statement (Sys2Proof.Instr.domainDigest) := by
  intro n w _ h; cases h

theorem Sys2Proof.Laws.EncodeFits.pcSelect :
    Sys2Proof.Laws.EncodeFits.Statement (Sys2Proof.Instr.pcSelect) := by
  intro n w _ h; cases h

theorem Sys2Proof.Laws.EncodeFits.refreshDue :
    Sys2Proof.Laws.EncodeFits.Statement (Sys2Proof.Instr.refreshDue) := by
  intro n w _ h; cases h

theorem Sys2Proof.Laws.EncodeFits.selfRefreshEntry :
    Sys2Proof.Laws.EncodeFits.Statement (Sys2Proof.Instr.selfRefreshEntry) := by
  intro n w _ h; cases h

theorem Sys2Proof.Laws.EncodeFits.selfRefreshExit :
    Sys2Proof.Laws.EncodeFits.Statement (Sys2Proof.Instr.selfRefreshExit) := by
  intro n w _ h; cases h

theorem Sys2Proof.Laws.EncodeFits.eccError :
    Sys2Proof.Laws.EncodeFits.Statement (Sys2Proof.Instr.eccError) := by
  intro n w _ h; cases h

theorem Sys2Proof.Laws.EncodeFits.statusWriteApply :
    Sys2Proof.Laws.EncodeFits.Statement (Sys2Proof.Instr.statusWriteApply) := by
  intro n w _ h; cases h

theorem Sys2Proof.Laws.EncodeFits.statusWriteComplete :
    Sys2Proof.Laws.EncodeFits.Statement (Sys2Proof.Instr.statusWriteComplete) := by
  intro n w _ h; cases h

theorem Sys2Proof.Laws.EncodeFits.tagAllocation :
    Sys2Proof.Laws.EncodeFits.Statement (Sys2Proof.Instr.tagAllocation) := by
  intro n w _ h; cases h

theorem Sys2Proof.Laws.EncodeFits.normaliserSweepStart :
    Sys2Proof.Laws.EncodeFits.Statement (Sys2Proof.Instr.normaliserSweepStart) := by
  intro n w _ h; cases h

theorem Sys2Proof.Laws.EncodeFits.normaliserSweepComplete :
    Sys2Proof.Laws.EncodeFits.Statement (Sys2Proof.Instr.normaliserSweepComplete) := by
  intro n w _ h; cases h

theorem Sys2Proof.Laws.EncodeFits.init :
    Sys2Proof.Laws.EncodeFits.Statement (Sys2Proof.Instr.init) := by
  intro n w _ h; cases h

theorem Sys2Proof.Laws.EncodeFits.setacc :
    Sys2Proof.Laws.EncodeFits.Statement (Sys2Proof.Instr.setacc) := by
  intro n w _ h; cases h

theorem Sys2Proof.Laws.EncodeFits.clracc :
    Sys2Proof.Laws.EncodeFits.Statement (Sys2Proof.Instr.clracc) := by
  intro n w _ h; cases h

theorem Sys2Proof.Laws.EncodeFits.clrpoison :
    Sys2Proof.Laws.EncodeFits.Statement (Sys2Proof.Instr.clrpoison) := by
  intro n w _ h; cases h

theorem Sys2Proof.Laws.EncodeFits.vmcmdIllegal :
    Sys2Proof.Laws.EncodeFits.Statement (Sys2Proof.Instr.vmcmdIllegal) := by
  intro n w _ h; cases h

theorem Sys2Proof.Laws.EncodeFits.vmcmdComplete :
    Sys2Proof.Laws.EncodeFits.Statement (Sys2Proof.Instr.vmcmdComplete) := by
  intro n w _ h; cases h

theorem Sys2Proof.Laws.EncodeFits.register :
    Sys2Proof.Laws.EncodeFits.Statement (Sys2Proof.Instr.register) := by
  intro n w _ h; cases h

theorem Sys2Proof.Laws.EncodeFits.deregister :
    Sys2Proof.Laws.EncodeFits.Statement (Sys2Proof.Instr.deregister) := by
  intro n w _ h; cases h

theorem Sys2Proof.Laws.EncodeFits.query :
    Sys2Proof.Laws.EncodeFits.Statement (Sys2Proof.Instr.query) := by
  intro n w _ h; cases h

theorem Sys2Proof.Laws.EncodeFits.collectiveIssue :
    Sys2Proof.Laws.EncodeFits.Statement (Sys2Proof.Instr.collectiveIssue) := by
  intro n w _ h; cases h

theorem Sys2Proof.Laws.EncodeFits.chunkArrival :
    Sys2Proof.Laws.EncodeFits.Statement (Sys2Proof.Instr.chunkArrival) := by
  intro n w _ h; cases h

theorem Sys2Proof.Laws.EncodeFits.markArrival :
    Sys2Proof.Laws.EncodeFits.Statement (Sys2Proof.Instr.markArrival) := by
  intro n w _ h; cases h

theorem Sys2Proof.Laws.EncodeFits.planeCancel :
    Sys2Proof.Laws.EncodeFits.Statement (Sys2Proof.Instr.planeCancel) := by
  intro n w _ h; cases h

theorem Sys2Proof.Laws.EncodeFits.slotTmoExpiry :
    Sys2Proof.Laws.EncodeFits.Statement (Sys2Proof.Instr.slotTmoExpiry) := by
  intro n w _ h; cases h

theorem Sys2Proof.Laws.EncodeFits.collectiveTimeout :
    Sys2Proof.Laws.EncodeFits.Statement (Sys2Proof.Instr.collectiveTimeout) := by
  intro n w _ h; cases h

theorem Sys2Proof.Laws.EncodeFits.collectiveCancel :
    Sys2Proof.Laws.EncodeFits.Statement (Sys2Proof.Instr.collectiveCancel) := by
  intro n w _ h; cases h

theorem Sys2Proof.Laws.EncodeFits.collectiveComplete :
    Sys2Proof.Laws.EncodeFits.Statement (Sys2Proof.Instr.collectiveComplete) := by
  intro n w _ h; cases h

theorem Sys2Proof.Laws.EncodeFits.arbourVote :
    Sys2Proof.Laws.EncodeFits.Statement (Sys2Proof.Instr.arbourVote) := by
  intro n w _ h; cases h

theorem Sys2Proof.Laws.EncodeFits.arbourNodeTimer :
    Sys2Proof.Laws.EncodeFits.Statement (Sys2Proof.Instr.arbourNodeTimer) := by
  intro n w _ h; cases h

theorem Sys2Proof.Laws.EncodeFits.arbourDecision :
    Sys2Proof.Laws.EncodeFits.Statement (Sys2Proof.Instr.arbourDecision) := by
  intro n w _ h; cases h

theorem Sys2Proof.Laws.EncodeFits.attemptDeadline :
    Sys2Proof.Laws.EncodeFits.Statement (Sys2Proof.Instr.attemptDeadline) := by
  intro n w _ h; cases h

theorem Sys2Proof.Laws.EncodeFits.attemptVote :
    Sys2Proof.Laws.EncodeFits.Statement (Sys2Proof.Instr.attemptVote) := by
  intro n w _ h; cases h

theorem Sys2Proof.Laws.EncodeFits.attemptSettled :
    Sys2Proof.Laws.EncodeFits.Statement (Sys2Proof.Instr.attemptSettled) := by
  intro n w _ h; cases h

theorem Sys2Proof.Laws.EncodeFits.registerWrite :
    Sys2Proof.Laws.EncodeFits.Statement (Sys2Proof.Instr.registerWrite) := by
  intro n w _ h; cases h

theorem Sys2Proof.Laws.EncodeFits.cxlReset :
    Sys2Proof.Laws.EncodeFits.Statement (Sys2Proof.Instr.cxlReset) := by
  intro n w _ h; cases h

theorem Sys2Proof.Laws.EncodeFits.cxlMemAccess :
    Sys2Proof.Laws.EncodeFits.Statement (Sys2Proof.Instr.cxlMemAccess) := by
  intro n w _ h; cases h

theorem Sys2Proof.Laws.EncodeFits.ping :
    Sys2Proof.Laws.EncodeFits.Statement (Sys2Proof.Instr.ping) := by
  intro n w _ h; cases h

theorem Sys2Proof.Laws.EncodeFits.bind :
    Sys2Proof.Laws.EncodeFits.Statement (Sys2Proof.Instr.bind) := by
  intro n w _ h; cases h

theorem Sys2Proof.Laws.EncodeFits.unbind :
    Sys2Proof.Laws.EncodeFits.Statement (Sys2Proof.Instr.unbind) := by
  intro n w _ h; cases h

theorem Sys2Proof.Laws.EncodeFits.domcfg :
    Sys2Proof.Laws.EncodeFits.Statement (Sys2Proof.Instr.domcfg) := by
  intro n w _ h; cases h

theorem Sys2Proof.Laws.EncodeFits.svnset :
    Sys2Proof.Laws.EncodeFits.Statement (Sys2Proof.Instr.svnset) := by
  intro n w _ h; cases h

theorem Sys2Proof.Laws.EncodeFits.preempt :
    Sys2Proof.Laws.EncodeFits.Statement (Sys2Proof.Instr.preempt) := by
  intro n w _ h; cases h

theorem Sys2Proof.Laws.EncodeFits.irtset :
    Sys2Proof.Laws.EncodeFits.Statement (Sys2Proof.Instr.irtset) := by
  intro n w _ h; cases h

theorem Sys2Proof.Laws.EncodeFits.mbcmdIllegal :
    Sys2Proof.Laws.EncodeFits.Statement (Sys2Proof.Instr.mbcmdIllegal) := by
  intro n w _ h; cases h

theorem Sys2Proof.Laws.EncodeFits.chainEnable :
    Sys2Proof.Laws.EncodeFits.Statement (Sys2Proof.Instr.chainEnable) := by
  intro n w _ h; cases h

theorem Sys2Proof.Laws.EncodeFits.chtailWrite :
    Sys2Proof.Laws.EncodeFits.Statement (Sys2Proof.Instr.chtailWrite) := by
  intro n w _ h; cases h

theorem Sys2Proof.Laws.EncodeFits.tear :
    Sys2Proof.Laws.EncodeFits.Statement (Sys2Proof.Instr.tear) := by
  intro n w _ h; cases h

theorem Sys2Proof.Laws.EncodeFits.kill :
    Sys2Proof.Laws.EncodeFits.Statement (Sys2Proof.Instr.kill) := by
  intro n w _ h; cases h

theorem Sys2Proof.Laws.EncodeFits.packetFetch :
    Sys2Proof.Laws.EncodeFits.Statement (Sys2Proof.Instr.packetFetch) := by
  intro n w _ h; cases h

theorem Sys2Proof.Laws.EncodeFits.waitPoll :
    Sys2Proof.Laws.EncodeFits.Statement (Sys2Proof.Instr.waitPoll) := by
  intro n w _ h; cases h

theorem Sys2Proof.Laws.EncodeFits.packetComplete :
    Sys2Proof.Laws.EncodeFits.Statement (Sys2Proof.Instr.packetComplete) := by
  intro n w _ h; cases h

theorem Sys2Proof.Laws.EncodeFits.slotSelect :
    Sys2Proof.Laws.EncodeFits.Statement (Sys2Proof.Instr.slotSelect) := by
  intro n w _ h; cases h

theorem Sys2Proof.Laws.EncodeFits.domainShare :
    Sys2Proof.Laws.EncodeFits.Statement (Sys2Proof.Instr.domainShare) := by
  intro n w _ h; cases h

theorem Sys2Proof.Laws.EncodeFits.lateCheck :
    Sys2Proof.Laws.EncodeFits.Statement (Sys2Proof.Instr.lateCheck) := by
  intro n w _ h; cases h

theorem Sys2Proof.Laws.EncodeFits.escalationRelease :
    Sys2Proof.Laws.EncodeFits.Statement (Sys2Proof.Instr.escalationRelease) := by
  intro n w _ h; cases h

theorem Sys2Proof.Laws.EncodeFits.escalationCancel :
    Sys2Proof.Laws.EncodeFits.Statement (Sys2Proof.Instr.escalationCancel) := by
  intro n w _ h; cases h

theorem Sys2Proof.Laws.EncodeFits.groupRetire :
    Sys2Proof.Laws.EncodeFits.Statement (Sys2Proof.Instr.groupRetire) := by
  intro n w _ h; cases h

theorem Sys2Proof.Laws.EncodeFits.groupDrained :
    Sys2Proof.Laws.EncodeFits.Statement (Sys2Proof.Instr.groupDrained) := by
  intro n w _ h; cases h

theorem Sys2Proof.Laws.EncodeFits.preemptionPoint :
    Sys2Proof.Laws.EncodeFits.Statement (Sys2Proof.Instr.preemptionPoint) := by
  intro n w _ h; cases h

theorem Sys2Proof.Laws.EncodeFits.preemptTimeout :
    Sys2Proof.Laws.EncodeFits.Statement (Sys2Proof.Instr.preemptTimeout) := by
  intro n w _ h; cases h

theorem Sys2Proof.Laws.EncodeFits.contextSave :
    Sys2Proof.Laws.EncodeFits.Statement (Sys2Proof.Instr.contextSave) := by
  intro n w _ h; cases h

theorem Sys2Proof.Laws.EncodeFits.contextSaveComplete :
    Sys2Proof.Laws.EncodeFits.Statement (Sys2Proof.Instr.contextSaveComplete) := by
  intro n w _ h; cases h

theorem Sys2Proof.Laws.EncodeFits.contextRestore :
    Sys2Proof.Laws.EncodeFits.Statement (Sys2Proof.Instr.contextRestore) := by
  intro n w _ h; cases h

theorem Sys2Proof.Laws.EncodeFits.schcfgWrite :
    Sys2Proof.Laws.EncodeFits.Statement (Sys2Proof.Instr.schcfgWrite) := by
  intro n w _ h; cases h

theorem Sys2Proof.Laws.EncodeFits.tileWordAccept :
    Sys2Proof.Laws.EncodeFits.Statement (Sys2Proof.Instr.tileWordAccept) := by
  intro n w _ h; cases h

theorem Sys2Proof.Laws.EncodeFits.tileWordStart :
    Sys2Proof.Laws.EncodeFits.Statement (Sys2Proof.Instr.tileWordStart) := by
  intro n w _ h; cases h

theorem Sys2Proof.Laws.EncodeFits.childWordComplete :
    Sys2Proof.Laws.EncodeFits.Statement (Sys2Proof.Instr.childWordComplete) := by
  intro n w _ h; cases h

theorem Sys2Proof.Laws.EncodeFits.tileWordComplete :
    Sys2Proof.Laws.EncodeFits.Statement (Sys2Proof.Instr.tileWordComplete) := by
  intro n w _ h; cases h

theorem Sys2Proof.Laws.EncodeFits.tileStop :
    Sys2Proof.Laws.EncodeFits.Statement (Sys2Proof.Instr.tileStop) := by
  intro n w _ h; cases h

theorem Sys2Proof.Laws.EncodeFits.regroupPlacement :
    Sys2Proof.Laws.EncodeFits.Statement (Sys2Proof.Instr.regroupPlacement) := by
  intro n w _ h; cases h

theorem Sys2Proof.Laws.EncodeFits.amaxHistoryWrite :
    Sys2Proof.Laws.EncodeFits.Statement (Sys2Proof.Instr.amaxHistoryWrite) := by
  intro n w _ h; cases h

theorem Sys2Proof.Laws.EncodeFits.waitevPoll :
    Sys2Proof.Laws.EncodeFits.Statement (Sys2Proof.Instr.waitevPoll) := by
  intro n w _ h; cases h

theorem Sys2Proof.Laws.EncodeFits.queueStallRelease :
    Sys2Proof.Laws.EncodeFits.Statement (Sys2Proof.Instr.queueStallRelease) := by
  intro n w _ h; cases h

theorem Sys2Proof.Laws.EncodeFits.tileAccessPerformed :
    Sys2Proof.Laws.EncodeFits.Statement (Sys2Proof.Instr.tileAccessPerformed) := by
  intro n w _ h; cases h

theorem Sys2Proof.Laws.EncodeFits.taggedAccessPerformed :
    Sys2Proof.Laws.EncodeFits.Statement (Sys2Proof.Instr.taggedAccessPerformed) := by
  intro n w _ h; cases h

theorem Sys2Proof.Laws.EncodeFits.copyCommandStart :
    Sys2Proof.Laws.EncodeFits.Statement (Sys2Proof.Instr.copyCommandStart) := by
  intro n w _ h; cases h

theorem Sys2Proof.Laws.EncodeFits.copyCommandComplete :
    Sys2Proof.Laws.EncodeFits.Statement (Sys2Proof.Instr.copyCommandComplete) := by
  intro n w _ h; cases h

theorem Sys2Proof.Laws.EncodeFits.copyCancelAck :
    Sys2Proof.Laws.EncodeFits.Statement (Sys2Proof.Instr.copyCancelAck) := by
  intro n w _ h; cases h

theorem Sys2Proof.Laws.EncodeFits.nestStart :
    Sys2Proof.Laws.EncodeFits.Statement (Sys2Proof.Instr.nestStart) := by
  intro n w _ h; cases h

theorem Sys2Proof.Laws.EncodeFits.nestEnd :
    Sys2Proof.Laws.EncodeFits.Statement (Sys2Proof.Instr.nestEnd) := by
  intro n w _ h; cases h

theorem Sys2Proof.Laws.EncodeFits.tlwaitComplete :
    Sys2Proof.Laws.EncodeFits.Statement (Sys2Proof.Instr.tlwaitComplete) := by
  intro n w _ h; cases h

theorem Sys2Proof.Laws.EncodeFits.barrierArrival :
    Sys2Proof.Laws.EncodeFits.Statement (Sys2Proof.Instr.barrierArrival) := by
  intro n w _ h; cases h

theorem Sys2Proof.Laws.EncodeFits.bwaitComplete :
    Sys2Proof.Laws.EncodeFits.Statement (Sys2Proof.Instr.bwaitComplete) := by
  intro n w _ h; cases h

theorem Sys2Proof.Laws.EncodeFits.invComplete :
    Sys2Proof.Laws.EncodeFits.Statement (Sys2Proof.Instr.invComplete) := by
  intro n w _ h; cases h

theorem Sys2Proof.Laws.EncodeFits.stallWatchdog :
    Sys2Proof.Laws.EncodeFits.Statement (Sys2Proof.Instr.stallWatchdog) := by
  intro n w _ h; cases h

theorem Sys2Proof.Laws.EncodeFits.halt :
    Sys2Proof.Laws.EncodeFits.Statement (Sys2Proof.Instr.halt) := by
  intro n w _ h; cases h

theorem Sys2Proof.Laws.EncodeFits.haltMessage :
    Sys2Proof.Laws.EncodeFits.Statement (Sys2Proof.Instr.haltMessage) := by
  intro n w _ h; cases h

theorem Sys2Proof.Laws.EncodeFits.resume :
    Sys2Proof.Laws.EncodeFits.Statement (Sys2Proof.Instr.resume) := by
  intro n w _ h; cases h

theorem Sys2Proof.Laws.EncodeFits.dbgdataAccess :
    Sys2Proof.Laws.EncodeFits.Statement (Sys2Proof.Instr.dbgdataAccess) := by
  intro n w _ h; cases h

theorem Sys2Proof.Laws.EncodeFits.lineWriteBack :
    Sys2Proof.Laws.EncodeFits.Statement (Sys2Proof.Instr.lineWriteBack) := by
  intro n w _ h; cases h

theorem Sys2Proof.Laws.EncodeFits.linkLevelReplay :
    Sys2Proof.Laws.EncodeFits.Statement (Sys2Proof.Instr.linkLevelReplay) := by
  intro n w _ h; cases h

theorem Sys2Proof.Laws.EncodeFits.hbmStackTemperature :
    Sys2Proof.Laws.EncodeFits.Statement (Sys2Proof.Instr.hbmStackTemperature) := by
  intro n w _ h; cases h

theorem Sys2Proof.Laws.EncodeFits.invVc8Message :
    Sys2Proof.Laws.EncodeFits.Statement (Sys2Proof.Instr.invVc8Message) := by
  intro n w _ h; cases h

end OneByOne
end

