-- ==== Sys2Proof/Safety.lean ====
section
/-! DEFINITION. The terms in which the statements speak of a step: what a word of a stream leaves, where a stream goes
straight on, a memory in canonical form, and a stream whose addresses are aligned. -/

namespace Sys2Proof.Machine

/-! ### What a word of a stream leaves -/

/-- No active hardware loop of a stream ends at its word of four bytes (R366, R367). -/
def StreamSt.straight (x : StreamSt) : Bool := x.active.all (fun l => l.stop != x.pc)

/-- A core as the words of a stream kind find it moved on: in the X-stream the vector writes in exposure come nearer
by one word (R239). -/
def CoreSt.aged (c : CoreSt) (k : StreamKind) : CoreSt := if k = .x then c.age else c

/-- The state in which only the core in execution has changed: to `c` with its stream `x`, the exposure moved on. -/
def State.leaving (s : State) (c : CoreSt) (x : StreamSt) : State :=
  s.setCore s.focus.core ((c.aged s.focus.kind).setStream s.focus.kind x)

/-- An instruction completes as a word of four bytes that changes the core in execution to `c` and its stream to `x`,
which then moves past the word; all else of the device stands. -/
def Leaves (i : Instr) (s : State) (c : CoreSt) (x : StreamSt) : Prop :=
  exec i s = .next (s.leaving c (x.advance 4))

/-- An instruction completes and writes `v` to scalar register `d` alone. -/
def Sets (i : Instr) (s : State) (d : Nat) (v : Word) : Prop := Leaves i s s.cur (s.strm.setReg d v)

/-- An instruction completes, writes `v` to scalar register `d` and ORs `f` into SXF (R298, R360). -/
def SetsFp (i : Instr) (s : State) (d : Nat) (v : Word) (f : Flags) : Prop :=
  Leaves i s { s.cur with sxf := s.cur.sxf ||| f } (s.strm.setReg d v)

/-- An instruction completes and writes predicate `d` alone. -/
def SetsPred (i : Instr) (s : State) (d : Nat) (b : Bool) : Prop := Leaves i s s.cur (s.strm.setPred d b)

/-- An instruction completes as a taken branch to `t` that leaves the stream `x`. -/
def Jumps (i : Instr) (s : State) (x : StreamSt) (t : Word) : Prop := exec i s = .next (s.leaving s.cur (x.jump t))

/-! ### M-format words and the scratchpad window -/

/-- A stream once an M-format word has updated its base register: by the offset in units of the access size where
POST is set (R371). -/
def StreamSt.bump (x : StreamSt) (b : Nat) (post : Bool) (off : BitVec 10) (sz : Nat) : StreamSt :=
  if post then x.setReg b (x.reg b + offBytes off sz) else x

/-- `n` bytes from an address lie in the scratchpad window, naturally aligned, and none is poisoned (R370, R272,
R323). -/
def State.windowReady (s : State) (va n : Nat) : Prop :=
  inWindow va = true ∧ va < 2 ^ 64 ∧ va % n = 0 ∧ s.cur.spadBad (va % 2 ^ 21) n = none

/-- How an instruction ends by the outcome of the access it makes: `ok` on the bytes, a precise trap at `va`, or the
wait named. -/
def EndsBy (i : Instr) (s : State) (r : State × Access) (va : Nat) (why : Stall) (ok : List Byte → State → State) :
    Prop :=
  (∀ t bs, r = (t, .done bs) → exec i s = .next (ok bs t)) ∧
  (∀ t e, r = (t, .fault e) → exec i s = .next (trap e.cause e.sub (BitVec.ofNat 64 va) t)) ∧
  (∀ t, r = (t, .wait) → exec i s = .next (block why t))

/-! ### Step words and vector words -/

/-- The matrix engine past a step word (R434). -/
def MatrixSt.passed (m : MatrixSt) : MatrixSt :=
  { m with pc := m.pc + 4, stall := false, stallCnt := 0, first := none, taken := none, fetch := {} }

/-- A step word completes and changes its core to `c`, whose matrix engine moves past the word; all else of the device
stands, but that a nest which an MABORT has asked to end while the word ran ends with it (R433). -/
def StepLeaves (i : Instr) (s : State) (c : CoreSt) : Prop :=
  let u := s.setCore s.focus.core { c with m := c.m.passed }
  exec i s = .next (if s.cur.m.abortReq then nestOver s.focus.core none true u else u)

/-- A step word ends its nest with a fault (R446). -/
def StepStops (i : Instr) (s : State) (cause : BitVec 8) (addr : Word) : Prop :=
  exec i s = .next (nestFault s.focus.core cause 0 addr s)

/-- Element `p`, of `w` bits, of the register or tile row that field `r` names (R282, R397). -/
def CoreSt.elem (c : CoreSt) (w r p : Nat) : Nat :=
  if w = 4 then fromBytes (c.placeBytes (c.vplace r + p / 2) 1) / 16 ^ (p % 2) % 16
  else fromBytes (c.placeBytes (c.vplace r + w / 8 * p) (w / 8))

/-- How a vector word ends (R242, R323, R338, R397 to R399): ILLEGAL where its own checks fail or a row it names lies
outside the tiles; VHAZARD at the first register of which it reads a byte whose write is in exposure (`reads` gives of each
register the first byte read and the number of bytes); POISON where a byte it reads is poisoned; else it moves on, raising
`flags` by lane unless NF is 1, and writes `bytes` with the exposed latency `lat`. -/
def VecWordAt (i : Instr) (s : State) (ok : Bool) (names : List Nat) (reads : List (Nat × Nat × Nat)) (nf : Bool)
    (lat : Nat) (bytes : List VByte) (flags : List (Nat × Flags)) : Prop :=
  let c := s.cur
  let named := ok = true ∧ ∀ r ∈ names, c.vnameOk r = true
  let hazard (r : Nat × Nat × Nat) : Prop := c.vpend = true ∧ r.2.2 ≠ 0 ∧ c.placePending (c.vplace r.1) = true
  let bad (r : Nat × Nat × Nat) : Prop := c.placeBad (c.vplace r.1 + r.2.1) r.2.2 = true
  (¬ named → exec i s = .next (trap 0x01 0 (rawWord i) s)) ∧
  (∀ l r k, named → reads = l ++ r :: k → (∀ q ∈ l, ¬ hazard q) → hazard r →
    exec i s = .next (trap 0x0D 0 (BitVec.ofNat 64 r.1) s)) ∧
  (named → (∀ r ∈ reads, ¬ hazard r) → (∃ r ∈ reads, bad r) → exec i s = .next (unitPoison s)) ∧
  (named → (∀ r ∈ reads, ¬ hazard r) → (∀ r ∈ reads, ¬ bad r) →
    exec i s = .next ((finishSize (instrSize i) s).modCur (fun c => (c.raiseLanes nf flags).expose bytes lat)))

/-- How a vector word ends that reads each of its sources from the first byte on. -/
def VecWord (i : Instr) (s : State) (ok : Bool) (names : List Nat) (reads : List (Nat × Nat)) (nf : Bool) (lat : Nat)
    (bytes : List VByte) (flags : List (Nat × Flags)) : Prop :=
  VecWordAt i s ok names (reads.map (fun r => (r.1, 0, r.2))) nf lat bytes flags

/-- A vector word that gives each enabled position of `vd` a code of the width in force with flags, from the elements of
`srcs` (R397). -/
def VecElems (i : Instr) (s : State) (ok : Bool) (vd : Nat) (srcs : List Nat) (nf mk : Bool) (lat : Nat)
    (g : Nat → Nat × Flags) : Prop :=
  let c := s.cur
  let out := (c.enabled mk c.vlen).map (fun p => (p, g p))
  VecWord i s ok (vd :: srcs) (srcs.map (fun r => (r, c.vw * c.vlen))) nf lat
    (out.flatMap (fun o => elemBytes (8 * c.vw) o.1 (c.vplace vd) o.2.1))
    (out.map (fun o => (c.vw * o.1 / 4, o.2.2)))

/-! ### Events and words of the executors -/

/-- An instruction completes in a state that `P` holds of. -/
def Answers (i : Instr) (s : State) (P : State → Prop) : Prop := ∃ t, exec i s = .next t ∧ P t

/-- From `s` to `u` the one message that leaves is `m`, along the route that its kind takes; it waits instead while no
route is UP or others of its channel to that device wait (R45, R47, R48). -/
def Sends (s u : State) (m : FabMsg) : Prop :=
  let free := s.waiting m.vc m.dst = false
  (∀ r, free → m.route s = some r → u.fab = { s.fab with sent := s.fab.sent ++ [⟨m, r⟩] }) ∧
  (free → m.route s = none → u.fab = { s.fab with held := s.fab.held ++ [m] }) ∧
  (¬ free → u.fab = { s.fab with held := s.fab.held ++ [m] })

/-- A message has left, or waits here for a route (R48). -/
def Posted (u : State) (m : FabMsg) : Prop := m ∈ u.fab.sent.map (fun e => e.msg) ∨ m ∈ u.fab.held

/-- A core after a turn of the tile unit on a word of which it ran a leaf tile: the output tiles of a level-0 word are full
(R455), and the tile units that ran leave their staging reserves as they please (R217). -/
def CoreSt.afterTile (c : CoreSt) (x : TileCtx) (run : Nat) : CoreSt :=
  if x.job.tw.level = 0 then (x.tilesOf x.outputs).foldl (fun c t => c.setFull t true) c else c.stage run

/-- An executor's turn on a word over records ends as the run `r` of the leaf tiles of `c`: memory and the cores are what
the run left, but that the cores that ran leave the word's tiles as R455 and R217 say; and the job has the run's faults,
and, where no member's granules are to be combined, is executed with its `last` leaf tile, and else keeps those that have
run with the values `vals` and `locs` that its reduction or scan still needs (R203, R212, R214, R220, R221). -/
def TileEnds (i : Instr) (s : State) (j : TileJob) (c : TileCtx) (last : Bool) (r : TileRun)
    (vals : List Partial) (locs : List (Nat × Nat)) : Prop :=
  Answers i s (fun t => t.mem = r.s.mem ∧ t.host = r.s.host ∧ t.fab.members = r.s.fab.members ∧
    (∀ k, t.core k = if c.leaves.any (fun l => l.core == k) = true then (r.s.core k).afterTile c (r.s.nextId + 1)
      else r.s.core k) ∧
    ∀ x, r.s.job? j.id = some x → j.member = false → x.phase = 0 → (tileCtx r.s x).far r.s = false →
      ∃ y, t.job? j.id = some y ∧ y.fault = leastFault x.fault r.fault ∧ y.count = min 65535 (x.count + r.count) ∧
        y.skipped = (x.skipped || r.skipped) ∧ y.word = x.word ∧ (last = true → y.executed = true) ∧
        (last = false → y.executed = x.executed ∧ y.ran = x.ran ++ c.leaves.map (fun l => l.path) ∧ y.vals = vals ∧
          y.locs = locs))

/-- The words that can be blocked at the head of their stream on a queue, a tag, a tile bit, a nest, a timeline, a
barrier, an INV or a multicast's room (R224, R229, R233, R248). -/
def waits : Instr → Bool
  | .amo .. | .mcst .. | .cpy .. | .cpyc .. | .lrec .. | .stb .. | .sth .. | .stw .. | .std .. | .ldq .. | .stq ..
  | .bqpush .. | .bqpop .. | .bqpeek .. | .qskip .. | .qpop .. | .qpush .. | .ldf .. | .ste .. | .rst .. | .rsta ..
  | .spawn .. | .tissue .. | .tlwait .. | .bwait .. | .inv .. | .mgo .. | .vpop .. | .vpush .. | .vmovt .. => true
  | _ => false

/-- The step words that can wait on a tile bit (R234). -/
def waitsStep : Instr → Bool
  | .mmac .. | .mmacs .. | .mdrn .. | .mzero .. | .mcmp .. => true
  | _ => false

/-- The state in which a stream of a core is the one in execution. -/
def State.focused (s : State) (core : Nat) (k : StreamKind) : State :=
  { s with focus := { s.focus with core := core, kind := k } }

/-- An event by which the word at a stream's PC is tried again ends as that word does on the state its fetch left. -/
def Retries (e : Instr) (s : State) (core : Nat) (k : StreamKind) : Prop :=
  let f := s.focused core k
  (∀ t bs i n, fetchInstr core k f.pc.toNat f = (t, .ok bs) → decode k bs = .ok (i, n) → waits i = true →
    Answers e s (fun u => exec i t = .next u)) ∧
  (∀ t bs err, fetchInstr core k f.pc.toNat f = (t, .ok bs) → decode k bs = .error err → exec e s = .next f) ∧
  (∀ t r, fetchInstr core k f.pc.toNat f = (t, .error r) → exec e s = .next f)

/-- LVIDX m of core `core` of a group of `n` cores from `first` on, of level `level`, on device `self` (R194). -/
def lvidxOf (self level core first n m : Nat) : Word :=
  let per := match m with | 2 => 4 | 3 => 64 | _ => 1
  let unit := match m with | 1 => core | 2 => core / 4 | 3 => core / 64 | 4 => self | _ => 0
  let pos := if m = 0 then 32 * (core - first) else if level ≤ m then 0 else (core - first) / per
  let count := if m = 0 then 32 * n else if level ≤ m then 1 else n / per
  BitVec.ofNat 64 (unit + pos * 2 ^ 16 + count * 2 ^ 32)

/-- From `v`, the groups of launch `l` stand in `t` on units of level `level` from core `first` on, group k with ID `gid k`:
each ID with its next incarnation, each core with its place, GRPID and LVIDX, at its streams' first words, or stopped on its
header's fault (R58, R59, R184, R193 to R195, R226, R227). -/
def Placed (v t : State) (l : Launch) (level first : Nat) (gid : Nat → Nat) : Prop :=
  let n := unitCores level
  let code := pkCode l.words
  let inc (k : Nat) : Nat := let g := sget {} v.fab.gids (gid k); if g.used then (g.inc + 1) % 16 else 0
  (∀ k k', k < l.total → k' < l.total → gid k = gid k' → k = k') ∧
  ∀ k, k < l.total → gid k < 16384 ∧ gidFree v (gid k) = true ∧ (sget {} t.fab.gids (gid k)).live = true ∧
    (sget {} t.fab.gids (gid k)).inc = inc k ∧
    (⟨gid k, l.packet, (List.range n).map (fun j => first + k * n + j), level, k, l.total, .running, false, false⟩ : Group)
      ∈ t.sched.groups ∧
    ∀ j, j < n →
      let c := first + k * n + j
      let y := t.core c
      (∃ pl, y.place = some pl ∧ pl.slot = l.slot ∧ pl.chain = l.chain ∧ pl.root = l.root ∧ pl.gid = gid k ∧
        pl.inc = inc k ∧ pl.index = j ∧ pl.codeBase = BitVec.ofNat 64 code ∧
        pl.grpid = BitVec.ofNat 64 (k + gid k * 2 ^ 16 + inc k * 2 ^ 30 + level * 2 ^ 34 + l.total * 2 ^ 37) ∧
        ∀ m, m < 6 → pl.lvidx.getD m 0 = lvidxOf v.self level c (first + k * n) n m) ∧
      y.a.pc = BitVec.ofNat 64 (code + 16 * pkOff l.words 0) ∧ y.x.pc = BitVec.ofNat 64 (code + 16 * pkOff l.words 1) ∧
      y.m.body = BitVec.ofNat 64 (code + 16 * pkOff l.words 2) ∧ y.txst = l.txst ∧ y.queues = [] ∧
      (y.fault = none → y.a.run = .running ∧ y.x.run = .running) ∧
      (y.fault.isSome = true → y.a.run = .faulted ∧ y.x.run = .faulted)

/-- No request waits at a pseudo-channel (R73), and no internal link trains or has failed (R25). -/
def State.quiet (s : State) : Prop :=
  (∀ pc, (s.pcSt pc).queue = []) ∧ ∀ i, internal i = true → (s.link i).state ≠ .training ∧ (s.link i).state ≠ .failed

/-- `t` is `s` but for what the arrival of requests changes at pseudo-channels: idle timers and self-refresh (R78). -/
def State.turned (s t : State) : Prop := t = s.withMem { s.mem with pcs := t.mem.pcs }

/-! ### Invariants -/

/-- The memories are in canonical form: addresses strictly rising, and no entry equal to what an unlisted address reads
as (the stacks' cells, their poisoned granules, host memory). -/
def Memory.wf (s : State) : Bool :=
  scanonical memDefault s.mem.hbm && scanonical false s.mem.poison && scanonical memDefault s.host.mem

/-- Every instruction address a stream holds is a multiple of 4 (R342, R364, R309). -/
def StreamSt.aligned (x : StreamSt) : Prop :=
  x.pc.toNat % 4 = 0 ∧ x.trapPc.toNat % 4 = 0 ∧ ∀ l ∈ x.loops, l.start.toNat % 4 = 0 ∧ l.stop.toNat % 4 = 0

/-- Both streams of every core hold aligned addresses. -/
def State.aligned (s : State) : Prop := ∀ c, (s.core c).a.aligned ∧ (s.core c).x.aligned

end Sys2Proof.Machine
end

