-- ==== Sys2Proof/Certificates/Slice0/Obligations.lean ====
section
/-! DEFINITION. The statements for the provers. -/

open Sys2Proof Sys2Proof.Machine

/-! ### Scalar words of the A- and X-streams -/

/-- R353, R354: the arithmetic, logic, shift and compare words of the integer group complete in every state with the
value the rule gives, in `d` alone (register 0 discards it, R225), and change nothing else (R351). R352, R358: the
immediate words complete in every state. -/
def Obligations.IntegerWordResults : Prop :=
  (∀ (s : State) (d a b : Nat),
     Sets (.add d a b) s d (s.rd a + s.rd b) ∧
     Sets (.sub d a b) s d (s.rd a - s.rd b) ∧
     Sets (.mul d a b) s d (s.rd a * s.rd b) ∧
     Sets (.mulh d a b) s d (BitVec.ofInt 64 ((s.rd a).toInt * (s.rd b).toInt / 2 ^ 64)) ∧
     Sets (.mulhu d a b) s d (BitVec.ofNat 64 ((s.rd a).toNat * (s.rd b).toNat / 2 ^ 64)) ∧
     Sets (.and d a b) s d (s.rd a &&& s.rd b) ∧
     Sets (.or d a b) s d (s.rd a ||| s.rd b) ∧
     Sets (.xor d a b) s d (s.rd a ^^^ s.rd b) ∧
     Sets (.andn d a b) s d (s.rd a &&& ~~~s.rd b) ∧
     Sets (.orn d a b) s d (s.rd a ||| ~~~s.rd b) ∧
     Sets (.shl d a b) s d (s.rd a <<< ((s.rd b).toNat % 64)) ∧
     Sets (.shr d a b) s d (s.rd a >>> ((s.rd b).toNat % 64)) ∧
     Sets (.sra d a b) s d ((s.rd a).sshiftRight ((s.rd b).toNat % 64)) ∧
     Sets (.rol d a b) s d ((s.rd a).rotateLeft ((s.rd b).toNat % 64)) ∧
     Sets (.ror d a b) s d ((s.rd a).rotateRight ((s.rd b).toNat % 64)) ∧
     Sets (.min d a b) s d (if (s.rd b).toInt < (s.rd a).toInt then s.rd b else s.rd a) ∧
     Sets (.max d a b) s d (if (s.rd a).toInt < (s.rd b).toInt then s.rd b else s.rd a) ∧
     Sets (.minu d a b) s d (if s.rd b < s.rd a then s.rd b else s.rd a) ∧
     Sets (.maxu d a b) s d (if s.rd a < s.rd b then s.rd b else s.rd a) ∧
     Sets (.slt d a b) s d (if (s.rd a).toInt < (s.rd b).toInt then 1 else 0) ∧
     Sets (.sltu d a b) s d (if s.rd a < s.rd b then 1 else 0) ∧
     Sets (.seq d a b) s d (if s.rd a = s.rd b then 1 else 0)) ∧
  (∀ (s : State) (d a : Nat) (imm : BitVec 16) (sh : Nat),
     Sets (.addi d a imm) s d (s.rd a + imm.signExtend 64) ∧
     Sets (.andi d a imm) s d (s.rd a &&& imm.setWidth 64) ∧
     Sets (.ori d a imm) s d (s.rd a ||| imm.setWidth 64) ∧
     Sets (.xori d a imm) s d (s.rd a ^^^ imm.setWidth 64) ∧
     Sets (.shli d a sh) s d (s.rd a <<< sh) ∧
     Sets (.shri d a sh) s d (s.rd a >>> sh) ∧
     Sets (.srai d a sh) s d ((s.rd a).sshiftRight sh) ∧
     Sets (.slti d a imm) s d (if (s.rd a).toInt < imm.toInt then 1 else 0) ∧
     Sets (.sltiu d a imm) s d (if s.rd a < imm.signExtend 64 then 1 else 0) ∧
     Sets (.li d imm) s d (imm.signExtend 64) ∧
     Sets (.lui d imm) s d (BitVec.ofInt 64 (imm.toInt * 2 ^ 16)))

/-- R355: division by zero writes all ones or the dividend, the signed overflow writes the dividend and remainder 0, and
every other quotient is truncated toward zero; none of the four words traps. -/
def Obligations.DivisionResults : Prop :=
  ∀ (s : State) (d a b : Nat),
    (s.rd b = 0 →
      Sets (.div d a b) s d (BitVec.allOnes 64) ∧ Sets (.divu d a b) s d (BitVec.allOnes 64) ∧
      Sets (.rem d a b) s d (s.rd a) ∧ Sets (.remu d a b) s d (s.rd a)) ∧
    (s.rd a = BitVec.intMin 64 → s.rd b = BitVec.allOnes 64 →
      Sets (.div d a b) s d (BitVec.intMin 64) ∧ Sets (.rem d a b) s d 0) ∧
    (s.rd b ≠ 0 →
      Sets (.div d a b) s d ((s.rd a).sdiv (s.rd b)) ∧ Sets (.divu d a b) s d (s.rd a / s.rd b) ∧
      Sets (.rem d a b) s d ((s.rd a).srem (s.rd b)) ∧ Sets (.remu d a b) s d (s.rd a % s.rd b))

/-- R354, R356, R357: the bit words complete in every state. Each result is given by its bits. R359: the predicate
words complete in every state; p0 discards a write and reads 1 (R225). -/
def Obligations.BitAndPredicateWordResults : Prop :=
  (∀ (s : State) (d a b c n : Nat),
     Sets (.sel d a b n) s d (if s.pr n then s.rd a else s.rd b) ∧
     (∃ z : Nat, Sets (.clz d a) s d (BitVec.ofNat 64 z) ∧ z ≤ 64 ∧
       (∀ i, i < z → (s.rd a).getLsbD (63 - i) = false) ∧ (z < 64 → (s.rd a).getLsbD (63 - z) = true)) ∧
     (∃ z : Nat, Sets (.ctz d a) s d (BitVec.ofNat 64 z) ∧ z ≤ 64 ∧
       (∀ i, i < z → (s.rd a).getLsbD i = false) ∧ (z < 64 → (s.rd a).getLsbD z = true)) ∧
     Sets (.popc d a) s d (BitVec.ofNat 64 ((List.range 64).countP (fun i => (s.rd a).getLsbD i))) ∧
     (∃ v : Word, Sets (.brev d a) s d v ∧ ∀ i, i < 64 → v.getLsbD i = (s.rd a).getLsbD (63 - i)) ∧
     (∃ v : Word, Sets (.bswap d a) s d v ∧
       ∀ i j, i < 8 → j < 8 → v.getLsbD (8 * i + j) = (s.rd a).getLsbD (8 * (7 - i) + j)) ∧
     (∃ v : Word, Sets (.bfx d a b c) s d v ∧
       ∀ i, v.getLsbD i = (decide (i < fieldWidth (s.rd b) (s.rd c)) && (s.rd a).getLsbD (fieldPos (s.rd b) + i))) ∧
     (∃ v : Word, Sets (.bfi d a b c) s d v ∧
       ∀ i, i < 64 → v.getLsbD i =
         if fieldPos (s.rd b) ≤ i ∧ i < fieldPos (s.rd b) + fieldWidth (s.rd b) (s.rd c) then
           (s.rd a).getLsbD (i - fieldPos (s.rd b))
         else (s.rd d).getLsbD i) ∧
     (∃ v : Word, Sets (.clmul d a b) s d v ∧
       ∀ i, i < 64 → v.getLsbD i =
         (List.range (i + 1)).foldl (fun x j => x ^^ ((s.rd a).getLsbD j && (s.rd b).getLsbD (i - j))) false) ∧
     (∃ v : Word, Sets (.clmulh d a b) s d v ∧
       ∀ i, i < 64 → v.getLsbD i =
         (List.range 64).foldl (fun x j => x ^^ ((s.rd a).getLsbD j && (s.rd b).getLsbD (64 + i - j))) false)) ∧
  (∀ (s : State) (d a b : Nat),
     SetsPred (.pcmp d a b 0) s d (s.rd a == s.rd b) ∧
     SetsPred (.pcmp d a b 1) s d (s.rd a != s.rd b) ∧
     SetsPred (.pcmp d a b 2) s d (decide ((s.rd a).toInt < (s.rd b).toInt)) ∧
     SetsPred (.pcmp d a b 3) s d (decide ((s.rd b).toInt ≤ (s.rd a).toInt)) ∧
     SetsPred (.pcmp d a b 4) s d (decide (s.rd a < s.rd b)) ∧
     SetsPred (.pcmp d a b 5) s d (decide (s.rd b ≤ s.rd a)) ∧
     SetsPred (.pand d a b) s d (s.pr a && s.pr b) ∧
     SetsPred (.por d a b) s d (s.pr a || s.pr b) ∧
     SetsPred (.pnot d a) s d (!s.pr a) ∧
     SetsPred (.pmov d a 0) s d (s.rd a != 0) ∧
     Sets (.pmov d a 1) s d (if s.pr a then 1 else 0) ∧
     (∃ v : Word, Sets (.pmov d a 2) s d v ∧ ∀ i, v.getLsbD i = (decide (i < 8) && s.pr i)) ∧
     (∃ x : StreamSt, Leaves (.pmov d a 3) s s.cur x ∧ x = { s.strm with preds := x.preds } ∧
       ∀ i, 1 ≤ i → i < 8 → x.pred i = (s.rd a).getLsbD i))

/-- R360 to R362: the scalar floating-point words complete in every state: the FP32 operation on the low halves, the
high half of the result 0, its flags ORed into SXF. -/
def Obligations.ScalarFpResults : Prop :=
  ∀ (s : State) (d a b c cv : Nat),
    let x := (s.rd a).toNat % 2 ^ 32
    let y := (s.rd b).toNat % 2 ^ 32
    let z := (s.rd c).toNat % 2 ^ 32
    let fp (i : Instr) (r : Nat × Flags) : Prop := SetsFp i s d (BitVec.ofNat 64 r.1) r.2
    let cmp (i : Instr) (r : Bool × Flags) : Prop := SetsFp i s d (if r.1 then 1 else 0) r.2
    fp (.fadd d a b) (Fmt.fp32.fadd x y) ∧ fp (.fsub d a b) (Fmt.fp32.fsub x y) ∧
    fp (.fmul d a b) (Fmt.fp32.fmul x y) ∧ fp (.fma d a b c) (Fmt.fp32.ffma false false x y z) ∧
    fp (.fmin d a b) (Fmt.fp32.fmin x y) ∧ fp (.fmax d a b) (Fmt.fp32.fmax x y) ∧
    fp (.fabs d a) (Fmt.fp32.fabs x) ∧ fp (.fneg d a) (Fmt.fp32.fneg x) ∧
    cmp (.fcmpeq d a b) (Fmt.fp32.feq x y) ∧ cmp (.fcmplt d a b) (Fmt.fp32.flt x y) ∧
    cmp (.fcmple d a b) (Fmt.fp32.fle x y) ∧
    (let r := toInt (Fmt.fp32.decode x) (rmodeOf (cv % 8)) 0 (if bit cv 3 then 64 else 32)
     SetsFp (.fcvtfi d a cv) s d (BitVec.ofInt 64 (sx r.1 (if bit cv 3 then 64 else 32))) r.2) ∧
    fp (.fcvtif d a cv) ((if bit cv 4 then Fmt.bf16 else Fmt.fp32).round (rmodeOf (cv % 8)) 1 0
      (Fv.ofInt (if bit cv 3 then (s.rd a).toInt else ((s.rd a).setWidth 32).toInt)))

/-- R363, R364, R365: a branch whose condition holds goes to its own address plus four times its offset, else on to the
next word; J and JAL always go, JAL and JR write the address of the next word, and JR takes its target from the old
register, raising ALIGN with that target where it is no multiple of 4. -/
def Obligations.BranchResults : Prop :=
  ∀ (s : State) (a b d : Nat) (off : BitVec 16) (far : BitVec 26),
    let br (i : Instr) (c : Prop) : Prop :=
      (c → Jumps i s s.strm (s.pc + 4 * off.signExtend 64)) ∧ (¬ c → Leaves i s s.cur s.strm)
    let t := s.rd a + off.signExtend 64
    br (.beq a b off) (s.rd a = s.rd b) ∧ br (.bne a b off) (s.rd a ≠ s.rd b) ∧
    br (.blt a b off) ((s.rd a).toInt < (s.rd b).toInt) ∧ br (.bge a b off) ((s.rd b).toInt ≤ (s.rd a).toInt) ∧
    br (.bltu a b off) (s.rd a < s.rd b) ∧ br (.bgeu a b off) (s.rd b ≤ s.rd a) ∧
    Jumps (.j far) s s.strm (s.pc + 4 * far.signExtend 64) ∧
    Jumps (.jal far) s (s.strm.setReg 31 (s.pc + 4)) (s.pc + 4 * far.signExtend 64) ∧
    (t.toNat % 4 = 0 → Jumps (.jr d a off) s (s.strm.setReg d (s.pc + 4)) t) ∧
    (t.toNat % 4 ≠ 0 → exec (.jr d a off) s = .next (trap 0x02 0 t s))

/-- R225, R366: where no active loop ends at a word of four bytes, its completion moves the program counter past it
and changes no register, predicate, loop level or trap register of the stream. R351, R239: what `leaving` leaves as
it was: every other core; of the core in execution every scratchpad byte, queue, tag, timeline, full bit, mask, trap
enable and the other stream as `c` has them; and every byte of HBM and of host memory, every packet, chain and
register of the rest of the device. -/
def Obligations.WordAdvanceAndFrame : Prop :=
  (∀ x : StreamSt, x.straight = true →
     x.advance 4 = { x with pc := x.pc + 4, stall := none, stallCnt := 0, wait := none, parts := [], fetch := {},
                              skip := none }) ∧
  (∀ (s : State) (c : CoreSt) (x : StreamSt),
     let t := s.leaving c x
     (∀ k, k ≠ s.focus.core → t.core k = s.core k) ∧
     t.strm = x ∧
     (∀ k, s.focus.kind = .a → k = .x → t.cur.stream k = c.stream k) ∧
     (s.focus.kind = .x → t.cur.a = c.a) ∧
     t.cur.m = c.m ∧ t.cur.queues = c.queues ∧ t.cur.tls = c.tls ∧ t.cur.tags = c.tags ∧ t.cur.masks = c.masks ∧
     t.cur.full = c.full ∧ t.cur.trapEn = c.trapEn ∧ t.cur.sxf = c.sxf ∧ t.cur.lanes = c.lanes ∧ t.cur.vsh = c.vsh ∧
     t.cur.txst = c.txst ∧
     (∀ o, o < 0x180000 → t.cur.spadByte o = c.spadByte o) ∧
     (s.focus.kind ≠ .x ∨ c.pending = [] →
       t.cur.vec = c.vec ∧ (∀ i, t.cur.tileByte i = c.tileByte i) ∧ t.cur.pending = c.pending) ∧
     (∀ o, t.mem.byte o = s.mem.byte o) ∧ t.mem = s.mem ∧ t.host = s.host ∧ t.sched = s.sched ∧ t.fab = s.fab ∧
     t.arb = s.arb ∧ t.perg = s.perg ∧ t.tiles = s.tiles ∧ t.pkg = s.pkg ∧ t.dbg = s.dbg)

/-! ### Hardware loops -/

/-- R366, R367: where the innermost active level is a LOOP whose end word is the word at PC, the end of that word
counts the iteration: below its count the stream continues at the body start with the index written; else the level
is popped, and what lies outside it acts at once as at the same end word. R368: at the end word of a LOOPS level
with no pre-emption asked, the next pass starts while it has stages to run, with the index and the stage predicates
p1 to pS of that pass; after the last pass the level is popped. -/
def Obligations.LoopEndWordActs : Prop :=
  (∀ (x : StreamSt) (l : LoopLevel) (rest : List LoopLevel),
     x.active = l :: rest → rest.length ≤ 3 → l.stop = x.pc → l.stages = 0 →
     (l.x + 1 < l.n →
       let y := x.advance 4
       y.pc = l.start ∧ y.active = { l with x := l.x + 1 } :: rest ∧ y.heldLevels = x.heldLevels ∧
       (∀ r, y.reg r = if r ≠ 0 ∧ r = l.idx then BitVec.ofNat 64 (l.x + 1) else x.reg r) ∧ y.preds = x.preds ∧
       y.run = if x.preempt = true ∧ x.loops.all (fun l => l.stages == 0) = true then .stopped else x.run) ∧
     (l.n ≤ l.x + 1 → x.advance 4 = ({ x with loops := rest ++ x.heldLevels } : StreamSt).advance 4)) ∧
  (∀ (x : StreamSt) (l : LoopLevel) (rest : List LoopLevel),
     x.active = l :: rest → rest.length ≤ 3 → l.stop = x.pc → 1 ≤ l.stages → l.stages ≤ 7 → l.i0 = 0 → l.lim = l.n →
     l.cut = false → x.preempt = false →
     (l.x + 1 < l.n + (l.stages - 1) →
       let y := x.advance 4
       y.pc = l.start ∧ y.active = { l with x := l.x + 1 } :: rest ∧
       (∀ r, y.reg r = if r ≠ 0 ∧ r = l.idx then BitVec.ofNat 64 (l.x + 1) else x.reg r) ∧
       (∀ k, 1 ≤ k → k < 8 → y.pred k =
         if k ≤ l.stages then decide (k - 1 ≤ l.x + 1 ∧ l.x + 1 < l.n + (k - 1)) else x.pred k) ∧ y.run = x.run) ∧
     (l.n + (l.stages - 1) ≤ l.x + 1 →
       x.advance 4 = ({ x with loops := rest ++ x.heldLevels } : StreamSt).advance 4))

/-- R366, R367, R368: a LOOP or LOOPS with a count pushes its level inside the innermost active one and starts its
body with the index 0, a LOOPS with p1 set and p2 to pS clear; with count 0 a LOOP whose end word no active level
shares continues after it, and a LOOPS has cleared p1 to pS; where active levels share the end word they act as at its
completion (`LoopEndWordActs` says how), and in the X-stream the end word counts with its extension where a vector
word at the end address has one beyond it (R367 rules 3 and 4); a fifth level, an end word beyond the innermost active
level's and a place at an active end word raise ILLEGAL. -/
def Obligations.LoopWordResults : Prop :=
  ∀ (s : State) (d a st len : Nat), 1 ≤ st → st ≤ 7 →
    let x := s.strm
    let stop := s.pc + BitVec.ofNat 64 (4 * len)
    let n := (s.rd a).toNat
    let fits := x.straight = true ∧ ∀ l ∈ x.active.head?, stop.toNat ≤ l.stop.toNat
    let entered (y : StreamSt) (stages : Nat) : Prop :=
      y.pc = s.pc + 4 ∧ y.loops = ⟨s.pc + 4, stop, d, n, stages, 0, 0, n, x.preempt && decide (stages ≠ 0), false⟩ :: x.loops ∧
      (∀ r, y.reg r = if r ≠ 0 ∧ r = d then 0 else x.reg r) ∧
      (∀ k, 1 ≤ k → k < 8 → y.pred k = if k ≤ stages then decide (k = 1) else x.pred k) ∧
      y.trapVec = x.trapVec ∧ y.trapPc = x.trapPc ∧ y.trapAddr = x.trapAddr ∧ y.inTrap = x.inTrap
    let i := Instr.loop d a len
    let j := Instr.loops d a st len
    (fits → n ≠ 0 → x.loops.length < 4 →
      (∃ y, exec i s = .next (s.leaving s.cur y) ∧ entered y 0) ∧
      (∃ y, exec j s = .next (s.leaving s.cur y) ∧ entered y st)) ∧
    (fits → n = 0 → s.focus.kind = .a → x.active.all (fun l => l.stop != stop) = true →
      (∃ y, exec i s = .next (s.leaving s.cur y) ∧ y.pc = stop + 4 ∧ y.loops = x.loops ∧ y.preds = x.preds ∧
        y.regs = x.regs) ∧
      (∃ y, exec j s = .next (s.leaving s.cur y) ∧ y.pc = stop + 4 ∧ y.loops = x.loops ∧ y.regs = x.regs ∧
        ∀ k, 1 ≤ k → k < 8 → y.pred k = (decide (st < k) && x.pred k))) ∧
    -- count 0, whatever levels share the end word
    (let cleared (y : StreamSt) : StreamSt := upTo st (fun k y => y.setPred (k + 1) false) y
     let ended (y : StreamSt) (size : Nat) : StreamSt := ({ y with pc := stop } : StreamSt).advance size
     let pair := pairAtEnd s.focus.core s.pc.toNat len 1 false s
     (fits → n = 0 → s.focus.kind = .a →
       exec i s = .next (s.leaving s.cur (ended x 4)) ∧ exec j s = .next (s.leaving s.cur (ended (cleared x) 4))) ∧
     (∀ p, fits → n = 0 → s.focus.kind = .x → pair.2 = some p →
       let size := if p then 8 else 4
       exec i s = .next (pair.1.leaving pair.1.cur (ended pair.1.strm size)) ∧
       exec j s = .next (pair.1.leaving pair.1.cur (ended (cleared pair.1.strm) size))) ∧
     (fits → n = 0 → s.focus.kind = .x → pair.2 = none →
       exec i s = .next (block .remote pair.1) ∧ exec j s = .next (block .remote pair.1)) ∧
     (∀ (at_ : Nat → State) (w : Nat → Nat) (head : Nat → Bool), at_ 1 = s → head 1 = true → 1 ≤ len →
       (∀ k, 1 ≤ k → k ≤ len → fetchWord s.focus.core .x s.pc.toNat k (at_ k) = (at_ (k + 1), .word (w k))) →
       (∀ k, 1 ≤ k → k < len → head (k + 1) = !(head k && vectorPair (w k))) →
       pair = (at_ (len + 1), some (head len && vectorPair (w len))))) ∧
    (fits → n ≠ 0 → 4 ≤ x.loops.length →
      exec i s = .next (trap 0x01 0 (rawWord i) s) ∧ exec j s = .next (trap 0x01 0 (rawWord j) s)) ∧
    (¬ fits → exec i s = .next (trap 0x01 0 (rawWord i) s) ∧ exec j s = .next (trap 0x01 0 (rawWord j) s))

/-! ### Traps -/

/-- R307, R308, R309: a trap of a stream with TRAPVEC.EN 1 and INTRAP 0 is taken: pending vector writes take effect,
CODE, SUB, ADDR and TRAPPC are written, INTRAP is set, the loop levels are held, and the stream continues at VEC·4
with its registers, predicates and loop levels as its word left them (`after`: as they were, for a precise trap); the
other stream and every other core are untouched, and memory too. R310, R315: a trap with EN 0 or INTRAP 1 is not taken:
CODE, SUB and TRAPADDR are written, the core stops faulted with that cause, sub-code and address, and TRAPPC, INTRAP,
registers, predicates and loop levels keep their values. -/
def Obligations.TrapEntryResults : Prop :=
  (∀ (s : State) (core : Nat) (k : StreamKind) (cause : BitVec 8) (sub : Nat) (addr : Word) (after : StreamSt → StreamSt),
     let x := (s.core core).stream k
     x.trapVec.getLsbD 0 = true → x.inTrap = false →
     let t := trapEntry core k cause sub addr after s
     let y := (t.core core).stream k
     let x := after x
     y.trapCode = cause ∧ y.trapSub = BitVec.ofNat 3 sub ∧ y.trapAddr = addr ∧ y.trapPc = x.pc &&& ~~~3 ∧
     y.inTrap = true ∧ y.pc = x.trapVec &&& ~~~3 ∧ y.held = x.loops.length ∧ y.active = [] ∧
     y.regs = x.regs ∧ y.preds = x.preds ∧ y.loops = x.loops ∧ y.trapVec = x.trapVec ∧ y.run = x.run ∧
     (t.core core).pending = [] ∧ (t.core core).queues = (s.core core).queues ∧
     (t.core core).spad = (s.core core).spad ∧ (t.core core).tls = (s.core core).tls ∧
     (k = .a → (t.core core).x = (s.core core).x) ∧ (k ≠ .a → (t.core core).a = (s.core core).a) ∧
     (∀ c, c ≠ core → t.core c = s.core c) ∧ t.mem = s.mem ∧ t.host = s.host ∧ t.sched = s.sched ∧ t.tiles = s.tiles) ∧
  (∀ (s : State) (core : Nat) (k : StreamKind) (cause : BitVec 8) (sub : Nat) (addr : Word) (after : StreamSt → StreamSt),
     let x := (s.core core).stream k
     (x.trapVec.getLsbD 0 = false ∨ x.inTrap = true) →
     let t := trapEntry core k cause sub addr after s
     let y := (t.core core).stream k
     y.trapCode = cause ∧ y.trapSub = BitVec.ofNat 3 sub ∧ y.trapAddr = addr ∧ y.trapPc = x.trapPc ∧
     y.inTrap = x.inTrap ∧ y.pc = x.pc ∧ y.regs = x.regs ∧ y.preds = x.preds ∧ y.loops = x.loops ∧
     (t.core core).fault = some ⟨cause, sub, addr⟩ ∧ t.mem = s.mem ∧ t.host.mem = s.host.mem ∧
     (∀ g pl, (s.core core).place = some pl → t.group? pl.gid = some g → g.faulted = true))

/-- R309, R311, R320, R471, R472: TRAP raises SWTRAP with its immediate, BRKD raises BRK unless DBGCTL.BRKHALT is set, and
TFENCE raises FPE where an enabled flag is set, each resuming at the word after it, its loops acted on where it is an end
word (R366); ERET in a handler discards the
handler's levels, clears INTRAP and continues at TRAPPC·4, outside one it is ILLEGAL; TFENCE with no enabled flag and NOP
only move on. -/
def Obligations.TrapWordResults : Prop :=
  ∀ (s : State) (imm : BitVec 20),
    let k := s.focus.kind
    let t := (s.cur.sxf ||| s.cur.vxf) &&& s.cur.trapEn.setWidth 5
    exec (.trap imm) s = .next (trapEntry s.focus.core k 0x12 0 (imm.setWidth 64) StreamSt.passOn s) ∧
    (s.strm.straight = true → s.strm.passOn = { s.strm with
      pc := s.pc + 4, stall := none, stallCnt := 0, wait := none, parts := [], fetch := {}, skip := none }) ∧
    (s.dbg.brkHalt = false → exec .brkd s = .next (trapEntry s.focus.core k 0x13 0 0 StreamSt.passOn s)) ∧
    (s.dbg.brkHalt = true → s.cur.place = none → Leaves .brkd s s.cur s.strm) ∧
    (∀ p, s.dbg.brkHalt = true → s.cur.place = some p → s.dbg.state = 0 →
      exec .brkd s = .next (haltOne p.slot .brkd (s.leaving s.cur (s.strm.advance 4)))) ∧
    (t ≠ 0 → exec .tfence s = .next (trapEntry s.focus.core k 0x10 0 (t.setWidth 64) StreamSt.passOn s)) ∧
    (t = 0 → Leaves .tfence s s.cur s.strm) ∧
    (s.strm.inTrap = false → exec .eret s = .next (trap 0x01 0 (rawWord .eret) s)) ∧
    (s.strm.inTrap = true → ∃ y, exec .eret s = .next (s.leaving s.cur y) ∧ y.pc = s.strm.trapPc ∧
      y.inTrap = false ∧ y.loops = keepLevels s.strm.trapPc s.strm.heldLevels ∧ y.regs = s.strm.regs ∧
      y.preds = s.strm.preds ∧ y.trapPc = s.strm.trapPc ∧ y.trapVec = s.strm.trapVec ∧ y.trapCode = s.strm.trapCode ∧
      y.trapAddr = s.strm.trapAddr) ∧
    Leaves .nop s s.cur s.strm

/-- R474, R241: EXIT ends its stream, with every pending vector write of its core in effect and its loop levels
discarded; the other stream runs on. -/
def Obligations.ExitEndsStream : Prop :=
  ∀ s : State, ∃ t, exec .exit s = .next t ∧ t.strm.run = .exited ∧ t.strm.loops = [] ∧ t.strm.regs = s.strm.regs ∧
    t.strm.preds = s.strm.preds ∧ t.cur.pending = [] ∧ (s.focus.kind ≠ .a → t.cur.a = s.cur.a) ∧
    (s.focus.kind = .a → t.cur.x = s.cur.x) ∧
    (∀ c, c ≠ s.focus.core → t.core c = s.core c) ∧ t.mem = s.mem ∧ t.sched = s.sched

/-! ### Loads and stores of the A-stream -/

/-- R371, R373: under a true predicate a load reads its bytes at the address, writes them extended and then updates
its base from the old value; a fault of the access is precise at the address, and a remote one waits. A false
predicate makes no access and only updates the base. R371, R372, R374, R375: under a true predicate a store writes
the low bytes of its data register, read before the base is updated, at the address with its scope; it waits while
no tl2 number is to be had, and a fault is precise. A false predicate makes no access and only updates the base. -/
def Obligations.LoadStoreWordResults : Prop :=
  (∀ (s : State) (d b p : Nat) (post ext : Bool) (off : BitVec 10),
     let load (i : Instr) (sz : Nat) (ext : Bool) : Prop :=
       let va := (mAddr b post off sz s).toNat
       (s.pr p = false → Leaves i s s.cur (s.strm.bump b post off sz)) ∧
       (s.pr p = true → EndsBy i s (loadBytes va sz s) va .remote (fun bs t =>
         t.leaving t.cur (((t.strm.bump b post off sz).setReg d
           (if ext then BitVec.ofInt 64 (sx (fromBytes bs) (8 * bs.length)) else BitVec.ofNat 64 (fromBytes bs))).advance 4)))
     load (.ldb d b p post ext off) 1 ext ∧ load (.ldh d b p post ext off) 2 ext ∧
     load (.ldw d b p post ext off) 4 ext ∧ load (.ldd d b p post off) 8 false) ∧
  (∀ (s : State) (d b p : Nat) (post : Bool) (sc : Nat) (off : BitVec 10), sc < 4 →
     let store (i : Instr) (sz : Nat) : Prop :=
       let va := (mAddr b post off sz s).toNat
       (s.pr p = false → Leaves i s s.cur (s.strm.bump b post off sz)) ∧
       (s.pr p = true →
         EndsBy i s (storeBytes va (if sc < 2 then sc else sc + 1) (toBytes sz (s.rd d).toNat) s) va .queue (fun _ t =>
           t.leaving t.cur ((t.strm.bump b post off sz).advance 4)))
     store (.stb d b p post sc off) 1 ∧ store (.sth d b p post sc off) 2 ∧
     store (.stw d b p post sc off) 4 ∧ store (.std d b p post sc off) 8)

/-- R272, R370, R371, R373, R374: in the scratchpad window a load of 1, 2, 4 or 8 aligned unpoisoned bytes completes
with their little-endian value extended, and a store with the low bytes of its register written there; a misaligned
access raises ALIGN, a load of poisoned bytes POISON, one past the window's end ATTRSPLIT, with the address. -/
def Obligations.WindowAccessResults : Prop :=
  ∀ (s : State) (d b p : Nat) (post ext : Bool) (sc : Nat) (off : BitVec 10), s.pr p = true →
    let form (l t : Instr) (sz : Nat) (ext : Bool) : Prop :=
      let va := (mAddr b post off sz s).toNat
      let v : BitVec (8 * sz) := BitVec.ofNat (8 * sz) (fromBytes (s.cur.spadBytes (va % 2 ^ 21) sz))
      let faults (i : Instr) (c : BitVec 8) : Prop := exec i s = .next (trap c 0 (BitVec.ofNat 64 va) s)
      (s.windowReady va sz →
        Leaves l s s.cur ((s.strm.bump b post off sz).setReg d (if ext then v.signExtend 64 else v.setWidth 64))) ∧
      (inWindow va = true → va % sz = 0 →
        Leaves t s (s.cur.spadWrite (va % 2 ^ 21) (toBytes sz (s.rd d).toNat)) (s.strm.bump b post off sz)) ∧
      (inWindow va = true → va % sz ≠ 0 → va + sz ≤ 2 ^ 64 → faults l 0x02 ∧ faults t 0x02) ∧
      (inWindow va = true → va % sz = 0 → s.cur.spadBad (va % 2 ^ 21) sz ≠ none → faults l 0x08) ∧
      (inWindow va = true → 2 ^ 64 < va + sz → faults l 0x03 ∧ faults t 0x03)
    form (.ldb d b p post ext off) (.stb d b p post sc off) 1 ext ∧
    form (.ldh d b p post ext off) (.sth d b p post sc off) 2 ext ∧
    form (.ldw d b p post ext off) (.stw d b p post sc off) 4 ext ∧
    form (.ldd d b p post off) (.std d b p post sc off) 8 false

/-- R69, R70: every scheme code places the offsets of one region at cells of their own, and offsets of two regions
at different cells. R70, R323: bytes written at offsets of the stacks read back, every other offset keeps its byte,
and the regions, status tables, caches and pseudo-channels stand. R246, R323: a scratchpad byte reads what was last
written to it, every other byte as before, and no other part of the core changes but the poison of words written
whole. -/
def Obligations.MemoryReadAfterWrite : Prop :=
  (∀ (m : MemSt) (a b : Nat), a < 2 ^ 39 → b < 2 ^ 39 → cellKey (m.cell a) = cellKey (m.cell b) → a = b) ∧
  (∀ (m : MemSt) (a : Nat) (bs : List Byte), a + bs.length ≤ 2 ^ 39 →
     let w := m.write a bs
     w.bytes a bs.length = bs ∧
     (∀ o, o < 2 ^ 39 → (o < a ∨ a + bs.length ≤ o) → w.byte o = m.byte o) ∧
     w.irtCode = m.irtCode ∧ w.master = m.master ∧ w.bdies = m.bdies ∧ w.l2 = m.l2 ∧ w.pcs = m.pcs ∧ w.l2tlb = m.l2tlb) ∧
  (∀ (c : CoreSt) (off : Nat) (bs : List Byte),
     let w := c.spadWrite off bs
     (∀ i, i < bs.length → some (w.spadByte (off + i)) = bs[i]?) ∧
     (∀ o, o < off ∨ off + bs.length ≤ o → w.spadByte o = c.spadByte o) ∧
     (∀ i, w.tileByte i = c.tileByte i) ∧ w.a = c.a ∧ w.x = c.x ∧ w.tags = c.tags ∧ w.queues = c.queues ∧
     w.vec = c.vec ∧ w.tls = c.tls ∧ w.full = c.full ∧ w.copyQ = c.copyQ)

/-- R376, R377: LDQ pushes an entry of the width its queue has: the bytes it loads, or under a false predicate a null
entry of zeros; it stalls while the queue is full. STQ pops the oldest entry, storing its bytes under a true predicate;
it stalls on an empty queue, and a faulting one pops nothing. A width or depth that does not fit is ILLEGAL. -/
def Obligations.QueueAccessResults : Prop :=
  ∀ (s : State) (q b p : Nat) (post w : Bool) (off : BitVec 10),
    let sz := if w then 2048 else 8
    let va := (mAddr b post off sz s).toNat
    let fits (k : Nat) : Prop := cfgVec s.cur.coreCfg.toNat k = w ∧ s.cur.queueDepth k ≠ 0
    let push (e : QEntry) (t : State) : State :=
      t.leaving (t.cur.setQueue q (t.cur.queue q ++ [e])) ((t.strm.bump b post off sz).advance 4)
    let pop (rest : List QEntry) (t : State) : State :=
      t.leaving (t.cur.setQueue (4 + q) rest) ((t.strm.bump b post off sz).advance 4)
    let i := Instr.ldq q b p post w off
    let j := Instr.stq q b p post w off
    (¬ fits q → exec i s = .next (trap 0x01 0 (rawWord i) s)) ∧
    (fits q → s.cur.queueDepth q ≤ (s.cur.queue q).length → exec i s = .next (block .queue s)) ∧
    (fits q → (s.cur.queue q).length < s.cur.queueDepth q → s.pr p = false →
      exec i s = .next (push ⟨List.replicate sz 0, true, false⟩ s)) ∧
    (fits q → (s.cur.queue q).length < s.cur.queueDepth q → s.pr p = true →
      EndsBy i s (loadBytes va sz s) va .remote (fun bs t => push ⟨bs, false, false⟩ t)) ∧
    (¬ fits (4 + q) → exec j s = .next (trap 0x01 0 (rawWord j) s)) ∧
    (fits (4 + q) → s.cur.queue (4 + q) = [] → exec j s = .next (block .queue s)) ∧
    (∀ e rest, fits (4 + q) → s.cur.queue (4 + q) = e :: rest →
      (s.pr p = false → exec j s = .next (pop rest s)) ∧
      (s.pr p = true → e.poison = false →
        EndsBy j s (storeBytes va 0 e.data s) va .queue (fun _ t => pop rest t)) ∧
      (s.pr p = true → e.poison = true → exec j s = .next (unitPoison s)))

/-! ### Memory -/

/-- The memories stay in canonical form under every operation that writes them: cells, poison, metadata words, host
memory; the canonical form is the model's own (log 3), and reset memory has it. -/
def Obligations.MemoryOperationsKeepCanonicalForm : Prop :=
  Memory.wf State.reset = true ∧
  ∀ (s : State) (a : Nat) (bs : List Byte) (md : Meta) (f : Bool), Memory.wf s = true →
    Memory.wf (s.withMem (s.mem.write a bs)) = true ∧ Memory.wf (s.withMem (s.mem.setPoison a f)) = true ∧
    Memory.wf (s.withMem (s.mem.putMeta a md)) = true ∧ Memory.wf (hostWrite a bs s) = true ∧
    Memory.wf (metaError a s) = true ∧
    (∀ l c k, Memory.wf (homeStore l bs c k s).1 = true) ∧
    (∀ l op x y c, Memory.wf (homeAmo l op x y c s).1 = true)

/-- R250, R256, R257: a core's later loads see the bytes it stored to plain local HBM at any scope (a poisoned cell
stays poisoned until its granule is written whole, R323): each byte, and a part of one granule whole, which a load then
takes from one point of the order (R272; log 44); and, where no line leaves the caches for the store, they see every
other byte as before. No earlier request waits at a pseudo-channel: one is performed first (R73); and no internal link
trains or has failed: the way to the home would wait or end (R25). -/
def Obligations.OwnStoreSeen : Prop :=
  ∀ (s : State) (core pa : Nat) (bs : List Byte) (scope : Nat), s.quiet → pa + bs.length ≤ 2 ^ 39 →
    let t := cacheWrite core pa bs scope s
    let room := bs.length ≤ 2048 ∧ (l2Of s core).length + 17 ≤ 32768 ∧
      ∀ n, ((s.core core).l1.filter (fun p => p.1 % 256 == n)).length < 8
    (∀ i, i < bs.length → seeByte t core (pa + i) = bs[i]? ∨ t.mem.poisoned (pa + i) 1 = true) ∧
    (∀ i, i < bs.length → cacheRead t core (pa + i) 1 = (seeByte t core (pa + i)).map (fun b => [b])) ∧
    (bs ≠ [] → pa % 32 + bs.length ≤ 32 →
      cacheRead t core pa bs.length = some bs ∨ t.mem.poisoned pa bs.length = true) ∧
    (room → ∀ o, o < 2 ^ 39 → (o < pa ∨ pa + bs.length ≤ o) → s.mem.poisoned o 1 = false →
      seeByte t core o = seeByte s core o) ∧
    (∀ c, c ≠ core → t.core c = s.core c) ∧ t.cur.a = s.cur.a ∧ t.cur.x = s.cur.x ∧ t.host = s.host

/-! ### Tagged words, remote accesses, atomics and multicast -/

/-- R248, R371, R378: LDF in the scratchpad window waits for full, writes xd from the word and empties its tag; STE
waits for empty, writes the word and fills its tag; `.keep` leaves the tag; `.sys` makes LDF acquire after it and
STE release before it; a false predicate only updates the base; and the faults of the address are precise. R378,
R484: a tagged access in the window that is misaligned raises ALIGN; one at a page that is not of SPACE 2 raises
ATTRSPLIT, aligned or not. R371, R380: TAGSET and TAGCLR set and clear the tags of xd consecutive words from an
aligned window address, no data and no other tag changed; a range that leaves the scratchpad raises ATTRSPLIT and a
misaligned one ALIGN, with no tag changed. -/
def Obligations.TaggedWordResults : Prop :=
  (∀ (s : State) (d b p : Nat) (post sys keep : Bool) (off : BitVec 10),
     let va := (mAddr b post off 8 s).toNat
     let o := va % 2 ^ 21
     let core := s.focus.core
     let i := Instr.ldf d b p post sys keep off
     let j := Instr.ste d b p post sys keep off
     (s.pr p = false → Leaves i s s.cur (s.strm.bump b post off 8) ∧ Leaves j s s.cur (s.strm.bump b post off 8)) ∧
     (s.pr p = true → s.windowReady va 8 → s.cur.tagAt o = true →
       let t := if keep then s else s.modCur (fun c => c.setTag o false)
       let t := if sys then acquire core 4 t else t
       exec i s = .next (t.leaving t.cur (((t.strm.bump b post off 8).setReg d
         (BitVec.ofNat 64 (fromBytes (s.cur.spadBytes o 8)))).advance 4))) ∧
     (s.pr p = true → inWindow va = true → va % 8 = 0 → s.cur.tagAt o = false → exec i s = .next (block .tag s)) ∧
     (s.pr p = true → inWindow va = true → va % 8 = 0 → s.cur.tagAt o = true → s.cur.spadBad o 8 ≠ none →
       exec i s = .next (trap 0x08 0 (BitVec.ofNat 64 va) s)) ∧
     (s.pr p = true → inWindow va = true → va % 8 = 0 →
       let r := if sys then release core 4 s else (s, true)
       (r.2 = false → exec j s = .next (block .release r.1)) ∧
       (r.2 = true → r.1.cur.tagAt o = true → exec j s = .next (block .tag r.1)) ∧
       (r.2 = true → r.1.cur.tagAt o = false →
         let c := r.1.cur.spadWrite o (toBytes 8 (r.1.rd d).toNat)
         exec j s = .next (r.1.leaving (if keep then c else c.setTag o true) ((r.1.strm.bump b post off 8).advance 4)))) ∧
     (∀ t e, s.pr p = true → tagTarget core va false s = (t, .error e) → exec i s = .next (trapErr e (BitVec.ofNat 64 va) t)) ∧
     (∀ t e, s.pr p = true → tagTarget core va true s = (t, .error e) → exec j s = .next (trapErr e (BitVec.ofNat 64 va) t)) ∧
     (∀ t pa, s.pr p = true → tagTarget core va false s = (t, .ok (.inr pa)) →
       EndsBy i s (remoteCall (.ldf keep) va pa 8 [] false t) va .remote (fun bs t =>
         let u := acquire core 4 t
         u.leaving u.cur (((u.strm.bump b post off 8).setReg d (BitVec.ofNat 64 (fromBytes bs))).advance 4))) ∧
     (∀ t pa, s.pr p = true → tagTarget core va true s = (t, .ok (.inr pa)) →
       let r := release core 4 t
       (r.2 = false → exec j s = .next (block .release r.1)) ∧
       (r.2 = true → tl2Full r.1 core = true → exec j s = .next (block .queue r.1)) ∧
       (r.2 = true → tl2Full r.1 core = false →
         let num := ((r.1.core core).tl 2).issued + 1
         let u := r.1.modCore core (fun c => c.setTl 2 ((c.tl 2).issue 4))
         let v := sendTl2 core num (.ste keep) va pa 8 (toBytes 8 (u.rd d).toNat) false u
         exec j s = .next (finish (settleUnrouted core num (mBase b post off 8 v)))))) ∧
  (∀ (s t : State) (core va : Nat) (write : Bool) (l : List Seg),
     (inWindow va = true → va + 8 ≤ 2 ^ 64 → va % 8 ≠ 0 → tagTarget core va write s = (s, .error .align)) ∧
     (findTarget core va 8 write s = (t, .ok (.segs l)) → l.all Seg.isSpad = false →
       tagTarget core va write s = (t, .error .split)) ∧
     (findTarget core va 8 write s = (t, .ok (.segs l)) → l.all Seg.isSpad = true → va % 8 ≠ 0 →
       tagTarget core va write s = (t, .error .align))) ∧
  (∀ (s : State) (d b p : Nat) (post : Bool) (off : BitVec 10),
     let va := (mAddr b post off 8 s).toNat
     let n := (s.rd d).toNat
     let range (i : Instr) (full : Bool) : Prop :=
       (s.pr p = false → Leaves i s s.cur (s.strm.bump b post off 8)) ∧
       (s.pr p = true → inWindow va = true → va + 8 * n ≤ 2 ^ 64 → va % 8 = 0 →
         ∃ g, Leaves i s { s.cur with tags := g } (s.strm.bump b post off 8) ∧
           ∀ k, sget false g k =
             if va % 2 ^ 21 / 8 ≤ k ∧ k < va % 2 ^ 21 / 8 + n then full else sget false s.cur.tags k) ∧
       (s.pr p = true → ¬ (inWindow va = true ∧ va + 8 * n ≤ 2 ^ 64) →
         exec i s = .next (trap 0x03 0 (BitVec.ofNat 64 va) s)) ∧
       (s.pr p = true → inWindow va = true → va + 8 * n ≤ 2 ^ 64 → va % 8 ≠ 0 →
         exec i s = .next (trap 0x02 0 (BitVec.ofNat 64 va) s))
     range (.tagset d b p post off) true ∧ range (.tagclr d b p post off) false)

/-- R371, R381: RLD waits for its remote response and writes it; RST (posted) and RSTA retire at issue with the next
tl2 number, waiting while 256 are outstanding; an address that is not of SPACE 1 or 2, or misaligned, faults; a
false predicate only updates the base. The model's own choice (log 44, an inference from R259): bytes of a
remote-cacheable page that the caches hold dirty stand in the place of the home's in what RLD writes (`overlay`), and a
remote store or an MCST puts its bytes clean into the copies that the core holds (`throughBytes`). R384, R66: MCST checks
every valid region of its set, then its offset's alignment, before any write; it takes one tl2 number, which xd receives;
with no valid region the number passes at once. -/
def Obligations.RemoteAndMulticastResults : Prop :=
  (∀ (s : State) (d b p : Nat) (post ord : Bool) (off : BitVec 10),
     let va := (mAddr b post off 8 s).toNat
     let core := s.focus.core
     let i := Instr.rld d b p post ord off
     let store (j : Instr) (posted : Bool) : Prop :=
       (s.pr p = false → Leaves j s s.cur (s.strm.bump b post off 8)) ∧
       (∀ t e, s.pr p = true → remoteTarget core va true s = (t, .error e) →
         exec j s = .next (trapErr e (BitVec.ofNat 64 va) t)) ∧
       (∀ t pa rc, s.pr p = true → remoteTarget core va true s = (t, .ok (pa, rc)) →
         (tl2Full t core = true → exec j s = .next (block .queue t)) ∧
         (tl2Full t core = false →
           let num := ((t.core core).tl 2).issued + 1
           let u := t.modCore core (fun c => c.setTl 2 ((c.tl 2).issue 4))
           let bs := toBytes 8 (u.rd d).toNat
           let u := if rc then throughBytes core pa bs u else u
           let v := sendTl2 core num (.store posted) va pa 8 bs ord u
           exec j s = .next (finish (settleUnrouted core num (mBase b post off 8 v)))))
     (s.pr p = false → Leaves i s s.cur (s.strm.bump b post off 8)) ∧
     (∀ t e, s.pr p = true → remoteTarget core va false s = (t, .error e) →
       exec i s = .next (trapErr e (BitVec.ofNat 64 va) t)) ∧
     (∀ t pa rc, s.pr p = true → remoteTarget core va false s = (t, .ok (pa, rc)) →
       EndsBy i s (remoteCall .load va pa 8 [] ord t) va .remote (fun bs u =>
         let bs := if rc then overlay u core pa bs else bs
         u.leaving u.cur (((u.strm.bump b post off 8).setReg d (BitVec.ofNat 64 (fromBytes bs))).advance 4))) ∧
     store (.rst d b p post ord off) true ∧ store (.rsta d b p post ord off) false) ∧
  (∀ (s : State) (d a b set : Nat),
     let core := s.focus.core
     let x := (s.rd b).toNat
     let regions := ((List.range 4).map (fun i => sget {} s.fab.mcrep (4 * set + i))).filter (fun r =>
       r.valid && decide (r.base / 2 ^ 54 < 2))
     let short := regions.any (fun r => decide (r.bytes < x + 8))
     let num := (s.cur.tl 2).issued + 1
     let i := Instr.mcst d a b set
     (short = true → exec i s = .next (trap 0x03 0 (s.rd b) s)) ∧
     (short = false → x % 8 ≠ 0 → exec i s = .next (trap 0x02 0 (s.rd b) s)) ∧
     (short = false → x % 8 = 0 → tl2Full s core = true → exec i s = .next (block .queue s)) ∧
     (short = false → x % 8 = 0 → tl2Full s core = false →
       let u := s.modCur (fun c => c.setTl 2 ((c.tl 2).issue 4))
       let r := regions.foldl (fun (acc : State × Option RemoteErr) g =>
         let w := mcWrite core num (g.base + x) (toBytes 8 (s.rd a).toNat) acc.1
         (w.1, acc.2.orElse (fun _ => w.2))) (u, none)
       let t := r.1.wr d (BitVec.ofNat 64 num)
       let done := passTl2 core num (t.core core).txst.tag r.2 0 t
       exec i s = .next (finish (if t.fab.flights.any (fun f => f.ofNum core num) then settleUnrouted core num done else done)) ∧
       (regions = [] → t = u.wr d (BitVec.ofNat 64 num))))

/-- R382: the new value of each atomic operation. R382, R383: AMO and AMOR on an aligned unpoisoned word of the
window change it at once, the tag unchanged, AMOR writing the old value; FADD under STRICT raises STRICT; AMOR on
local memory writes the old value of the cell's own read-modify-write; AMO there takes the next tl2 number, which
passes with the unit's result; AMOR at a remote home waits for its response, AMO takes a tl2 number. The model's own
choice (log 44, an inference from R259): the clean bytes of the cell that the core and its quad hold leave their caches
(`forgetBytes`). -/
def Obligations.AtomicWordResults : Prop :=
  (∀ (o b x : Word),
     let new (c : Nat) : Nat := amoNew (amoOf c) o.toNat b.toNat x.toNat
     new 0 = (o + b).toNat ∧ new 1 = (o &&& b).toNat ∧ new 2 = (o ||| b).toNat ∧ new 3 = (o ^^^ b).toNat ∧
     new 4 = (if b.toInt < o.toInt then b else o).toNat ∧ new 5 = (if o.toInt < b.toInt then b else o).toNat ∧
     new 6 = (if b < o then b else o).toNat ∧ new 7 = (if o < b then b else o).toNat ∧ new 8 = b.toNat ∧
     new 9 = (if o = x then b else o).toNat ∧
     new 10 = (Fmt.fp32.fadd (o.toNat % 2 ^ 32) (b.toNat % 2 ^ 32)).1 ∧
     new 11 = (Fmt.fp32.fmin (o.toNat % 2 ^ 32) (b.toNat % 2 ^ 32)).1 ∧
     new 12 = (Fmt.fp32.fmax (o.toNat % 2 ^ 32) (b.toNat % 2 ^ 32)).1 ∧
     ∀ c, c < 13 → amoSize (amoOf c) = if c < 10 then 8 else 4) ∧
  (∀ (s : State) (d a b op : Nat), op < 13 →
     let core := s.focus.core
     let va := (s.rd a).toNat
     let k := amoOf op
     let n := amoSize k
     let x := (s.rd b).toNat
     let e := (s.rd d).toNat
     let old := fromBytes (s.cur.spadBytes (va % 2 ^ 21) n)
     let c := s.cur.spadWrite (va % 2 ^ 21) (toBytes n (amoNew k old x e))
     let i := Instr.amo d a b op
     let j := Instr.amor d a b op
     (s.windowReady va n → (op = 10 → s.cur.txst.strict = false) →
       Leaves i s c s.strm ∧ Leaves j s c (s.strm.setReg d (BitVec.ofNat 64 old))) ∧
     (inWindow va = true → va % n = 0 → op = 10 → s.cur.txst.strict = true →
       exec i s = .next (trap 0x0A 0 (s.rd a) s) ∧ exec j s = .next (trap 0x0A 0 (s.rd a) s)) ∧
     (∀ t f, atomicTarget core va n k s = (t, .error f) →
       exec i s = .next (trapErr f (s.rd a) t) ∧ exec j s = .next (trapErr f (s.rd a) t)) ∧
     (∀ t l, atomicTarget core va n k s = (t, .ok (.segs l)) → Target.remote (.segs l) = none →
       (∀ u o, localAtomic core (.segs l) k x e t = (u, .ok o) →
         exec j s = .next (u.leaving u.cur ((u.strm.setReg d (BitVec.ofNat 64 o)).advance 4))) ∧
       (∀ u f, localAtomic core (.segs l) k x e t = (u, .error f) → exec j s = .next (trapErr f (s.rd a) u)) ∧
       (tl2Full t core = true → exec i s = .next (block .queue t)) ∧
       (tl2Full t core = false →
         let num := ((t.core core).tl 2).issued + 1
         let v := t.modCore core (fun c => c.setTl 2 ((c.tl 2).issue 4))
         let tag := (v.core core).txst.tag
         (∀ u o, localAtomic core (.segs l) k x e v = (u, .ok o) → exec i s = .next (finish (completeTl core 2 num tag none u))) ∧
         (∀ u f, localAtomic core (.segs l) k x e v = (u, .error f) →
           exec i s = .next (finish (completeTl core 2 num tag (some (tlRec num f va u)) u))))) ∧
     (∀ t l pa rc, atomicTarget core va n k s = (t, .ok (.segs l)) → Target.remote (.segs l) = some (pa, rc) →
       EndsBy j s (remoteCall (.atomic k true (s.rd b) (s.rd d)) va pa n [] false t) va .remote (fun bs u =>
         let u := if rc then forgetBytes core pa n u else u
         u.leaving u.cur ((u.strm.setReg d (BitVec.ofNat 64 (fromBytes bs))).advance 4)) ∧
       (tl2Full t core = true → exec i s = .next (block .queue t)) ∧
       (tl2Full t core = false →
         let num := ((t.core core).tl 2).issued + 1
         let v := t.modCore core (fun c => c.setTl 2 ((c.tl 2).issue 4))
         let v := if rc then forgetBytes core pa n v else v
         exec i s = .next (finish (settleUnrouted core num
           (sendTl2 core num (.atomic k false (s.rd b) (s.rd d)) va pa n [] false v))))))

/-! ### Copy commands and layout records -/

/-- R249, R267, R385, R387: CPY and CPYC enter the copy queue with the next tl0 number, which xd takes, waiting
while it holds 16 entries; CPYC also takes a cancel slot, the least recently freed of four giving its place, and
waits while all four hold commands that are not over. R387: CPYX removes a pending command that has not started and
its number passes with no error; it asks a running one to stop; on a DONE, CANCELLED, CANCELLING or absent handle it
does nothing. CPYQ writes the status of the handle. -/
def Obligations.CopyWordResults : Prop :=
  (∀ (s : State) (d a b sc : Nat),
     let x := (s.rd a).toNat
     let y := (s.rd b).toNat
     let num := (s.cur.tl 0).issued + 1
     let cmd (can : Bool) : CopyCmd :=
       .copy num (x % 65536) (y % 65536) (bit x 16) (bit y 16) sc can ⟨s.cur.txst.tag, s.cur.txst.att, s.cur.txst.strict⟩
     let core (can : Bool) (slots : List (Nat × CancelStatus)) : CoreSt :=
       { s.cur.setTl 0 ((s.cur.tl 0).issue sc) with copyQ := s.cur.copyQ ++ [cmd can], cancels := slots }
     let i := Instr.cpy d a b sc
     let j := Instr.cpyc d a b sc
     let slots := s.cur.cancels
     (16 ≤ s.cur.copyQ.length → exec i s = .next (block .queue s) ∧ exec j s = .next (block .queue s)) ∧
     (s.cur.copyQ.length < 16 → Leaves i s (core false slots) (s.strm.setReg d (BitVec.ofNat 64 num))) ∧
     (s.cur.copyQ.length < 16 → slots.length < 4 →
       Leaves j s (core true (slots ++ [(num, .pending)])) (s.strm.setReg d (BitVec.ofNat 64 num))) ∧
     (∀ h, s.cur.copyQ.length < 16 → 4 ≤ slots.length → slots.find? (fun e => e.2.isOver) = some h →
       Leaves j s (core true (slots.filter (fun e => e.1 != h.1) ++ [(num, .pending)]))
         (s.strm.setReg d (BitVec.ofNat 64 num))) ∧
     (s.cur.copyQ.length < 16 → 4 ≤ slots.length → slots.all (fun e => !e.2.isOver) = true →
       exec j s = .next (block .slots s))) ∧
  (∀ (s : State) (d a : Nat),
     let h := (s.rd a).toNat
     let slot := s.cur.cancels.find? (fun e => e.1 == h)
     let queued := s.cur.copyQ.any (CopyCmd.isNum h)
     let removed : CoreSt := { s.cur.endCancel h .cancelled with copyQ := s.cur.copyQ.filter (fun k => !k.isNum h) }
     let i := Instr.cpyx a
     (slot = some (h, .pending) → queued = true →
       Leaves i s (removed.setTl 0 ((s.cur.tl 0).complete h false)) s.strm) ∧
     (slot = some (h, .pending) → queued = false →
       Leaves i s { s.cur with cancels := s.cur.cancels.map (fun e => if e.1 = h then (h, .cancelling) else e) } s.strm) ∧
     (slot ≠ some (h, .pending) → Leaves i s s.cur s.strm) ∧
     Sets (.cpyq d a) s d (match slot with
       | some (_, .pending) => 0 | some (_, .cancelling) => 1 | some (_, .cancelled) => 2 | some (_, .done) => 3
       | none => 4))

/-- R388: LREC of a record in the scratchpad window goes into the copy queue for the core's own table, and to the
executor for a shared one; a handle outside its table is ILLEGAL, a misaligned address raises ALIGN, behind the faults
that R484 puts before it. -/
def Obligations.RecordLoadResults : Prop :=
  ∀ (s : State) (a b lvl : Nat), lvl < 6 →
    let h := (s.rd a).toNat % 65536
    let va := (s.rd b).toNat
    let top := if lvl ≤ 1 then 1023 else if lvl = 2 then 4095 else if lvl = 3 then 16383 else 65535
    let rcd := BitVec.ofNat 768 (fromBytes (s.cur.spadBytes (va % 2 ^ 21) 96))
    let t : State := { s with nextId := s.nextId + 1 }
    let i := Instr.lrec a b lvl
    let fits := 1 ≤ h ∧ h ≤ top
    let ready := inWindow va = true ∧ va % 32 = 0 ∧ va + 96 ≤ 2 ^ 64 ∧ s.cur.spadBad (va % 2 ^ 21) 96 = none ∧
      s.strm.parts = []
    (¬ fits → exec i s = .next (trap 0x01 0 (rawWord i) s)) ∧
    (fits → lvl ≤ 1 → 16 ≤ s.cur.copyQ.length → exec i s = .next (block .queue s)) ∧
    (fits → lvl ≤ 1 → s.cur.copyQ.length < 16 → ready →
      exec i s = .next (t.leaving { s.cur with copyQ := s.cur.copyQ ++ [.lrec (s.nextId + 1) h rcd] } (s.strm.advance 4))) ∧
    (fits → 2 ≤ lvl → ready → ∃ x, x.parts.length = 96 ∧ { x with parts := [] } = s.strm ∧
      exec i s = .next (finish (settleLrecs
        { (t.setCore s.focus.core (s.cur.setStream s.focus.kind x)) with
          tiles := { s.tiles with lrecs :=
            s.tiles.lrecs ++ [⟨s.nextId + 1, s.focus.core, unitOf lvl s.focus.core, h, rcd⟩] } }))) ∧
    (fits → (lvl ≤ 1 → s.cur.copyQ.length < 16) → inWindow va = true → va + 32 ≤ 2 ^ 64 → va % 32 ≠ 0 →
      exec i s = .next (trap 0x02 0 (s.rd b) s)) ∧
    (fits → (lvl ≤ 1 → s.cur.copyQ.length < 16) → inWindow va = true → 2 ^ 64 < va + 32 →
      exec i s = .next (trap 0x03 0 (s.rd b) s)) ∧
    (∀ u e, fits → (lvl ≤ 1 → s.cur.copyQ.length < 16) → findTarget s.focus.core va 32 false s = (u, .error e) →
      exec i s = .next (trap e.cause e.sub (s.rd b) u))

/-! ### Fences, timelines and barriers -/

/-- R262, R263: REL.S and FENCE.S complete once the release is performed, at sys once every remote store of the device is
acknowledged (the device's, not the core's alone: the model's own choice, log 96, an inference from R264), at stack and
device scope once the core's own remote stores and atomics and the write-backs of its quad are; FENCE.S and ACQ.S acquire; at core scope nothing moves. R390: INV removes from the TLBs of its scope
the entries of the page, or with `.all` of the whole address space, and completes; at sys it first waits for every
other member's acknowledgement. R389: PREF never faults and changes no register: it only moves on, and fills caches; with a plain
local line for which there is room, no byte of memory changes (where no earlier request waits to be performed, R73). -/
def Obligations.FenceResults : Prop :=
  (∀ (s : State) (sc : Nat),
     let core := s.focus.core
     let r := release core sc s
     (r.2 = true → exec (.rel sc) s = .next (r.1.leaving r.1.cur (r.1.strm.advance 4))) ∧
     (r.2 = true → let t := acquire core sc r.1
       exec (.fence sc) s = .next (t.leaving t.cur (t.strm.advance 4))) ∧
     (r.2 = false → exec (.rel sc) s = .next (block .release r.1) ∧ exec (.fence sc) s = .next (block .release r.1)) ∧
     (let t := acquire core sc s
      exec (.acq sc) s = .next (t.leaving t.cur (t.strm.advance 4))) ∧
     (sc ≤ 1 → r.2 = true) ∧ (sc = 0 → r.1 = s ∧ acquire core sc s = s) ∧ (r.1.fab.flights = [] → r.2 = true) ∧
     (2 ≤ sc → r.2 = true → ∀ f ∈ r.1.fab.flights,
       (∀ c, f.user = .ack c → c / 4 ≠ core / 4) ∧ ∀ c n tag e, f.user = .tl2 c n tag e → c ≠ core) ∧
     (sc = 4 → r.2 = true → ∀ f ∈ r.1.fab.flights, ∃ c k, f.user = .stream c k)) ∧
  (∀ (s : State) (a sc : Nat) (all : Bool), sc < 5 →
     let core := s.focus.core
     let va := (s.rd a).toNat
     let others := s.members.filter (fun d => d != s.self)
     let hit (e : TlbEntry) : Bool := e.root == s.cur.root && (all || e.base == va / 2 ^ e.bits * 2 ^ e.bits)
     let i := Instr.inv a all sc
     (s.strm.wait = none → (sc ≠ 4 ∨ others = []) →
       ∃ t, exec i s = .next t ∧ t.cur.tlb = s.cur.tlb.filter (fun e => !hit e) ∧
         (∀ c, sc = 0 → c ≠ core → t.core c = s.core c) ∧
         (∀ c, sc = 1 → c ≠ core → c / 4 = core / 4 → (t.core c).tlb = (s.core c).tlb.filter (fun e => !hit e)) ∧
         (∀ c, sc = 2 → c ≠ core → c / 64 = core / 64 → (t.core c).tlb = (s.core c).tlb.filter (fun e => !hit e)) ∧
         (∀ c, 3 ≤ sc → c ≠ core → (t.core c).tlb = (s.core c).tlb.filter (fun e => !hit e)) ∧
         (∀ q, (3 ≤ sc ∨ (sc = 1 ∧ q = core / 4) ∨ (sc = 2 ∧ q / 16 = core / 64)) →
           sget [] t.mem.l2tlb q = (sget [] s.mem.l2tlb q).filter (fun e => !hit e)) ∧
         t.strm = s.strm.advance 4 ∧ t.mem.hbm = s.mem.hbm ∧ t.host = s.host) ∧
     (∀ w, s.strm.wait = some w → w.result.isSome = true → Leaves i s s.cur s.strm) ∧
     (∀ w, s.strm.wait = some w → w.result = none → exec i s = .next (block .inv s))) ∧
  (∀ (s : State) (a lvl : Nat),
     let va := (s.rd a).toNat
     let core := s.focus.core
     let room := (l2Of s core).length < 32768 ∧
       ∀ n, ((s.core core).l1.filter (fun p => p.1 % 256 == n)).length < 8
     (inWindow va = true → Leaves (.pref a lvl) s s.cur s.strm) ∧
     (s.quiet → s.fab.loop = [] → ∃ t, exec (.pref a lvl) s = .next t ∧ t.strm = s.strm.advance 4 ∧
       (∀ u x off, coreXlat core va false s = (u, .ok x) → x.phys = .hbm ⟨off, none⟩ → room →
         t.mem.hbm = s.mem.hbm ∧ t.mem.poison = s.mem.poison ∧ t.fab = s.fab) ∧
       t.host = s.host ∧ (∀ c, c ≠ s.focus.core → t.core c = s.core c) ∧ t.cur.m = s.cur.m ∧
       t.cur.queues = s.cur.queues ∧ t.cur.tls = s.cur.tls ∧ t.cur.spad = s.cur.spad ∧ t.cur.tags = s.cur.tags ∧
       (s.focus.kind = .x → t.cur.a = s.cur.a) ∧ (s.focus.kind = .a → t.cur.x = s.cur.x ∧ t.cur.vec = s.cur.vec) ∧
       t.sched = s.sched ∧ t.tiles = s.tiles))

/-- R267, R312, R391: TLWAIT blocks until its timeline has passed the number, acquires at the declared scopes, and
then traps with TLERR where the first error lies in its range and TLE enables it; TLREAD writes PASSED, ISSUED or
ERRFIRST, with selector 3 clearing ERRFIRST. R267, R391: a timeline's PASSED rises over a number only when every
number up to it has completed, and ERRFIRST keeps the least number that completed with its error bit set. -/
def Obligations.TimelineWordResults : Prop :=
  (∀ (s : State) (a d n : Nat), n < 8 →
     let k := (s.rd a).toNat
     let tl := s.cur.tl n
     let t := acquire s.focus.core (tl.widest k) s
     let bad := tl.errFirst ≠ 0 ∧ tl.errFirst ≤ k ∧ t.cur.trapEn.getLsbD (8 + n) = true
     (tl.passed < k → exec (.tlwait a n) s = .next (block .tlwait s)) ∧
     (k ≤ tl.passed → ¬ bad → exec (.tlwait a n) s = .next (t.leaving t.cur (t.strm.advance 4))) ∧
     (k ≤ tl.passed → bad → exec (.tlwait a n) s =
       .next (trapEntry t.focus.core t.focus.kind 0x11 0 (BitVec.ofNat 64 n) StreamSt.passOn t)) ∧
     Sets (.tlread d n 0) s d (BitVec.ofNat 64 tl.passed) ∧ Sets (.tlread d n 1) s d (BitVec.ofNat 64 tl.issued) ∧
     Sets (.tlread d n 2) s d (BitVec.ofNat 64 tl.errFirst) ∧
     Leaves (.tlread d n 3) s (s.cur.setTl n { tl with errFirst := 0 }) (s.strm.setReg d (BitVec.ofNat 64 tl.errFirst))) ∧
  (∀ (t : Timeline) (n : Nat) (err : Bool), t.passed < n → (∀ p ∈ t.done, t.passed + 1 < p.1 ∧ p.1 ≠ n) →
     let u := t.complete n err
     (n ≠ t.passed + 1 → u.passed = t.passed ∧ u.done = t.done ++ [(n, err)]) ∧
     (n = t.passed + 1 → n ≤ u.passed ∧ (∀ m, n < m → m ≤ u.passed → ∃ p ∈ t.done, p.1 = m) ∧
       (∀ p ∈ u.done, p.1 ≠ u.passed + 1)) ∧
     u.issued = t.issued ∧ u.scopes = t.scopes ∧
     (err = false → u.errFirst = t.errFirst) ∧
     (err = true → u.errFirst = if t.errFirst = 0 then n else min n t.errFirst))

/-- R268, R389: an arrival returns PHASE and counts itself, the last of a phase clearing ARRIVED and starting the next;
BARV releases before it and writes the token; BWAIT goes on, acquiring, once its token's phase is past; both raise
BARSPACE at a barrier in a scratchpad, the own or another's, or in host memory (that R268 governs there over R389 is the
model's reading, log 35), and ALIGN where the barrier is misaligned. The model's own choice (log 44, an inference from
R259): the clean bytes of the barrier that the core holds leave its caches as BARV arrives. -/
def Obligations.BarrierResults : Prop :=
  ∀ (s : State) (d a b sc : Nat),
    let core := s.focus.core
    let va := (s.rd a).toNat
    let tok := (s.rd b).toNat % 2 ^ 32
    let i := Instr.barv d a sc
    let j := Instr.bwait a b sc
    (∀ expect arrived phase, expect < 2 ^ 32 → arrived < 2 ^ 32 → phase < 2 ^ 32 →
      arriveWord (expect + arrived * 2 ^ 32 + phase * 2 ^ 64) =
        if expect ≤ arrived + 1 then expect + (phase + 1) % 2 ^ 32 * 2 ^ 64
        else expect + (arrived + 1) * 2 ^ 32 + phase * 2 ^ 64) ∧
    (inWindow va = true → exec i s = .next (trap 0x0C 0 (s.rd a) s) ∧ exec j s = .next (trap 0x0C 0 (s.rd a) s)) ∧
    (∀ w t x, inWindow va = false → coreXlat core va w s = (t, .ok x) →
      ((∀ l, x.phys ≠ .hbm l) → (∀ p, x.phys ≠ .domain p) → barrierAt core va w s = (t, .error .barspace)) ∧
      (∀ l, x.phys = .hbm l → barrierAt core va w s =
        (t, if va % 64 = 0 then .ok (x.pa, .hbm l) else .error .align)) ∧
      (∀ p, x.phys = .domain p → barrierAt core va w s =
        (t, if va % 64 = 0 then .ok (x.pa, .domain p) else .error .align))) ∧
    (∀ w t e, inWindow va = false → coreXlat core va w s = (t, .error e) → barrierAt core va w s = (t, .error e)) ∧
    (∀ t e, barrierAt core va true s = (t, .error e) → exec i s = .next (trapErr e (s.rd a) t)) ∧
    (∀ t e, barrierAt core va false s = (t, .error e) → exec j s = .next (trapErr e (s.rd a) t)) ∧
    (∀ t pa l, barrierAt core va true s = (t, .ok (pa, .hbm l)) → t.strm.wait = none →
      let r := release core sc t
      (r.2 = false → exec i s = .next (block .release r.1)) ∧
      (∀ u tk, r.2 = true → homeArrive l (r.1.ctx core) .iatomic r.1 = (u, .ok tk) →
        let v := if l.ver.isSome then dropBlock core l.off u else forgetBytes core pa 64 u
        exec i s = .next (v.leaving v.cur ((v.strm.setReg d (BitVec.ofNat 64 tk)).advance 4)))) ∧
    (∀ t pa l u bs v, barrierAt core va false s = (t, .ok (pa, .hbm l)) →
      homeLoad { l with off := l.off + 8 } 4 (t.ctx core) t = (u, .ok (bs, v)) →
      (phasePast (fromBytes bs) tok = true →
        let w := acquire core sc u
        exec j s = .next (w.leaving w.cur (w.strm.advance 4))) ∧
      (phasePast (fromBytes bs) tok = false → exec j s = .next (block .bwait u))) ∧
    (∀ phase tk, phase < 2 ^ 32 → tk < 2 ^ 32 → (phasePast phase tk = true ↔
      1 ≤ (phase + 2 ^ 32 - tk) % 2 ^ 32 ∧ (phase + 2 ^ 32 - tk) % 2 ^ 32 ≤ 2 ^ 31)) ∧
    (∀ t pa l u e, barrierAt core va true s = (t, .ok (pa, .hbm l)) → t.strm.wait = none → (release core sc t).2 = true →
      homeArrive l ((release core sc t).1.ctx core) .iatomic (release core sc t).1 = (u, .error e) →
      exec i s = .next (trapErr e (s.rd a) u)) ∧
    (∀ t pa ph, barrierAt core va true s = (t, .ok (pa, ph)) → (∀ l, ph ≠ .hbm l) →
      (t.strm.wait.isSome = true ∨ (release core sc t).2 = true) →
      let v := if t.strm.wait.isSome then t else (release core sc t).1
      EndsBy i s (remoteCall .arrive va pa 12 [] false v) va .remote (fun bs u =>
        u.leaving u.cur ((u.strm.setReg d (BitVec.ofNat 64 (fromBytes (bs.take 4)))).advance 4))) ∧
    (∀ t pa ph, barrierAt core va false s = (t, .ok (pa, ph)) → (∀ l, ph ≠ .hbm l) →
      EndsBy j s (remoteCall .load va (pa + 8) 4 [] false t) va .bwait (fun bs u =>
        let w := acquire core sc u
        if phasePast (fromBytes bs) tok then w.leaving w.cur (w.strm.advance 4) else block .bwait u))

/-! ### Queue words -/

/-- R230, R392: the words of the branch-outcome queues and of the scalar data queues complete where an entry, or room
for one, is there, and block where it is not; a poisoned entry raises POISON, a width or depth that does not fit
ILLEGAL; BQPEEK.nb on an empty queue writes 0; QSKIP discards entries and writes their number. R481: a value the
A-stream pushes carries the mark of what it had issued by then, which the X-stream takes as it pops the value. -/
def Obligations.QueueWordResults : Prop :=
  ∀ (s : State) (d a q n : Nat) (nb : Bool),
    let c := s.cur
    let out := if s.focus.kind = .a then 6 else 7
    let inq := if s.focus.kind = .a then 7 else 6
    let v := s.rd a
    let full (k : Nat) : Prop := c.queueDepth k ≤ (c.queue k).length
    let ent (v : Word) : QEntry := ⟨toBytes 8 v.toNat, false, false⟩
    let val (e : QEntry) : Word := BitVec.ofNat 64 (fromBytes e.data)
    let scalar (k : Nat) : Prop := cfgVec c.coreCfg.toNat k = false ∧ c.queueDepth k ≠ 0
    (full out → exec (.bqpush a) s = .next (block .queue s)) ∧
    (¬ full out →
      let q := c.setQueue out (c.queue out ++ [ent v])
      Leaves (.bqpush a) s (if s.focus.kind = .a then { q with marks := c.marks ++ [s.nextId] } else q) s.strm) ∧
    (c.queue inq = [] → exec (.bqpop d) s = .next (block .queue s) ∧ exec (.bqpeek d false) s = .next (block .queue s) ∧
      Sets (.bqpeek d true) s d 0) ∧
    (∀ e rest, c.queue inq = e :: rest → e.poison = false →
      (let q := c.setQueue inq rest
       Leaves (.bqpop d) s (if s.focus.kind = .a then q
         else { q with mark := c.marks.headD c.mark, marks := c.marks.drop 1 }) (s.strm.setReg d (val e))) ∧
      Sets (.bqpeek d nb) s d (val e)) ∧
    (∀ e rest, c.queue inq = e :: rest → e.poison = true →
      exec (.bqpop d) s = .next (unitPoison s) ∧ exec (.bqpeek d nb) s = .next (unitPoison s)) ∧
    (¬ scalar q → exec (.qpop d q n) s = .next (trap 0x01 0 (rawWord (.qpop d q n)) s)) ∧
    (scalar q → c.queue q = [] → exec (.qpop d q n) s = .next (block .queue s)) ∧
    (∀ e rest, scalar q → c.queue q = e :: rest → e.poison = false →
      Leaves (.qpop d q n) s (c.setQueue q rest)
        (if n = 0 then s.strm.setReg d (val e) else (s.strm.setReg d (val e)).setPred n (!e.null))) ∧
    (∀ e rest, scalar q → c.queue q = e :: rest → e.poison = true → exec (.qpop d q n) s = .next (unitPoison s)) ∧
    (¬ scalar (4 + q) → exec (.qpush q a) s = .next (trap 0x01 0 (rawWord (.qpush q a)) s)) ∧
    (scalar (4 + q) → full (4 + q) → exec (.qpush q a) s = .next (block .queue s)) ∧
    (scalar (4 + q) → ¬ full (4 + q) →
      Leaves (.qpush q a) s (c.setQueue (4 + q) (c.queue (4 + q) ++ [ent v])) s.strm) ∧
    (∀ k, k = (if s.focus.kind = .a then 4 + q else q) → (s.focus.kind = .a → q < 2) → c.queueDepth k ≠ 0 →
      (let m := min v.toNat (c.queue k).length
       Leaves (.qskip d a q true) s (c.setQueue k ((c.queue k).drop m)) (s.strm.setReg d (BitVec.ofNat 64 m))) ∧
      (s.strm.skip = none → v.toNat ≤ (c.queue k).length →
        Leaves (.qskip d a q false) s (c.setQueue k ((c.queue k).drop v.toNat)) (s.strm.setReg d v)) ∧
      (s.strm.skip = none → (c.queue k).length < v.toNat → ∃ t, exec (.qskip d a q false) s = .next t ∧
        t.cur.queue k = [] ∧ t.strm.stall = some .queue ∧ t.strm.pc = s.strm.pc ∧ t.strm.regs = s.strm.regs ∧
        t.strm.skip = some (c.queue k).length))

/-! ### Transactions, CSRs, SPAWN and TISSUE -/

/-- R84, R85, R94, R131, R148, R394 to R396: TXBEGIN outside a transaction takes the tag that has been handed to its core,
and else asks for the lowest free tag in arrival order and waits for its ACTIVE write; TXVOTE ORs its flags into GFLAGS
of every core of the group in a launch transaction, of its own core in a local one; TXWAIT and TXABORT in a local
transaction write its outcome, wait until that write is complete, and end it; outside the transaction they name,
TXBEGIN, TXVOTE, TXWAIT and TXABORT raise TXSTATE; TXREAD reads TXST or a tag's master state. -/
def Obligations.TransactionWordResults : Prop :=
  ∀ (s : State) (d a : Nat),
    let core := s.focus.core
    let kind := s.cur.txst.kind
    let tag := s.cur.txst.tag
    let f := (s.rd a).setWidth 16 &&& 0xE0FF
    let vote (c : CoreSt) : CoreSt := { c with txst := { c.txst with gflags := c.txst.gflags ||| f } }
    let denied (i : Instr) : Prop := exec i s = .next (trap 0x0B 0 0 s)
    (kind ≠ 0 → denied (.txbegin d)) ∧
    (kind = 0 → denied (.txvote a)) ∧
    (kind ≠ 2 → denied (.txwait d) ∧ denied .txabort) ∧
    (kind = 0 → ∀ e, s.mem.given.find? (fun p => p.1 == core) = some e →
      ∃ u, exec (.txbegin d) s = .next u ∧ u.cur.txst.tag = e.2 ∧ u.cur.txst.kind = 2 ∧ u.cur.txst.att = 0 ∧
        u.cur.txst.gflags = 0 ∧ u.cur.txst.pflags = s.cur.txst.pflags ∧
        u.mem = { s.mem with given := s.mem.given.filter (fun p => p.1 != core) } ∧
        u.strm = (s.strm.setReg d (BitVec.ofNat 64 e.2)).advance 4 ∧ u.arb = s.arb ∧
        ∀ c, c ≠ core → u.core c = s.core c) ∧
    (kind = 0 → s.mem.given.find? (fun p => p.1 == core) = none →
      let w := if asked core s then s else s.withMem { s.mem with waiting := s.mem.waiting ++ [.core core] }
      exec (.txbegin d) s = .next (allocate (block .txn w)) ∧
      (s.strm.run = .running → s.focus.kind = .a → s.mem.waiting = [] → asked core s = false →
        ∀ t rest, freeTags s = t :: rest →
        (allocate (block .txn w)).mem.writes = s.mem.writes ++ [⟨t, .active, List.range 8, .core core⟩] ∧
        (allocate (block .txn w)).mem.waiting = [])) ∧
    (2 ≤ kind → Leaves (.txvote a) s (vote s.cur) s.strm) ∧
    (kind = 1 → s.cur.place = none → Leaves (.txvote a) s (vote s.cur) s.strm) ∧
    (∀ pl, kind = 1 → s.cur.place = some pl → s.group? pl.gid = none → Leaves (.txvote a) s (vote s.cur) s.strm) ∧
    (∀ g pl, kind = 1 → s.cur.place = some pl → s.group? pl.gid = some g →
      exec (.txvote a) s = .next (finish (g.cores.foldl (fun t c => t.modCore c vote) s))) ∧
    (∀ commit, kind = 2 → s.cur.txst.outcome = some commit → settling s = true →
      exec (.txwait d) s = .next (block .txn s) ∧ exec .txabort s = .next (block .txn s)) ∧
    (∀ commit, kind = 2 → s.cur.txst.outcome = some commit → settling s = false →
      (∃ u, exec (.txwait d) s = .next u ∧ u.cur.txst.kind = 0 ∧ u.cur.txst.tag = 0 ∧ u.cur.txst.outcome = none ∧
        u.strm = (s.strm.setReg d (if commit then 0 else 1)).advance 4 ∧
        u.cur.l1 = s.cur.l1.filter (fun p => !p.2.ver) ∧ u.mem = s.mem ∧ u.arb = s.arb) ∧
      (∃ u, exec .txabort s = .next u ∧ u.cur.txst.kind = 0 ∧ u.cur.txst.tag = 0 ∧ u.cur.txst.outcome = none ∧
        u.strm = s.strm.advance 4 ∧ u.mem = s.mem ∧ u.arb = s.arb)) ∧
    (kind = 2 → s.cur.txst.outcome = none →
      let r := release core 4 s
      let fl := (r.1.cur.txst.gflags ||| sget 0 r.1.arb.hwFlags tag) &&& 0x1FFF
      (r.2 = false ∨ tagWorkDone core tag r.1 = false → exec (.txwait d) s = .next (block .txn r.1)) ∧
      (r.2 = true → tagWorkDone core tag r.1 = true →
        exec (.txwait d) s = .next (settleLocal (decide (fl = 0)) r.1)) ∧
      exec .txabort s = .next (settleLocal false s)) ∧
    (∀ commit, sget .free s.mem.master tag = .active →
      let u := settleLocal commit s
      sget .free u.mem.master tag = (if commit then .committed else .aborted) ∧
      u.mem.writes = s.mem.writes ++ [⟨tag, if commit then .committed else .aborted, List.range 8, .core core⟩] ∧
      u.cur.txst = { s.cur.txst with outcome := some commit } ∧ u.strm.pc = s.strm.pc ∧ u.strm.regs = s.strm.regs ∧
      u.strm.stall = some .txn ∧ u.mem.hbm = s.mem.hbm ∧ (commit = false → u.host = s.host) ∧
      ∀ p ∈ u.arb.heldSp, p.1 ≠ tag) ∧
    Sets (.txread d a 0) s d s.cur.txst.word ∧
    Sets (.txread d a 1) s d (if (s.rd a).toNat % 64 = 0 then 0 else
      match sget .free s.mem.master ((s.rd a).toNat % 64) with
      | .free => 0 | .active => 1 | .committed => 2 | .aborted => 3)

/-- R10, R344, R473: each CSR word on a CSR that its stream lists writes the old value to xd; the RW bits then take xa
(CSRW), old or xa (CSRS), old and not xa (CSRC), or stay (CSRR), every other bit as it was; CSRW clears in every lane
the VXF flags that xa has set; a CSR the stream does not list makes the word ILLEGAL. -/
def Obligations.CsrWordResults : Prop :=
  ∀ (s : State) (d a n : Nat),
    let old := csrRead s n
    let x := s.rd a
    let listed := n ≤ 0x00A ∨ n = 0x012 ∨ n = 0x014 ∨ n = 0x015 ∨ (0x020 ≤ n ∧ n ≤ 0x023) ∨
      (s.focus.kind = .x ∧ (n = 0x010 ∨ n = 0x011 ∨ n = 0x013))
    let word (i : Instr) (new : Word) (w1c : BitVec 5) : Prop :=
      (¬ listed → exec i s = .next (trap 0x01 0 (rawWord i) s)) ∧
      (listed → ∃ t : State, exec i s = .next (finish (t.wr d old)) ∧
        csrRead t n = (if n = 0x011 then old &&& ~~~(w1c.setWidth 64) else (old &&& ~~~(csrMask n)) ||| (new &&& csrMask n)) ∧
        (∀ m, m ≠ n → csrRead t m = csrRead s m) ∧ t.mem = s.mem ∧ t.strm.regs = s.strm.regs ∧ t.strm.pc = s.strm.pc ∧
        t.strm.preds = s.strm.preds ∧ t.strm.loops = s.strm.loops ∧ (∀ c, c ≠ s.focus.core → t.core c = s.core c))
    word (.csrr d n) old 0 ∧ word (.csrw d a n) x (x.setWidth 5) ∧ word (.csrs d a n) (old ||| x) 0 ∧
    word (.csrc d a n) (old &&& ~~~x) 0

/-- R171, R475: SPAWN of a packet in the scratchpad window releases at device scope, reads its sixteen words, each a load
of its own, and appends it, holds it under the transaction's tag or refuses it, with the result in xd; it waits for the
release and while the spawn store is full; a misaligned packet raises ALIGN. It completes so wherever no remote request of
the device is unacknowledged, no dirty line of its core or quad is one of another device, and the packet is refused or the
store has room. -/
def Obligations.SpawnResults : Prop :=
  ∀ (s : State) (d a b : Nat),
    let va := (s.rd b).toNat
    let ch := (s.rd a).toNat
    let i := Instr.spawn d a b
    let core := s.focus.core
    let r := release core 3 s
    let u := r.1
    let ws := wordsOf 16 (u.cur.spadBytes (va % 2 ^ 21) 128)
    let c := u.chain ch
    let refused := 4096 ≤ ch ∨ c.en = false ∨ c.spawn = false ∨ c.state ≠ .active
    let store := u.host.store.length + u.arb.heldSp.length
    let ends (t : State) (v : Word) : Prop :=
      ∃ y, y.parts.length = 128 ∧ { y with parts := [] } = u.strm ∧
        exec i s = .next (finish ((t.setCore s.focus.core (u.cur.setStream s.focus.kind y)).wr d v))
    (inWindow va = true → va + 8 ≤ 2 ^ 64 → va % 128 ≠ 0 → exec i s = .next (trap 0x02 0 (s.rd b) s)) ∧
    (∀ t x, findTarget core va 8 false s = (t, .ok x) → va % 128 ≠ 0 → exec i s = .next (trap 0x02 0 (s.rd b) t)) ∧
    (∀ t e, findTarget s.focus.core va 8 false s = (t, .error e) → exec i s = .next (trapErr e (s.rd b) t)) ∧
    (∀ t x, findTarget core va 8 false s = (t, .ok x) → va % 128 = 0 → (release core 3 t).2 = false →
      exec i s = .next (block .release (release core 3 t).1)) ∧
    (∀ t x y e v, findTarget core va 8 false s = (t, .ok x) → va % 128 = 0 → (release core 3 t).2 = true →
      loadRuns 8 (packetWords va) 0 (release core 3 t).1 = (y, .fault e, v) →
      exec i s = .next (trapErr e (BitVec.ofNat 64 v) y)) ∧
    (∀ t x y v, findTarget core va 8 false s = (t, .ok x) → va % 128 = 0 → (release core 3 t).2 = true →
      loadRuns 8 (packetWords va) 0 (release core 3 t).1 = (y, .wait, v) →
      exec i s = .next (block .remote y)) ∧
    (inWindow va = true → va % 128 = 0 → r.2 = true → u.cur.spadBad (va % 2 ^ 21) 128 = none → u.strm.parts = [] →
      (refused → ends u 1) ∧
      (¬ refused → store < 2048 → u.cur.txst.tag = 0 → ends (appendSpawn ch ws u) 0) ∧
      (¬ refused → store < 2048 → u.cur.txst.tag ≠ 0 →
        ends { u with arb := { u.arb with heldSp := u.arb.heldSp ++ [(u.cur.txst.tag, ch, ws)] } } 2) ∧
      (¬ refused → 2048 ≤ store → ∃ t, exec i s = .next t ∧ t.strm.stall = some .queue ∧ t.strm.pc = u.strm.pc ∧
        t.strm.regs = u.strm.regs ∧ t.host = u.host ∧ t.arb = u.arb)) ∧
    -- where it completes, by the state before it alone
    (inWindow va = true → va % 128 = 0 → s.cur.spadBad (va % 2 ^ 21) 128 = none → s.strm.parts = [] → s.quiet →
      s.fab.flights = [] → (∀ p ∈ s.cur.l1 ++ l2Of s core, p.2.dirty ≠ 0 → localLine p.1 = true) →
      let c := s.chain ch
      let refused := 4096 ≤ ch ∨ c.en = false ∨ c.spawn = false ∨ c.state ≠ .active
      let gives (v : Word) : Prop := ∃ t, exec i s = .next t ∧ t.strm = (s.strm.setReg d v).advance 4 ∧
        t.fab = s.fab ∧ ∀ k, k ≠ core → t.core k = s.core k
      (refused → gives 1) ∧
      (¬ refused → s.host.store.length + s.arb.heldSp.length < 2048 → s.cur.txst.tag = 0 → gives 0) ∧
      (¬ refused → s.host.store.length + s.arb.heldSp.length < 2048 → s.cur.txst.tag ≠ 0 → gives 2))

/-- R202, R203, R207, R476: TISSUE of a tile word in the scratchpad window raises TILELEVEL for a LEVEL of 6 or 7; else it
releases, waits while the unit's queue is full, and then enters the word there with the next number of its timeline (tl3
for one that names none), which xd takes; a misaligned word raises ALIGN. It completes so wherever no remote request of
the device is unacknowledged, no dirty line of its core or quad is one of another device, and the queue has room. -/
def Obligations.TileIssueResults : Prop :=
  ∀ (s : State) (d a : Nat),
    let va := (s.rd a).toNat
    let core := s.focus.core
    let w := fromBytes (s.cur.spadBytes (va % 2 ^ 21) 32)
    let lvl := bits w 10 8
    let unit := unitOf lvl core
    let r := release core (lvl - 1) s
    let f := bits w 163 160
    let tl := if 3 ≤ f ∧ f ≤ 7 then f else 3
    let num := (r.1.cur.tl tl).issued + 1
    let i := Instr.tissue d a
    (inWindow va = true → va + 32 ≤ 2 ^ 64 → va % 32 ≠ 0 → exec i s = .next (trap 0x02 0 (s.rd a) s)) ∧
    (∀ t x, findTarget core va 32 false s = (t, .ok x) → va % 32 ≠ 0 → exec i s = .next (trap 0x02 0 (s.rd a) t)) ∧
    (∀ t e, findTarget core va 32 false s = (t, .error e) → exec i s = .next (trapErr e (s.rd a) t)) ∧
    (∀ t x, findTarget core va 32 false s = (t, .ok x) → va % 32 = 0 →
      EndsBy i s (loadBytes va 32 t) va .remote (fun bs y => offerWord d (fromBytes bs) y)) ∧
    (s.windowReady va 32 →
      (6 ≤ lvl → exec i s = .next (trap 0x21 0 0 s)) ∧
      (lvl < 6 → r.2 = false → exec i s = .next (block .release r.1)) ∧
      (lvl < 6 → r.2 = true → queueCap unit.level ≤ queued r.1 unit → exec i s = .next (block .tissue r.1)) ∧
      (lvl < 6 → r.2 = true → queued r.1 unit < queueCap unit.level →
        ∃ t j, exec i s = .next t ∧ t.tiles.jobs = r.1.tiles.jobs ++ [j] ∧ j.unit = unit ∧ j.word = BitVec.ofNat 256 w ∧
          j.core = core ∧ j.num = num ∧ j.tl = tl ∧ j.tag = r.1.cur.txst.tag ∧ j.att = r.1.cur.txst.att ∧
          j.strict = (r.1.cur.txst.strict || bit w 11) ∧ j.started = false ∧ j.executed = false ∧
          (t.cur.tl tl).issued = num ∧ t.strm = (r.1.strm.setReg d (BitVec.ofNat 64 num)).advance 4 ∧
          t.mem = r.1.mem ∧ t.fab = r.1.fab)) ∧
    -- where it completes, by the state before it alone
    (s.windowReady va 32 → lvl < 6 → s.quiet → s.fab.flights = [] →
      (∀ p ∈ s.cur.l1 ++ l2Of s core, p.2.dirty ≠ 0 → localLine p.1 = true) →
      queued s unit < queueCap unit.level →
      ∃ t j, exec i s = .next t ∧ t.tiles.jobs = s.tiles.jobs ++ [j] ∧ j.unit = unit ∧ j.word = BitVec.ofNat 256 w ∧
        j.core = core ∧ j.num = (s.cur.tl tl).issued + 1 ∧ j.tl = tl ∧ j.tag = s.cur.txst.tag ∧
        j.att = s.cur.txst.att ∧ j.strict = (s.cur.txst.strict || bit w 11) ∧ j.started = false ∧ j.executed = false ∧
        (t.cur.tl tl).issued = (s.cur.tl tl).issued + 1 ∧
        t.strm = (s.strm.setReg d (BitVec.ofNat 64 ((s.cur.tl tl).issued + 1))).advance 4 ∧ t.fab = s.fab ∧
        t.host = s.host ∧ ∀ c, c ≠ core → t.core c = s.core c)

/-! ### The matrix engine -/

/-- R426 to R429, R432, R433: MLOOP and MCFG write one field of the shadow sets; MGO waits while a nest runs, else copies
the shadow sets into the active one and starts a nest under the next tl1 number, which passes at once where a count is
0; MSTAT reads the NaN bits and the status as they stood four cycles before; MABORT ends a running nest with its error
bit clear, at once or, where its step word has performed an access, with the end of that word. -/
def Obligations.MatrixControlResults : Prop :=
  ∀ (s : State) (d a n : Nat),
    let m := s.cur.m
    let x := s.rd a
    let v := x.toNat
    let l := m.shLoops
    let old := sget {} l n
    let shadow (fld : Nat) (e : MLevel) : Prop :=
      Leaves (.mloop n a fld) s { s.cur with m := { m with shLoops := sput l n e } } s.strm
    let cfg (fld : Nat) (c : MConfig) : Prop :=
      Leaves (.mcfg a fld) s { s.cur with m := { m with shCfg := c } } s.strm
    let legal := v % 64 ≤ 3 ∧ v / 64 % 8 ≤ 3 ∧ v < 2 ^ 10
    let num := (s.cur.tl 1).issued + 1
    let quiet := ∀ h ∈ m.hist, h.time + 4 ≤ s.now
    shadow 0 { old with trip := v % 2 ^ 16 } ∧ shadow 1 { old with astr := (x.setWidth 8).toInt } ∧
    shadow 2 { old with wstr := (x.setWidth 22).toInt } ∧ shadow 3 { old with cstr := (x.setWidth 8).toInt } ∧
    shadow 4 { old with dstr := (x.setWidth 22).toInt } ∧
    cfg 0 { m.shCfg with abase := v % 2 ^ 6 } ∧ cfg 1 { m.shCfg with wbase := v % 2 ^ 21 } ∧
    cfg 2 { m.shCfg with cbase := v % 2 ^ 6 } ∧ cfg 3 { m.shCfg with dbase := v % 2 ^ 21 } ∧
    cfg 4 { m.shCfg with dscale := x.setWidth 32 } ∧ (legal → cfg 5 { m.shCfg with dctl := x.setWidth 10 }) ∧
    (¬ legal → exec (.mcfg a 5) s = .next (trap 0x01 0 (rawWord (.mcfg a 5)) s)) ∧
    cfg 6 { m.shCfg with plev := v % 8 } ∧
    (m.run = true → exec (.mgo d a) s = .next (block .nest s)) ∧
    (m.run = false → ∃ t, exec (.mgo d a) s = .next t ∧
      let e := t.cur.m
      let runs := ∀ k, k < 6 → (sget {} l k).trip ≠ 0
      e.loops = l ∧ e.cfg = m.shCfg ∧ (∀ k, e.ctr k = 0) ∧ e.mp = true ∧ e.aborted = false ∧ e.fault = false ∧
      e.start = m.body + 4 * x ∧ e.pc = m.body + 4 * x ∧ e.nest = num ∧ e.shLoops = l ∧ e.shCfg = m.shCfg ∧
      e.weights = m.weights ∧ e.nan = m.nan ∧ e.syncs = m.syncs ∧ (e.run = true ↔ runs) ∧
      (runs → t.cur.tl 1 = (s.cur.tl 1).issue 0) ∧ (¬ runs → t.cur.tl 1 = ((s.cur.tl 1).issue 0).complete num false) ∧
      t.strm = (s.strm.setReg d (BitVec.ofNat 64 num)).advance 4 ∧ t.mem = s.mem ∧ t.cur.spad = s.cur.spad ∧
      t.cur.queues = s.cur.queues ∧ t.cur.full = s.cur.full ∧ ∀ c, c ≠ s.focus.core → t.core c = s.core c) ∧
    (quiet → Sets (.mstat d 0) s d (m.nan.setWidth 64) ∧
      Leaves (.mstat d 1) s { s.cur with m := { m.mark s.now none with nan := 0 } } (s.strm.setReg d (m.nan.setWidth 64)) ∧
      ∃ w : Word, Sets (.mstat d 2) s d w ∧ w.getLsbD 0 = m.run ∧ w.getLsbD 1 = m.aborted ∧ w.getLsbD 2 = m.fault ∧
        (∀ k, 3 ≤ k → k < 16 → w.getLsbD k = false) ∧ w.toNat / 2 ^ 16 % 2 ^ 16 = m.syncs % 2 ^ 16 ∧
        w.toNat / 2 ^ 32 = m.nest % 2 ^ 32) ∧
    (∀ h rest, m.hist = h :: rest → s.now < h.time + 4 →
      Sets (.mstat d 0) s d (h.nan.setWidth 64) ∧ Sets (.mstat d 2) s d h.state) ∧
    (m.run = false → Sets (.mabort d) s d 0) ∧
    (∀ bs, m.run = true → m.first = some bs →
      Leaves (.mabort d) s { s.cur with m := { m with abortReq := true } } (s.strm.setReg d 1)) ∧
    (m.run = true → m.first = none → ∃ t, exec (.mabort d) s = .next t ∧
      let e := t.cur.m
      e.run = false ∧ e.aborted = true ∧ e.fault = false ∧ e.shLoops = l ∧ e.shCfg = m.shCfg ∧ e.weights = m.weights ∧
      e.nan = m.nan ∧ e.nest = m.nest ∧ t.cur.tl 1 = (s.cur.tl 1).complete m.nest false ∧
      t.strm = (s.strm.setReg d 1).advance 4 ∧ t.mem = s.mem ∧ t.cur.spad = s.cur.spad ∧ t.cur.full = s.cur.full)

/-- R434 to R446: what each step word does where it executes, and the faults that its offset, its tile indices or the
latched weights raise; a word with P 1 while MP is 0 only moves on; a word whose tile is not ready, or that a copy
command waiting for it comes before (R235), waits, at its second access with the first one made. R446: a fault gives the
tile that the first access consumed back. The model's own choices: ADDR 0 for a poisoned tile (log 47), and poison in a
tile that is ready looked for before either access (log 84). -/
def Obligations.StepWordResults : Prop :=
  ∀ (s : State) (p mx sp ac dt cc ov one sc an inv : Bool) (fmt pl af cond lvl : Nat),
    let c := s.cur
    let m := c.m
    let go := p = false ∨ m.mp = true
    let tile (t : Int) : Prop := 0 ≤ t ∧ t < 40
    let act := m.act.toNat
    let acc := m.acc.toNat
    let dst := m.dadr.toNat
    -- a scratchpad block at `off` of `n` bytes: where it serves, and the faults it raises
    let fits (off : Int) (n : Nat) : Prop := 0 ≤ off ∧ off + n ≤ 2 ^ 21 ∧ off % 64 = 0
    let offset (i : Instr) (off : Int) (n : Nat) : Prop :=
      (off < 0 ∨ 2 ^ 21 < off + n → StepStops i s 0x03 (windowVa off)) ∧
      (0 ≤ off → off + n ≤ 2 ^ 21 → off % 64 ≠ 0 → StepStops i s 0x02 (windowVa off))
    let ld := Instr.mldw p fmt mx sp pl
    let n := weightExtent fmt mx sp
    let o := m.wadr.toNat
    let bad := firstSome (fun r => c.spadBad (o + r.1) r.2) (weightRanges fmt mx sp pl)
    let dr := Instr.mdrn p dt cc ov
    let dn := 4096 * (fmtBits (m.cfg.dctl.toNat % 64) / 8)
    let out := drainBlock m.cfg (c.tileBytes acc 0 16384)
    let reported (nan : Bool) : MatrixSt :=
      if nan then { m.mark s.now (some acc) with nan := m.nan ||| BitVec.ofNat 40 (2 ^ acc) } else m
    let read : CoreSt := { c.setFull acc (!cc) with m := reported out.2 }
    -- MDRN waits for its destination tile with the accumulator read
    let waiting (bs : List Byte) : MatrixSt := { m with first := some bs, taken := if cc then some acc else none }
    let cmp := Instr.mcmp p one fmt sc
    let keep := if one then 1 else 2
    let pr := Instr.mpred cond lvl an inv
    let holds := (match cond with
      | 0 => true
      | 1 => !m.nan.getLsbD acc
      | 2 => decide (m.ctr lvl = 0)
      | _ => decide (m.ctr lvl + 1 = (m.level lvl).trip)) != inv
    (p = true → m.mp = false → ∀ i ∈ [ld, .mmac p af ac, .mmacs p af ac, dr, .mzero p ov, cmp], StepLeaves i s c) ∧
    -- MLDW
    (go → offset ld m.wadr n) ∧
    (go → fits m.wadr n → bad = none →
      StepLeaves ld s { c with m := { m with weights := some ⟨fmt, mx, sp, pl, o, c.spadBytes o n⟩ } }) ∧
    (∀ b, go → fits m.wadr n → bad = some b → StepStops ld s 0x08 (windowVa b)) ∧
    -- MMAC and MMACS
    (∀ i sparse, go → (i, sparse) ∈ [(Instr.mmac p af ac, false), (Instr.mmacs p af ac, true)] →
      let scaled := (afFormat af).2.1
      let bytes := (afFormat af).2.2
      let poisoned := c.tileBad act 0 bytes || (scaled && c.tileBad act 16384 128)
      (m.weights = none → StepStops i s 0x01 (rawWord i)) ∧
      ∀ w, m.weights = some w →
        (w.s ≠ sparse ∨ afPairs w af = false → StepStops i s 0x01 (rawWord i)) ∧
        (w.s = sparse → afPairs w af = true →
          (¬ tile m.act ∨ ¬ tile m.acc ∨ m.act = m.acc → StepStops i s 0x01 (rawWord i)) ∧
          (tile m.act → tile m.acc → m.act ≠ m.acc → m.first = none →
            (c.isFull act = false ∨ c.copyFirst act = true → exec i s = .next (stepBlock act (.read ac) s)) ∧
            (c.isFull act = true → c.copyFirst act = false →
              poisoned = true ∨ (c.isFull acc = true ∧ c.copyFirst acc = false ∧ c.tileBad acc 0 16384 = true) →
              StepStops i s 0x08 0) ∧
            (c.isFull act = true → c.copyFirst act = false → c.isFull acc = true →
              (c.setFull act (!ac)).copyFirst acc = false → poisoned = false → c.tileBad acc 0 16384 = false →
              StepLeaves i s (((c.setFull act (!ac)).setFull acc true).tilePut acc 0
                (macBlock w af (c.tileBytes act 0 (if scaled then 16512 else bytes)) (c.tileBytes acc 0 16384)))) ∧
            (c.isFull act = true → c.copyFirst act = false → poisoned = false →
              (c.isFull acc = false ∨ (c.copyFirst acc = true ∧ (c.setFull act (!ac)).copyFirst acc = true)) →
              let u : CoreSt := { c.setFull act (!ac) with m := { m with
                first := some (c.tileBytes act 0 (if scaled then 16512 else bytes)), taken := if ac then some act else none } }
              exec i s = .next (stepBlock acc .update (s.setCore s.focus.core u)))) ∧
          -- the first access is made
          (∀ bs, tile m.act → tile m.acc → m.act ≠ m.acc → m.first = some bs →
            (c.isFull acc = false ∨ c.copyFirst acc = true → exec i s = .next (stepBlock acc .update s)) ∧
            (c.isFull acc = true → c.copyFirst acc = false → c.tileBad acc 0 16384 = true → StepStops i s 0x08 0) ∧
            (c.isFull acc = true → c.copyFirst acc = false → c.tileBad acc 0 16384 = false →
              StepLeaves i s ((c.setFull acc true).tilePut acc 0 (macBlock w af bs (c.tileBytes acc 0 16384))))))) ∧
    -- MDRN
    (go → ¬ tile m.acc ∨ (dt = true ∧ (¬ tile m.dadr ∨ m.dadr = m.acc)) → StepStops dr s 0x01 (rawWord dr)) ∧
    (go → tile m.acc → dt = false → offset dr m.dadr dn) ∧
    (go → tile m.acc → m.first = none → c.isFull acc = true → c.copyFirst acc = false →
      c.tileBad acc 0 16384 = false →
      (dt = false → fits m.dadr dn → StepLeaves dr s (read.spadWrite dst out.1)) ∧
      (dt = true → tile m.dadr → m.dadr ≠ m.acc → (ov = true ∨ c.isFull dst = false) →
        (c.setFull acc (!cc)).copyFirst dst = false →
        StepLeaves dr s ((read.setFull dst true).tilePut dst 0 out.1)) ∧
      (dt = true → tile m.dadr → m.dadr ≠ m.acc →
        (ov = false ∧ c.isFull dst = true) ∨ (c.setFull acc (!cc)).copyFirst dst = true →
        exec dr s = .next (stepBlock dst (.write ov)
          (s.setCore s.focus.core { c.setFull acc (!cc) with m := waiting (c.tileBytes acc 0 16384) })))) ∧
    (go → tile m.acc → (dt = false → fits m.dadr dn) → (dt = true → tile m.dadr ∧ m.dadr ≠ m.acc) → m.first = none →
      (c.isFull acc = false ∨ c.copyFirst acc = true → exec dr s = .next (stepBlock acc (.read cc) s)) ∧
      (c.isFull acc = true → c.copyFirst acc = false → c.tileBad acc 0 16384 = true → StepStops dr s 0x08 0)) ∧
    -- the accumulator is read
    (∀ bs, go → tile m.acc → dt = true → tile m.dadr → m.dadr ≠ m.acc → m.first = some bs →
      ((ov = false ∧ c.isFull dst = true) ∨ c.copyFirst dst = true →
        exec dr s = .next (stepBlock dst (.write ov) (s.setCore s.focus.core { c with m := waiting bs }))) ∧
      ((ov = true ∨ c.isFull dst = false) → c.copyFirst dst = false →
        StepLeaves dr s (({ c with m := reported (drainBlock m.cfg bs).2 }.setFull dst true).tilePut dst 0
          (drainBlock m.cfg bs).1))) ∧
    -- MZERO
    (go → ¬ tile m.acc → StepStops (.mzero p ov) s 0x01 (rawWord (.mzero p ov))) ∧
    (go → tile m.acc → (ov = true ∨ c.isFull acc = false) → c.copyFirst acc = false →
      StepLeaves (.mzero p ov) s { (c.setFull acc true).tilePut acc 0 (List.replicate 16384 0) with m :=
        { m.mark s.now none with nan := m.nan &&& ~~~(BitVec.ofNat 40 (2 ^ acc)) } }) ∧
    (go → tile m.acc → (ov = false ∧ c.isFull acc = true) ∨ c.copyFirst acc = true →
      exec (.mzero p ov) s = .next (stepBlock acc (.write ov) s)) ∧
    -- MCMP
    (go → ¬ tile m.act → StepStops cmp s 0x01 (rawWord cmp)) ∧
    (go → tile m.act → offset cmp m.dadr (128 * fmtBits fmt * keep + 256 * keep)) ∧
    (go → tile m.act → fits m.dadr (128 * fmtBits fmt * keep + 256 * keep) → c.isFull act = true →
      c.copyFirst act = false → c.tileBad act 0 (512 * fmtBits fmt) = false →
      StepLeaves cmp s ((c.setFull act (!sc)).spadWrite dst (compressBlock fmt keep (c.tileBytes act 0 (512 * fmtBits fmt))))) ∧
    (go → tile m.act → fits m.dadr (128 * fmtBits fmt * keep + 256 * keep) →
      (c.isFull act = false ∨ c.copyFirst act = true → exec cmp s = .next (stepBlock act (.read sc) s)) ∧
      (c.isFull act = true → c.copyFirst act = false → c.tileBad act 0 (512 * fmtBits fmt) = true →
        StepStops cmp s 0x08 0)) ∧
    -- MPRED, MSYNC, MNOP, MEND
    (cond = 1 → ¬ tile m.acc → StepStops pr s 0x01 (rawWord pr)) ∧
    (cond ≠ 1 ∨ tile m.acc → (3 ≤ cond → (m.level lvl).trip ≠ 0) →
      StepLeaves pr s { c with m := { m with mp := if an then m.mp && holds else holds } }) ∧
    StepLeaves .msync s { c with m := { m.mark s.now none with syncs := (m.syncs + 1) % 2 ^ 16 } } ∧
    StepLeaves .mnop s c ∧
    (∃ t, exec .mend s = .next t ∧
      let e := t.cur.m
      e.first = none ∧ e.stall = false ∧ e.mp = m.mp ∧ e.weights = m.weights ∧ e.nan = m.nan ∧ e.run = m.run ∧
      (∀ j, (∀ k, k < 6 → (m.level k).trip ≤ m.ctr k + 1) → e.ended = true ∧ e.ctr j = m.ctr j) ∧
      (∀ k, k < 6 → m.ctr k + 1 < (m.level k).trip → (∀ j, j < k → (m.level j).trip ≤ m.ctr j + 1) →
        e.pc = m.start ∧ e.ended = m.ended ∧
        (∀ j, e.ctr j = if j < k then 0 else if j = k then m.ctr k + 1 else m.ctr j) ∧
        (e.stopped = true ↔ m.stopped = true ∨
          (m.preempt = true ∧ m.cfg.plev ≤ 5 ∧ ∀ j, j < m.cfg.plev → e.ctr j = 0)))) ∧
    (∀ core cause sub addr, let t := nestFault core cause sub addr s
      let e := (t.core core).m
      e.run = false ∧ e.fault = true ∧ e.aborted = false ∧ e.nan = (s.core core).m.nan ∧ e.nest = (s.core core).m.nest ∧
      (t.core core).tl 1 = ((s.core core).tl 1).complete (s.core core).m.nest true ∧
      (t.core core).full = match (s.core core).m.taken with
        | some k => ((s.core core).setFull k true).full
        | none => (s.core core).full)

/-- R285, R302, R436 to R440: a multiply-accumulate gives each accumulator element one rounding of its old value plus
the exact sum of its products, over all 64 indices or over the 32 kept ones; where BF16 and byte weights and the kept
indices lie; a drain rounds each element times DSCALE and reports a NaN product. -/
def Obligations.MatrixElementResults : Prop :=
  ∀ (w : Weights) (af : Nat) (act acc : List Byte) (cfg : MConfig) (r n j : Nat), r < 64 → n < 64 → j < 64 →
    let a := act.toArray
    let wa := w.data.toArray
    let code (l : List Byte) (o k : Nat) : Nat := fromBytes ((l.drop o).take k)
    let old := Fmt.fp32.decode (arrNat acc.toArray (256 * r + 4 * n) 4)
    let products : List (Option Fv) := (List.range (if w.s then 32 else 64)).map (fun j =>
      (actAt a af r (weightAt w wa j n).1).mul (weightAt w wa j n).2)
    code (macBlock w af act acc) (256 * r + 4 * n) 4 = (Fmt.fp32.finish (old.add (sumFv products))).1 % 2 ^ 32 ∧
    (w.s = false → (weightAt w wa j n).1 = j ∧
      (w.fmt = 1 → w.mx = false → (weightAt w wa j n).2 = Fmt.bf16.decode (arrNat wa (128 * j + 2 * n) 2)) ∧
      (w.fmt = 2 → w.mx = false → (weightAt w wa j n).2 = Fmt.e4m3.decode (arrNat wa (64 * j + n) 1)) ∧
      (w.fmt = 3 → w.mx = true → (weightAt w wa j n).2 =
        (Fmt.e5m2.decode (arrNat wa (64 * j + n) 1)).scaled (arrNat wa (4096 + 2 * n + j / 32) 1))) ∧
    (w.s = true → j < 32 → w.fmt = 2 → w.mx = true →
      let k := 4 * (j / 2) + arrNat wa (2048 + 8 * n) 8 / 4 ^ j % 4
      weightAt w wa j n = (k, (Fmt.e4m3.decode (arrNat wa (64 * j + n) 1)).scaled (arrNat wa (2560 + 2 * n + k / 32) 1))) ∧
    (let f := (fmtOf (cfg.dctl.toNat % 64)).getD .fp32
     let wo := fmtBits (cfg.dctl.toNat % 64) / 8
     let v (k : Nat) : Fv := ((Fmt.fp32.decode (arrNat acc.toArray (4 * k) 4)).mul (Fmt.fp32.decode cfg.dscale.toNat)).getD (.nan false)
     cfg.dctl.toNat % 64 ≤ 3 →
     code (drainBlock cfg acc).1 (wo * (64 * r + n)) wo =
       (f.round (rmodeOf (cfg.dctl.toNat / 64 % 8)) (cfg.dctl.toNat / 512 % 2) 0 (v (64 * r + n))).1 % 2 ^ (8 * wo) ∧
     ((drainBlock cfg acc).2 = true ↔ ∃ k, k < 4096 ∧ (v k).isNan = true))

/-! ### Vector words -/

/-- R397, R399 to R402, R404, R405, R412: each element-wise word gives every enabled position its result, from the
elements of its sources, and no other position a byte; FP words are ILLEGAL at EW 2; integer words wrap and raise no
flag. -/
def Obligations.VectorElementResults : Prop :=
  ∀ (s : State) (d a b : Nat) (nf mk : Bool) (imm : BitVec 32) (cond : Nat), cond < 10 →
    let c := s.cur
    let w := 8 * c.vw
    let f := c.vfmt
    let x := c.elem w a
    let y := c.elem w b
    let z := c.elem w d
    let sg (v : Nat) : Int := if 2 ^ (w - 1) ≤ v then (v : Int) - 2 ^ w else v
    let fp (i : Instr) (lat : Nat) (g : Nat → Nat → Nat × Flags) : Prop :=
      VecElems i s (c.vw != 1) d [a, b] nf mk lat (fun p => g (x p) (y p))
    let fp1 (i : Instr) (lat : Nat) (g : Nat → Nat × Flags) : Prop :=
      VecElems i s (c.vw != 1) d [a] nf mk lat (fun p => g (x p))
    let fma (i : Instr) (negP negD : Bool) : Prop :=
      VecElems i s (c.vw != 1) d [a, b, d] nf mk 4 (fun p => f.ffma negP negD (x p) (y p) (z p))
    let int (i : Instr) (lat : Nat) (g : Nat → Nat → Nat) : Prop :=
      VecElems i s true d [a, b] nf mk lat (fun p => (g (x p) (y p) % 2 ^ w, 0))
    let holds (u v : Nat) : Bool × Flags :=
      match cond with
      | 0 => f.feq u v
      | 1 => f.flt u v
      | 2 => f.fle u v
      | 3 => ((f.decode u).isNan || (f.decode v).isNan, if (f.decode u).sig || (f.decode v).sig then fNV else 0)
      | 4 => (decide (u = v), 0)
      | 5 => (decide (u ≠ v), 0)
      | 6 => (decide (sg u < sg v), 0)
      | 7 => (decide (sg v ≤ sg u), 0)
      | 8 => (decide (u < v), 0)
      | _ => (decide (v ≤ u), 0)
    fp (.vadd d a b nf mk) 4 f.fadd ∧ fp (.vsub d a b nf mk) 4 f.fsub ∧ fp (.vmul d a b nf mk) 4 f.fmul ∧
    fma (.vfma d a b nf mk) false false ∧ fma (.vfms d a b nf mk) false true ∧ fma (.vfnma d a b nf mk) true false ∧
    fp (.vmin d a b nf mk) 4 f.fmin ∧ fp (.vmax d a b nf mk) 4 f.fmax ∧ fp (.vdiv d a b nf mk) 12 f.fdiv ∧
    fp1 (.vabs d a nf mk) 1 f.fabs ∧ fp1 (.vneg d a nf mk) 1 f.fneg ∧ fp1 (.vrcp d a nf mk) 12 f.frcp ∧
    fp1 (.vrsq d a nf mk) 12 f.frsq ∧ fp1 (.vsqrt d a nf mk) 12 f.fsqrt ∧ fp1 (.vexp2 d a nf mk) 12 f.fexp2 ∧
    fp1 (.vlog2 d a nf mk) 12 f.flog2 ∧
    int (.viadd d a b nf mk) 1 (fun u v => u + v) ∧ int (.visub d a b nf mk) 1 (fun u v => u + (2 ^ w - v)) ∧
    int (.vimul d a b nf mk) 4 (fun u v => u * v) ∧
    int (.vimulh d a b nf mk) 4 (fun u v => (sg u * sg v / 2 ^ w % 2 ^ w).toNat) ∧
    int (.vand d a b nf mk) 1 (fun u v => u &&& v) ∧ int (.vor d a b nf mk) 1 (fun u v => u ||| v) ∧
    int (.vxor d a b nf mk) 1 (fun u v => u ^^^ v) ∧ int (.vshl d a b nf mk) 1 (fun u v => u * 2 ^ (v % w)) ∧
    int (.vshr d a b nf mk) 1 (fun u v => u / 2 ^ (v % w)) ∧
    int (.vsra d a b nf mk) 1 (fun u v => (sg u / 2 ^ (v % w) % 2 ^ w).toNat) ∧
    int (.vimin d a b nf mk) 1 (fun u v => if sg v < sg u then v else u) ∧
    int (.vimax d a b nf mk) 1 (fun u v => if sg u < sg v then v else u) ∧
    VecElems (.vcmp d a b nf mk cond) s (decide (4 ≤ cond) || c.vw != 1) d [a, b] nf mk 1 (fun p =>
      (if (holds (x p) (y p)).1 then 2 ^ w - 1 else 0, (holds (x p) (y p)).2)) ∧
    VecElems (.vsel d a b nf mk) s true d [a, b, d] nf mk 1 (fun p =>
      ((x p &&& z p) ||| (y p &&& (2 ^ w - 1 - z p)), 0)) ∧
    VecElems (.vbcast d a nf mk) s true d [] nf mk 1 (fun _ => ((s.rd a).toNat % 2 ^ w, 0)) ∧
    VecElems (.vldi d nf mk imm) s true d [] nf mk 1 (fun _ => (imm.toNat % 2 ^ w, 0))

/-- R292, R303 to R305, R403, R407 to R411, R413 to R415: the conversions, the words that move elements between
positions, the carry-less product, the reductions, the scans and the random bits. -/
def Obligations.VectorMovementResults : Prop :=
  ∀ (s : State) (d a b : Nat) (nf mk sat half : Bool) (src dst mode pat k op : Nat), pat < 6 → op < 13 →
    let c := s.cur
    let w := 8 * c.vw
    let n := c.vlen
    let x := c.elem w a
    let y := c.elem w b
    let ws := fmtBits src
    let wd := fmtBits dst
    let nc := min n (16384 / max ws wd)
    let ns := 16384 / ws
    let np := min n (2 * ns)
    let nd := 16384 / wd
    let nu := min n nd
    let first := if half then nd else 0
    let key (r : Nat) := fromBytes (c.placeBytes (c.vplace r) 8)
    let ctr (r : Nat) := fromBytes (c.placeBytes (c.vplace r + 8) 16)
    let cv (p : Nat) := convert dst mode sat.toNat (if mode = 4 then rbits (key b) (ctr b) p else 0)
      (elemFv src (c.elem ws a p)) wd
    let pk (p : Nat) := convert dst mode sat.toNat 0 (elemFv src (if p < ns then c.elem ws a p else c.elem ws b (p - ns))) wd
    let out (m wd : Nat) (g : Nat → Nat) : List VByte :=
      (c.enabled mk m).flatMap (fun p => elemBytes wd p (c.vplace d) (g p))
    let full := c.vw * n
    let f := c.vfmt
    let fp := decide (op < 4 ∨ op = 12)
    let part (p : Nat) : Option Nat := if c.unmasked mk p = true then some (if fp then widen f (x p) else x p) else none
    let leaf (p : Nat) : Option (Nat × Flags) := if p < n ∧ c.unmasked mk p = true then
      some (if op = 3 then Fmt.fp32.fabs (widen f (x p)) else (if op < 4 then widen f (x p) else x p, 0)) else none
    let sum := (treeNode (combine (redOp op w)) leaf (ceilLog2 n) 0).getD (redIdentity op w, 0)
    let total := redFinish op f sum.1
    let sc := scanAll (redOp op w) part n (64 / c.vw)
    let ys := sc.1.map (fun y => (y.1, redFinish op f y.2))
    let lr := scanAll linrec (fun p => if c.unmasked mk p = true then some (widen f (x p), widen f (y p)) else none) n (64 / c.vw)
    let zs := lr.1.map (fun y => (y.1, redFinish 12 f y.2.1, redFinish 12 f y.2.2))
    let lane (l : List (Nat × Flags)) := l.map (fun q => (c.vw * q.1 / 4, q.2))
    VecWord (.vcvt d a b nf mk src dst mode sat) s true (if mode = 4 then [d, a, b] else [d, a])
      ((a, (ws * nc + 7) / 8) :: if mode = 4 then [(b, 24)] else []) nf 4 (out nc wd (fun p => (cv p).1))
      ((c.enabled mk nc).map (fun p => (wd * p / 32, (cv p).2))) ∧
    (8 ≤ ws → VecWord (.vpack d a b nf mk src dst mode sat) s true [d, a, b] [(a, ws / 8 * min np ns), (b, ws / 8 * (np - ns))] nf 4
      (out np wd (fun p => (pk p).1)) ((c.enabled mk np).map (fun p => (wd * p / 32, (pk p).2)))) ∧
    (8 ≤ ws → VecWordAt (.vunpk d a nf mk src dst half) s true [d, a] [(a, ws / 8 * first, ws / 8 * nu)] nf 4
      (out nu wd (fun p => (convert dst 0 1 0 (elemFv src (c.elem ws a (first + p))) wd).1)) []) ∧
    VecWord (.vperm d a b nf mk) s true [d, a, b] [(a, 2048), (b, full)] nf 4
      (out n w (fun p => if y p < 2048 / c.vw then x (y p) else 0)) [] ∧
    VecWord (.vshuf d a b nf mk pat k) s true [d, a, b] [(a, full), (b, full)] nf 4
      (out n w (fun p =>
        let both (j : Nat) := if j < n then x j else y (j - n)
        match pat with
        | 0 => x ((p + k) % n)
        | 1 => if p + k < 2 * n then both (p + k) else 0
        | 2 => if p % 2 = 0 then x (p / 2) else y (p / 2)
        | 3 => if p % 2 = 0 then x (n / 2 + p / 2) else y (n / 2 + p / 2)
        | 4 => both (2 * p)
        | _ => both (2 * p + 1))) [] ∧
    VecWord (.vclmul d a b nf mk) s true [d, a, b] [(a, full), (b, full)] nf 4
      (out n w (fun p =>
        let r := clmulNat w (x (p / 2 * 2)) (y (p / 2 * 2))
        if p % 2 = 0 then r % 2 ^ w else r / 2 ^ w)) [] ∧
    (op < 12 → VecWord (.vreds d a nf mk op) s (!(decide (op < 4) && c.vw == 1)) [d, a] [(a, full)] nf 12
      (elemBytes w 0 (c.vplace d) total.1) [(0, sum.2 ||| total.2)]) ∧
    (op = 4 → total = (((c.enabled mk n).map x).sum % 2 ^ w, 0)) ∧
    (op < 12 → VecWord (.vscan d a b nf mk op) s (!(fp && c.vw == 1)) [d, a] [(a, full)] nf 12
      (ys.flatMap (fun o => elemBytes w o.1 (c.vplace d) o.2.1)) (lane (sc.2 ++ ys.map (fun o => (o.1, o.2.2))))) ∧
    VecWord (.vscan d a b nf mk 12) s (c.vw != 1) [d, d + 1, a, b] [(a, full), (b, full)] nf 12
      (zs.flatMap (fun o => elemBytes w o.1 (c.vplace d) o.2.1.1 ++ elemBytes w o.1 (c.vplace (d + 1)) o.2.2.1))
      (lane (lr.2 ++ zs.map (fun o => (o.1, o.2.1.2 ||| o.2.2.2)))) ∧
    VecWord (.vrng d a nf mk) s true [d, a] [(a, 24)] nf 12
      (out n w (fun p => rbits (key a) (ctr a) p % 2 ^ w)) []

/-- R239, R241: a vector write of exposed latency 1 is in the registers at once, bytes outside it as they were; one
of greater latency leaves them as they were and takes effect when as many words as its latency have passed; a tile that
VMOVT writes twice shows each write, and the poison that stood before it, at its own distance (what vector words see of
poison: the model's own choice, log 106). R225,
R237, R238, R416 to R418, R420 to R424: the words that move whole registers to and from queues and tiles, set the
shape, act on the mask stack, branch on it, and read or clear the lanes' flags. -/
def Obligations.VectorStateResults : Prop :=
  (∀ (c : CoreSt) (bs : List VByte) (lat : Nat),
     let places := bs.map (fun b => b.place)
     (places.Nodup → (∀ b ∈ bs, b.mask = 0xFF) →
       let t := c.expose bs 1
       (∀ b ∈ bs, t.placeBytes b.place 1 = [b.val]) ∧ (∀ p, p ∉ places → t.placeBytes p 1 = c.placeBytes p 1) ∧
       t.spad = c.spad ∧ t.full = c.full) ∧
     (1 < lat → c.expose bs lat = { c with pending := c.pending ++ [⟨bs, lat - 1, false, []⟩] }) ∧
     ((∀ w ∈ c.pending, 1 < w.left) →
       c.age = { c with pending := c.pending.map (fun w => { w with left := w.left - 1 }) }) ∧
     (∀ w, c.pending = [w] → w.left = 1 → w.early = false → c.age = ({ c with pending := [] } : CoreSt).putPlaces w.bytes)) ∧
  (∀ (c : CoreSt) (t : Nat) (bs : List Byte), t < 40 → bs.length = 32768 → c.pending = [] →
     let u := c.moveTile t bs
     let p := 2 ^ 18 + 32768 * t
     u.tileBytes t 0 32768 = bs ∧ u.placeBytes p 32768 = c.placeBytes p 32768 ∧
     u.age.age.placeBytes p 32768 = c.placeBytes p 32768 ∧ u.age.age.age.placeBytes p 32768 = bs ∧
     u.age.age.placeBad p 32768 = c.placeBad p 32768 ∧ u.age.age.age.placeBad p 32768 = false ∧
     (∀ later : List Byte, later.length = 32768 →
       let v := u.age.moveTile t later
       v.tileBytes t 0 32768 = later ∧ v.age.placeBytes p 32768 = c.placeBytes p 32768 ∧
       v.age.age.placeBytes p 32768 = bs ∧ v.age.age.age.placeBytes p 32768 = later) ∧
     (∀ i, i < 16 → u.placePending (p + 2048 * i) = true ∧ u.age.age.age.placePending (p + 2048 * i) = false) ∧
     u.vec = c.vec ∧ u.full = c.full) ∧
  (∀ (s : State) (d a q n ew len tsel : Nat) (nf mk m sfx tv : Bool) (off : BitVec 32),
     let c := s.cur
     let w := 8 * c.vw
     let stack := c.mstack
     let ill (i : Instr) : Prop := exec i s = .next (trap 0x01 0 (rawWord i) s)
     let hazard (r : Nat) : Prop := c.vpend = true ∧ c.placePending (c.vplace r) = true
     let pop := Instr.vpop d q m n nf
     let push := Instr.vpush q a nf
     let ld := Instr.vmovt d a sfx false
     let st := Instr.vmovt d a sfx true
     let set := Instr.mset n a nf mk
     let shape := Instr.vshape a nf ew len tv tsel
     let zero := ∀ p, p < c.vlen → c.top.getLsbD p = false
     let first (t : Nat) := c.copyFirst t = true ∨ (c.m.stall = true ∧ c.wants c.m.want t = true)
     (c.vectorQueue q = false ∨ c.vnameOk d = false → ill pop) ∧
     (c.vectorQueue q = true → c.vnameOk d = true →
       (c.queue q = [] → exec pop s = .next (block .queue s)) ∧
       (∀ e rest, c.queue q = e :: rest →
         (e.poison = true → exec pop s = .next (unitPoison s)) ∧
         (e.poison = false →
           let u := s.modCur (fun x => { x.setQueue q rest with
             masks := if m then sput x.masks n (if e.null then 0 else BitVec.allOnes 2048) else x.masks })
           exec pop s = .next ((finish u).modCur (fun x => x.expose (wholeBytes (c.vplace d) e.data) 4))))) ∧
     (c.vectorQueue (4 + q) = false ∨ c.vnameOk a = false → ill push) ∧
     (c.vectorQueue (4 + q) = true → c.vnameOk a = true →
       (hazard a → exec push s = .next (trap 0x0D 0 (BitVec.ofNat 64 a) s)) ∧
       (¬ hazard a → c.queueDepth (4 + q) ≤ (c.queue (4 + q)).length → exec push s = .next (block .queue s)) ∧
       (¬ hazard a → (c.queue (4 + q)).length < c.queueDepth (4 + q) → c.placeBad (c.vplace a) 2048 = true →
         exec push s = .next (unitPoison s)) ∧
       (¬ hazard a → (c.queue (4 + q)).length < c.queueDepth (4 + q) → c.placeBad (c.vplace a) 2048 = false →
         ∃ t, exec push s = .next t ∧ t.strm = s.strm.advance 4 ∧ t.mem = s.mem ∧ t.cur.mstack = stack ∧
           (∀ k, t.cur.queue k =
             if k = 4 + q then c.queue k ++ [⟨c.placeBytes (c.vplace a) 2048, false, false⟩] else c.queue k))) ∧
     (c.vtv = true → d = 112 → ill ld) ∧ (c.vtv = true → a = 112 → ill st) ∧
     (¬ (c.vtv = true ∧ d = 112) →
       (c.isFull a = false ∨ first a → exec ld s = .next (blockTile a (.read sfx) s)) ∧
       (c.isFull a = true → ¬ first a → c.tileBad a 0 32768 = true → exec ld s = .next (unitPoison s)) ∧
       (c.isFull a = true → ¬ first a → c.tileBad a 0 32768 = false → exec ld s = .next ((finish s).modCur (fun x =>
         (x.setFull a (!sfx)).expose (wholeBytes (2048 * d) (c.tileBytes a 0 32768)) 4)))) ∧
     (¬ (c.vtv = true ∧ a = 112) →
       (∀ j, j < 16 → c.vpend = true → c.placePending (2048 * (a + j)) = true →
         (∀ k, k < j → c.placePending (2048 * (a + k)) = false) →
         exec st s = .next (trap 0x0D 0 (BitVec.ofNat 64 (a + j)) s)) ∧
       ((∀ j, j < 16 → c.vpend = true → c.placePending (2048 * (a + j)) = false) →
         ((sfx = false ∧ c.isFull d = true) ∨ first d → exec st s = .next (blockTile d (.write sfx) s)) ∧
         (sfx = true ∨ c.isFull d = false → ¬ first d → c.placeBad (2048 * a) 32768 = false →
           exec st s = .next ((finish s).modCur (fun x =>
             (x.setFull d true).moveTile d (c.placeBytes (2048 * a) 32768)))))) ∧
     (∃ t, exec shape s = .next t ∧ t.strm = s.strm.advance (instrSize shape) ∧ t.mem = s.mem ∧ t.cur.mstack = stack ∧
       (ew < 4 → len < 2 ^ 12 → tsel < 64 → bits t.cur.vsh.toNat 1 0 = ew ∧
         bits t.cur.vsh.toNat 13 2 = (if a = 0 then len else min (s.rd a).toNat 4095) ∧ t.cur.vtv = tv ∧
         t.cur.vtsel = tsel)) ∧
     (stack.length < 16 → Leaves (.mpush n nf) s { c with mstack := (stack.headD 0 &&& c.maskReg n) :: stack } s.strm) ∧
     (16 ≤ stack.length → ill (.mpush n nf)) ∧
     (∀ t u rest, stack = t :: u :: rest →
       Leaves (.minv nf) s { c with mstack := (~~~t &&& u) :: u :: rest } s.strm ∧
       Leaves (.mpop nf) s { c with mstack := u :: rest } s.strm) ∧
     (stack.length < 2 → ill (.minv nf) ∧ ill (.mpop nf)) ∧
     Leaves (.mget n nf) s { c with masks := sput c.masks n c.top } s.strm ∧
     (c.vnameOk a = false → ill set) ∧
     (c.vnameOk a = true → hazard a → c.vlen ≠ 0 → exec set s = .next (trap 0x0D 0 (BitVec.ofNat 64 a) s)) ∧
     (c.vnameOk a = true → ¬ hazard a ∨ c.vlen = 0 → c.placeBad (c.vplace a) (c.vw * c.vlen) = true →
       exec set s = .next (unitPoison s)) ∧
     (c.vnameOk a = true → ¬ hazard a ∨ c.vlen = 0 → c.placeBad (c.vplace a) (c.vw * c.vlen) = false →
       ∃ t, exec set s = .next t ∧ t.strm = s.strm.advance 4 ∧ t.mem = s.mem ∧ t.cur.mstack = stack ∧
         (∀ k, k ≠ n → t.cur.maskReg k = c.maskReg k) ∧
         ∀ p, p < 2048 → (t.cur.maskReg n).getLsbD p =
           (decide (p < c.vlen) && c.unmasked mk p && decide (c.elem w a p ≠ 0))) ∧
     (zero → Jumps (.bmz off) s s.strm (s.pc + 4 * off.signExtend 64) ∧ exec (.bmnz off) s = .next (finishSize 8 s)) ∧
     (¬ zero → exec (.bmz off) s = .next (finishSize 8 s) ∧ Jumps (.bmnz off) s s.strm (s.pc + 4 * off.signExtend 64)) ∧
     VecWord (.vfrd d nf) s true [d] [] nf 4
       (wholeBytes (c.vplace d) ((List.range 512).flatMap (fun l => toBytes 4 (c.lane l).toNat))) [] ∧
     (∃ t, exec .vfclr s = .next t ∧ t.strm = s.strm.advance 4 ∧ t.mem = s.mem ∧ t.cur.sxf = c.sxf ∧ t.cur.vxf = 0 ∧
       ∀ l, t.cur.lane l = 0))

/-! ### Events: links, bring-up, power and capture -/

/-- R20 to R25, R39: a link in training takes the chosen width and rate, the first of which is the widest at which the
worst lane keeps a margin of 32, or fails its attempt, three of which leave a fabric or Pergola link DOWN and make an
internal one stop the device; loss of lock takes a fabric or Pergola link down and retrains an internal one, and chunks
and MARKs in flight on a lost Pergola link are replayed the other way round the ring; RETRAIN
trains a link with a partner; a replay is counted; PDEV and PLINK of a trained fabric or Pergola link name its partner's
end (R41, R98). Every other link stands; where nothing waits for a route and nothing was in flight on a lost link,
nothing else but the fabric's messages changes. -/
def Obligations.LinkEventResults : Prop :=
  ∀ s : State,
    let i := s.input.link
    let l := s.link i
    let r := s.input.train
    let inner := i < 12 ∨ 58 ≤ i
    let calm := s.fab.held = [] ∧ s.input.nats = []
    let rest (t : State) : Prop := (∀ k, k ≠ i → t.link k = s.link k) ∧ (calm → t.cores = s.cores ∧ t.mem = s.mem ∧
      t.host = s.host ∧ t.sched = s.sched ∧ t.tiles = s.tiles ∧ t.fab.flights.map (fun f => f.req) = s.fab.flights.map (fun f => f.req))
    let carries := l.state = .up ∨ l.state = .degraded
    let fails (e : Instr) : Prop :=
      (l.attempts + 1 < 3 → Answers e s (fun t => t.link i = { l with attempts := l.attempts + 1 } ∧ rest t)) ∧
      (2 ≤ l.attempts → ¬ inner → Answers e s (fun t =>
        t.link i = { l with attempts := l.attempts + 1, state := .down, retrain := false } ∧ rest t)) ∧
      (2 ≤ l.attempts → inner → Answers e s (fun t => t.pkg.stage = 15 ∧ t.pkg.cause = 3 ∧ t.pkg.badLink = i ∧
        t.host.intstat.getLsbD 3 = true))
    (∀ w v m, chosen i r = some (w, v, m) →
      (w, v, m) ∈ r.margins ∧ 32 ≤ m ∧ w ∈ widths i ∧ v ∈ rates i ∧
      (∀ w' v' m', (w', v', m') ∈ r.margins → 32 ≤ m' → w' ∈ widths i → v' ∈ rates i → w' < w ∨ (w' = w ∧ v' ≤ v)) ∧
      (l.state = .training → Answers .linkTrainingDone s (fun t =>
        t.link i = { l with
          state := if w = (if i < 4 then 48 else if i < 12 then 64 else if i < 26 then 16 else if i < 58 then 8 else 12) ∧
              v = 3 then .up else .degraded,
          width := w, rate := v, margin := m, preset := r.preset, attempts := l.attempts + 1,
          pdev := (linkPeer s i).1, plink := (linkPeer s i).2, replays := 0, retrain := false } ∧ rest t))) ∧
    (inner → linkPeer s i = (0, 0)) ∧
    (∀ e, ¬ inner → linkPartner s i = some e → (linkPeer s i).1 = e ∧
      (i < 26 → (linkPeer s i).2 = portTo e s.self) ∧
      (26 ≤ i → (linkPeer s i).2 / 4 = (i - 26) / 4 ∧ (linkPeer s i).2 + (i - 26) = 2 * ((i - 26) / 2) + 2 * ((linkPeer s i).2 / 2) + 1)) ∧
    (chosen i r = none → (∀ w v m, (w, v, m) ∈ r.margins → w ∈ widths i → v ∈ rates i → m < 32) ∧
      (l.state = .training → fails .linkTrainingDone)) ∧
    (l.state = .training → fails .trainingAttemptTimeout) ∧
    (¬ inner → carries → Answers .linkLossOfLock s (fun t => t.link i = { l with state := .down } ∧ rest t)) ∧
    (inner → carries → Answers .internalLossOfLock s (fun t =>
      t.link i = { l with state := .training, attempts := 0 } ∧ rest t)) ∧
    (s.pkg.stage = 7 → l.state ≠ .training → l.state ≠ .failed → (linkPartner s i).isSome = true →
      Answers .retrain s (fun t => t.link i = { l with state := .training, attempts := 0, retrain := true } ∧ rest t)) ∧
    -- what was in flight on a lost Pergola link goes the other way round the ring
    (26 ≤ i → i < 58 → carries → s.fab.held = [] → Answers .linkLossOfLock s (fun t =>
      let j := (i - 26) % 4
      let old := (s.plane ((i - 26) / 4)).sent
      let new := (t.plane ((i - 26) / 4)).sent
      let lost := old.zipIdx.filter (fun c => decide (c.2 ∈ s.input.nats) && c.1.1 == j)
      new = old ++ lost.map (fun c => (if j % 2 = 0 then j + 1 else j - 1, c.1.2)))) ∧
    (carries → Answers .linkLevelReplay s (fun t =>
      t.link i = { l with replays := if l.replays < 255 then l.replays + 1 else l.replays } ∧ rest t))

/-- R26 to R31, R154: module reset and CXL reset bring the device up where its fuses, images, internal links and memory
are in order, and stop it with the cause of the first that is not; a recovery package does so from the images on; a
measurement report holds its five digests and is signed over them and the nonce with the identity keys, which derive from
the device secret and the firmware's digests. The model's own choices: HBM cells and host memory keep their bytes (log 40);
an image that fails its signature and has a lower SVN gives SIG, and of two rejected recovery images the Lodge's cause
stands (log 86). -/
def Obligations.BringUpResults : Prop :=
  ∀ s : State,
    let b := s.input.boot
    let signed (r : ImageReport) : Prop := r.rsaOk = true ∧ r.slhOk = true ∧ r.keysOk = true
    let ok (r : ImageReport) : Prop := signed r ∧ s.pkg.svn ≤ r.svn
    let cause (r : ImageReport) (n : Nat) : Prop := (¬ signed r ∧ n = 2) ∨ (signed r ∧ r.svn < s.pkg.svn ∧ n = 5)
    let inner (k : Nat) : Prop := k < 12 ∨ (58 ≤ k ∧ k < 62)
    let cleared (t : State) : Prop := t.cores = [] ∧ t.sched = State.reset.sched ∧ t.fab = State.reset.fab ∧
      t.arb = State.reset.arb ∧ t.perg = State.reset.perg ∧ t.tiles = State.reset.tiles ∧ t.dbg = State.reset.dbg ∧
      t.host.chains = [] ∧ t.mem.master = [] ∧ t.mem.hbm = s.mem.hbm ∧ t.host.mem = s.host.mem ∧ t.pkg.svn = s.pkg.svn
    let stopped (t : State) (n : Nat) : Prop := t.pkg.stage = 15 ∧ t.pkg.cause = n
    let ready (t : State) : Prop := t.pkg.stage = 7 ∧ t.pkg.cause = 0 ∧ t.pkg.baseDg = b.base.digest ∧
      t.pkg.lodgeDg = b.lodge.digest ∧ t.pkg.fwSvn = b.lodge.svn ∧ t.pkg.recover = false ∧
      t.pkg.rsaKey = Config.rsaIdentity Config.deviceSecret (BitVec.ofNat 384 b.lodge.digest) (BitVec.ofNat 384 b.base.digest) ∧
      t.pkg.slhKey = Config.slhIdentity Config.deviceSecret (BitVec.ofNat 384 b.lodge.digest) (BitVec.ofNat 384 b.base.digest)
    let m := [Config.romDigest, BitVec.ofNat 384 s.pkg.lodgeDg, BitVec.ofNat 384 s.pkg.baseDg,
      Config.fuseDigest (BitVec.ofNat 32 s.pkg.svn), sha384 (s.pkg.lstatRd.flatMap (toBytes 8))]
    (∀ e ∈ [Instr.moduleReset, Instr.cxlReset],
      (b.fuseOk = false → Answers e s (fun t => cleared t ∧ stopped t 1)) ∧
      (∀ n, b.fuseOk = true → cause b.lodge n → Answers e s (fun t => cleared t ∧ stopped t n ∧ t.pkg.recover = true)) ∧
      (∀ n, b.fuseOk = true → ok b.lodge → cause b.base n →
        Answers e s (fun t => cleared t ∧ stopped t n ∧ t.pkg.recover = true)) ∧
      (∀ k, b.fuseOk = true → ok b.lodge → ok b.base → b.badLink = some k → inner k →
        Answers e s (fun t => cleared t ∧ stopped t 3 ∧ t.pkg.badLink = k ∧ (t.link k).state = .failed)) ∧
      (b.fuseOk = true → ok b.lodge → ok b.base → b.badLink = none → b.memOk = false →
        Answers e s (fun t => cleared t ∧ stopped t 4)) ∧
      (b.fuseOk = true → ok b.lodge → ok b.base → b.badLink = none → b.memOk = true →
        Answers e s (fun t => cleared t ∧ ready t ∧ (∀ k, inner k → (t.link k).state = .up) ∧
          ∀ k, 12 ≤ k → k < 58 → (t.link k).state = .down))) ∧
    (s.pkg.recover = true → s.pkg.stage = 15 →
      (ok b.lodge → ok b.base → b.badLink = none → b.memOk = true → Answers .recoveryPackage s (fun t =>
        ready t ∧ (∀ k, inner k → (t.link k).state = .up) ∧ t.cores = s.cores ∧ t.mem = s.mem)) ∧
      (∀ n, (cause b.lodge n ∨ (ok b.lodge ∧ cause b.base n)) → Answers .recoveryPackage s (fun t =>
        stopped t n ∧ t.pkg.recover = true ∧ t.pkg.links = s.pkg.links ∧ t.mem = s.mem))) ∧
    Answers .spdmRequest s (fun t => t.cores = s.cores ∧ t.mem = s.mem ∧ t.pkg.spdm = s.pkg.spdm ++
      [⟨m, s.input.n, Config.rsaSign s.pkg.rsaKey m s.input.n, Config.slhSign s.pkg.slhKey m s.input.n⟩])

/-- R33 to R40, R321: the power cap is held to 60 to 120; a sample moves each die's level by its power against its share,
and three above the cap raise every level to 6; the level in force is at least 4 above 100 °C; 110 °C halts the
device: every slot with a running packet, and the cores of its groups; a stack above 95 °C refreshes at the double rate; the capture units clear, follow their window and record the
events of their source. -/
def Obligations.PowerAndCaptureResults : Prop :=
  ∀ s : State,
    let x := s.input
    let die (t : State) (d : Nat) : DieSt := sget {} t.pkg.dies d
    let unit (t : State) (n : Nat) : CapSt := sget {} t.pkg.caps n
    let same (t : State) : Prop := t.cores = s.cores ∧ t.mem = s.mem ∧ t.fab = s.fab ∧ t.sched = s.sched
    let share := (25 * s.pkg.cap - 590) * 5125 * 1000
    let u := unit s x.n
    let bin (hb v : Nat) : Nat := if v < hb % 2 ^ 32 then 0 else min 15 ((v - hb % 2 ^ 32) / 2 ^ (hb / 2 ^ 32 % 2 ^ 6))
    (s.pkg.stage = 7 → Answers .pwrcapWrite s (fun t =>
      t.pkg.cap = max 60 (min 120 (x.v.toNat % 256)) ∧ t.pkg.dies = s.pkg.dies ∧ same t)) ∧
    Answers .arbiterSample s (fun t =>
      let above := if 25 * s.pkg.cap < x.n then min 3 (s.pkg.above + 1) else 0
      t.pkg.power = min 65535 x.n ∧ t.pkg.above = above ∧ same t ∧
      ∀ d, d < 4 →
        let mw := x.nats.getD d 0
        let o := die s d
        let p := if share < mw * 24100 then min 7 (o.pending + 1)
          else if mw * 24100 * 100 < share * 95 ∧ o.below = 7 then o.pending - 1 else o.pending
        (die t d).pending = (if above = 3 then max p 6 else p) ∧ (die t d).level = o.level ∧ (die t d).temp = o.temp) ∧
    Answers .throttleLevelApply s (fun t =>
      (die t x.die).level = max (die s x.die).pending (if 10000 ≤ (die s x.die).temp then 4 else 0) ∧
      (∀ d, d ≠ x.die → die t d = die s d) ∧ same t) ∧
    (x.t < 11000 ∨ s.dbg.thermal = true → Answers .junctionTemperature s (fun t =>
      (die t x.die).temp = x.t ∧ (die t x.die).pending = (die s x.die).pending ∧ same t ∧ t.dbg = s.dbg)) ∧
    (11000 ≤ x.t → s.dbg.thermal = false → Answers .junctionTemperature s (fun t =>
      (die t x.die).temp = x.t ∧ t.dbg.state = 2 ∧ t.dbg.src = .thermal ∧ t.dbg.thermal = true ∧
      t.host.intstat.getLsbD 2 = true ∧ t.mem = s.mem ∧
       (∀ i p g y c, i < 256 → (s.slot i).state = .busy → (s.slot i).packet = some p.id → s.packet? p.id = some p →
         g ∈ p.groups → s.group? g = some y → c ∈ y.cores → (t.slot i).halted = true ∧ (t.core c).halted = true) ∧
       (∀ i, i < 256 → (s.slot i).state = .busy → (t.slot i).halted = true) ∧
       ∀ c, t.core c = { s.core c with halted := (t.core c).halted })) ∧
    Answers .hbmStackTemperature s (fun t =>
      (sget {} t.mem.bdies x.stack).hot = decide (9500 < x.t) ∧ t.mem.hbm = s.mem.hbm ∧ t.cores = s.cores ∧
      ∀ k, k ≠ x.stack → sget {} t.mem.bdies k = sget {} s.mem.bdies k) ∧
    (s.pkg.stage = 7 → Answers .capClear s (fun t =>
      unit t x.n = { u with cnt := 0, min := 2 ^ 64 - 1, max := 0, hist := [] } ∧
      (∀ k, k ≠ x.n → unit t k = unit s k) ∧ same t)) ∧
    Answers .captureWindowEdge s (fun t =>
      unit t x.n = { u with opened := u.en && decide (u.start ≤ s.now ∧ (u.stop = 0 ∨ s.now < u.stop)) } ∧
      (∀ k, k ≠ x.n → unit t k = unit s k) ∧ same t) ∧
    (1 ≤ x.n → x.n ≤ 9 → Answers .captureEvent s (fun t => same t ∧ ∀ k,
      let o := unit s k
      let n := unit t k
      let v := x.v.toNat
      let hit := o.opened = true ∧ o.freeze = false ∧ o.src % 2 ^ 16 = x.n ∧ o.src / 2 ^ 16 % 2 ^ 6 = x.t
      (¬ hit → n = o) ∧
      (hit → n.cnt = (if o.cnt < 2 ^ 64 - 1 then o.cnt + 1 else o.cnt) ∧ n.min = min o.min v ∧ n.max = max o.max v ∧
        ∀ j, sget 0 n.hist j = if j = bin o.hb v ∧ sget 0 o.hist j < 2 ^ 64 - 1 then sget 0 o.hist j + 1
          else sget 0 o.hist j)))

/-! ### Events: the domain fabric -/

/-- R51 to R58, R248, R268, R270: a request that arrives in time is performed at this device, its home, and answered: at
plain HBM a load, a store, an atomic or an arrival acts on the cells; at versioned memory a store is refused; at a
scratchpad a tagged word waits for its tag; one older than FABTMO is discarded and counted, and so is one for a group
that is gone. A barrier arrival from outside a core acts as one. R44: a request of this device to itself is performed as
one that arrives. R27, R30: before READY the device performs none. R323: a granule written back from a dirty line with an
uncorrectable error reads as POISON from then on (as a request of a kind of its own: log 60, the model's choice). R25,
R73: no earlier request waits at a pseudo-channel, and no internal link trains or has failed. -/
def Obligations.RemoteRequestResults : Prop :=
  ∀ (s : State) (core : Nat),
    let x := s.input
    let q := x.req
    let off := q.pa % 2 ^ 39
    let o := q.pa % 2 ^ 21
    let c := s.core core
    let mine := paDev q.pa = s.self ∧ q.src ≠ s.self ∧ s.pkg.stage = 7 ∧ s.quiet
    let young := s.now ≤ q.time + s.fab.tmo * 1000
    let sent (dst id : Nat) (r : RemoteResult) : List Sent :=
      match pickRoute s dst 4 with
      | some way => s.fab.sent ++ [⟨.response dst id r, way⟩]
      | none => s.fab.sent
    -- the state that a request at the stacks, or at the scratchpad of `core`, leaves with its answer; its arrival shows at
    -- its pseudo-channel (R78)
    let hbm (m : MemSt) (r : RemoteResult) (t : State) : Prop :=
      t.mem = { m with pcs := t.mem.pcs } ∧ t.cores = s.cores ∧ t.host = s.host ∧ t.fab.sent = sent q.src q.id r
    let spad (d : CoreSt) (r : RemoteResult) (t : State) : Prop :=
      t.mem = s.mem ∧ t.core core = d ∧ (∀ k, k ≠ core → t.core k = s.core k) ∧ t.host = s.host ∧
      t.fab.sent = sent q.src q.id r
    let does (P : State → Prop) : Prop := Answers .remoteRequest s P
    let free (n : Nat) := s.mem.poisoned off n = false
    (s.pkg.stage ≠ 7 → exec .remoteRequest s = .next s) ∧
    (paDev q.pa = s.self → q.src = s.self → s.pkg.stage = 7 → s.fab.loop = [q] → young →
      exec .remoteRequest s = .next (performRequest q { s with fab := { s.fab with loop := [] } })) ∧
    (mine → ¬ young → does (fun t => t.mem = s.mem ∧ t.cores = s.cores ∧ t.fab.sent = s.fab.sent ∧
      t.fab.expired = if s.fab.expired < 2 ^ 32 - 1 then s.fab.expired + 1 else s.fab.expired)) ∧
    (mine → young → q.pa / 2 ^ 54 = 1 → versionedAt s off = none →
      (q.kind = .load → free q.size → does (hbm s.mem (.data (s.mem.bytes off q.size)))) ∧
      (q.kind = .load → ¬ free q.size → does (hbm s.mem (.err .poison))) ∧
      (∀ p, q.kind = .store p → does (hbm (s.mem.write off q.data) (.data []))) ∧
      (q.kind = .poison → does (hbm (s.mem.setPoison off true) (.data []))) ∧
      (∀ op ret v e, q.kind = .atomic op ret v e → free (amoSize op) →
        let old := fromBytes (s.mem.bytes off (amoSize op))
        does (hbm (s.mem.write off (toBytes (amoSize op) (amoNew op old v.toNat e.toNat)))
          (.data (toBytes (amoSize op) old)))) ∧
      (q.kind = .arrive → free 12 →
        let w := fromBytes (s.mem.bytes off 12)
        does (hbm (s.mem.write off (toBytes 12 (arriveWord w))) (.data (toBytes 4 (w / 2 ^ 64)))))) ∧
    (∀ p, mine → young → q.pa / 2 ^ 54 = 1 → (versionedAt s off).isSome = true → q.kind = .store p →
      does (hbm s.mem (.err .owner))) ∧
    (mine → young → q.pa / 2 ^ 54 ≠ 1 → spadCore s q.pa = none → does (fun t =>
      t.mem = s.mem ∧ t.cores = s.cores ∧
      t.fab.stale = (if s.fab.stale < 2 ^ 32 - 1 then s.fab.stale + 1 else s.fab.stale) ∧
      t.fab.sent = sent q.src q.id (if q.kind = .store true then .data [] else .err .stale))) ∧
    (mine → young → q.pa / 2 ^ 54 ≠ 1 → spadCore s q.pa = some core →
      (q.kind = .load → c.spadBad o q.size = none → does (spad c (.data (c.spadBytes o q.size)))) ∧
      (∀ p, q.kind = .store p → does (spad (c.spadWrite o q.data) (.data []))) ∧
      (∀ keep, q.kind = .ldf keep → c.tagAt o = true → c.spadBad o 8 = none →
        does (spad (if keep then c else c.setTag o false) (.data (c.spadBytes o 8)))) ∧
      (∀ keep, q.kind = .ste keep → c.tagAt o = false →
        does (spad (if keep then c.spadWrite o q.data else (c.spadWrite o q.data).setTag o true) (.data []))) ∧
      (∀ keep, (q.kind = .ldf keep ∧ c.tagAt o = false) ∨ (q.kind = .ste keep ∧ c.tagAt o = true) →
        does (fun t => t.mem = s.mem ∧ t.cores = s.cores ∧ t.fab.sent = s.fab.sent ∧ t.fab.tagged = s.fab.tagged ++ [q]))) ∧
    (∀ l, s.pkg.stage = 7 → s.quiet → physOf s x.off = some (.hbm l) → versionedAt s l.off = none →
      s.mem.poisoned l.off 12 = false →
      let w := fromBytes (s.mem.bytes l.off 12)
      Answers .barrierArrival s (fun t =>
        t.mem = { s.mem.write l.off (toBytes 12 (arriveWord w)) with pcs := t.mem.pcs } ∧ t.cores = s.cores ∧
        t.fab.sent = sent x.dev x.id (.data (toBytes 4 (w / 2 ^ 64)))))

/-- R44, R53, R55, R56, R317: an acknowledgement passes the tl2 number whose last request it is, with its error; a response resumes
the word that waits, and is collected while its core is halted; a request older than FABTMO completes with TIMEOUT at its source, and one that waits here for its
tag is discarded and counted. -/
def Obligations.RemoteCompletionResults : Prop :=
  ∀ (s : State) (f : Flight) (core : Nat),
    let x := s.input
    let gone := s.fab.flights.filter (fun g => g.req.id != f.req.id)
    let c := s.core core
    let old (q : RemoteReq) : Bool := q.src == x.dev && q.id == x.id && decide (q.time + s.fab.tmo * 1000 < s.now)
    -- what this device's own home answered, where the request looped back (R44)
    let result (r : RemoteResult) : Option RemoteResult :=
      if paDev f.req.pa = s.self then (s.fab.back.find? (fun p => p.1 == x.id)).map (fun p => p.2) else some r
    let ack : RemoteResult := match x.err with | some e => .err e | none => .data []
    let failed (r : RemoteResult) : Bool := match r with | .err _ => true | _ => false
    let calm := s.fab.held = [] ∧ s.fab.late.any (fun p => p.1 == x.id) = false
    let resumed (k : StreamKind) (r : RemoteResult) (t : State) : Prop :=
      ((t.core core).stream k).wait = some ⟨x.id, some r⟩ ∧ ((t.core core).stream k).pc = (c.stream k).pc ∧
      ((t.core core).stream k).regs = (c.stream k).regs ∧ (∀ d, d ≠ core → t.core d = s.core d) ∧ t.mem = s.mem ∧
      t.fab.flights = gone
    (∀ num tag e r, calm → s.flight? x.id = some f → f.user = .tl2 core num tag e → c.halted = false →
      result ack = some r →
      (gone.any (fun g => g.ofNum core num) = false → Answers .remoteAck s (fun t =>
        let bad := e.isSome || failed r
        (t.core core).tl 2 = (c.tl 2).complete num bad ∧ (t.core core).stream .a = c.a ∧ (t.core core).stream .x = c.x ∧
        (bad = false → (t.core core).spad = c.spad ∧ t.arb = s.arb) ∧ (∀ d, d ≠ core → t.core d = s.core d) ∧
        t.mem = s.mem ∧ t.fab.flights = gone)) ∧
      (gone.any (fun g => g.ofNum core num) = true → e = none → failed r = false → Answers .remoteAck s (fun t =>
        t.cores = s.cores ∧ t.mem = s.mem ∧ t.fab.flights = gone))) ∧
    (∀ k, calm → s.flight? x.id = some f → k ≠ .m → f.user = .stream core k → (c.stream k).wait = some ⟨x.id, none⟩ →
      (∀ r, result x.result = some r →
        (c.halted = false → Answers .remoteResponse s (resumed k r)) ∧
        (c.halted = true → Answers .remoteResponse s (fun t => t.cores = s.cores ∧ t.mem = s.mem ∧
          t.fab.late = s.fab.late ++ [(x.id, r)] ∧ t.fab.flights = s.fab.flights))) ∧
      (x.dev = s.self → f.req.time + s.fab.tmo * 1000 < s.now → s.fab.tagged.any old = false →
        Answers .requestExpiry s (resumed k (.err .timeout)))) ∧
    (s.fab.tagged.any old = true → x.dev ≠ s.self → Answers .requestExpiry s (fun t =>
      t.fab.tagged = s.fab.tagged.filter (fun q => !old q) ∧ t.cores = s.cores ∧ t.mem = s.mem ∧
      t.fab.flights = s.fab.flights ∧
      t.fab.expired = if s.fab.expired < 2 ^ 32 - 1 then s.fab.expired + 1 else s.fab.expired))

/-- R46 to R48, R56, R64, R66, R160, R390: a packet for another device goes on along its header's route where the next
link is UP, else along a route this device picks; with none a request is answered NOROUTE, a response is dropped and a
message waits, as it does behind those of its channel to that device; the link map, domain time with its one forward step,
LOCK and OFFSET, the domain's digest, FABTMO and an INV message are taken as their rules say. The model's own choices:
OFFSET is own time less the master's (log 55); an INV that names an address of a chain uses the CHPT that this device holds
for the same chain index (log 56). -/
def Obligations.FabricEventResults : Prop :=
  ∀ s : State,
    let x := s.input
    let p := x.pkt
    let f := s.fab
    let same (t : State) : Prop := t.cores = s.cores ∧ t.mem = s.mem ∧ t.host = s.host ∧ t.sched = s.sched
    let young := s.now ≤ p.time + f.tmo * 1000
    let goes (r : List Nat) (t : State) : Prop := same t ∧ t.fab.held = f.held ∧
      t.fab.sent = f.sent ++ [⟨.forwarded { p with hop := p.hop + 1, route := r.drop 1 }, r⟩]
    let way := p.route ≠ [] ∧ portUp s s.self (firstPort s.self p.route) = true ∧ p.hop + p.route.length ≤ 4
    let picked := pickRoute s p.dst (4 - p.hop)
    let est := x.v.toNat + x.t / 2
    let now := if f.joined then f.dtime else BitVec.ofNat 64 (max f.dtime.toNat est)
    let other := x.dev ≠ s.self
    (s.pkg.stage ≠ 7 → ∀ e ∈ [Instr.fabricForward, .linkMapUpdate, .timeMessage, .domainDigest, .invVc8Message],
      exec e s = .next s) ∧
    -- a request that waits here and finds no route completes at once
    (∀ keep g q, f.flights.find? (fun g => g.req.id == q.id) = some g → (s.core g.core).halted = false →
      requestRoute s g.core q = none →
      releaseOne keep (.request q) s = (keep, completeFlight g (.err .noroute) s)) ∧
    (s.pkg.stage = 7 → p.dst ≠ s.self → (p.cls = .request → young) → s.waiting (FabMsg.forwarded p).vc p.dst = false →
      (way → Answers .fabricForward s (goes p.route)) ∧
      (∀ r, ¬ way → picked = some r → Answers .fabricForward s (goes r)) ∧
      (¬ way → picked = none → Answers .fabricForward s (fun t => same t ∧
        (p.cls = .request → t.fab.held = f.held ∧
          t.fab.sent = match pickRoute s p.src 4 with | some r => f.sent ++ [⟨.noroute p.src p.id, r⟩] | none => f.sent) ∧
        (p.cls = .response ∨ p.cls = .noroute → t.fab.held = f.held ∧ t.fab.sent = f.sent) ∧
        (p.cls = .management ∨ p.cls = .arbour → t.fab.held = f.held ++ [.forwarded p] ∧ t.fab.sent = f.sent)))) ∧
    (s.pkg.stage = 7 → p.dst ≠ s.self → (p.cls = .request → young) → s.waiting (FabMsg.forwarded p).vc p.dst = true →
      p.cls = .management ∨ p.cls = .arbour → Answers .fabricForward s (fun t => same t ∧
      t.fab.held = f.held ++ [.forwarded p] ∧ t.fab.sent = f.sent)) ∧
    (s.pkg.stage = 7 → p.dst ≠ s.self → p.cls = .request → ¬ young → Answers .fabricForward s (fun t => same t ∧ t.fab.sent = f.sent ∧
      t.fab.expired = if f.expired < 2 ^ 32 - 1 then f.expired + 1 else f.expired)) ∧
    (s.pkg.stage = 7 → other → Answers .linkMapUpdate s (fun t => (f.held = [] → same t) ∧
      ∀ d, sget 0 t.fab.map d = if d = x.dev then x.v.setWidth 14 else sget 0 f.map d)) ∧
    (f.master = true → Answers .timeMessageSend s (fun t => same t ∧ t.fab.dtime = f.dtime ∧
      ∀ d ∈ s.members, d ≠ s.self → Posted t (.time d f.dtime))) ∧
    (s.pkg.stage = 7 → f.master = false → s.isMember s.self = true → Answers .timeMessage s (fun t => same t ∧
      t.fab.dtime = now ∧ t.fab.joined = true ∧ t.fab.lock = decide (1 ≤ f.exch) ∧ 1 ≤ t.fab.exch ∧
      t.fab.slew = (est : Int) - now.toNat ∧
      (BitVec.ofNat 16 t.fab.offset).toInt = max (-32768) (min 32767 ((now.toNat : Int) - est)))) ∧
    (s.pkg.stage = 7 → Answers .fabtmoWrite s (fun t => same t ∧
      t.fab = { f with tmo := max 10 (min 10000 (x.v.toNat % 2 ^ 32)) })) ∧
    (s.pkg.stage = 7 → x.dev = 0 → s.self ≠ 0 → Answers .domainDigest s (fun t => same t ∧
      (t.arb.valid = true ↔ s.arb.want = true ∧ x.n % 2 ^ 6 = (f.ncm1 + 8 * f.nrm1) % 2 ^ 6 ∧ x.v = f.members))) ∧
    (s.pkg.stage = 7 → Answers .invVc8Message s (fun t =>
      let hit (e : TlbEntry) : Bool := e.root == (s.chain x.chain).pt &&
        (x.flag || e.base == x.v.toNat / 2 ^ e.bits * 2 ^ e.bits)
      (∀ c, (t.core c).tlb = (s.core c).tlb.filter (fun e => !hit e)) ∧
      (∀ q, sget [] t.mem.l2tlb q = (sget [] s.mem.l2tlb q).filter (fun e => !hit e)) ∧
      (∀ c, (t.core c).a = (s.core c).a ∧ (t.core c).x = (s.core c).x ∧ (t.core c).spad = (s.core c).spad) ∧
      t.mem.hbm = s.mem.hbm ∧ t.host = s.host ∧ Posted t (.invAck x.dev)))

/-! ### Tile words at their executors -/

/-- R202, R203, R206, R210 to R214, R216, R220, R223, R234, R235, R455 to R467: a turn on a word over records. -/
def Claim.TileTurns : Prop :=
  ∀ (s : State) (j : TileJob) (w : TileWord),
    -- the child words move on at the executors below; the leaf tiles of `c` run in this turn
    let u := moveKids s.focus.tile s
    let all := tileCtx u j
    let c := { all with leaves := all.ready u }
    let last := all.leaves.all (fun l => j.ran.contains l.path || c.leaves.contains l)
    let r0 : TileRun := ⟨u, none, 0, j.dead, false⟩
    let rdn := tmRM w == 3
    let p0 := w.p0.toNat
    let p1 := w.p1.toNat
    let f (hi lo : Nat) : Nat := bits w.mode.toNat hi lo
    let words := [Instr.tCopy w, .tFill w, .tEw w, .tMap w, .tRed w, .tScan w, .tCvt w, .tMma w, .tMmas w, .tCmp w,
      .tAmax w, .tRng w, .tOpt w]
    -- an item that writes the value `v` of its operands into O, and a run of such items
    let out (leaf : Leaf) (p : Nat) (v : Fv) (s : State) := c.put leaf 0 p p (c.out 0 p v) s
    let run (item : Leaf → Nat → State → State × Except ElemErr Unit) : TileRun := (c.runAll c.elems item r0).1
    let one (g : Fv → Fv) : TileRun := run (fun l p s => andThen (c.val l 1 p s) (fun a s => out l p (g a) s))
    let three (g : Fv → Fv → Fv → Fv) : TileRun := run (fun l p s =>
      andThen (c.val l 1 p s) (fun a s => andThen (c.val l 2 p s) (fun b s => andThen (c.val l 3 p s) (fun d s =>
        out l p (g a b d) s))))
    let ends (i : Instr) (r : TileRun) : Prop := TileEnds i s j c last r j.vals j.locs
    let product (a b : Fv) : Fv := (a.mul b).getD (.nan false)
    -- a reduction, and a scan, write what is left to write with the last leaf tile
    let finals (v : List Partial) : List Partial := if all.split.grans = 0 then [] else all.finals v
    let reduces (i : Instr) : Prop :=
      let x := c.reducePass r0
      let vals := j.vals ++ x.2
      TileEnds i s j c last (if last then all.reduceWrite (finals vals) x.1 else x.1) vals j.locs
    let scans (i : Instr) : Prop :=
      let x := c.scanPass r0
      let vals := j.vals ++ x.2.1
      let locs := j.locs ++ x.2.2
      TileEnds i s j c last (if last then all.scanWrite (finals vals) locs x.1 else x.1) vals locs
    let lr := Fmt.fp32.decode p0
    u.job? s.focus.tile = some j → j.tw = w → j.started = true → j.executed = false → j.phase = 0 → all.far u = false →
    (∀ leaf, leaf ∈ c.leaves ↔ leaf ∈ all.leaves ∧ leaf.path ∉ j.ran ∧ (j.halts = true ∨ all.opens u leaf = true)) ∧
    (∀ leaf, all.opens u leaf = true ↔
      (j.unit.level ≤ 1 ∨ ∃ k ∈ j.kids, k.unit = unitOf 1 leaf.core ∧ k.begun.isSome = true) ∧
      (w.level = 0 → (∀ t ∈ all.sources, (u.core leaf.core).unitReady (.read false) t = true) ∧
        ∀ t ∈ all.tilesOf all.outputs, (u.core leaf.core).unitReady (.write true) t = true) ∧
      (w.level ≠ 0 → ∀ i, i < 8 → Config.stagesTile j.id i = true →
        (u.core leaf.core).unitReady (.write false) (32 + i) = true)) ∧
    (j.stop = false → last = false → c.leaves = [] → ∀ i ∈ words, exec i s = .next u) ∧
    (j.stop = true → ∀ i ∈ words, Answers i s (fun t => t.mem = s.mem ∧ t.host = s.host)) ∧
    (j.stop = false → last = true ∨ c.leaves ≠ [] →
      ends (.tCopy w) (run (fun l p s => andThen (c.get l 1 p p s) (fun v s => c.put l 0 p p v s))) ∧
      ends (.tFill w) (run (fun l p s => c.put l 0 p p (p0 % 2 ^ fmtBits (c.fmt 0)) s)) ∧
      (f 9 5 = 0 → ends (.tEw w) (three (fun a b _ => addMode rdn a b))) ∧
      (f 9 5 = 1 → ends (.tEw w) (three (fun a b _ => addMode rdn a b.neg))) ∧
      (f 9 5 = 2 → ends (.tEw w) (three (fun a b _ => product a b))) ∧
      (f 9 5 = 3 → ends (.tEw w) (three (fun a b d =>
        if d.isNan then .nan false else addMode rdn (product a b) d))) ∧
      (f 9 5 = 4 → ends (.tEw w) (three (fun a b _ =>
        if a.isNan || b.isNan then .nan false else if b.below a then b else a))) ∧
      (f 9 5 = 5 → ends (.tEw w) (three (fun a b _ =>
        if a.isNan || b.isNan then .nan false else if a.below b then b else a))) ∧
      (f 9 5 = 6 → ends (.tEw w) (three (fun a b _ =>
        if a.isNan || b.isNan then .nan false else if a.abs.below b.abs then b.abs else a.abs))) ∧
      (f 9 5 = 7 → ends (.tEw w) (three (fun a b _ => divX a b))) ∧
      (f 9 5 = 0 → ends (.tMap w) (one rcpX)) ∧ (f 9 5 = 1 → ends (.tMap w) (one rsqX)) ∧
      (f 9 5 = 2 → ends (.tMap w) (one sqrtX)) ∧ (f 9 5 = 3 → ends (.tMap w) (one exp2X)) ∧
      (f 9 5 = 4 → ends (.tMap w) (one log2X)) ∧ (f 9 5 = 5 → ends (.tMap w) (one Fv.abs)) ∧
      (f 9 5 = 6 → ends (.tMap w) (one Fv.neg)) ∧
      (f 9 5 = 7 → ends (.tMap w) (one (fun a => product a (Fmt.fp32.decode p0)))) ∧
      reduces (.tRed w) ∧ reduces (.tAmax w) ∧ scans (.tScan w) ∧
      (f 6 5 = 0 → f 7 7 = 0 → ends (.tCvt w) (run (fun l p s =>
        andThen (c.val l 1 p s) (fun a s => andThen (out l p (product a (.fin false 1 0)) s) (fun _ s => (s, .ok ())))))) ∧
      (f 6 5 = 1 → ends (.tCvt w) (c.runAll c.blocks (cvtBlock c) r0).1) ∧
      (f 6 5 = 2 → ends (.tCvt w) (run (cvtApplied c))) ∧
      -- the history is read once, for all leaf tiles
      (∀ t e, f 6 5 = 0 → f 7 7 = 1 → j.vals = [] → c.delayed u = (t, .ok e) →
        TileEnds (.tCvt w) s j c last (c.runAll c.elems (cvtPlain e c) { r0 with s := t }).1 [packExp (some e)] j.locs) ∧
      (∀ e v more, f 6 5 = 0 → f 7 7 = 1 → j.vals = v :: more → unpackExp v = some e → ends (.tCvt w) (run (cvtPlain e c))) ∧
      (∀ t x, f 6 5 = 0 → f 7 7 = 1 → j.vals = [] → c.delayed u = (t, .error x) →
        TileEnds (.tCvt w) s j c last ({ r0 with s := t }.own j x) [packExp none] j.locs) ∧
      (∀ v more, f 6 5 = 0 → f 7 7 = 1 → j.vals = v :: more → unpackExp v = none → ends (.tCvt w) r0) ∧
      ends (.tMma w) (run (mmaItem false c)) ∧ ends (.tMmas w) (run (mmaItem true c)) ∧
      ends (.tCmp w) (c.runAll c.atoms (cmpItem c) r0).1 ∧
      (let r (p : Nat) : Nat := Sys2Proof.Machine.rbits j.key j.ctr p
       (f 5 5 = 0 → ends (.tRng w) (run (fun l p s => c.put l 0 p p (r p % 2 ^ fmtBits (c.fmt 0)) s))) ∧
       (f 5 5 = 1 → ends (.tRng w) (run (fun l p s => c.put l 0 p p
         (outCode (c.fmt 0) (tmRM w) (tmSAT w) 0 (.fin false (r p / 2 ^ 8 % 2 ^ 24) (-24))) s)))) ∧
      (f 6 5 = 0 → ends (.tOpt w) (run (fun l p s =>
        andThen (c.val l 0 p s) (fun x s => andThen (c.val l 1 p s) (fun g s =>
          andThen (c.val l 2 p s) (fun _ s => andThen (c.val l 3 p s) (fun _ s =>
            out l p (addMode rdn x (product lr g).neg) s))))))) ∧
      (f 6 5 = 1 → ends (.tOpt w) (run (fun l p s =>
        andThen (c.val l 0 p s) (fun x s => andThen (c.val l 1 p s) (fun g s =>
          andThen (c.val l 2 p s) (fun m s => andThen (c.val l 3 p s) (fun _ s =>
            let m1 := r32 (addMode false (product (Fmt.bf16.decode (p1 % 2 ^ 16)) m) g)
            andThen (out l p (addMode rdn x (product lr m1).neg) s) (fun _ s =>
              c.put l 2 p p (outCode (c.fmt 2) 0 (tmSAT w) 0 m1) s)))))))) ∧
      (f 6 5 = 2 → ends (.tOpt w) (run (fun l p s =>
        andThen (c.val l 0 p s) (fun x s => andThen (c.val l 1 p s) (fun g s =>
          andThen (c.val l 2 p s) (fun m s => andThen (c.val l 3 p s) (fun v s =>
            let b1 := Fmt.bf16.decode (p1 % 2 ^ 16)
            let b2 := Fmt.bf16.decode (p1 / 2 ^ 16)
            let rest (b : Fv) : Fv := addMode false (.fin false 1 0) b.neg
            let m1 := r32 (addMode false (product b1 m) (product (rest b1) g))
            let v1 := r32 (addMode false (product b2 v) (product (product (rest b2) g) g))
            let den := r32 (addMode false (r32 (sqrtX v1)) (.fin false 1 (-(f 12 7 : Int))))
            andThen (out l p (addMode rdn x (product lr (r32 (divX m1 den))).neg) s) (fun _ s =>
              andThen (c.put l 2 p p (outCode (c.fmt 2) 0 (tmSAT w) 0 m1) s) (fun _ s =>
                c.put l 3 p p (outCode (c.fmt 3) 0 (tmSAT w) 0 v1) s))))))))))

/-- R202, R203, R205: when a child word enters its executor's queue, and when it starts there. -/
def Claim.ChildWords : Prop :=
  ∀ (s : State) (j : TileJob) (k : Kid),
    (mayEnter s j k = true ↔ ∃ b, j.issuedTo k.unit = some b ∧ k.entered = none ∧
      queued s k.unit < queueCap k.unit.level ∧
      ∀ p ∈ s.tiles.jobs, ∀ q ∈ p.kids, q.unit = k.unit → q.entered = none → ∀ b', p.issuedTo q.unit = some b' → b ≤ b') ∧
    (mayBegin s j k = true ↔ ∃ e, k.entered = some e ∧ k.begun = none ∧
      running s k.unit false < runCap k.unit.level ∧
      (∀ p ∈ s.tiles.jobs, ∀ q ∈ p.kids, ∀ e', q.unit = k.unit → q.entered = some e' → e' < e →
        q.begun.isSome = true ∧ (j.tw.async = false → (tileCtx s p).kidOver q = true)) ∧
      (j.tw.async = true → ∀ p ∈ s.tiles.jobs, p.unit = k.unit → p.accepted = true → p.started = false →
        p.kernHeld = false → e ≤ p.entry))

/-- R213, R283, R284, R286, R302, R461 to R464: what the items of the matrix words and of the scaled conversions write,
where their reads succeed. -/
def Claim.TileItems : Prop :=
  ∀ (c : TileCtx) (leaf : Leaf) (s : State) (lin : Nat),
    let w := c.job.tw
    let f (hi lo : Nat) : Nat := bits w.mode.toNat hi lo
    let product (a b : Fv) : Fv := (a.mul b).getD (.nan false)
    let scale (p : Nat) : Fv := if p = 0 then .fin false 1 0 else Fmt.fp32.decode p
    let reads (k pos elem v : Nat) : Prop := c.get leaf k pos elem s = (s, .ok v)
    -- T.MMA and T.MMAS: the dot product of a row of A and a column of B over C, a granule of 64 at a time
    (∀ (sparse : Bool) (a xa md b xb : Nat → Nat) (z : Nat),
      let m := lin / (c.shape 0).getD 0 1
      let n := lin % (c.shape 0).getD 0 1
      let ka := (c.shape 1).getD 0 0
      let kb := (c.shape 2).getD 0 0
      let xs := (ka + 31) / 32
      let mb := (c.shape 3).getD 0 0
      let pl := tilePl w
      let keeps := if f 10 10 = 1 then 1 else 2
      (∀ i, i < ka → reads 1 (i + ka * m) lin (a i)) →
      ((c.lay 4).isSome = true → ∀ i, i < xs → reads 4 (i + xs * m) lin (xa i)) →
      (sparse = true → ∀ i, i < mb → reads 3 (i + mb * n) lin (md i)) →
      (∀ i, i < kb → c.getPl leaf 2 (i + kb * n) lin pl s = (s, .ok (b i))) →
      ((c.lay 5).isSome = true → ∀ i, i < xs → reads 5 (i + xs * n) lin (xb i)) →
      (sparse = false → reads 3 lin lin z) →
      let place (i : Nat) : Nat :=
        if sparse then 4 * (i / keeps) + (if i / 4 < mb then md (i / 4) else 0) / 4 ^ (i % 4) % 4 else i
      let va (k : Nat) : Fv :=
        let v := elemFv (c.fmt 1) (a k)
        if (c.lay 4).isSome then v.scaled (xa (k / 32)) else v
      let vb (i : Nat) : Fv :=
        let v := if c.fmt 2 = 16 then nqFv (b i) pl else elemFv (c.fmt 2) (b i)
        if (c.lay 5).isSome then v.scaled (if place i / 32 < xs then xb (place i / 32) else 255) else v
      let terms (g : Nat) : List (Option Fv) := ((List.range kb).filter (fun i => place i / 64 == g)).map (fun i =>
        (if place i < ka then va (place i) else .nan false).mul (vb i))
      let from' : Fv := if sparse = false ∧ (c.lay 3).isSome = true then elemFv (c.fmt 3) z else .fin false 0 0
      mmaItem sparse c leaf lin s = c.put leaf 0 lin lin (outCode (c.fmt 0) (tmRM w) (tmSAT w) 0
        (product (accumulate from' ((List.range ((ka + 63) / 64)).map terms)) (scale w.p1.toNat))) s) ∧
    (∀ a g gs, accumulate a [] = a ∧
      accumulate a (g :: gs) = accumulate (r32 ((a.add (sumFv g)).getD (.nan false))) gs) ∧
    -- T.CMP: the elements that each group of four keeps, and their places
    (∀ (len : Nat) (a : Nat → Nat → Nat),
      let keeps := if f 5 5 = 1 then 1 else 2
      let n := lin / (c.shape 0).getD 0 1
      let j0 := lin % (c.shape 0).getD 0 1
      (∀ i k, i < len / keeps → k < 4 → reads 1 (4 * (j0 / keeps + i) + k + (c.shape 1).getD 0 1 * n) lin (a i k)) →
      let kept := (List.range (len / keeps)).flatMap (fun i =>
        (keepMost keeps ((List.range 4).map (fun k => elemFv (c.fmt 1) (a i k)))).map (fun k => (k, a i k)))
      cmpItem c leaf (lin, len) s =
        andThen (Sys2Proof.Machine.each
            (fun (p : (Nat × Nat) × Nat) s => c.put leaf 0 (lin + p.2) (lin + p.2) p.1.2 s) kept.zipIdx s)
          (fun _ s => c.put leaf 3 (j0 / 4 + (c.shape 3).getD 0 1 * n) lin
            ((kept.zipIdx.map (fun p => p.1.1 * 4 ^ p.2)).sum) s)) ∧
    (∀ (m i : Nat) (v : List Fv),
      let at' (i : Nat) : Fv := v.getD i (.nan false)
      let ahead (k : Nat) : Bool := ranksAbove (at' k) (at' i) || (decide (k < i) && !ranksAbove (at' i) (at' k))
      (i ∈ keepMost m v ↔ i < v.length ∧ ((List.range v.length).filter ahead).length < m)) ∧
    (∀ x y : Fv, ranksAbove x y = true ↔
      (x.isNan = true ∧ y.isNan = false) ∨ (x.isNan = false ∧ y.isNan = false ∧ y.abs.lt x.abs = true)) ∧
    -- T.CVT with a derived scale: a block's scale and its elements; with an applied one, one element
    (∀ (len : Nat) (a : Nat → Nat),
      (∀ i, i < len → reads 1 (lin + i) (lin + i) (a i)) →
      let r := mxBlock (c.fmt 0) (tmRM w) (fun i => c.rbits (lin + i)) ((List.range len).map (fun i => elemFv (c.fmt 1) (a i)))
      cvtBlock c leaf (lin, len) s =
        andThen (Sys2Proof.Machine.each (fun (p : Nat × Nat) s => c.put leaf 0 p.1 p.1 p.2 s)
            (((List.range len).map (fun i => lin + i)).zip r.2) s)
          (fun _ s => c.put leaf 3 (scaleLin (c.shape 0) lin) lin r.1 s)) ∧
    (∀ (fmt mode : Nat) (rb : Nat → Nat) (vs : List Fv),
      let r := mxBlock fmt mode rb vs
      let finite (v : Fv) : Prop := ∃ n m e, v = .fin n m e
      let exp (m : Nat) (e : Int) : Int := min 127 (max (-127) (e + Nat.log2 m - emaxOf fmt))
      ((∃ v ∈ vs, ¬ finite v) → r = (255, vs.map (fun _ => 0))) ∧
      ((∀ v ∈ vs, finite v) → ∃ x : Int, r.1 = (x + 127).toNat ∧ -127 ≤ x ∧
        (∀ n m e, Fv.fin n m e ∈ vs → m ≠ 0 → exp m e ≤ x) ∧
        (x = -127 ∨ ∃ n m e, Fv.fin n m e ∈ vs ∧ m ≠ 0 ∧ exp m e = x) ∧
        ∀ n m e i, vs[i]? = some (.fin n m e) →
          r.2[i]? = some (outCode (if fmt = 16 then 6 else fmt) mode 0 (rb i) (.fin n m (e - x))))) ∧
    (∀ v x : Nat,
      let at' := if c.count 1 = 1 then 0 else lin
      let pl := w.p1.toNat
      c.getPl leaf 1 at' lin pl s = (s, .ok v) → reads 3 (scaleLin (c.shape 1) at') lin x →
      cvtApplied c leaf lin s = c.put leaf 0 lin lin (c.out 0 lin
        (product ((if c.fmt 1 = 16 then nqFv v pl else elemFv (c.fmt 1) v).scaled x) (scale w.p0.toNat))) s)

/-- R210 to R212, R214, R459, R460, R465: what the passes of a reduction and of a scan form, where their reads succeed. -/
def Claim.TilePasses : Prop :=
  ∀ (c : TileCtx) (leaf : Leaf) (s : State) (pos g : Nat) (r : TileRun),
    let w := c.job.tw
    let fn := bits w.mode.toNat 8 5
    let x := c.reduction
    let G := c.split.grans
    let op := tileRedOp x.fn (isFloat x.fmt)
    let reads (k p elem v : Nat) : Prop := c.get leaf k p elem s = (s, .ok v)
    (c.job.op = 0x0B → x.fn = 3 ∧ x.fmt = c.fmt 1 ∧ x.n = c.count 1 ∧ ∀ p i, x.at' p i = i) ∧
    (c.job.op ≠ 0x0B →
      let dims := (c.shape 1).zipIdx.map (fun p => (p.1, w.p0.getLsbD p.2))
      x.fn = fn ∧ x.fmt = c.fmt 1 ∧ x.n = ((dims.filter (fun d => d.2)).map (fun d => d.1)).prod ∧
      ∀ p i, x.at' p i = redIndex dims p i) ∧
    (∀ (n : Nat) (rest : List (Nat × Bool)) (p i : Nat),
      redIndex ((n, true) :: rest) p i = i % n + n * redIndex rest p (i / n) ∧
      redIndex ((n, false) :: rest) p i = p % n + n * redIndex rest (p / n) i ∧ redIndex [] p i = 0) ∧
    -- a granule: the tree over its elements
    (∀ a : Nat → Nat,
      let n := min 64 (x.n - 64 * g)
      (∀ i, i < n → reads 1 (x.at' pos (64 * g + i)) pos (a i)) →
      c.granule x leaf pos g s = (s, .ok (pos, g,
        (treeNode op (fun i => if i < n then some (redIn x.fn x.fmt (a i)) else none) 6 0).getD 0))) ∧
    -- the tree over the granules of a position, once all are there
    (∀ (vals : List Partial) (v : Nat → Nat),
      (∀ k, k < G → vals.find? (fun p => p.1 == pos && p.2.1 == k) = some (pos, k, v k)) →
      (∀ p ∈ vals, p.1 = pos → p.2.1 < G) →
      rootOf x G pos vals = treeNode op (fun k => if k < G then some (v k) else none) (ceilLog2 G) 0) ∧
    (∀ (vals : List Partial) k, k < G → (∀ p ∈ vals, ¬ (p.1 = pos ∧ p.2.1 = k)) → rootOf x G pos vals = none) ∧
    -- the first pass of a reduction: a leaf tile that has every granule of a position writes it
    (let y := c.runAll (fun leaf => c.split.lins leaf.part) (fun leaf pos s =>
       andThen (each (fun i s => c.granule x leaf pos (leaf.part.glo + i) s) (List.range (leaf.part.ghi - leaf.part.glo)) s)
         (fun vs s => match (if c.wholeLeaf leaf then rootOf x G pos vs else none) with
           | some v => andThen (c.putReduced x leaf pos v s) (fun _ s => (s, .ok vs))
           | none => (s, .ok vs))) r
     c.reducePass r = (y.1, y.2.flatten)) ∧
    -- a granule of a line of a scan: its running values
    (∀ a : Nat → Nat,
      let n := c.scanDim.1
      let st := c.scanDim.2
      let k := min 64 (n - 64 * g)
      let at' (i : Nat) : Nat := pos + (64 * g + i) * st
      (∀ i, i < k → c.scanIn leaf (at' i) s = (s, .ok (a i))) →
      ∃ ys : List Nat, c.scanLoc leaf pos g s = (s, .ok (((List.range k).map at').zip ys)) ∧ ys.length = k ∧
        (0 < k → ys[0]? = some (a 0)) ∧
        ∀ i y, i + 1 < k → ys[i]? = some y → ys[i + 1]? = some (c.scanF y (a (i + 1)))) ∧
    (∀ a b : Nat, (fn ≠ 3 → reads 1 pos pos a → c.scanIn leaf pos s = (s, .ok (widenCode (c.fmt 1) a))) ∧
      (fn = 3 → reads 1 pos pos a → c.get leaf 2 pos pos s = (s, .ok b) →
        c.scanIn leaf pos s = (s, .ok (widenCode (c.fmt 1) a + widenCode (c.fmt 2) b * 2 ^ 32)))) ∧
    (∀ (F : Nat → Nat → Nat) (c0 : Option Nat) (t : Nat) (ts : List Nat),
      scanCarries F c0 [] = [] ∧
      scanCarries F c0 (t :: ts) = c0 :: scanCarries F (some (match c0 with | some k => F k t | none => t)) ts) ∧
    -- a value of a scan written: its carry, where it has one, before it
    (∀ (carry : Option Nat) (v : Nat),
      let y := match carry with | some k => c.scanF k v | none => v
      c.scanPut leaf carry (pos, v) s =
        c.put leaf 0 pos pos (c.out 0 pos (partialFv (isFloat (c.fmt 1)) (if fn = 3 then y / 2 ^ 32 else y))) s) ∧
    -- the first pass of a scan: a leaf tile with a whole line writes it; one with granules keeps their running values
    (let y := c.runAll (fun leaf => c.lines leaf.part) (fun leaf start s =>
       andThen (if leaf.part.glo = 0 then c.scanCarryIn leaf start s else (s, .ok none)) (fun c0 s =>
         andThen (each (fun i s => c.scanLoc leaf start (leaf.part.glo + i) s)
             (List.range (leaf.part.ghi - leaf.part.glo)) s) (fun locs s =>
           let last (l : List (Nat × Nat)) : Nat := match l.getLast? with | some p => p.2 | none => 0
           if c.wholeLeaf leaf then
             andThen (each (fun (q : List (Nat × Nat) × Option Nat) s => each (c.scanPut leaf q.2) q.1 s)
               (locs.zip (scanCarries c.scanF c0 (locs.map last))) s) (fun _ s => (s, .ok ([], [])))
           else (s, .ok (locs.zipIdx.map (fun q => (c.lineNo start, leaf.part.glo + q.2, last q.1)) ++
             (match c0 with | some v => [(c.lineNo start, G, v)] | none => []), locs.flatten))))) r
     c.scanPass r = (y.1, (y.2.map (fun p => p.1)).flatten, (y.2.map (fun p => p.2)).flatten))

/-- R202, R203, R205, R206, R210 to R214, R220, R221, R223, R234, R235, R455 to R467: a word over records, in its turns,
does its element items leaf by leaf in the order of positions and ends executed, with the last of its leaf tiles, with the
least fault by path: each item reads the operands at its position and writes what the word's rule gives, rounded once into
O's format, in HBM, in the scratchpads and in the tile registers; a reduction and a scan combine their granules' values and
then write. A leaf tile runs once its core's unit has the word, or its child word, in progress and the tile registers are
free for it; a child word enters its executor's queue, and starts there, as R202 and R205 say. The model's own choices:
that child words have entries and places of their own at the executors below (log 98), that staging through t32 to t39 is a
write access of its tile (log 99), that T.OPT waits for its O as for a source (log 84), and that one turn runs the leaf
tiles that may run (log 84). -/
def Obligations.TileRecordWordResults : Prop :=
  Claim.TileTurns ∧ Claim.ChildWords ∧ Claim.TileItems ∧ Claim.TilePasses

/-- R118, R120, R196: a collective word, and T.KERN. -/
def Claim.CollectiveWords : Prop :=
  ∀ (s : State) (j : TileJob) (w : TileWord),
    let p0 := w.p0.toNat
    let p1 := w.p1.toNat
    -- every word on the name that started earlier has been issued
    let first : Prop := ∀ k ∈ s.tiles.jobs, 0x10 ≤ k.op → k.op ≤ 0x13 → k.started = true → k.executed = false →
      k.tw.p0.toNat % 2 ^ 16 = p0 % 2 ^ 16 → k.begun < j.begun → s.perg.colls.any (fun c => c.word == k.id) = true
    let coll (i : Instr) (kind : Nat) : Prop :=
      (j.executed = true ∨ s.perg.colls.any (fun c => c.word == j.id) = true ∨ ¬ first → exec i s = .next s) ∧
      (j.executed = false → s.perg.colls.any (fun c => c.word == j.id) = false → first → Answers i s (fun t =>
        ∃ c, t.perg.colls = s.perg.colls ++ [c] ∧ c.word = j.id ∧ c.kind = kind ∧ c.name = p0 % 2 ^ 16 ∧
          c.op = w.mode.toNat % 8 ∧ c.count = p1 ∧ c.root = p0 / 2 ^ 16 % 2 ^ 6 ∧ c.issued = false ∧ c.tag = j.tag ∧
          c.bar = w.bar ∧ c.hist = w.mode.getLsbD 5 ∧ t.tiles = s.tiles ∧ t.mem = s.mem ∧ t.cores = s.cores))
    s.job? s.focus.tile = some j → j.tw = w →
    exec (.tKern w) s = .next s ∧
    coll (.tAr w) 0 ∧ coll (.tRs w) 1 ∧ coll (.tAg w) 2 ∧ coll (.tBc w) 3

/-- R469: T.SIG. -/
def Claim.SignalWord : Prop :=
  ∀ (s : State) (j : TileJob) (w : TileWord),
    let va := w.bar.toNat
    let p0 := w.p0.toNat
    let p1 := w.p1.toNat
    let window := inWindow va = true ∧ w.level ≤ 1
    let spad (t : State) : CoreSt := t.core j.core
    let done (t : State) (e : Option MemErr) : Prop := ∃ x y, s.job? j.id = some x ∧ t.job? j.id = some y ∧
      y.executed = true ∧ y.word = x.word ∧
      (e = none → y.fault = x.fault ∧ y.count = x.count) ∧
      ∀ err, e = some err → y.count = min 65535 (x.count + 1) ∧ (x.fault = none → ∃ f, y.fault = some f ∧
        f.cause = err.cause ∧ f.sub = err.sub ∧ f.addr = w.bar ∧ f.level = (if x.member then 4 else w.level))
    s.job? s.focus.tile = some j → j.tw = w →
    (j.executed = true → exec (.tSig w) s = .next s) ∧
    (∀ b e, j.executed = false → barFault j 8 true s = (b, some e) → Answers (.tSig w) s (fun t =>
      done t (some e) ∧ t.mem = b.mem ∧ t.cores = b.cores)) ∧
    (∀ b, j.executed = false → barFault j 8 true s = (b, none) →
      let r := releaseUnit j.unit b
      (r.2 = false → exec (.tSig w) s = .next r.1) ∧
      (r.2 = true → window → va + 8 ≤ 2 ^ 64 → w.mode.getLsbD 5 = false → Answers (.tSig w) s (fun t => done t none ∧
        spad t = (spad r.1).spadWrite (va % 2 ^ 21) (toBytes 8 (p1 * 2 ^ 32 + p0)) ∧ t.mem = r.1.mem)) ∧
      (∀ t, r.2 = true → sigWrite j r.1 = (t, .ok ()) → t.tiles = s.tiles → Answers (.tSig w) s (fun u =>
        done u none ∧ u.mem = t.mem ∧ u.cores = t.cores ∧ u.host = t.host)) ∧
      (∀ t e, r.2 = true → sigWrite j r.1 = (t, .error e) → t.tiles = s.tiles → Answers (.tSig w) s (fun u =>
        done u (some e) ∧ u.mem = t.mem ∧ u.cores = t.cores ∧ u.host = t.host)) ∧
      (∀ t x l, 2 ≤ w.level → agentXlat j.agent true va r.1 = (t, .ok x) → x.phys = .hbm l → l.ver.isSome = true →
        sigWrite j r.1 = (t, .error .owner)))

/-- R470: T.WAITEV. -/
def Claim.WaitWord : Prop :=
  ∀ (s : State) (j : TileJob) (w : TileWord),
    let va := w.bar.toNat
    let p0 := w.p0.toNat
    let window := inWindow va = true ∧ w.level ≤ 1
    let spad (t : State) : CoreSt := t.core j.core
    let done (t : State) (e : Option MemErr) : Prop := ∃ x y, s.job? j.id = some x ∧ t.job? j.id = some y ∧
      y.executed = true ∧ y.word = x.word ∧
      (e = none → y.fault = x.fault ∧ y.count = x.count) ∧
      ∀ err, e = some err → y.count = min 65535 (x.count + 1) ∧ (x.fault = none → ∃ f, y.fault = some f ∧
        f.cause = err.cause ∧ f.sub = err.sub ∧ f.addr = w.bar ∧ f.level = (if x.member then 4 else w.level))
    let v := fromBytes ((spad s).spadBytes (va % 2 ^ 21) 8)
    let acquired : State := (unitCoreList j.unit).foldl (fun s k => acquire k 4 s) s
    let holds (v : Nat) : Prop := v / 2 ^ 63 % 2 = 1 ∨ (v % 2 ^ 32 + 2 ^ 32 - p0) % 2 ^ 32 < 2 ^ 31
    s.job? s.focus.tile = some j → j.tw = w →
    (j.op = 0x1A → j.started = true → j.executed = false →
      (∀ b e, barFault j 8 false s = (b, some e) → Answers (.tWaitev w) s (fun t =>
        done t (some e) ∧ t.mem = b.mem ∧ t.cores = b.cores)) ∧
      (∀ b, barFault j 8 false s = (b, none) → window → va + 8 ≤ 2 ^ 64 → (spad s).spadBad (va % 2 ^ 21) 8 = none →
        (holds v → Answers (.tWaitev w) s (fun t => done t none ∧ t.cores = acquired.cores)) ∧
        (¬ holds v → exec (.tWaitev w) s = .next s)) ∧
      (∀ b t bs, barFault j 8 false s = (b, none) → eventRead j b = (t, .ok bs) → t.tiles = s.tiles →
        (holds (fromBytes bs) → Answers (.tWaitev w) s (fun u => done u none)) ∧
        (¬ holds (fromBytes bs) → exec (.tWaitev w) s = .next t)) ∧
      (∀ b t e, barFault j 8 false s = (b, none) → eventRead j b = (t, .error e) → t.tiles = s.tiles →
        Answers (.tWaitev w) s (fun u => done u (some e))))

/-- R118, R120, R196, R197, R268, R468 to R470: T.SIG, once its unit's cores have released at sys (every core of the unit,
since its earlier words ran on them: the model's own choice, log 70), writes its event word
and is executed, and waits before, and at a versioned page an executor of levels 2 to 5 gets OWNER (R80, the model's choice,
log 89); T.WAITEV is executed with an acquire once the word it reads satisfies its condition
(bit 63, or not behind PARAM0), and waits before; each ends with its own fault where BAR faults; a collective word gives
its collective to the Pergola once, in the order in which the words on its name started; T.KERN has no turn of its own: what
it does at its acceptance, at its placement and at its end is stated with the packets' events (`PacketEventResults`) and the
words' (`TileLifeResults`). -/
def Obligations.TileServiceWordResults : Prop :=
  Claim.CollectiveWords ∧ Claim.SignalWord ∧ Claim.WaitWord

/-! ### Events: stacks -/

/-- R73 to R78, R91, R92, R117, R258, R323: a pseudo-channel takes the requests that arrive and performs the one R76
picks among those whose links carry traffic, at its cell, with its result; refreshes fall due, are postponed and performed; self-refresh is entered after the
idle time and left for a request; a corrected error is counted alone, an uncorrectable one acts where it is found; a
line is written back; a sweep checks every metadata word of its stack and normalises those of settled tags, and every
NBT entry. The model's own choices: a metadata error keeps ACC (log 29); a sweep checks a word with TAG 0 too, where R92
leaves such words as they are (log 58); the idle time runs from the last arrival or service too (log 59); no older copy of a failing
granule of a dirty line is left in the L2 (log 60). -/
def Obligations.StackEventResults : Prop :=
  (∀ (m : MemSt) (now slack : Nat) (hit : Nat → Bool) (low : Bool) (l : List PcWaiting) (w : PcWaiting),
    pickRequest m now slack hit low l = some w →
    let late (v : PcWaiting) : Prop := v.first m l = true ∧ ∃ t, v.td = some t ∧ t ≤ now + slack
    w ∈ l ∧ (∀ v ∈ l, pcBlock m v.req = pcBlock m w.req → w.arr ≤ v.arr) ∧
    ((∃ v ∈ l, late v) → late w) ∧
    ((∀ v ∈ l, ¬ late v) → low = false → (∃ v ∈ l, v.isSweep = false) → w.isSweep = false ∧
      (hit w.req.id = false → ∀ v ∈ l, v.first m l = true → v.isSweep = false →
        hit v.req.id = false ∧ w.arr ≤ v.arr))) ∧
  (∀ t, pcClass (.pergola t) = .deadline (t + 2000) ∧ pcClass (.frame t) = .deadline (t + 50000) ∧
    pcClass .normaliser = .sweep ∧ pcClass .other = .normal) ∧
  (∀ s : State,
    let x := s.input
    let a := arrivePc x.pc x.arr s
    let q := a.pcSt x.pc
    let here (r : PcReq) : Bool := (s.mem.cell r.off).1 * 64 + (s.mem.cell r.off).2.1 == x.pc
    let die (t : State) (d : Nat) : StackSt := sget {} t.mem.bdies d
    let rest (t : State) : Prop := t.cores = s.cores ∧ t.host = s.host ∧ t.fab = s.fab ∧ t.sched = s.sched
    let cells (t : State) : Prop := t.mem.hbm = s.mem.hbm ∧ t.mem.poison = s.mem.poison
    let picked (b : State) := pickRequest b.mem b.now (die b (x.pc / 64)).slack (fun i => x.nats.contains i) x.flag
      ((b.pcSt x.pc).queue.filter (reaches b x.pc))
    -- from `b`, with the arrivals in its queue, the event `e` serves a request of unversioned memory
    let serves (e : Instr) (b : State) : Prop :=
      (picked b = none → exec e s = .next b) ∧
      ∀ w, picked b = some w → w.req.ver = none → w.req.num = 0 ∨ 512 ≤ w.req.core →
        let p := b.pcSt x.pc
        let o := w.req.off
        let with' (m : MemSt) (r : PcResult) : Prop := Answers e s (fun t =>
          t.mem.hbm = m.hbm ∧ t.mem.poison = m.poison ∧ rest t ∧
          (t.pcSt x.pc).queue = p.queue.filter (fun v => v.arr != w.arr) ∧ (t.pcSt x.pc).idleFrom = s.now ∧
          (t.pcSt x.pc).results = p.results ++ [(w.req.id, r)] ∧ (t.pcSt x.pc).selfRef = p.selfRef ∧
          (die t (x.pc / 64)).dlmiss = (match pcClass w.req.src with
            | .deadline d => if d < s.now ∧ (die s (x.pc / 64)).dlmiss < 2 ^ 24 - 1 then (die s (x.pc / 64)).dlmiss + 1
              else (die s (x.pc / 64)).dlmiss
            | _ => (die s (x.pc / 64)).dlmiss))
        (∀ n, w.req.act = .read n → s.mem.poisoned o n = false → with' s.mem (.data (s.mem.bytes o n))) ∧
        (∀ n, w.req.act = .read n → s.mem.poisoned o n = true → with' s.mem .poison) ∧
        (∀ bs, w.req.act = .write bs → with' (s.mem.write o bs) .done) ∧
        (∀ op v u, w.req.act = .atomic op v u → s.mem.poisoned o (amoSize op) = false →
          let old := fromBytes (s.mem.bytes o (amoSize op))
          with' (s.mem.write o (toBytes (amoSize op) (amoNew op old v.toNat u.toNat))) (.data (toBytes (amoSize op) old))) ∧
        (w.req.act = .arrive → s.mem.poisoned o 12 = false →
          let old := fromBytes (s.mem.bytes o 12)
          with' (s.mem.write o (toBytes 12 (arriveWord old))) (.data (toBytes 4 (old / 2 ^ 64 % 2 ^ 32))))
    let p := s.pcSt x.pc
    let pc' (e : Instr) (f : PcSt) : Prop := Answers e s (fun t => t.pcSt x.pc = f ∧
      (∀ k, k ≠ x.pc → t.pcSt k = s.pcSt k) ∧ cells t ∧ rest t)
    let idle := (die s (x.pc / 64)).srcEn = true ∧
      q.idleFrom + 1000 * max 1 (die s (x.pc / 64)).srcIdle ≤ s.now
    q.queue.map PcWaiting.req = p.queue.map PcWaiting.req ++ x.arr.filter here ∧
    (q.selfRef = true → exec .pcSelect s = .next a) ∧
    (q.selfRef = false → serves .pcSelect a) ∧
    (q.queue ≠ [] → serves .selfRefreshEntry a) ∧
    (q.queue = [] → idle → pc' .selfRefreshEntry { q with selfRef := true }) ∧
    (q.queue = [] → ¬ idle → exec .selfRefreshEntry s = .next a) ∧
    (q.selfRef = true → q.queue ≠ [] → serves .selfRefreshExit (a.modPc x.pc (fun p => { p with selfRef := false }))) ∧
    (q.selfRef = false ∨ q.queue = [] → exec .selfRefreshExit s = .next a) ∧
    (p.selfRef = true → exec .refreshDue s = .next s) ∧
    (p.selfRef = false →
      let wait := x.flag = true ∧ p.deadline = true ∧ p.postponed < min 8 (die s (x.pc / 64)).rfpost
      (wait → pc' .refreshDue { p with due := p.due + 1, postponed := p.postponed + 1 }) ∧
      (¬ wait → pc' .refreshDue
        { p with due := p.due + 1, refreshes := p.refreshes + p.postponed + 1, postponed := 0 })) ∧
    (let up (n : Nat) : Nat := if n < 2 ^ 32 - 1 then n + 1 else n
     let err (P : State → Prop) : Prop := Answers .eccError s (fun t => t.dbg = { s.dbg with ue := up s.dbg.ue } ∧ P t)
     (x.flag = true → Answers .eccError s (fun t => t = { s with dbg := { s.dbg with ce := up s.dbg.ce } })) ∧
     (∀ off, x.flag = false → x.site = .hbm off → err (fun t => t.cores = s.cores ∧
       (versionedCell (versionedPages s) off = none → t.mem = s.mem.setPoison off true) ∧
       ∀ a slot, versionedCell (versionedPages s) off = some (a, slot) →
         let md := s.mem.metaAt a
         (slot = committedSlot s.mem (s.mem.stackOf a) md → t.mem.metaAt a = { md with poison := true }) ∧
         (slot ≠ committedSlot s.mem (s.mem.stackOf a) md → md.tag ≠ 0 →
           s.mem.status (s.mem.stackOf a) md.tag = .active →
           t.mem.poisoned off 1 = true ∧ (sget 0 t.arb.hwFlags md.tag).getLsbD 8 = true))) ∧
     (∀ c off, x.flag = false → x.site = .scratchpad c off → err (fun t => t.mem = s.mem ∧
       sget false (t.core c).spadPois (off / 8) = true ∧ (t.core c).spad = (s.core c).spad)) ∧
     (∀ c off, x.flag = false → x.site = .vector c off → err (fun t => t.mem = s.mem ∧
       sget false (t.core c).vecPois (off / 8) = true ∧ (t.core c).vec = (s.core c).vec)) ∧
     (∀ c off, x.flag = false → x.site = .tile c off → err (fun t => t.mem = s.mem ∧
       sget false (t.core c).tilePois (off / 8) = true ∧ (t.core c).full = (s.core c).full)) ∧
     (∀ c k i e, x.flag = false → x.site = .queue c k i → ((s.core c).queue k)[i]? = some e → err (fun t =>
       t.mem = s.mem ∧ ((t.core c).queue k)[i]? = some { e with poison := true })) ∧
     (∀ pa c, x.flag = false → x.site = .cleanLine pa → x.cache = .l1 c → err (fun t => t.mem = s.mem ∧
       (t.core c).l1 = (s.core c).l1.filter (fun p => !(p.1 == pa / 128 && p.2.dirty == 0)))) ∧
     (∀ pa gs, x.flag = false → x.site = .dirtyLine pa gs → pa < 2 ^ 39 → s.quiet → err (fun t =>
       (∀ c, x.cache = .l1 c → (∀ e ∈ (t.core c).l1, e.1 ≠ pa / 128) ∧
         ∀ g ∈ gs, g < 4 → ∀ i, i < 32 → belowL1 t c (pa / 128 * 128 + 32 * g + i) = none) ∧
       ∀ g ∈ gs, g < 4 → t.mem.poisoned (pa / 128 * 128 + 32 * g) 1 = true)) ∧
     (∀ off, x.flag = false → x.site = .committedSlot off → (versionedAt s off).isSome = true → err (fun t =>
       t.mem.metaAt off = { s.mem.metaAt off with poison := true } ∧ t.cores = s.cores)) ∧
     (∀ off b n, x.flag = false → x.site = .tentativeSlot off → versionedAt s off = some (b, n) →
       let md := s.mem.metaAt off
       md.tag ≠ 0 → s.mem.status (s.mem.stackOf off) md.tag = .active → err (fun t =>
         t.mem.poisoned (slotOff off n md.cur) 1 = true ∧ (sget 0 t.arb.hwFlags md.tag).getLsbD 8 = true)) ∧
     (∀ off, x.flag = false → x.site = .metadata off → err (fun t =>
       t.mem.metaAt off = ⟨0, 0, 0, (s.mem.metaAt off).acc, true, 0⟩ ∧
       ∀ g, 1 ≤ g → g < 64 → sget .free s.mem.master g = .active → (sget 0 t.arb.hwFlags g).getLsbD 8 = true))) ∧
    (let l := lineAt s x.cache x.n
     (l = Line.empty → exec .lineWriteBack s = .next s) ∧
     (∀ c, x.cache = .l1 c → l ≠ Line.empty → Answers .lineWriteBack s (fun t => (l2Of s c).length < 32768 →
       let l1 (t : State) (k : Nat) : Line := sget Line.empty (t.core c).l1 k
       (∀ k, k ≠ x.n → l1 t k = l1 s k) ∧ (x.flag = true → ∀ e ∈ (t.core c).l1, e.1 = x.n → e.2.dirty ≠ 0) ∧
       (x.flag = false → l1 t x.n = { l with dirty := 0, scope := 4 }) ∧ cells t ∧
       ∀ i, i < 128 → l.dirty.getLsbD i = true → belowL1 t c (128 * x.n + i) = some (l.byte i))) ∧
     (∀ q, x.cache = .l2 q → l ≠ Line.empty → 128 * x.n < 2 ^ 39 → s.quiet → Answers .lineWriteBack s (fun t =>
       t.cores = s.cores ∧ (∀ i, i < 128 → l.dirty.getLsbD i = true → t.mem.byte (128 * x.n + i) = l.byte i) ∧
       ∀ a, a < 2 ^ 39 → (a / 128 = x.n → l.dirty.getLsbD (a % 128) = false) → t.mem.byte a = s.mem.byte a))) ∧
    (let b := die s x.stack
     (b.busy = true ∨ anySettled s = false → exec .normaliserSweepStart s = .next s) ∧
     (b.busy = false → anySettled s = true → Answers .normaliserSweepStart s (fun t => cells t ∧ rest t ∧
       die t x.stack = { b with busy := true, started := (b.started + 1) % 2 ^ 32 } ∧
       ∀ d, d ≠ x.stack → die t d = die s d)) ∧
     (b.busy = false → exec .normaliserSweepComplete s = .next s) ∧
     (b.busy = true → x.stack < 8 → s.quiet → Answers .normaliserSweepComplete s (fun t =>
       t.cores = s.cores ∧ t.mem.poison = s.mem.poison ∧
       t.perg.nbt = s.perg.nbt.map (fun e => e.normal (s.mem.status x.stack)) ∧
       (∀ key, let word (m : MemSt) : Nat := fromBytes (sread memDefault m.hbm key 4)
         let md := metaOf (word s.mem)
         key % 4 = 0 → key / 2 ^ 36 = x.stack → key / 2 ^ 24 % 64 = 63 →
         word t.mem = (
           if md.rsv ≠ 0 then (⟨0, 0, 0, md.acc, true, 0⟩ : Meta).word
           else if md.tag = 0 then word s.mem
           else match s.mem.status x.stack md.tag with
             | .aborted => { md with cur := 1 - md.cur, tag := 0 }.word
             | .committed => { md with tag := 0 }.word
             | _ => word s.mem) ∧
         (md.rsv ≠ 0 → ∀ g, 1 ≤ g → g < 64 → sget .free s.mem.master g = .active →
           (sget 0 t.arb.hwFlags g).getLsbD 8 = true)) ∧
       (∀ key, key / 2 ^ 36 ≠ x.stack ∨ key / 2 ^ 24 % 64 ≠ 63 →
         sget memDefault t.mem.hbm key = sget memDefault s.mem.hbm key)))))

/-- R95: a maintenance command that waits gives RANGE where a block lies outside the versioned pages; SETACC, CLRACC and
CLRPOISON give BUSY where a block has an ACTIVE tag, after the check of R91 on each; else INIT writes each whole word, and
the others normalise each block and then change ACC or POISON; an OP from 5 on gives ILLEGAL; a command that has run
completes, and OP 0 gives OK. No other request waits at the stacks. The model's own choices: a word that fails the check
keeps ACC (log 29); where BUSY is answered, the words that the check of R91 rewrote stay rewritten, though R95 has BUSY
change nothing, and COUNT 0 with an OP from 5 on, and OP 0 over any blocks, end as said (log 110). -/
def Obligations.MaintenanceResults : Prop :=
  ∀ s : State, s.quiet →
    let v := s.mem.vm
    let pages := versionedPages s
    let at' (i : Nat) : Nat := v.addr / 256 * 256 + 256 * i
    let inside := ∀ i, i < v.count → at' i < 2 ^ 39 ∧ ∃ p ∈ pages, p.1 ≤ at' i ∧ at' i < p.1 + p.2
    let md (i : Nat) : Meta := s.mem.metaAt (at' i)
    let checked (i : Nat) : Meta := if (md i).rsv ≠ 0 then ⟨0, 0, 0, (md i).acc, true, 0⟩ else md i
    let active (i : Nat) : Prop := (checked i).tag ≠ 0 ∧
      s.mem.status (s.mem.stackOf (at' i)) (checked i).tag = .active
    let waits (op : Nat) : Prop := v.go = true ∧ v.ran = false ∧ v.op = op
    let ends (e : Instr) (n : Nat) (f : Nat → Meta) : Prop := Answers e s (fun t =>
      t.mem.vm = { v with ran := true, result := n } ∧ (∀ i, i < v.count → t.mem.metaAt (at' i) = f i) ∧
      t.mem.poison = s.mem.poison ∧ t.cores = s.cores ∧ t.host = s.host ∧
      ∀ a, a < 2 ^ 39 → (∀ i, i < v.count → a / 256 ≠ at' i / 256) → t.mem.metaAt a = s.mem.metaAt a)
    let word (e : Instr) (op : Nat) (f : Meta → Meta) : Prop :=
      (¬ waits op → exec e s = .next s) ∧ (waits op → ¬ inside → ends e 3 md) ∧
      (waits op → inside → (∃ i, i < v.count ∧ active i) → ends e 1 checked) ∧
      (waits op → inside → (∀ i, i < v.count → ¬ active i) →
        ends e 0 (fun i => f (normalise s.mem (s.mem.stackOf (at' i)) (checked i))))
    let done := v.ran = true ∨ v.op = 0
    (¬ waits 1 → exec .init s = .next s) ∧ (waits 1 → ¬ inside → ends .init 3 md) ∧
    (waits 1 → inside → ends .init 0 (fun _ => ⟨0, 0, 0, v.acc, false, 0⟩)) ∧
    word .setacc 2 (fun m => { m with acc := true }) ∧ word .clracc 3 (fun m => { m with acc := false }) ∧
    word .clrpoison 4 (fun m => { m with poison := false }) ∧
    (v.go = true → v.ran = false → 5 ≤ v.op → ends .vmcmdIllegal 2 md) ∧
    (v.go = false ∨ v.ran = true ∨ v.op < 5 → exec .vmcmdIllegal s = .next s) ∧
    (v.go = true → done → Answers .vmcmdComplete s (fun t =>
      t.mem.vm = { v with go := false, ran := false, result := if v.op = 0 then 0 else v.result } ∧
      t.mem.hbm = s.mem.hbm ∧ t.cores = s.cores)) ∧
    (v.go = false ∨ ¬ done → exec .vmcmdComplete s = .next s)

/-! ### Events: launch transactions and the Arbour -/

/-- R84, R85, R94: the status table. -/
def Claim.StatusWrites : Prop :=
  ∀ (s : State) (w : StatusWrite) (a : Attempt) (d : Nat),
    let x := s.input
    let t := x.tag
    let master (u : State) (t : Nat) : TagState := sget .free u.mem.master t
    let cells (u : State) : Prop := u.mem.hbm = s.mem.hbm ∧ u.mem.poison = s.mem.poison ∧ u.host = s.host
    let final := w.state = .committed ∨ w.state = .aborted
    let old := s.mem.mirror x.stack t
    let others := s.mem.writes.filter (fun y => y.tag != t)
    (s.mem.writes.find? (fun y => y.tag == t && y.left.contains x.stack) = none → exec .statusWriteApply s = .next s) ∧
    (s.mem.writes.find? (fun y => y.tag == t && y.left.contains x.stack) = some w →
      Answers .statusWriteApply s (fun u =>
        u.mem.mirror x.stack t = ⟨w.state, if final then (sget {} s.mem.bdies x.stack).started else old.epoch⟩ ∧
        (∀ k g, k ≠ x.stack ∨ g ≠ t → u.mem.mirror k g = s.mem.mirror k g) ∧ u.mem.master = s.mem.master ∧
        u.mem.writes = s.mem.writes.map (fun y =>
          if y.tag = t then { y with left := y.left.filter (fun i => i != x.stack) } else y) ∧
        (final → ∀ c, (u.core c).l1 = (s.core c).l1.filter (fun p => !p.2.ver)) ∧ (¬ final → u.cores = s.cores) ∧
        cells u)) ∧
    let held := ∀ p ∈ s.mem.given, beginWaits s p.1 = true
    (∀ v rest g more, held → waitingUsers s = v :: rest → freeTags s = g :: more →
      Answers .tagAllocation s (fun u => master u g = .active ∧ (∀ k, k ≠ g → master u k = master s k) ∧
        u.mem.writes = s.mem.writes ++ [⟨g, .active, List.range 8, v⟩] ∧ u.mem.waiting = rest ∧
        sget 0 u.arb.hwFlags g = 0 ∧ u.cores = s.cores ∧ cells u)) ∧
    (held → waitingUsers s = [] ∨ freeTags s = [] → exec .tagAllocation s = .next s) ∧
    (∀ c g, (c, g) ∈ s.mem.given → beginWaits s c = false → master s g = .active →
      Answers .tagAllocation s (fun u => master u g = .aborted ∧ (∀ p ∈ u.mem.given, beginWaits s p.1 = true) ∧
        u.cores = s.cores ∧ cells u)) ∧
    (s.mem.writes.find? (fun y => y.tag == t && y.left.isEmpty) = none → exec .statusWriteComplete s = .next s) ∧
    (s.mem.writes.find? (fun y => y.tag == t && y.left.isEmpty) = some w → mayHand s w = false →
      exec .statusWriteComplete s = .next s) ∧
    (s.mem.writes.find? (fun y => y.tag == t && y.left.isEmpty) = some w → mayHand s w = true →
      (w.user = .attempt d → w.state = .active → s.attempt? d = some a → a.state = .opening →
        Answers .statusWriteComplete s (fun u => (∃ b, u.attempt? d = some b ∧ b.state = .running ∧ b.tag = t ∧
          b.att = a.att ∧ b.td = a.td) ∧ u.mem.writes = others ∧ u.mem.master = s.mem.master ∧
          ∀ p, launchPackets s a = [p] → p.dtid = some d → p.share = false → pkType p.head.words = 1 →
            pkKern p.head.words = false → s.packet? p.id = some p → ∃ j, u.tiles.jobs = s.tiles.jobs ++ [j] ∧
              j.word = BitVec.ofNat 256 (pkTile p.head.words) ∧ j.tag = t ∧ j.packet = some p.id ∧ j.accepted = false)) ∧
      (w.user = .attempt d → w.state = .active → master s t = .active →
        (s.attempt? d = none ∨ (s.attempt? d = some a ∧ a.state ≠ .opening)) →
        Answers .statusWriteComplete s (fun u => master u t = .aborted ∧
          u.mem.writes = others ++ [⟨t, .aborted, List.range 8, .nobody⟩] ∧ u.arb = s.arb ∧ u.cores = s.cores)) ∧
      (w.user = .attempt d → w.state ≠ .active → s.attempt? d = some a → Answers .statusWriteComplete s (fun u =>
        u.attempt? d = some { a with settled := true } ∧ u.mem.writes = others ∧ u.cores = s.cores)) ∧
      (∀ c, w.user = .core c → w.state = .active → beginWaits s c = true → exec .statusWriteComplete s =
        .next (s.withMem { s.mem with writes := others, given := s.mem.given ++ [(c, t)] })) ∧
      (∀ c, w.user = .core c → w.state = .active → beginWaits s c = false → master s t = .active →
        Answers .statusWriteComplete s (fun u => master u t = .aborted ∧
          u.mem.writes = others ++ [⟨t, .aborted, List.range 8, .nobody⟩] ∧ u.arb = s.arb ∧ u.cores = s.cores)) ∧
      ((∀ d, w.user ≠ .attempt d) → w.user = .nobody ∨ w.state ≠ .active →
        exec .statusWriteComplete s = .next (s.withMem { s.mem with writes := others })))

/-- R130 to R133, R138 to R141: an attempt votes, passes its deadline, settles. -/
def Claim.AttemptEvents : Prop :=
  ∀ (s : State) (a : Attempt),
    let x := s.input
    let master (u : State) (t : Nat) : TagState := sget .free u.mem.master t
    (s.attempt? x.dtid = some a →
      let over' := (a.state = .running ∨ a.state = .stopping) ∧ attemptDone s a = true
      let fl := voteFlags s a
      let veto := fl &&& 0x1FFF ≠ 0
      let late := a.state = .running ∧ a.td ≤ s.now
      (¬ over' → exec .attemptVote s = .next s) ∧
      (over' → arbourLaunch s a = true → Answers .attemptVote s (fun u =>
        u.attempt? x.dtid = some { a with state := .voted } ∧ u.mem = s.mem ∧ u.cores = s.cores ∧
        Sends s u (.vote s.arb.vdev s.arb.vnode
          ⟨BitVec.ofNat 64 (4 * s.self + 2 ^ 16 * a.dtid + 2 ^ 32 * a.att + 2 ^ 48 * fl.toNat), 1,
            BitVec.ofNat 64 a.td⟩))) ∧
      (over' → arbourLaunch s a = false → a.tag ≠ 0 → master s a.tag = .active →
        let closes (st : TagState) (u : State) : Prop := master u a.tag = st ∧ u.cores = s.cores ∧
          u.mem.writes = s.mem.writes ++ [⟨a.tag, st, List.range 8, .attempt a.dtid⟩] ∧
          (∀ p ∈ u.arb.heldSp, p.1 ≠ a.tag) ∧ ∃ b, u.attempt? x.dtid = some b ∧ b.state = .settling ∧ b.settled = false
        (veto → Answers .attemptVote s (fun u => closes .aborted u ∧ u.host = s.host)) ∧
        (¬ veto → Answers .attemptVote s (fun u => closes .committed u))) ∧
      (¬ late → exec .attemptDeadline s = .next s) ∧
      (late → Answers .attemptDeadline s (fun u => (∃ b, u.attempt? x.dtid = some b ∧ b.state = .stopping ∧
        b.hw = a.hw ||| 0x0800) ∧ u.mem = s.mem ∧ ∀ p g y, s.packet? a.packet = some p → g ∈ p.groups →
          s.group? g = some y → y.state = .running → (∃ z, u.group? g = some z ∧ z.state = .draining ∧ z.stopped = true) ∧
            ∀ c ∈ y.cores, (u.core c).a.run ≠ .running ∧ (u.core c).x.run ≠ .running ∧ (u.core c).m.run = false)) ∧
      (∀ p dec, s.packet? a.packet = some p → a.dec = some dec → a.state = .settling → a.settled = true →
        drained s p = true →
        let ends (e : Bool) : Prop := Answers .attemptSettled s (fun u => u.attempt? x.dtid = none ∧
          (∃ y, u.packet? p.id = some y ∧ y.done = true ∧ y.settled = true ∧ y.e = e) ∧ u.mem = s.mem ∧
          u.cores = s.cores)
        let mismatch := dec.flags.getLsbD 12 = true
        let preempt := dec.flags.getLsbD 10 = true
        (dec.abort = false → ends false) ∧
        (dec.abort = true → mismatch → ends true) ∧
        (dec.abort = true → ¬ mismatch → preempt → (a.kill = true ∨ 15 ≤ a.att) → ends true) ∧
        (dec.abort = true → ¬ mismatch → preempt → a.kill = false → a.att < 15 → launchPackets s a = [p] →
          p.share = false → Answers .attemptSettled s (fun u => u.attempt? x.dtid = none ∧
            (u.chain p.chain).hds = { p.head with att := a.att + 1, dtid := some a.dtid, pflags := dec.flags } ::
              (s.chain p.chain).hds ∧ (u.slot p.slot).packet = none ∧ u.mem = s.mem)) ∧
        (dec.abort = true → ¬ mismatch → ¬ preempt → a.att + 1 ≤ pkRetry p.head.words →
          Answers .attemptSettled s (fun u => (∃ b, u.attempt? x.dtid = some b ∧ b.state = .opening ∧ b.att = a.att + 1 ∧
            b.tag = 0 ∧ b.hw = 0 ∧ b.pflags = dec.flags ∧ b.td = dec.time + 1000 * pkTxLimit p.head.words) ∧
            (∃ y, u.packet? p.id = some y ∧ y.groups = [] ∧ y.e = false ∧ y.faults = []) ∧
            u.mem.waiting = s.mem.waiting ++ [.attempt a.dtid] ∧ u.mem.hbm = s.mem.hbm)) ∧
        (dec.abort = true → ¬ mismatch → ¬ preempt → pkRetry p.head.words < a.att + 1 → ends true)))

/-- R134 to R137: the Arbour. -/
def Claim.ArbourEvents : Prop :=
  ∀ s : State,
    let x := s.input
    let m := x.msg
    let w := m.w0.toNat
    let d := w / 2 ^ 16 % 2 ^ 16
    let att := w / 2 ^ 32 % 2 ^ 4
    let n := x.node
    let nd := s.node n
    let ok (type : Nat) : Prop := w % 4 = type ∧ w / 2 ^ 10 % 2 ^ 6 = 0 ∧ w / 2 ^ 38 % 2 ^ 10 = 0 ∧ m.w1.toNat < 2 ^ 14
    let up (k : Nat) : Nat := if k < 65535 then k + 1 else k
    let stale (e : Instr) : Prop := exec e s = .next { s with arb := { s.arb with stale := up s.arb.stale } }
    let mine (e : NodeEntry) : Bool := e.dtid == d && e.att == att
    let e0 := (nd.entries.find? mine).getD ⟨d, att, m.w2.toNat, 0, 0, 0, 0, false⟩
    let e := { e0 with flags := e0.flags ||| BitVec.ofNat 16 (w / 2 ^ 48), count := e0.count + m.w1.toNat % 2 ^ 7,
                       miss := e0.miss + m.w1.toNat / 2 ^ 7 % 2 ^ 7, n := e0.n + 1 }
    let veto := e.flags &&& 0x1FFF ≠ 0
    let src := w / 4 % 2 ^ 6
    let same (u : State) : Prop := u.mem = s.mem ∧ u.cores = s.cores ∧ u.sched = s.sched
    let on := nd.en = true ∧ 1 ≤ nd.expect ∧ nd.expect ≤ 8
    let tells (u : State) (out : ArbMsg) (i : Nat × Bool × Nat) : Prop :=
      Posted u (.decision i.1 (if i.2.1 then some i.2.2 else none) out)
    -- decided before the node knew the attempt's T_d
    let early := (d, att, 0) ∈ nd.passed
    (¬ ok 0 ∨ ¬ on ∨ (d, att, m.w2.toNat) ∈ nd.passed ∨ early → stale .arbourVote) ∧
    (ok 0 → on → (d, att, m.w2.toNat) ∉ nd.passed → ¬ early →
      (e.sent = true ∨ (¬ veto ∧ e.n ≠ nd.expect) → Answers .arbourVote s (fun u => same u ∧ u.fab = s.fab ∧
        (u.node n).entries = nd.entries.filter (fun y => !mine y) ++ [e] ∧
        (u.node n).inputs = nd.inputs ++ [(d, att, w.testBit 8, src, w.testBit 9)])) ∧
      (e.sent = false → veto ∨ e.n = nd.expect → nd.root = true → s.self < 64 → n < 2 →
        Answers .arbourVote s (fun u => same u ∧ (u.node n).entries.any mine = false ∧
          (d, att, e.td) ∈ (u.node n).passed ∧ u.arb.last.toNat % 2 ^ 16 = d ∧ u.arb.last.getLsbD 20 = decide veto ∧
          u.arb.last.toNat / 2 ^ 32 = e.flags.toNat ∧
          ∃ out, tells u out (src, w.testBit 8, (w.testBit 9).toNat) ∧ (∀ i ∈ nd.aimed, tells u out i) ∧
            out.w0.getLsbD 36 = decide veto ∧ out.w0.getLsbD 37 = decide (e.n < nd.expect) ∧
            out.w0.toNat / 2 ^ 48 = e.flags.toNat ∧ out.w2 = BitVec.ofNat 64 s.now)) ∧
      (e.sent = false → veto ∨ e.n = nd.expect → nd.root = false → Answers .arbourVote s (fun u => same u ∧
        Sends s u (.vote nd.pdev nd.pnode
          (voteMsg s.self 1 n d att (decide (veto ∧ e.n < nd.expect)) e.flags e.count e.miss e.td)) ∧
        ∃ y ∈ (u.node n).entries, mine y = true ∧ y.sent = true ∧ y.flags = e.flags))) ∧
    (∀ y, nd.entries.find? (fun e => e.dtid == x.dtid && e.att == x.att && !e.sent) = some y →
      (s.now < y.td + 2000 * (max 1 nd.height - 1) → exec .arbourNodeTimer s = .next s) ∧
      (y.td + 2000 * (max 1 nd.height - 1) ≤ s.now → nd.root = false → Answers .arbourNodeTimer s (fun u => same u ∧
        u.arb.timeouts = up s.arb.timeouts ∧ Sends s u (.vote nd.pdev nd.pnode
          (voteMsg s.self 1 n x.dtid x.att false (y.flags ||| 0x0800) y.count (y.miss + (nd.expect - y.n)) y.td)))) ∧
      (y.td + 2000 * (max 1 nd.height - 1) ≤ s.now → nd.root = true → s.self < 64 → n < 2 → x.dtid < 2 ^ 16 →
        x.att < 16 → Answers .arbourNodeTimer s (fun u => same u ∧ u.arb.timeouts = up s.arb.timeouts ∧
          (x.dtid, x.att, y.td) ∈ (u.node n).passed ∧ ∃ out, (∀ i ∈ nd.aimed, tells u out i) ∧
            out.w0.getLsbD 36 = true ∧ out.w0.getLsbD 37 = false ∧
            out.w0.toNat / 2 ^ 48 = (y.flags ||| 0x0800).toNat ∧ out.w2 = BitVec.ofNat 64 s.now))) ∧
    (nd.entries.find? (fun e => e.dtid == x.dtid && e.att == x.att && !e.sent) = none →
      exec .arbourNodeTimer s = .next s) ∧
    (¬ ok 1 → stale .arbourDecision) ∧
    (ok 1 → x.flag = true → early → stale .arbourDecision) ∧
    (ok 1 → x.flag = true → ¬ early → Answers .arbourDecision s (fun u => same u ∧
      (u.node n).entries.any mine = false ∧ (∀ y ∈ nd.entries, mine y = true → (d, att, y.td) ∈ (u.node n).passed) ∧
      (nd.entries.any mine = false → (d, att, 0) ∈ (u.node n).passed) ∧
      let out := decisionMsg s.self n d att (w.testBit 36) (w.testBit 37) (BitVec.ofNat 16 (w / 2 ^ 48))
        (m.w1.toNat % 2 ^ 7) (m.w1.toNat / 2 ^ 7 % 2 ^ 7) m.w2.toNat
      (∀ i ∈ nd.inputs, i.1 = d → i.2.1 = att → tells u out (i.2.2.2.1, i.2.2.1, i.2.2.2.2.toNat)) ∧
      ∀ i ∈ nd.aimed, tells u out i)) ∧
    (ok 1 → x.flag = false → (∀ a, s.attempt? d = some a → a.att ≠ att) → stale .arbourDecision) ∧
    (∀ a, ok 1 → x.flag = false → s.attempt? d = some a → a.att = att → a.state = .settling → a.tag ≠ 0 →
      Answers .arbourDecision s (fun u => u.cores = s.cores ∧ u.mem.master = s.mem.master ∧ u.mem.writes = s.mem.writes ∧
        ∀ i, i < 8 → (sget {} u.mem.bdies i).txbad = up (sget {} s.mem.bdies i).txbad)) ∧
    (∀ a, ok 1 → x.flag = false → s.attempt? d = some a → a.att = att → a.state = .voted → a.tag ≠ 0 →
      sget .free s.mem.master a.tag = .active → Answers .arbourDecision s (fun u => u.cores = s.cores ∧
        sget .free u.mem.master a.tag = (if w.testBit 36 then .aborted else .committed) ∧
        u.arb.aborts = (if w.testBit 36 then up s.arb.aborts else s.arb.aborts) ∧
        u.arb.commits = (if w.testBit 36 then s.arb.commits else up s.arb.commits) ∧
        ∃ b, u.attempt? d = some b ∧ b.state = .settling ∧
          b.dec = some ⟨w.testBit 36, BitVec.ofNat 16 (w / 2 ^ 48), m.w2.toNat⟩))

/-- R84, R85, R94, R127, R130 to R143: a mirror applies a state write, with its epoch at a settlement, and versioned
lines leave the L1s; the lowest free tag goes to the attempt that waits first; a completed write hands the tag over or
settles the attempt; an attempt votes once its work is over, stops at its deadline, and ends as its decision says; a node
collects votes, sends its output once all are in, a veto flag stands or its time has passed, and passes decisions down,
one that precedes its entry too; what is late or malformed is counted. The model's own choices: a completed write waits for
the group IDs that its hand-over takes (log 97); an attempt that has passed is known by its T_d beside (DTID, ATT), since a
settled DTID is given again, one decided before the node knew its T_d by T_d 0 (log 103); a decision that the device takes
as its own root counts as one received (log 110). -/
def Obligations.TransactionEventResults : Prop :=
  Claim.StatusWrites ∧ Claim.AttemptEvents ∧ Claim.ArbourEvents

/-! ### Events: named buffers and collectives -/

/-- R101, R102: a record of a named buffer. -/
def Claim.BufferRecord : Prop :=
  ∀ (s : State) (v : Nat) (e : NbEntry), parseRecord s v = some e →
    e = ⟨v % 2 ^ 16, v / 2 ^ 16 % 2 ^ 2, v / 2 ^ 32 % 2 ^ 32, v / 2 ^ 64 % 2 ^ 39, v / 2 ^ 128 % 2 ^ 28,
      v / 2 ^ 192 % 2 ^ 3, v / 2 ^ 195 % 2 ^ 3, v / 2 ^ 256 % 2 ^ 32, v / 2 ^ 256 % 2 ^ 32, 0⟩ ∧
    e.type ≠ 3 ∧ 1 ≤ e.tmo ∧ e.tmo ≤ 1000000 ∧ 1 ≤ e.cap ∧ e.base % 256 = 0 ∧ e.xo ≤ s.fab.ncm1 ∧ e.yo ≤ s.fab.nrm1 ∧
    v / 2 ^ 18 % 2 ^ 14 = 0 ∧ v / 2 ^ 288 % 2 ^ 224 = 0

/-- R108 to R110: one step of a ring. -/
def Claim.RingStep : Prop :=
  ∀ (p : Endpoint) (idx phase lo hi k : Nat) (vals : List (BitVec 32)) (x : SlotP) (s : State),
    phase ≤ 1 → s.slotP p.plane idx = some x → k < hi - lo →
    let value := pergCombine p.e.type p.c.op (fromWire p.e.type p.c.op ((vals.map BitVec.toNat).getD k 0))
      (sget 0 x.vals (lo + k)).toNat
    (∃ y, (takeChunk p idx phase (lo, hi) true vals s).slotP p.plane idx = some y ∧
      sget 0 y.vals (lo + k) = BitVec.ofNat 32 value ∧ (∀ i, i < lo ∨ hi ≤ i → sget 0 y.vals i = sget 0 x.vals i) ∧
      y.written = x.written ∧ y.status = x.status) ∧
    (∃ j pos out, ((takeChunk p idx phase (lo, hi) false vals s).plane p.plane).sent =
        (s.plane p.plane).sent ++ [(j, x.sig, pos, out)] ∧ out.length = hi - lo ∧
      out[k]? = some (BitVec.ofNat 32 (toWire p.e.type p.c.op value)) ∧
      (takeChunk p idx phase (lo, hi) false vals s).slotP p.plane idx = some x)

/-- R113 to R125: chunks, slots, issues and statuses. -/
def Claim.CollectiveEvents : Prop :=
  ∀ s : State,
    let x := s.input
    let g := s.perg
    -- an access of the record restarts its pseudo-channel's idle time (R78), and changes nothing else of the memory
    let ends (i : Instr) (result : Nat) (nbt : List NbEntry) : Prop := Answers i s (fun t =>
      t.perg = { g with go := false, result := result, nbt := nbt } ∧ t.mem = { s.mem with pcs := t.mem.pcs } ∧
      t.cores = s.cores ∧ t.host = s.host)
    let bytes := (recordAt s).2
    let r := bytes.bind (fun bs => parseRecord s (fromBytes bs))
    let rest (n : Nat) : List NbEntry := g.nbt.filter (fun e => e.name != n)
    let reg := g.go = true ∧ g.op = 1
    let dereg := g.go = true ∧ g.op = 2
    let query := g.go = true ∧ g.op = 3
    -- the status of a plane that ends with `z`: a refused arrival gives its own (R122)
    let given (c : CollSt) (z : PlaneStatus) (o : Option PlaneStatus) : Prop :=
      o = some z ∨ (c.bar ≠ 0 ∧ (o = some .owner ∨ o = some .poison ∨ o = some .cancel))
    let busy (e : NbEntry) : Prop := outstanding s e.name = true ∨
      (e.tag ≠ 0 ∧ sget .free s.mem.master e.tag = .active)
    (¬ reg → exec .register s = .next s) ∧
    (∀ l, s.quiet → physOf s g.recAddr = some (.hbm l) →
      bytes = if s.mem.poisoned l.off 64 then none else some (s.mem.bytes l.off 64)) ∧
    (s.quiet → reg → r = none → ends .register 1 g.nbt) ∧
    (∀ e, s.quiet → reg → r = some e →
      ((s.nbEntry e.name).isSome = true → ends .register 2 g.nbt) ∧
      (s.nbEntry e.name = none → inStripe s e = false → ends .register 3 g.nbt) ∧
      (s.nbEntry e.name = none → inStripe s e = true → 256 ≤ g.nbt.length → ends .register 4 g.nbt) ∧
      (s.nbEntry e.name = none → inStripe s e = true → g.nbt.length < 256 → ends .register 0 (g.nbt ++ [e]))) ∧
    (¬ dereg → exec .deregister s = .next s) ∧
    (dereg → s.nbEntry g.name = none → ends .deregister 6 g.nbt) ∧
    (∀ e, dereg → s.nbEntry g.name = some e → (busy e → ends .deregister 5 g.nbt) ∧
      (¬ busy e → ends .deregister 0 (rest g.name))) ∧
    (¬ query → exec .query s = .next s) ∧
    (query → s.nbEntry g.name = none → ends .query 6 g.nbt) ∧
    (∀ e l, s.quiet → query → s.nbEntry g.name = some e → physOf s g.recAddr = some (.hbm l) → Answers .query s (fun t =>
      t.perg = { g with go := false, result := 0 } ∧ t.cores = s.cores ∧
      t.mem = { s.mem.write l.off (toBytes 64 (e.recordOf (e.seqRead s))) with pcs := t.mem.pcs })) ∧
    (∀ c e, s.coll? x.id = some c → s.nbEntry c.name = some e → c.issued = false → c.open ≠ [] →
      (g.colls.find? (fun d => d.name == c.name)).map (fun d => d.id) = some c.id →
      let taken := e.tag ≠ 0 ∧ e.tag ≠ c.tag ∧ (sget .free s.mem.master e.tag = .active ∨
        ∃ k, k < 8 ∧ s.mem.status k e.tag = .active)
      (taken → Answers .collectiveIssue s (fun t => t.mem = s.mem ∧ t.perg.nbt = g.nbt ∧ ∃ d, t.coll? c.id = some d ∧
        d.issued = true ∧ d.time = s.now ∧ ∀ k, k < 8 → sget none d.planes k = some .owner)) ∧
      (∀ seq e', ¬ taken → seqIssue e c.tag (tagState s) = some (seq, e') → slotsFree s c.name seq c.att = false →
        exec .collectiveIssue s = .next s) ∧
      (∀ seq e', ¬ taken → seqIssue e c.tag (tagState s) = some (seq, e') → slotsFree s c.name seq c.att = true →
        Answers .collectiveIssue s (fun t => t.perg.nbt = g.nbt.map (fun n => if n.name = e.name then e' else n) ∧
          ∃ d, t.coll? c.id = some d ∧ d.issued = true ∧ d.seq = seq ∧ d.time = s.now ∧
            ∀ k, k < 8 → (endpoint s k c e).m = 0 → (sget none d.planes k).isSome = true ∧
              (∀ i, slotOf (s.plane k) c.name seq c.att = some i → sget none d.planes k = some .mismatch) ∧
              (slotOf (s.plane k) c.name seq c.att = none → c.bar = 0 → sget none d.planes k = some .ok)))) ∧
    (∀ e tag, e.tag = 0 → seqIssue e 0 (tagState s) = some (e.seqc, { e with seqc := (e.seqc + 1) % 2 ^ 32 }) ∧
      (tag ≠ 0 → seqIssue e tag (tagState s) =
        some (e.seqc, { e with tag := tag, seqt := (e.seqc + 1) % 2 ^ 32 }))) ∧
    (let st := x.stack
     let pl := s.plane st
     let name := x.v.toNat / 2 ^ 36 % 2 ^ 16
     let seq := x.u.toNat % 2 ^ 32
     let att := x.u.toNat / 2 ^ 32 % 2 ^ 4
     let up (n m : Nat) : Nat := min 65535 (n + m)
     let others (t : State) : Prop := (∀ k, k ≠ st → t.plane k = s.plane k) ∧ t.mem = s.mem ∧ t.cores = s.cores
     let slot (t : State) (i : Nat) : Option SlotP := t.slotP st i
     let fresh (early : List (Word × Word × List (BitVec 32))) (marked : Bool) (y : SlotP) : Prop :=
       y.name = name ∧ y.seq = seq ∧ y.att = att ∧ y.sig = x.v ∧ y.marked = marked ∧ y.early = early ∧ y.issued = none ∧
       y.taken = s.now
     let chunk := (x.v, x.u, x.vals)
     let stale (i : Instr) : Prop := Answers i s (fun t => others t ∧ t.plane st = { pl with stale := up pl.stale 1 })
     let marks (t : State) : Prop := ∀ j, j < 4 → (ringPartner s j).isSome = true →
       ∃ pos, (j, x.v, pos, ([] : List (BitVec 32))) ∈ (t.plane st).sent
     (s.pkg.stage ≠ 7 → exec .chunkArrival s = .next s ∧ exec .markArrival s = .next s) ∧
     (s.pkg.stage = 7 →
     (passesBy s st x.link = true → Answers .chunkArrival s (fun t => others t ∧
       t.plane st = { pl with sent := pl.sent ++ [(x.link + 1, x.v, x.u, x.vals)] })) ∧
     (passesBy s st x.link = false → s.nbEntry name = none → stale .chunkArrival) ∧
     (∀ i, passesBy s st x.link = false → slotOf pl name seq att = none → (s.nbEntry name).isSome = true →
       slotFor pl name seq = some i → Answers .chunkArrival s (fun t => others t ∧
         ∃ y, slot t i = some y ∧ fresh [chunk] false y)) ∧
     (passesBy s st x.link = false → slotOf pl name seq att = none → (s.nbEntry name).isSome = true →
       slotFor pl name seq = none → exec .chunkArrival s = .next s) ∧
     (∀ i y, passesBy s st x.link = false → (s.nbEntry name).isSome = true → slotOf pl name seq att = some i →
       slot s i = some y → y.issued = none →
       (x.v ≠ y.sig → y.marked = false → Answers .chunkArrival s (fun t => others t ∧
         slot t i = some { y with marked := true } ∧ ∀ j, j < 4 → (ringPartner s j).isSome = true →
           ∃ pos, (j, y.sig, pos, ([] : List (BitVec 32))) ∈ (t.plane st).sent)) ∧
       (x.v = y.sig ∨ y.marked = true → y.early.length < 2 → Answers .chunkArrival s (fun t => others t ∧
         slot t i = some { y with early := y.early ++ [chunk] })) ∧
       (x.v = y.sig ∨ y.marked = true → 2 ≤ y.early.length → exec .chunkArrival s = .next s)) ∧
     (s.nbEntry name = none → stale .markArrival) ∧
     (∀ i, slotOf pl name seq att = none → (s.nbEntry name).isSome = true → slotFor pl name seq = some i →
       Answers .markArrival s (fun t => others t ∧ ∃ y, slot t i = some y ∧ fresh [] true y)) ∧
     (∀ i y, (s.nbEntry name).isSome = true → slotOf pl name seq att = some i → slot s i = some y → y.marked = true →
       exec .markArrival s = .next s) ∧
     (∀ i y, (s.nbEntry name).isSome = true → slotOf pl name seq att = some i → slot s i = some y → y.marked = false →
       y.issued = none →
       Answers .markArrival s (fun t => others t ∧ slot t i = some { y with marked := true })) ∧
     (∀ i y c, (s.nbEntry name).isSome = true → slotOf pl name seq att = some i → slot s i = some y →
       y.marked = false → y.sig = x.v →
       y.issued.bind s.coll? = some c → (s.nbEntry c.name).isSome = true → Answers .markArrival s (fun t => others t ∧
         slot t i = none ∧ marks t ∧ ∃ d, t.coll? c.id = some d ∧ sget none d.planes st = some .mismatch))) ∧
     (∀ y, slot s x.slot = some y →
       let tmo := match s.nbEntry y.name with | some e => e.tmo | none => 0
       let due := y.issued = none ∧ y.taken + tmo * 1000 ≤ s.now
       (due → Answers .slotTmoExpiry s (fun t => others t ∧ slot t x.slot = none ∧
         (t.plane st).stale = up pl.stale (y.early.length + y.marked.toNat))) ∧
       (¬ due → exec .slotTmoExpiry s = .next s)) ∧
     (∀ y c e, slot s x.slot = some y → y.issued.bind s.coll? = some c → s.nbEntry c.name = some e →
       let ends (z : PlaneStatus) : Prop := Answers .collectiveTimeout s (fun t => slot t x.slot = none ∧
         ∃ d, t.coll? c.id = some d ∧ given c z (sget none d.planes st))
       let down := ringsDown s (endpoint s st c e) x.nats
       (down = true → ends .link) ∧
       (down = false → c.time + e.tmo * 1000 ≤ s.now → ends .timeout) ∧
       (down = false → s.now < c.time + e.tmo * 1000 → exec .collectiveTimeout s = .next s) ∧
       (x.nats = [] → (∀ j, j < 4 → ringUp s st j = true) → down = false) ∧
       (c.kind = 0 → 0 < s.fab.ncm1 → ringUp s st 0 = false → ringUp s st 1 = false → down = true))) ∧
    (∀ c e, s.coll? x.id = some c → s.nbEntry c.name = some e →
      let has (z : PlaneStatus) : Prop := ∃ i, i < 8 ∧ sget none c.planes i = some z
      ((¬ has .mismatch ∧ ¬ has .timeout) ∨ c.issued = false → exec .planeCancel s = .next s) ∧
      (has .mismatch → c.issued = true → Answers .planeCancel s (fun t => t.mem = s.mem ∧ ∃ d, t.coll? c.id = some d ∧
        ∀ i k, i ∈ c.open → slotOfColl s i c = some k → sget none d.planes i = some .mismatch ∧ t.slotP i k = none)) ∧
      (¬ has .mismatch → has .timeout → c.issued = true → Answers .planeCancel s (fun t => ∃ d, t.coll? c.id = some d ∧
        ∀ i k, i ∈ c.open → slotOfColl s i c = some k → t.slotP i k = none ∧ given c .timeout (sget none d.planes i)))) ∧
    (let t := x.tag
     let now := t ≠ 0 ∧ sget .free s.mem.master t = .aborted ∧ ∀ w ∈ s.mem.writes, w.tag ≠ t
     (¬ now → exec .collectiveCancel s = .next s) ∧
     (now → Answers .collectiveCancel s (fun u => u.mem = s.mem ∧ u.cores = s.cores ∧ ∀ c, c ∈ g.colls → c.tag = t →
       s.coll? c.id = some c → ∃ d, u.coll? c.id = some d ∧
         (c.issued = false → ∀ i, i < 8 → sget none d.planes i = some .cancel)))) ∧
    (∀ c j, s.coll? x.id = some c →
      let st (i : Nat) : PlaneStatus := (sget none c.planes i).getD .ok
      (c.open ≠ [] → exec .collectiveComplete s = .next s) ∧
      (c.open = [] → s.job? c.word = some j → j.member = false → Answers .collectiveComplete s (fun t =>
        t.perg.colls = g.colls.filter (fun d => d.id != c.id) ∧ t.mem = s.mem ∧ t.cores = s.cores ∧
        ∃ y, t.job? c.word = some y ∧ y.executed = true ∧
          ((∀ i, i < 8 → st i = .ok) → y.fault = j.fault ∧
            ∀ k, sget 0 t.arb.hwFlags k = sget 0 s.arb.hwFlags k) ∧
          (∀ i, i < 8 → st i ≠ .ok → (∀ k, k < 8 → (st i).rank ≤ (st k).rank) → j.fault = none → ∃ f,
            y.fault = some f ∧ f.cause = (st i).cause ∧
            (c.tag ≠ 0 → sget 0 t.arb.hwFlags c.tag = sget 0 s.arb.hwFlags c.tag ||| (st i).veto))))) ∧
    (PlaneStatus.mismatch.cause = 0x28 ∧ PlaneStatus.owner.cause = 0x07 ∧ PlaneStatus.poison.cause = 0x08 ∧
      PlaneStatus.link.cause = 0x29 ∧ PlaneStatus.timeout.cause = 0x2A ∧ PlaneStatus.cancel.cause = 0x2B)

/-- R99, R101, R102, R108 to R110, R113 to R119, R123, R125: REGISTER, DEREGISTER and QUERY end with the first RESULT
whose check fails, else register, remove or give back the entry; a collective is issued in turn with its name's sequence,
or with OWNER on every plane; a chunk or a MARK that arrives passes by, waits in a slot, takes a free one, mismatches it
or is counted, on a READY device (R27, R30); a reduce chunk combines with the values held; a plane ends by cancel, timeout
or mismatch; a collective that has a status on every plane gives its word the worst of them. Each die's own mirror answers
for OWNER (log 28). The model's own choices: a MARK at a slot that chunks took, neither issued nor marked, marks it
(log 86); the status that a refused arrival on a barrier gives a plane (log 33), and that LINK comes before TIMEOUT where
both hold (log 92); a record that reads as POISON gives ILLEGAL (log 110). -/
def Obligations.CollectiveEventResults : Prop :=
  Claim.BufferRecord ∧ Claim.RingStep ∧ Claim.CollectiveEvents

/-! ### Events: the control window, the mailbox, CXL.mem, debug -/

/-- R10, R12, R41, R64, R125, R134, R155, R158 to R161, R164, R175, R176, R187, R192, R319: a write of the control window
on a READY device changes the writable bits of its register, and one of another shape or at another time nothing; a
64-byte CXL.mem write goes to the cell and a read gives its bytes, poison where the cell is poisoned, region 63 ignored
and 0, and either restarts the idle time of its pseudo-channel (R78); each mailbox command ends with its STATUS and the
mailbox interrupt, and takes effect only with OK. The model's own choices: PREEMPT of a chain number from 4096 on gives
ILLEGAL (log 41); of DTSET only a value ahead of DTIME is taken, which never decreases (log 63); BIND clears an UNBIND that
waits (log 67); a slot with a held area takes only a record with SAVE and the BASE of its frames (log 82); the LOOPS levels
open as a pre-emption request arrives are marked as cut (log 102). -/
def Obligations.HostCommandResults : Prop :=
  (∀ (ws : List Word) (i : Nat) (r : BindRec), parseBind ws = some (i, r) →
    let w (k : Nat) : Nat := (ws.getD k 0).toNat
    i = w 0 % 2 ^ 8 ∧ r.level = w 0 / 2 ^ 8 % 2 ^ 3 ∧ 1 ≤ r.level ∧ r.level ≤ 5 ∧ r.dom = (w 0).testBit 11 ∧
    r.save = (w 0).testBit 12 ∧ r.first = w 0 / 2 ^ 16 % 2 ^ 10 ∧ r.nunits = w 0 / 2 ^ 26 % 2 ^ 11 ∧ 1 ≤ r.nunits ∧
    r.base = w 3 / 2 ^ 22 % 2 ^ 34 * 2 ^ 22 ∧ r.chains.length = w 0 / 2 ^ 37 % 2 ^ 3 + 1 ∧
    (∀ k, k < r.chains.length → r.chains.getD k 0 = w (1 + k / 4) / 2 ^ (16 * (k % 4)) % 2 ^ 12) ∧
    (r.dom = true → r.level = 4) ∧ (r.save = true → r.base ≠ 0) ∧
    (r.level ≠ 5 → r.first + r.nunits ≤ unitCount r.level)) ∧
  (∀ s : State,
    let x := s.input
    let h := s.host
    let arg (i : Nat) : Nat := (sget 0 h.mbArg i).toNat
    let has (code : Nat) : Prop := s.pkg.stage = 7 ∧ h.mbGo = true ∧ h.mbCode = code
    -- a command that answers STATUS `st` and value `v` and leaves what `P` replies
    let replies (i : Instr) (st v : Nat) (P : State → Prop) : Prop := Answers i s (fun t =>
      t.host.mbGo = false ∧ t.host.mbRsp = BitVec.ofNat 64 (st + 2 ^ 8 * v) ∧ t.host.intstat = h.intstat ||| 1 ∧
      t.host.mem = h.mem ∧ t.host.mbArg = h.mbArg ∧ P t)
    -- what a refused command leaves, from `b`, which the read of its record left
    let keptOf (b t : State) : Prop := t.cores = b.cores ∧ t.mem = b.mem ∧ t.sched = b.sched ∧ t.fab = b.fab ∧
      t.arb = b.arb ∧ t.host.chains = b.host.chains ∧ t.pkg = b.pkg
    let kept := keptOf s
    let refused (i : Instr) (st : Nat) : Prop := replies i st 0 kept
    let slot (t : State) (k : Nat) : SlotSt := t.slot k
    -- 64-bit register writes
    let w := x.v.toNat
    let reg (off : Nat) (P : State → Prop) : Prop := s.pkg.stage = 7 → x.flag = true → x.off = off →
      Answers .registerWrite s (fun t => P t ∧ t.cores = s.cores)
    let ch (c : Nat) : ChainSt := s.chain c
    let own (c : Nat) (f : ChainSt) (t : State) : Prop := t.chain c = f ∧ (∀ k, k ≠ c → t.chain k = s.chain k) ∧ t.mem = s.mem
    (s.pkg.stage ≠ 7 ∨ x.off % (if x.flag then 8 else 4) ≠ 0 → exec .registerWrite s = .next s) ∧
    (∀ c, c < 4096 → (ch c).en = false →
      reg (0x100008 + 64 * c) (own c { ch c with head := w / 2 ^ 7 % 2 ^ 49 * 2 ^ 7 }) ∧
      reg (0x100018 + 64 * c) (own c { ch c with base := w % 2 ^ 63 }) ∧
      reg (0x100020 + 64 * c) (own c { ch c with cw := w % 2 ^ 56 }) ∧
      reg (0x100028 + 64 * c) (own c { ch c with ev := w % 2 ^ 56 }) ∧
      reg (0x100030 + 64 * c) (own c { ch c with pt := w % 2 ^ 56 })) ∧
    (∀ c o, c < 4096 → (ch c).en = true → o ∈ [0x08, 0x18, 0x20, 0x28, 0x30] → reg (0x100000 + 64 * c + o) (own c (ch c))) ∧
    reg 0x60008 (fun t => t.mem = { s.mem with vm := { s.mem.vm with addr := w % 2 ^ 39 } }) ∧
    reg 0x60010 (fun t => t.mem = { s.mem with vm := { s.mem.vm with count := w % 2 ^ 32 } }) ∧
    (s.mem.vm.go = false → reg 0x60000 (fun t =>
      t.mem = { s.mem with vm := { s.mem.vm with op := w % 2 ^ 4, acc := w.testBit 4, go := w.testBit 5, ran := false } })) ∧
    (s.perg.go = false → reg 0x70000 (fun t =>
      t.perg = { s.perg with op := w % 2 ^ 2, go := w.testBit 2, name := w / 2 ^ 16 % 2 ^ 16 })) ∧
    reg 0x90008 (fun t => t.host = { h with intstat := h.intstat &&& ~~~(x.v.setWidth 4) }) ∧
    reg 0x90010 (fun t => t.host = { h with intmask := x.v.setWidth 4 }) ∧
    (h.mbGo = false → reg 0x90100 (fun t => t.host = { h with mbCode := w % 2 ^ 8, mbGo := w.testBit 8 })) ∧
    (∀ k, k < 4 → reg (0x90108 + 8 * k) (fun t => ∀ j, sget 0 t.host.mbArg j = if j = k then x.v else sget 0 h.mbArg j)) ∧
    (∀ k, k < 8 → reg (0xA0040 + 8 * k) (fun t =>
      ∀ j, sget 1000000 t.sched.clbud j = if j = k then w % 2 ^ 40 else sget 1000000 s.sched.clbud j)) ∧
    (∀ k, k < 8 → reg (0x61008 + 0x1000 * k) (fun t =>
      (sget {} t.mem.bdies k).srcEn = w.testBit 0 ∧ (sget {} t.mem.bdies k).srcIdle = w / 2 % 2 ^ 23)) ∧
    reg 0x40430 (fun t => t.fab = { s.fab with dtset := x.v }) ∧
    reg 0xB0010 (fun t => t.dbg = { s.dbg with sel := x.v.setWidth 16 }) ∧
    reg 0x90200 (fun t => t = s) ∧
    -- CXL.mem
    (let on := s.pkg.stage = 7 ∧ x.wr = true ∧ x.off < 63 * 2 ^ 33
     let reads (off : Nat) (r : PcResult) : Prop :=
       x.off = off → Answers .cxlMemAccess s (fun t => State.turned { s with host := { h with cxl := some r } } t)
     (s.quiet → on → Answers .cxlMemAccess s (fun t => (s.withMem (s.mem.write x.off x.data)).turned t)) ∧
     (s.pkg.stage ≠ 7 ∨ (x.wr = true ∧ 63 * 2 ^ 33 ≤ x.off) → exec .cxlMemAccess s = .next s) ∧
     (s.pkg.stage = 7 → x.wr = false →
       (∀ o, 63 * 2 ^ 33 ≤ o → reads o (.data (List.replicate 64 0))) ∧
       (∀ o, s.quiet → o < 63 * 2 ^ 33 → s.mem.poisoned o 64 = false → reads o (.data (s.mem.bytes o 64))) ∧
       (∀ o, s.quiet → o < 63 * 2 ^ 33 → s.mem.poisoned o 64 = true → reads o .poison))) ∧
    -- the mailbox
    (¬ has 1 → exec .ping s = .next s) ∧ (¬ has 2 → exec .bind s = .next s) ∧ (¬ has 3 → exec .unbind s = .next s) ∧
    (¬ has 4 → exec .domcfg s = .next s) ∧ (¬ has 5 → exec .svnset s = .next s) ∧ (¬ has 6 → exec .preempt s = .next s) ∧
    (¬ has 7 → exec .irtset s = .next s) ∧
    (has 1 → replies .ping 0 s.pkg.fwSvn kept) ∧
    (s.pkg.stage = 7 → h.mbGo = true → h.mbCode = 0 ∨ 7 < h.mbCode → refused .mbcmdIllegal 1) ∧
    (has 5 → s.pkg.svn < arg 0 → arg 0 ≤ s.pkg.fwSvn → replies .svnset 0 0 (fun t =>
      t.pkg = { s.pkg with svn := arg 0 } ∧ t.mem = s.mem)) ∧
    (has 5 → arg 0 ≤ s.pkg.svn ∨ s.pkg.fwSvn < arg 0 → refused .svnset 2) ∧
    (has 6 → 4096 ≤ arg 0 → refused .preempt 1) ∧
    (has 6 → arg 0 < 4096 → (∀ p ∈ s.sched.packets, p.share = true ∨ p.chain ≠ arg 0) → refused .preempt 0) ∧
    (∀ p b, has 6 → arg 0 < 4096 → s.sched.packets.filter (fun p => p.chain == arg 0 && !p.share) = [p] →
      s.packet? p.id = some p → p.dtid = none → pkLevel p.head.words ≠ 5 → (s.slot p.slot).bind = some b → b.save = true →
      (s.slot p.slot).held = none → replies .preempt 0 0 (fun t => t.mem = s.mem ∧ (slot t p.slot).saveT = s.now ∧
        ∀ g y c, g ∈ p.groups → s.group? g = some y → c ∈ y.cores →
          (t.core c).a = (s.core c).a.ask ∧ (t.core c).x = (s.core c).x.ask)) ∧
    (∀ y : StreamSt, y.run = .running → y.ask.preempt = true ∧ y.ask.run = .running ∧ y.ask.pc = y.pc ∧
      y.ask.regs = y.regs ∧ y.ask.loops = y.loops.map (fun l => { l with cut := decide (l.stages ≠ 0) })) ∧
    -- the record of a mailbox command
    (∀ n l, s.quiet → arg 0 % (8 * n) = 0 → physOf s (arg 0) = some (.hbm l) → arg 0 < 2 ^ 56 → ∃ u, mailRecord n s =
      (u, if s.mem.poisoned l.off (8 * n) then none else some (wordsOf n (s.mem.bytes l.off (8 * n)))) ∧ s.turned u) ∧
    (∀ n, arg 0 % (8 * n) ≠ 0 ∨ 2 ^ 56 ≤ arg 0 → mailRecord n s = (s, none)) ∧
    (∀ u r, has 2 → mailRecord 4 s = (u, r) → r.bind parseBind = none → replies .bind 1 0 (keptOf u)) ∧
    (∀ u ws i r, has 2 → mailRecord 4 s = (u, some ws) → parseBind ws = some (i, r) →
      let refused (i : Instr) (st : Nat) : Prop := replies i st 0 (keptOf u)
      let o := u.slot i
      let clash := ∃ j b, j < 256 ∧ j ≠ i ∧ (u.slot j).bind = some b ∧ overlap r b = true
      let runs := o.state = .busy ∨ o.state = .saving
      let moved := ∃ b, o.bind = some b ∧ (b.level ≠ r.level ∨ b.first ≠ r.first ∨ b.nunits ≠ r.nunits)
      let area := r.save = false ∨ r.base ≠ o.heldBase
      let late := (runs ∧ moved) ∨ (o.held ≠ none ∧ area)
      (clash → refused .bind 2) ∧ (¬ clash → late → refused .bind 3) ∧
      (¬ clash → ¬ late → replies .bind 0 0 (fun t => t.cores = u.cores ∧ t.mem = u.mem ∧
        slot t i = { o with bind := some r, unbind := false, state := if runs then o.state else .free } ∧
        ∀ k, k ≠ i → slot t k = u.slot k))) ∧
    (let i := arg 0
     let o := s.slot i
     (has 3 → 256 ≤ i ∨ o.bind = none → refused .unbind 1) ∧
     (has 3 → i < 256 → o.bind ≠ none → o.held ≠ none → refused .unbind 3) ∧
     (has 3 → i < 256 → o.bind ≠ none → o.held = none → replies .unbind 0 0 (fun t =>
       (o.state = .free → slot t i = { o with bind := none, state := .unbound }) ∧
       (o.state ≠ .free → slot t i = { o with unbind := true }) ∧ ∀ k, k ≠ i → slot t k = s.slot k))) ∧
    (∀ u, has 4 → mailRecord 8 s = (u, none) → replies .domcfg 1 0 (keptOf u)) ∧
    (∀ u ws, has 4 → mailRecord 8 s = (u, some ws) →
      let refused (i : Instr) (st : Nat) : Prop := replies i st 0 (keptOf u)
      let f (k : Nat) : Nat := (ws.getD k 0).toNat
      let node (v : Nat) (n : NodeSt) : Prop := n.root = v.testBit 1 ∧ n.expect = v / 2 ^ 2 % 2 ^ 4 ∧
        n.en = v.testBit 0 ∧ n.pdev = v / 2 ^ 6 % 2 ^ 6 ∧ n.entries = [] ∧ n.passed = []
      (domainOk ws = false → refused .domcfg 1) ∧
      (domainOk ws = true → domainBusy u = true → refused .domcfg 3) ∧
      (domainOk ws = true → domainBusy u = false → replies .domcfg 0 0 (fun t =>
        t.fab.x = f 0 % 2 ^ 3 ∧ t.fab.y = f 0 / 2 ^ 3 % 2 ^ 3 ∧ t.fab.ncm1 = f 0 / 2 ^ 6 % 2 ^ 3 ∧
        t.fab.nrm1 = f 0 / 2 ^ 9 % 2 ^ 3 ∧ t.fab.members = ws.getD 1 0 ∧ (t.fab.master = true ↔ t.self = 0) ∧
        (t.self ≠ 0 → t.fab.dtime = u.fab.dtime) ∧
        (t.self = 0 → t.fab.dtime.toNat = max u.fab.dtime.toNat u.fab.dtset.toNat) ∧
        t.arb.vdev = f 2 % 2 ^ 6 ∧ t.arb.want = (f 2).testBit 7 ∧ node (f 3) (t.node 0) ∧ node (f 4) (t.node 1) ∧
        (∀ n, n < 2 → ∀ a, a ∈ (t.node n).aimed ↔ (n, a) ∈ u.input.aims) ∧
        (t.self = 0 → t.arb.valid = (f 2).testBit 7) ∧
        (∀ i, 12 ≤ i → i < 58 → (t.link i).state = .training ∨ (t.link i).state = .down) ∧
        (u.fab.held = [] → t.cores = u.cores)))) ∧
    (let k := arg 0
     let v := arg 1
     let buffer := ∃ e ∈ s.perg.nbt, e.base / 2 ^ 33 ≤ k ∧ k ≤ (e.base + e.bytes - 1) / 2 ^ 33
     let idle := s.sched.packets = [] ∧ (freeTags s).length = 63
     (has 7 → 63 ≤ k ∨ 16 ≤ v → refused .irtset 1) ∧
     (has 7 → k < 63 → v < 16 → buffer → refused .irtset 2) ∧
     (has 7 → k < 63 → v < 16 → ¬ buffer → ¬ idle → refused .irtset 3) ∧
     (has 7 → k < 63 → v < 16 → ¬ buffer → idle → replies .irtset 0 0 (fun t => t.mem.hbm = s.mem.hbm ∧
       (∀ j, sget 0 t.mem.irtCode j = if j = k then v % 8 else sget 0 s.mem.irtCode j) ∧
       ∀ j, sget false t.mem.irtPs7 j = if j = k then v.testBit 3 else sget false s.mem.irtPs7 j))))

/-- R317 to R321: HALT of a slot whose packet runs, on a device in RUN, halts every core of its groups, of a level-5
launch in every slot here that runs it, and a halt message those of the launch here, its share that waits for a slot too;
RESUME restarts the halted slots unless the device is still hot, with the responses collected meanwhile; DBGDATA written
while halted changes the register that DBGSEL names, and is ignored elsewhere. R187 to R190: a stream asked to pre-empt that
is blocked at a pre-emption point stops there, a nest only where MCFG names no level (R448), and after PRTMO at its next
instruction boundary, where no response to a part of its word is outstanding; once every group has stopped and drained the
contexts are saved with pending vector writes in effect: the frames hold the scratchpad, vector and tile bytes at their
places, the slot is free with its area held and the packet is its chain's head again; a restore gives the cores back what
the frames hold, the latched weights loaded again from their block (R448), their streams going on. The model's own choices:
the bytes of the frame parts whose layout R188 does not give are free values of their contents, which come back from what
was saved beside the slot (log 12); HALT of a slot without a running packet only sets SLOT (log 43); STATE reads 1, HALTING,
right after a halt (log 87). -/
def Obligations.DebugAndPreemptionResults : Prop :=
  (∀ s : State,
     let x := s.input
     let d := s.dbg
     let ready := s.pkg.stage = 7
     let runs (i : Nat) : Prop := d.state = 0 ∧ (s.slot i).packet ≠ none ∧ (s.slot i).state = .busy
     -- every core of the groups of slot `i`'s packet is halted or goes on, the rest of it as before
     let cores (i : Nat) (on : Bool) (t : State) : Prop := ∀ p g y c, (s.slot i).packet.bind s.packet? = some p →
       g ∈ p.groups → s.group? g = some y → c ∈ y.cores → (t.core c).halted = on ∧ (t.core c).a = (s.core c).a ∧
         (t.core c).x = (s.core c).x ∧ (t.core c).m = (s.core c).m
     let hot := ∃ k, k < 4 ∧ 10500 ≤ (sget {} s.pkg.dies k).temp
     let stays := d.thermal = true ∧ hot
     let launch (root chain : Nat) (p : Packet) : Prop := p ∈ s.sched.packets ∧ p.ofLaunch s.self root chain = true
     let halts (root chain : Nat) (t : State) : Prop := (∀ p, launch root chain p →
         (t.slot p.slot).halted = true ∧ cores p.slot true t) ∧
       (s.sched.shares.any (shareOf root chain) = true → (root, chain) ∈ t.dbg.far)
     let c := d.sel.toNat % 512
     let r := d.sel.toNat / 2 ^ 10
     let k : StreamKind := if d.sel.getLsbD 9 then .x else .a
     let opened := d.state = 2 ∧ ∃ p, (s.core c).place = some p ∧ p.slot = d.hslot
     let y := (s.core c).stream k
     let dbg (f : StreamSt) : Prop := Answers .dbgdataAccess s (fun t => (t.core c).stream k = f ∧ t.mem = s.mem ∧
       t.host = s.host ∧ t.dbg = d ∧ ∀ j, j ≠ c → t.core j = s.core j)
     (¬ ready → ∀ i ∈ [Instr.halt, .resume, .dbgdataAccess], exec i s = .next s) ∧
     (ready → runs x.slot → Answers .halt s (fun t => t.dbg.state = 1 ∧ t.dbg.src = .host ∧ t.dbg.hslot = x.slot ∧
       t.dbg.slot = x.slot ∧ t.dbg.brkHalt = d.brkHalt ∧ (t.slot x.slot).halted = true ∧ cores x.slot true t ∧
       t.mem = s.mem ∧ ∀ p, (s.slot x.slot).packet.bind s.packet? = some p → pkLevel p.head.words = 5 →
         halts (if p.share then p.home else s.self) p.chain t)) ∧
     (ready → ¬ runs x.slot → Answers .halt s (fun t => t = { s with dbg := { d with slot := x.slot } })) ∧
     (ready → stays → exec .resume s = .next s) ∧
     (ready → ¬ stays → d.state = 0 → exec .resume s = .next { s with dbg := { d with far := [] } }) ∧
     (ready → ¬ stays → d.state ≠ 0 → Answers .resume s (fun t => t.dbg.state = 0 ∧ t.dbg.thermal = false ∧
       t.dbg.far = [] ∧
       (s.fab.late = [] → s.fab.held = [] → t.mem = s.mem ∧
         ∀ i, i < 256 → (s.slot i).halted = true → (t.slot i).halted = false ∧ cores i false t))) ∧
     (ready → x.wr = true → opened →
       (1 ≤ r → r < 32 → dbg (y.setReg r x.v)) ∧ (r = 0 → dbg y) ∧
       (r = 32 → dbg { y with pc := x.v &&& ~~~3, stall := none, stallCnt := 0, wait := none, parts := [], fetch := {},
                              skip := none }) ∧
       (r = 33 → dbg { y with preds := BitVec.ofNat 8 (x.v.toNat % 256 / 2 * 2) }) ∧ (33 < r → dbg y)) ∧
     (x.wr = false ∨ ¬ opened → exec .dbgdataAccess s = .next s) ∧
     (¬ ready → exec .haltMessage s = .next s) ∧
     (ready → Answers .haltMessage s (fun t => t.mem = s.mem ∧ halts x.dev x.chain t ∧
       ((∃ p, launch x.dev x.chain p) → t.dbg.state = if d.state = 0 then 1 else d.state) ∧
       ((¬ ∃ p, launch x.dev x.chain p) → t.dbg.state = d.state ∧ t.cores = s.cores)))) ∧
  ((∀ (s : State) (k : StreamKind), k ≠ .m → s.input.stream = k →
     let x := s.input
     let c := s.core x.core
     let y := c.stream k
     let asked := y.preempt = true ∧ y.run = .running
     let due := askedAt s x.core + s.sched.prtmo * 1000 ≤ s.now ∧ y.wait = none ∧ y.fetch.id = none
     let point := ∃ w ∈ [Stall.queue, .tag, .tile, .bwait, .tlwait], y.stall = some w
     let stops (i : Instr) : Prop := Answers i s (fun t => (t.core x.core).stream k = { y with run := .stopped, preempt := false } ∧
       (∀ j, j ≠ x.core → t.core j = s.core j) ∧ t.mem = s.mem ∧ t.sched = s.sched)
     (c.halted = true → exec .preemptionPoint s = .next s ∧ exec .preemptTimeout s = .next s) ∧
     (c.halted = false →
       (asked → point → stops .preemptionPoint) ∧ (¬ asked ∨ ¬ point → exec .preemptionPoint s = .next s) ∧
       (asked → due → stops .preemptTimeout) ∧ (¬ asked ∨ ¬ due → exec .preemptTimeout s = .next s))) ∧
   (∀ s : State, s.input.stream = .m →
     let x := s.input
     let m := (s.core x.core).m
     let due := askedAt s x.core + s.sched.prtmo * 1000 ≤ s.now ∧ m.fetch.id = none
     let asked := (s.core x.core).halted = false ∧ m.preempt = true ∧ m.run = true
     let stops (i : Instr) : Prop := Answers i s (fun t => (t.core x.core).m.stopped = true ∧
       (t.core x.core).m.preempt = false ∧ (t.core x.core).m.run = true ∧ (t.core x.core).a = (s.core x.core).a ∧
       t.mem = s.mem)
     (asked → m.stall = true → 6 ≤ m.cfg.plev → stops .preemptionPoint) ∧
     (¬ asked ∨ m.stall = false ∨ m.cfg.plev < 6 → exec .preemptionPoint s = .next s) ∧
     (asked → due → stops .preemptTimeout) ∧ (¬ asked ∨ ¬ due → exec .preemptTimeout s = .next s)) ∧
   (∀ (s : State) (p : Packet) (b : BindRec),
     let i := s.input.slot
     let o := s.slot i
     let gs := groupsOf s p.id
     let cs := heldCores gs
     let ready := o.state = .busy ∧ p.preempt = true ∧ p.killed = false ∧ gs ≠ [] ∧ (∀ g ∈ gs, g.state = .running) ∧
       ∀ c ∈ cs, coreStopped s c = true
     let at' (c : Nat) : Nat := b.base + (c - scopeCore b) * 2 ^ 22
     o.packet.bind s.packet? = some p →
     (¬ ready → exec .contextSave s = .next s) ∧
     (ready → (∀ c ∈ cs, (s.core c).l1 = [] ∧ l2Of s c = []) → Answers .contextSave s (fun t =>
       t.slot i = { o with state := .saving, saveT := s.now } ∧ (∀ c ∈ cs, t.core c = (s.core c).flush) ∧
       (∀ c, c ∉ cs → t.core c = s.core c) ∧ t.mem = s.mem)) ∧
     (o.bind = some b → o.state ≠ .saving → exec .contextSaveComplete s = .next s) ∧
     (o.bind = some b → o.state = .saving → p.share = false → (s.chain p.chain).kill = false → cs.Nodup → s.quiet →
       (∀ c ∈ cs, scopeCore b ≤ c ∧ c < scopeCore b + 512) → b.base + 2 ^ 31 ≤ 2 ^ 39 →
       Answers .contextSaveComplete s (fun t =>
         (t.slot i).held = some p ∧ (t.slot i).heldBase = b.base ∧ (t.slot i).packet = none ∧
         (t.slot i).state = (if o.unbind then .unbound else .free) ∧
         (t.chain p.chain).hds = { p.head with saved := some i, esc := none, offered := false } :: (s.chain p.chain).hds ∧
         t.packet? p.id = none ∧ (∀ g ∈ t.sched.groups, g.packet ≠ p.id) ∧
         (∀ c ∈ cs, (t.core c).place = none ∧ (t.core c).a.run ≠ .running ∧ (t.core c).x.run ≠ .running ∧
           (∀ a, a < 2 ^ 21 → t.mem.byte (at' c + 0x1C0000 + a) = (s.core c).spadByte a) ∧
           (∀ a, a < 2 ^ 18 → t.mem.byte (at' c + 0x40000 + a) = sget 0 (s.core c).vec a) ∧
           (∀ e ∈ openParts (s.core c), ∀ k, k < e.2.1 → t.mem.byte (at' c + e.1 + k) = Config.frameByte e.1 e.2.2 k) ∧
           (∀ a, a < 40 * 32768 → t.mem.byte (at' c + 0x80000 + a) = (s.core c).tileByte a))))) ∧
   (∀ (s : State) (p : Packet) (b : BindRec) (g : Group) (f : SavedCore) (pl : Placement) (k : Nat),
     let i := s.input.slot
     let o := s.slot i
     let c := (newCores b o.saved g).getD k 0
     let base := o.heldBase + f.pos * 2 ^ 22
     o.held = some p → o.bind = some b →
     (o.state ≠ .busy ∨ o.packet ≠ some p.id → exec .contextRestore s = .next s) ∧
     (o.state = .busy → o.packet = some p.id → o.groups = [g] → k < g.cores.length →
       f ∈ o.saved → f.core.place = some pl → pl.gid = g.gid → pl.index = g.cores.getD k 0 - g.cores.headD 0 →
       o.wantPre = false → s.quiet →
       (∀ e ∈ o.saved, ∀ q, e.core.place = some q → q.gid = pl.gid → q.index = pl.index → e = f) →
       Answers .contextRestore s (fun t =>
         t.mem.hbm = s.mem.hbm ∧ t.mem.poison = s.mem.poison ∧ (t.slot i).held = none ∧ (t.slot i).saved = [] ∧
         (t.core c).halted = o.halted ∧
         t.sched.groups = s.sched.groups ++ [{ g with cores := newCores b o.saved g, packet := p.id }] ∧
         (k = 0 → c = scopeCore b + f.pos) ∧
         (t.core c).queues = f.core.queues ∧ (t.core c).tls = f.core.tls ∧ (t.core c).coreCfg = f.core.coreCfg ∧
         (t.core c).m.weights = f.core.m.weights.map (fun w =>
           { w with data := (t.core c).spadBytes w.addr (weightExtent w.fmt w.mx w.s) }) ∧
         (t.core c).a = f.core.a.wake ∧ (t.core c).x = f.core.x.wake ∧ (t.core c).l1 = (s.core c).l1 ∧
         (∃ q, (t.core c).place = some q ∧ q.gid = pl.gid ∧ q.slot = i ∧ q.index = pl.index) ∧
         (∀ a, a < 2 ^ 21 → (t.core c).spadByte a = s.mem.byte (base + 0x1C0000 + a)) ∧
         (∀ a, a < 2 ^ 18 → sget 0 (t.core c).vec a = s.mem.byte (base + 0x40000 + a)) ∧
         (∀ a, a < 40 * 32768 → (t.core c).tileByte a = s.mem.byte (base + 0x80000 + a)) ∧
         (∀ a, a < 2 ^ 18 → (t.core c).tagAt (8 * a) = (s.mem.byte (base + 0x4000 + a / 8)).getLsbD (a % 8))))))

/-! ### Events: chains, packets, groups -/

/-- R163, R164, R167 to R170, R172, R173, R182, R183, R192: EN starts a chain anew; CHTAIL publishes; a packet is
fetched, refused with its ERRCODE or becomes the head; a wait is satisfied, and an error flag cancels or escalates; a late
head is cancelled or escalated, and an escalation answered; a teardown ends the waiting packets, KILL the running ones
too. A packet that ends without running completes in order with its completion word. -/
def Obligations.ChainEventResults : Prop :=
  ∀ s : State,
    let x := s.input
    let c := x.chain
    let ch := s.chain c
    let ready := s.pkg.stage = 7
    let w (ws : List Word) (i : Nat) : Nat := (ws.getD i 0).toNat
    -- the effects below are on `b`, the state that a read of the event left, or `s` where it makes none
    let onlyOf (b t : State) : Prop := (∀ k, k ≠ c → t.chain k = b.chain k) ∧ t.cores = b.cores ∧ t.fab = b.fab
    let chainOf (b : State) (i : Instr) (f : ChainSt) : Prop := Answers i s (fun t => t.chain c = f ∧ onlyOf b t ∧
      t.mem = b.mem ∧ t.sched = b.sched)
    -- packet `n` ends without running: nothing precedes it, it asks for no signal, the completion word is in HBM, where no
    -- other request waits
    let plainOf (b : State) (n : Nat) (ws : List Word) (l : Loc) : Prop := (b.chain c).done = [] ∧
      (b.chain c).base + 1 = n ∧ (w ws 11).testBit 24 = false ∧ physOf b (b.chain c).cw = some (.hbm l) ∧
      (b.chain c).irq = false ∧ b.quiet ∧ ∀ p ∈ b.sched.packets, p.chain ≠ c
    let endedOf (b : State) (n code : Nat) (l : Loc) (t : State) : Prop :=
      (t.chain c).base = n ∧ (t.chain c).err = true ∧ ((b.chain c).err = false → (t.chain c).errCode = code ∧
        (t.chain c).errSeq = n % 2 ^ 32 ∧ t.host.intstat.getLsbD 1 = true) ∧
      t.mem = { b.mem.write l.off (toBytes 8 (2 ^ 63 + n % 2 ^ 63)) with pcs := t.mem.pcs } ∧ onlyOf b t
    let only := onlyOf s
    let chain := chainOf s
    let plain := plainOf s
    let ended := endedOf s
    let up (k : Nat) : Nat := if k < 65535 then k + 1 else k
    (¬ ready → ∀ i ∈ [Instr.chainEnable, .chtailWrite, .tear, .kill, .schcfgWrite, .packetFetch, .lateCheck],
      exec i s = .next s) ∧
    (ready → Answers .schcfgWrite s (fun t =>
      t.sched = { s.sched with prtmo := max 1 (min 100000 (x.v.toNat % 2 ^ 32)) } ∧ t.cores = s.cores ∧ t.mem = s.mem)) ∧
    (ready → ch.en = false → chain .chainEnable { ch with
      en := true, state := .active, err := false, errCode := 0, errSeq := 0, fetched := ch.tail, next := ch.base,
      fetchErr := false, hds := [], done := [] }) ∧
    (ready → ch.en = true → chain .chainEnable ch) ∧
    (ready → ch.state ≠ .tearing → ch.spawn = false → chain .chtailWrite { ch with tail := x.v.setWidth 32 }) ∧
    (ready → ch.state = .tearing ∨ ch.spawn = true → chain .chtailWrite ch) ∧
    (ready → ch.state = .idle → exec .tear s = .next s ∧ exec .kill s = .next s) ∧
    (∀ h l, ready → ch.state ≠ .idle → ch.hds = [h] → h.saved = none → (h.esc = none ∨ h.offered = false) →
      plain h.seq h.words l → ∀ i ∈ [Instr.tear, .kill], Answers i s (fun t => ended h.seq 6 l t ∧ (t.chain c).hds = [] ∧
        (ch.tail = ch.fetched → (t.chain c).state = .idle ∧ (t.chain c).en = false) ∧
        (ch.tail ≠ ch.fetched → (t.chain c).state = .tearing ∧ (t.chain c).tear = true))) ∧
    (∀ p, ready → ch.state ≠ .idle → ch.hds = [] → s.packet? p.id = some p → p.chain = c → p.share = false →
      pkLevel p.head.words ≠ 5 → p.settled = false → p.killed = false → p.dtid = none →
      s.sched.packets.filter (fun q => q.chain == c && !q.share) = [p] →
      (Answers .kill s (fun t => (t.chain c).state = .tearing ∧ t.mem.hbm = s.mem.hbm ∧
        ∃ y, t.packet? p.id = some y ∧ y.killed = true ∧ y.e = true)) ∧
      (Answers .tear s (fun t => (t.chain c).state = .tearing ∧ t.mem = s.mem ∧ t.cores = s.cores ∧
        t.packet? p.id = some p))) ∧
    -- fetch
    (let due := ready ∧ ch.state ≠ .idle ∧ ch.fetched ≠ ch.tail ∧ ch.hds = []
     -- the fetch is under way; `next`: the packet is read and `head` the next one
     let b := s.modChain c (fun k => { k with fetched := k.fetched + 1, next := k.next + 1 })
     let next (head : Nat) (hds : List Head) : ChainSt :=
       { ch with fetched := ch.fetched + 1, next := ch.next + 1, head := head, hds := hds }
     let taken (now : Nat) (ws : List Word) (h : Head) : Prop := h.words = ws ∧ h.seq = ch.next + 1 ∧ h.enq = now ∧
       h.waits = (List.range 4).map (fun k => !(w ws (7 + k)).testBit 31) ∧ h.late = w ws 5 ∧ h.eff = none ∧
       h.esc = none ∧ h.att = 0 ∧ h.dtid = none ∧ h.saved = none
     (¬ due → exec .packetFetch s = .next s) ∧
     -- `refusal` leaves `v`, since the check of a transaction translates its step context block
     (∀ u v bs code, due → ch.fetchErr = false → ch.spawn = false → physRead false false ch.head 128 b = (u, .ok bs) →
       let ws := wordsOf 16 bs
       let head := w ws 6 / 2 ^ 7 % 2 ^ 49 * 2 ^ 7
       refusal c ws (u.modChain c (fun k => { k with head := head })) = (v, code) → v.chain c = next head [] →
       (ch.state = .active → code = none → Answers .packetFetch s (fun t => onlyOf v t ∧ t.mem = v.mem ∧
         ∃ h, taken v.now ws h ∧ t.chain c = next head [h])) ∧
       (∀ n l, ch.state = .active → code = some n → ch.next = ch.base → plainOf v (ch.next + 1) ws l →
         Answers .packetFetch s (fun t => endedOf v (ch.next + 1) n l t ∧ (t.chain c).hds = [] ∧
           (t.chain c).fetched = ch.fetched + 1 ∧ (t.chain c).head = head))) ∧
     (∀ q rest ws v, due → ch.fetchErr = false → ch.spawn = true → ch.state = .active →
       s.host.store = q :: rest → q = (c, ws) →
       refusal c ws { b with host := { b.host with store := rest } } = (v, none) → v.chain c = next ch.head [] →
       Answers .packetFetch s (fun t => t.host.store = v.host.store ∧ onlyOf v t ∧
         ∃ h, taken v.now ws h ∧ t.chain c = next ch.head [h])) ∧
     (∀ ws, (pkTxn ws = false → (refusal c ws s).1 = s) ∧
       (packetBad ws = false → packetSplit ws = false → kernBad s ws = false →
         (pkTxn ws = false → (refusal c ws s).2 = none) ∧ (pkTxn ws = true → pkTxLimit ws = 0 → refusal c ws s = (s, some 4)) ∧
         (pkTxn ws = true → pkLevel ws = 5 → s.arb.valid = false → refusal c ws s = (s, some 4)))) ∧
     (∀ u e l, due → ch.fetchErr = false → ch.spawn = false → ch.next = ch.base → plainOf u (ch.next + 1) [] l →
       physRead false false ch.head 128 b = (u, .error e) → Answers .packetFetch s (fun t => endedOf u (ch.next + 1) 5 l t ∧
         ((t.chain c).state = .tearing ∨ (t.chain c).state = .idle)))) ∧
    (∀ win a n l, s.quiet → n = 8 ∨ n = 128 → physOf s a = some (.hbm l) → ∃ u, physRead win win a n s =
      (u, if s.mem.poisoned l.off n then .error .poison else .ok (s.mem.bytes l.off n)) ∧ s.turned u) ∧
    -- waits
    (∀ h rest u r, ready → ch.hds = h :: rest → h.waits.getD x.n true = false →
      physRead true true (ch.ev + 8 * (w h.words (7 + x.n) % 2 ^ 24)) 8 s = (u, r) → u.chain c = ch →
      -- a read that fails counts as a word with its error flag set
      let v := match r with | .ok bs => fromBytes bs | .error _ => 2 ^ 63
      let ended := endedOf u
      let chain := chainOf u
      let there := (v % 2 ^ 32 + 2 ^ 32 - w h.words (7 + x.n) / 2 ^ 32 % 2 ^ 32) % 2 ^ 32 < 2 ^ 31
      let met : Head := { h with waits := h.waits.set x.n true }
      (v.testBit 63 = false → ¬ there → exec .waitPoll s = .next u) ∧
      (v.testBit 63 = false → there → chain .waitPoll { ch with hds := met :: rest }) ∧
      (v.testBit 63 = true → pkOnerr h.words = 0 → chain .waitPoll { ch with hds := met :: rest }) ∧
      (∀ k, v.testBit 63 = true → pkOnerr h.words = 1 → rest = [] → (h.esc = none ∨ h.offered = false) →
        ch.state = .active → plainOf u h.seq h.words k → Answers .waitPoll s (fun t => ended h.seq 6 k t ∧
          (t.chain c).hds = [])) ∧
      (v.testBit 63 = true → pkOnerr h.words = 2 → h.esc = none → h.offered = false → u.sched.esc.length < 64 →
        Answers .waitPoll s (fun t => t.chain c = { ch with hds := { met with esc := some false, offered := true } :: rest } ∧
          t.sched = { u.sched with esc := u.sched.esc ++ [(c, false)], escal := up u.sched.escal }))) ∧
    (∀ h rest, ch.hds = h :: rest → h.waits.getD x.n true = true → exec .waitPoll s = .next s) ∧
    (ch.hds = [] → exec .waitPoll s = .next s) ∧
    -- lateness and escalation
    (∀ h rest, ready → ch.hds = h :: rest → h.esc = none →
      let late := h.late ≠ 0 ∧ h.late < s.now
      (¬ late ∨ pkLate h.words = 0 → exec .lateCheck s = .next s) ∧
      (late → pkLate h.words = 2 → h.offered = false → s.sched.esc.length < 64 → Answers .lateCheck s (fun t =>
        t.chain c = { ch with hds := { h with esc := some true, offered := true } :: rest } ∧
        t.sched = { s.sched with esc := s.sched.esc ++ [(c, true)], escal := up s.sched.escal })) ∧
      (∀ l, late → pkLate h.words = 1 → rest = [] → h.saved = none → ch.state = .active → plain h.seq h.words l →
        Answers .lateCheck s (fun t => ended h.seq 6 l t ∧ (t.chain c).hds = [] ∧
          t.sched.lateCan = up s.sched.lateCan))) ∧
    -- the chain's entries in the Lodge's queue, oldest first, and the queue without one of them
    (let asked := (ch.hds.filter (fun h => h.esc.isSome && h.offered)).reverse
     (∀ l k, (dropEntry c l k).filter (fun p => p.1 != c) = l.filter (fun p => p.1 != c) ∧
       (dropEntry c l k).filter (fun p => p.1 == c) = (l.filter (fun p => p.1 == c)).eraseIdx k) ∧
     (asked[x.n]? = none → exec .escalationRelease s = .next s ∧ exec .escalationCancel s = .next s) ∧
     (∀ pre h rest, asked[x.n]? = some h → ch.hds = pre ++ h :: rest → (∀ g ∈ pre, g.seq ≠ h.seq) →
       Answers .escalationRelease s (fun t =>
       t.chain c = { ch with hds := pre ++ { h with esc := none, offered := false, eff := some x.t, late := x.t } :: rest } ∧
       t.sched.esc = dropEntry c s.sched.esc x.n ∧ only t ∧ t.mem = s.mem)) ∧
     (∀ h l, asked[x.n]? = some h → ch.hds = [h] → h.saved = none → ch.state = .active → plain h.seq h.words l →
       Answers .escalationCancel s (fun t => ended h.seq 6 l t ∧
         (t.chain c).hds = [] ∧ t.sched.esc = dropEntry c s.sched.esc x.n ∧ t.sched.lateCan = up s.sched.lateCan)))

/-- R180: which candidate a free slot takes. -/
def Claim.CandidatePick : Prop :=
  ∀ (l : List (Nat × Nat)) (c : Nat), (∀ q ∈ l, q.2 < 2 ^ 13) → pickCandidate l = some c →
    ∃ d, (d, c) ∈ l ∧ ∀ q ∈ l, d < q.1 ∨ (d = q.1 ∧ c ≤ q.2)

/-- R178, R179, R184: a slot takes its candidate. -/
def Claim.PacketTaken : Prop :=
  ∀ (s v : State) (b : BindRec) (c : Nat) (h : Head) (rest : List Head),
    let x := s.input
    let i := x.slot
    let ws := h.words
    let free := s.pkg.stage = 7 ∧ s.dbg.thermal = false ∧ (s.slot i).state = .free
    let id := s.nextId + 1
    let taken (q : Packet) (t : State) : Prop := (t.slot i).state = .busy ∧ (t.slot i).packet = some id ∧
      t.packet? id = some q ∧ q.slot = i ∧ q.head.words = ws ∧ q.e = false
    let quiet := ∀ k ∈ b.chains, lateCheck k s = s
    let headless := { s.modChain c (fun y => { y with hds := rest }) with nextId := id }
    let latched := latch i (packetOf id c i h headless) headless
    ((s.slot i).bind = none → exec .slotSelect s = .next s) ∧
    ((s.slot i).bind = some b → ¬ free → exec .slotSelect s = .next s) ∧
    ((s.slot i).bind = some b → quiet → slotCandidates s i b = [] → exec .slotSelect s = .next s) ∧
    ((s.slot i).bind = some b → free → quiet → pickCandidate (slotCandidates s i b) = some c → c < 4096 →
      (s.chain c).hds = h :: rest → h.saved = none → pkType ws = 1 → pkLevel ws ≠ 5 → s.packet? id = none →
      h.isLate s.now = false → (∀ p ∈ s.sched.packets, p.id < id) →
      (candidateIds s c = false → exec .slotSelect s = .next s) ∧ (pkKern ws = false → candidateIds s c = true) ∧
      -- the executor of the packet's scope finds nothing wrong with its word; `v` is what its translations left
      (wordCause id latched = (v, none) → v.sched = latched.sched → v.host = latched.host → candidateIds s c = true →
      (pkTxn ws = false → pkKern ws = false → Answers .slotSelect s (fun t => (t.chain c).hds = rest ∧ ∃ q j, taken q t ∧
        q.chain = c ∧ q.share = false ∧ q.dtid = none ∧ t.tiles.jobs = v.tiles.jobs ++ [j] ∧ q.tile = some j.id ∧
        j.word = BitVec.ofNat 256 (pkTile ws) ∧ j.packet = some id ∧ j.unit = unitOf (pkLevel ws) (scopeCore b) ∧
        j.tag = 0 ∧ j.strict = (pkStrict ws || (pkTile ws).testBit 11) ∧ t.mem = v.mem ∧ t.cores = v.cores)) ∧
      (pkTxn ws = true → Answers .slotSelect s (fun t => (t.chain c).hds = rest ∧ ∃ q a, taken q t ∧ q.chain = c ∧
        t.arb.attempts = v.arb.attempts ++ [a] ∧ q.dtid = some a.dtid ∧ (∀ d, h.dtid = some d → a.dtid = d) ∧
        a.packet = id ∧ a.state = .opening ∧ a.tag = 0 ∧ a.att = h.att ∧ a.td = v.now + 1000 * pkTxLimit ws ∧
        t.mem.waiting = v.mem.waiting ++ [.attempt a.dtid] ∧ t.tiles = v.tiles ∧ t.cores = v.cores)) ∧
      (pkTxn ws = false → pkKern ws = true → v.fab.loop = [] → Answers .slotSelect s (fun t =>
        (t.chain c).hds = rest ∧ ∃ q, taken q t ∧ q.chain = c ∧ t.tiles.jobs = v.tiles.jobs ∧
          (∀ k, (t.core k).place ≠ (v.core k).place → ∃ pl, (t.core k).place = some pl ∧ pl.slot = i ∧ pl.chain = c ∧
            (t.core k).txst.kind = 0 ∧ (t.core k).queues = [] ∧ (t.core k).spad = (v.core k).spad ∧
            (t.core k).vec = (v.core k).vec))) ∧
      (pkTxn ws = false → pkKern ws = true → 1 ≤ pkGlevel ws → pkGlevel ws ≤ 4 → pkGcount ws ≤ gidsLeft v → v.quiet →
        v.fab.loop = [] → Answers .slotSelect s (fun t => (t.chain c).hds = rest ∧ ∃ q gid, taken q t ∧ q.chain = c ∧
          q.groups = (List.range (pkGcount ws)).map gid ∧
          Placed v t ⟨id, i, c, (s.chain c).pt, ws, { strict := pkStrict ws }, pkGcount ws⟩ (pkGlevel ws) (scopeCore b)
            gid)))) ∧
    (s.pkg.stage = 7 → Answers .domainShare s (fun t =>
      t.sched = { s.sched with shares := s.sched.shares ++ [x.share] } ∧ t.cores = s.cores ∧ t.mem = s.mem)) ∧
    (s.pkg.stage ≠ 7 → exec .domainShare s = .next s) ∧
    (∀ sh more, (s.slot i).bind = some b → free → quiet → pickCandidate (slotCandidates s i b) = some 4096 →
      s.sched.shares = sh :: more → sh.words = ws → pkTxn ws = true → (∀ p ∈ s.sched.packets, p.id < id) →
      candidateIds s 4096 = true →
      (sh.root = s.self → ∀ p ∈ s.sched.packets, p.killed = true ∨ p.preempt = true →
        p.share = true ∨ p.dtid ≠ some sh.dtid) →
      Answers .slotSelect s (fun t => t.sched.shares = more ∧ ∃ q a, taken q t ∧ q.share = true ∧ q.home = sh.root ∧
        q.dtid = some sh.dtid ∧ t.arb.attempts = s.arb.attempts ++ [a] ∧ a.dtid = sh.dtid ∧ a.att = sh.att ∧
        a.td = sh.td ∧ a.state = .opening ∧ ((sh.root, sh.chain) ∈ s.dbg.far → (t.slot i).halted = true)))

/-- R186, R227, R315: a group retires and drains. -/
def Claim.GroupEnds : Prop :=
  ∀ (s : State) (g : Group),
    let x := s.input
    let over' := g.state = .running ∧ ∀ c ∈ g.cores, coreEnded g (s.core c) = true
    let drain := g.state = .draining ∧ ∀ c ∈ g.cores, coreDrained s c = true
    (s.group? x.gid = none → exec .groupRetire s = .next s ∧ exec .groupDrained s = .next s) ∧
    (s.group? x.gid = some g → ¬ over' → exec .groupRetire s = .next s) ∧
    (∀ p, s.group? x.gid = some g → over' → s.packet? g.packet = some p → p.dtid = none → Answers .groupRetire s (fun t =>
      ∃ y q, t.group? x.gid = some y ∧ y.state = .draining ∧ t.packet? p.id = some q ∧ t.mem.hbm = s.mem.hbm ∧
        (∀ c ∈ g.cores, ((s.core c).fault.isSome = true → (t.core c).fault = (s.core c).fault) ∧
          ((s.core c).fault = none → (s.core c).a.run = .exited → (s.core c).x.run = .exited →
            (s.core c).txst.kind ≠ 2 → residue (s.core c) ≠ 0 →
            (t.core c).fault = some ⟨0x0F, 0, BitVec.ofNat 64 (residue (s.core c))⟩) ∧
          ((s.core c).txst.kind = 2 → (t.core c).txst.kind = 0 ∧
            ((s.core c).fault = none → (t.core c).fault = some ⟨0x0B, 0, 0⟩)) ∧
          ((t.core c).fault.isSome = true → y.faulted = true ∧ q.e = true ∧ q.faults ≠ [])) ∧
        ((∀ c ∈ g.cores, (t.core c).fault = none) → q = p))) ∧
    (s.group? x.gid = some g → ¬ drain → exec .groupDrained s = .next s) ∧
    -- what a release at sys waits for: every remote store and write-back of the device (log 96)
    let sent := ∀ f ∈ s.fab.flights, ∃ core k, f.user = .stream core k
    (s.group? x.gid = some g → drain → (∀ c ∈ g.cores, (s.core c).l1 = [] ∧ l2Of s c = []) → g.cores ≠ [] → ¬ sent →
      exec .groupDrained s = .next s) ∧
    (s.group? x.gid = some g → drain → (∀ c ∈ g.cores, (s.core c).l1 = [] ∧ l2Of s c = []) → sent →
      Answers .groupDrained s (fun t => t.group? x.gid = none ∧ t.mem.hbm = s.mem.hbm ∧
        (sget {} t.fab.gids x.gid).live = false ∧ (sget {} t.fab.gids x.gid).freeAt = s.now + 2 * s.fab.tmo * 1000 ∧
        ∀ c ∈ g.cores, (t.core c).place = none ∧ (t.core c).fault = none ∧ (t.core c).a.run ≠ .running ∧
          (t.core c).spad = (s.core c).spad))

/-- R170, R186: a packet completes. -/
def Claim.PacketEnds : Prop :=
  ∀ (s : State) (p : Packet) (l : Loc),
    let x := s.input
    let c := p.chain
    let n := p.head.seq
    let ch := s.chain c
    s.packet? x.id = some p → s.quiet →
    (packetOver s p = false → exec .packetComplete s = .next s) ∧
    (p.share = false → packetGiven s p = true → exec .packetComplete s = .next s) ∧
    (packetOver s p = true → p.share = false → pkLevel p.head.words ≠ 5 → packetGiven s p = false → p.faults = [] →
      ch.base + 1 = n → ch.done = [] → (pw p.head.words 11).testBit 24 = false → physOf s ch.cw = some (.hbm l) →
      ch.irq = false → s.sched.packets.filter (fun q => !q.share && q.chain == c && q.head.seq == n) = [p] →
      Answers .packetComplete s (fun t =>
        t.mem = { s.mem.write l.off (toBytes 8 ((ch.err || p.e).toNat * 2 ^ 63 + n % 2 ^ 63)) with pcs := t.mem.pcs } ∧
        (t.chain c).base = n ∧
        (t.chain c).err = (ch.err || p.e) ∧ (t.slot p.slot).packet = none ∧ (t.slot p.slot).halted = false ∧
        ((s.slot p.slot).unbind = false → (t.slot p.slot).state = .free) ∧
        ((s.slot p.slot).unbind = true → (t.slot p.slot).state = .unbound ∧ (t.slot p.slot).bind = none) ∧
        t.cores = s.cores ∧ t.fab = s.fab))

/-- R170, R177 to R180, R184, R186, R199, R204, R227, R232, R315: of its candidates a free slot takes the one of least
effective deadline, then of least chain, whose work starts: a T.KERN's groups on the units of the slot, or a tile word at
its executor; a transaction opens an attempt; a share arrives and is taken in turn; a group whose cores have ended
retires with their faults, and once drained and released at sys its cores are idle (R266); a packet whose work is over
completes with its completion word, and its slot is free. The model's own choices: a slot takes no launch that finds too few
group IDs free (log 97); a release at sys waits for every remote store of the device (log 96); T_d of a packet that PREEMPT
returned counts from its new dispatch (log 110). -/
def Obligations.PacketEventResults : Prop :=
  Claim.CandidatePick ∧ Claim.PacketTaken ∧ Claim.GroupEnds ∧ Claim.PacketEnds

/-! ### The life of a tile word -/

/-- R204, R197: acceptance of a word of this device. -/
def Claim.TileAccept : Prop :=
  ∀ (s : State) (j : TileJob),
    let x := s.input
    let keeps (y : TileJob) : Prop := y.id = j.id ∧ y.word = j.word ∧ y.unit = j.unit ∧ y.core = j.core
    let failed (cause : BitVec 8) (sub handle : Nat) (addr : Word) (t : State) : Prop := ∃ y, t.job? j.id = some y ∧
      keeps y ∧ y.accepted = true ∧ y.started = true ∧ y.executed = true ∧ y.children = [] ∧
      y.count = min 65535 (j.count + 1) ∧ (j.fault = none → ∃ f, y.fault = some f ∧ f.cause = cause ∧ f.sub = sub ∧
        f.level = j.tw.level ∧ f.path = 0 ∧ f.addr = addr ∧ f.elem = 2 ^ 64 - 1 ∧ f.handle = handle)
    -- a packet's word enters the queue behind the words in it, where there is room and no earlier word of its chain waits
    let cap := match j.unit.level with | 1 => 16 | 2 => 32 | 3 => 64 | 4 => 256 | _ => 64
    let enters := j.packet = none ∨ (queued s j.unit < cap ∧
      ∀ y ∈ s.tiles.jobs.takeWhile (fun y => y.id != j.id), y.packet.isSome = true → y.chain = j.chain → y.unit = j.unit →
        y.accepted = true)
    let k : TileJob := if j.packet = none then j else { j with entry := s.nextId + 1 }
    let b : State := if j.packet = none then s else
      { s with
        nextId := s.nextId + 1,
        tiles := { s.tiles with jobs := s.tiles.jobs.filter (fun y => y.id != j.id) ++
          (s.tiles.jobs.filter (fun y => y.id == j.id)).map (fun y => { y with entry := s.nextId + 1 }) } }
    s.job? x.id = some j → x.flag = false →
    (j.accepted = true ∨ ¬ enters → exec .tileWordAccept s = .next s) ∧
    -- `v` is what the check's translations and reads left
    (∀ v e, j.accepted = false → enters → j.member = false → staticCheck k b = (v, .error e) → v.tiles = b.tiles →
      Answers .tileWordAccept s (fun t => failed e 0 0xFFFF 0 t ∧ t.mem = v.mem ∧ t.cores = v.cores)) ∧
    (∀ v y, j.accepted = false → enters → staticCheck k b = (v, .ok y) → v.tiles = b.tiles → j.op ≠ 0x18 →
      Answers .tileWordAccept s (fun t =>
        t.job? j.id = some { y with accepted := true } ∧ keeps y ∧ t.mem = v.mem ∧ t.cores = v.cores)) ∧
    (∀ v y u o, j.accepted = false → enters → j.member = false → staticCheck k b = (v, .ok y) → j.op = 0x18 →
      barFault j 128 false v = (u, o) → u.tiles = b.tiles →
      (∀ e, o = some e → Answers .tileWordAccept s (failed e.cause e.sub 0xFFFF j.tw.bar)) ∧
      -- its image's words w11 to w14 are read, and no others
      (∀ t r, o = none → each (fun i s => agentRead j.agent (j.tw.bar.toNat + 8 * i) 8 s) [11, 12, 13, 14] u = (t, r) →
        t.tiles = b.tiles →
        (∀ e, r = .error e → Answers .tileWordAccept s (failed e.cause e.sub 0xFFFF j.tw.bar)) ∧
        (∀ bs, r = .ok bs →
          let ws := List.replicate 11 0 ++ wordsOf 4 bs.flatten ++ [0]
          (kernOk j ws = false → Answers .tileWordAccept s (failed 0x22 0 0xFFFF 0)) ∧
          (kernOk j ws = true → Answers .tileWordAccept s (fun w =>
            w.job? j.id = some { k with accepted := true, img := ws } ∧
            (w.core j.core).tl j.tl = ((t.core j.core).tl j.tl).complete j.num false ∧ w.mem = t.mem)))))

/-- R203, R205, R388: a word starts in its turn. -/
def Claim.TileStart : Prop :=
  ∀ (s : State) (j : TileJob),
    let x := s.input
    let keeps (y : TileJob) : Prop := y.id = j.id ∧ y.word = j.word ∧ y.unit = j.unit ∧ y.core = j.core
    let failed (cause : BitVec 8) (sub handle : Nat) (addr : Word) (t : State) : Prop := ∃ y, t.job? j.id = some y ∧
      keeps y ∧ y.accepted = true ∧ y.started = true ∧ y.executed = true ∧ y.children = [] ∧
      y.count = min 65535 (j.count + 1) ∧ (j.fault = none → ∃ f, y.fault = some f ∧ f.cause = cause ∧ f.sub = sub ∧
        f.level = j.tw.level ∧ f.path = 0 ∧ f.addr = addr ∧ f.elem = 2 ^ 64 - 1 ∧ f.handle = handle)
    let r := settleLrecs s
    let earlier := (r.tiles.jobs.takeWhile (fun k => k.id != j.id)).filter (fun k => k.unit == j.unit && !k.kernHeld &&
      (k.packet.isNone || k.accepted))
    -- words in progress at the executor: started there, or child words of others begun there
    let own := r.tiles.jobs.filter (fun k => k.unit == j.unit && k.started && (k.tw.level == 0) == (j.tw.level == 0))
    let below := if j.tw.level = 0 then [] else r.tiles.jobs.filter (kidRuns r j.unit)
    let cap := match j.unit.level with | 2 => 4 | 3 => 8 | 4 => 16 | 5 => 8 | _ => 1
    -- its turn has come; a child word that entered the queue before it comes before an ASYNC word (R205)
    let may := j.accepted = true ∧ j.started = false ∧ j.op ≠ 0x18 ∧ own.length + below.length < cap ∧
      lrecBefore r j = false ∧
      (j.tw.async = true ∧ j.op ≠ 0x19 → (∀ k ∈ earlier, k.started = true) ∧
        ∀ p ∈ r.tiles.jobs, ∀ k ∈ p.kids, k.unit = j.unit → k.begun = none → ∀ e, k.entered = some e → j.entry ≤ e) ∧
      (¬ (j.tw.async = true ∧ j.op ≠ 0x19) → ∀ k ∈ earlier, sameSource k j = false)
    let j1 : TileJob := { j with started := true, recs := copyRecords r j, begun := r.nextId + 1 }
    let r1 : State := { r with nextId := r.nextId + 1 }
    s.job? x.id = some j → x.flag = false →
    (¬ may → exec .tileWordStart s = .next r) ∧
    (∀ c h, may → j.member = false → recordCheck r j = some (c, h) →
      Answers .tileWordStart s (fun t => failed c 0 h 0 t ∧ t.mem = s.mem ∧ t.cores = s.cores)) ∧
    (may → recordCheck r j = none → Answers .tileWordStart s (fun t =>
      t.job? j.id = some { j1 with children := otherMembers r1 j1, kids := (tileCtx r1 j1).newKids } ∧ t.mem = s.mem ∧
      t.cores = s.cores ∧
      ∀ i ∈ otherMembers r1 j1, ∃ a, Posted t (.tile (s.memberAt i) a) ∧ a.word = j.word ∧ a.core = j.core ∧
        a.src = s.self ∧ a.id = j.id ∧ a.att = j.att ∧ a.chain = j.chain ∧ a.strict = j.strict ∧ a.key = j.key ∧
        a.ctr = j.ctr))

/-- R207, R222: completion, its record and its timeline or packet. -/
def Claim.TileComplete : Prop :=
  ∀ (s : State) (j : TileJob),
    let x := s.input
    s.job? x.id = some j → x.flag = false →
    (workOver s j = true ↔ j.executed = true ∧ j.children = [] ∧ j.member = false ∧
      (j.op = 0x0B → j.hbase = none) ∧
      (j.phase = 0 → j.fault = none → dataOp j.op = true → (tileCtx s j).far s = false)) ∧
    (workOver s j = false → exec .tileWordComplete s = .next s) ∧
    ((dataOp j.op = false ∨ j.tw.bar = 0) → arriveBar j s = (s, .ok ())) ∧
    (∀ t e, dataOp j.op = true → j.tw.bar ≠ 0 → barTarget j s = (t, .error e) → arriveBar j s = (t, .error e)) ∧
    (inWindow j.tw.bar.toNat = true → barTarget j s = (s, .error .barspace)) ∧
    (∀ t, workOver s j = true → j.packet = none → arriveBar j s = (t, .ok ()) → t.tiles = s.tiles →
      (j.fault = none → Answers .tileWordComplete s (fun u => u.job? j.id = none ∧ u.mem = t.mem ∧
        u.core j.core = (t.core j.core).setTl j.tl (((t.core j.core).tl j.tl).complete j.num false))) ∧
      (∀ f, j.fault = some f → j.op ≠ 0x18 → Answers .tileWordComplete s (fun u => u.job? j.id = none ∧ u.mem = t.mem ∧
        (u.core j.core).tl j.tl = ((t.core j.core).tl j.tl).complete j.num true ∧
        (let off := ((t.core j.core).frec.toNat / 2 ^ 9 % 2 ^ 12 * 512 + 64 * j.tl) % 2 ^ 21
         (t.core j.core).frec.getLsbD 0 = true → fromBytes ((t.core j.core).spadBytes off 8) % 256 = 0 →
          (u.core j.core).spadBytes off 64 = ([f.cause.toNat + f.level * 2 ^ 8 + f.sub * 2 ^ 11 + j.count * 2 ^ 16 +
            j.op * 2 ^ 32 + j.tw.level * 2 ^ 40 + j.skipped.toNat * 2 ^ 43, f.path % 2 ^ 56, f.addr.toNat, f.elem,
            f.handle, f.time, 0, 0]).flatMap (toBytes 8)) ∧
        (j.tag ≠ 0 → (sget 0 u.arb.hwFlags j.tag).getLsbD 9 = true)))) ∧
    (∀ t e, workOver s j = true → j.packet = none → arriveBar j s = (t, .error e) → t.tiles = s.tiles → j.op ≠ 0x18 →
      Answers .tileWordComplete s (fun u => u.job? j.id = none ∧ u.mem = t.mem ∧
        (u.core j.core).tl j.tl = ((t.core j.core).tl j.tl).complete j.num true)) ∧
    (∀ t p, workOver s j = true → j.packet = some p → releaseUnit j.unit s = (t, false) →
      exec .tileWordComplete s = .next t) ∧
    (∀ t u p q, workOver s j = true → j.packet = some p → releaseUnit j.unit s = (t, true) →
      arriveBar j t = (u, .ok ()) → u.packet? p = some q → Answers .tileWordComplete s (fun v =>
        v.job? j.id = none ∧ v.cores = u.cores ∧ v.mem = u.mem ∧ ∃ k, v.packet? p = some k ∧ k.done = true ∧
          (j.fault = none → k = { q with done := true }) ∧ (j.fault.isSome = true → k.e = true)))

/-- R197, R468: a regrouping T.KERN places its groups. -/
def Claim.TileRegroup : Prop :=
  ∀ (s : State) (j : TileJob),
    let x := s.input
    s.job? x.id = some j → x.flag = false →
    (let first := (s.tiles.jobs.find? (fun k => k.unit == j.unit && k.kernHeld)).map (fun k => k.id)
     let drained := ∀ p, j.launch s = some p → unitDrained s p.id j.unit = true
     let level := pkGlevel j.img
     (j.kernHeld = false ∨ first ≠ some j.id ∨ j.launch s = none ∨ ¬ drained → exec .regroupPlacement s = .next s) ∧
     (gidsLeft s < pkGcount j.img → exec .regroupPlacement s = .next s) ∧
     (∀ p, j.kernHeld = true → first = some j.id → j.launch s = some p → drained → 1 ≤ level → level ≤ 4 →
       pkGcount j.img ≤ gidsLeft s → s.quiet → s.fab.loop = [] →
       let n := pkGcount j.img
       let strict := pkStrict p.head.words || j.strict
       let cores := (List.range (n * unitCores level)).map (fun i => unitFirst j.unit + i)
       -- the launch as its groups carry it: in a transaction with the attempt's tag, ATT and flags (R197)
       let tx : TxSt := match p.dtid.bind s.attempt? with
         | some a => { tag := a.tag, att := a.att, kind := 1, pflags := a.pflags, strict := strict }
         | none => { strict := strict }
       Answers .regroupPlacement s (fun t => t.job? j.id = none ∧
         (∃ gid q, t.packet? p.id = some q ∧ q.groups = p.groups ++ (List.range n).map gid ∧
           Placed s t ⟨p.id, p.slot, p.chain, p.root, j.img, tx, n⟩ level (unitFirst j.unit) gid) ∧
         (p.preempt = false → ∀ c, c ∉ cores → t.core c = s.core c) ∧
         -- a pre-emption asked for before reaches the new groups too (R187)
         (p.preempt = true → (∀ g ∈ s.sched.groups, g.packet = p.id → g.gid ∈ p.groups) →
           (∀ g ∈ p.groups, (sget {} s.fab.gids g).live = true) →
           (∀ c, c ∉ cores → t.core c = s.core c) ∧
           ∀ c ∈ cores, (t.core c).fault = none → (t.core c).a.preempt = true ∧ (t.core c).x.preempt = true) ∧
         (∀ u k l, xlatAt (unitFirst j.unit) p.root (pkCode j.img) false s = (u, .ok k) → n = 1 → k.phys = .hbm l →
           l.ver = none → t.mem.hbm = s.mem.hbm ∧ t.mem.poison = s.mem.poison))))

/-- R465: the history of T.AMAX. -/
def Claim.TileHistory : Prop :=
  ∀ (s : State) (j : TileJob),
    let x := s.input
    let keeps (y : TileJob) : Prop := y.id = j.id ∧ y.word = j.word ∧ y.unit = j.unit ∧ y.core = j.core
    s.job? x.id = some j → x.flag = false →
    (∀ h a b v rest, j.hbase = some h → j.vals = (a, b, v) :: rest →
      let va := (h + BitVec.ofNat 64 (64 * (tmP0 j.tw % 2 ^ 16) + 4 * (tmP1 j.tw % 16))).toNat
      let over' := j.op = 0x0B ∧ j.executed = true ∧ (j.tw.level = 5 → j.phase = 1)
      (¬ over' → exec .amaxHistoryWrite s = .next s) ∧
      (∀ u e, over' → j.member = false → xlatAt 512 j.root va true s = (u, .error e) → u.tiles = s.tiles →
        Answers .amaxHistoryWrite s (fun t => t.mem = u.mem ∧ ∃ y, t.job? j.id = some y ∧ keeps y ∧ y.hbase = none ∧ y.count = min 65535 (j.count + 1))) ∧
      (∀ z k l t, over' → j.member = false → xlatAt 512 j.root va true s = (z, .ok k) → k.phys = .hbm l →
        homeStore l (toBytes 4 v) ⟨j.core, j.tag⟩ .pergola z = (t, .ok ()) → t.tiles = s.tiles →
        Answers .amaxHistoryWrite s (fun u => u.mem = t.mem ∧ u.job? j.id = some { j with hbase := none }))) ∧
    (j.hbase = none ∨ j.vals = [] → exec .amaxHistoryWrite s = .next s)

/-- R470: T.WAITEV reads its event word again. -/
def Claim.TilePoll : Prop :=
  ∀ (s : State) (j : TileJob),
    let x := s.input
    s.job? x.id = some j → x.flag = false →
    (j.op ≠ 0x1A ∨ j.started = false ∨ j.executed = true → exec .waitevPoll s = .next s) ∧
    (∀ z t bs, j.op = 0x1A → j.started = true → j.executed = false → barFault j 8 false s = (z, none) →
      eventRead j z = (t, .ok bs) → t.tiles = s.tiles →
      let v := fromBytes bs
      let holds := v / 2 ^ 63 % 2 = 1 ∨ (v % 2 ^ 32 + 2 ^ 32 - tmP0 j.tw) % 2 ^ 32 < 2 ^ 31
      (holds → Answers .waitevPoll s (fun u => u.job? j.id = some { j with executed := true })) ∧
      (¬ holds → exec .waitevPoll s = .next t)) ∧
    (∀ z e, j.op = 0x1A → j.started = true → j.executed = false → barFault j 8 false s = (z, some e) → z.tiles = s.tiles →
      Answers .waitevPoll s (fun t => t.mem = z.mem ∧ t.cores = z.cores ∧ ∃ y, t.job? j.id = some y ∧
        y.executed = true ∧ y.count = min 65535 (j.count + 1)))

/-- An event of a word that no executor holds changes nothing. -/
def Claim.TileNone : Prop :=
  ∀ s : State, s.input.flag = false → s.job? s.input.id = none →
    ∀ i ∈ [Instr.tileWordAccept, .tileWordStart, .tileWordComplete, .regroupPlacement, .amaxHistoryWrite, .waitevPoll,
      .childWordComplete], exec i s = .next s

/-- R220, R221, R223: a member reports. -/
def Claim.TileReport : Prop :=
  ∀ (s : State) (j : TileJob),
    let x := s.input
    let n := x.nats
    let pos := (s.members.filter (fun d => decide (d < x.dev))).length
    let said (f : Option TileFault) : Prop := if x.flag = true then ∃ k, f = some k ∧ k.cause.toNat = n.getD 0 0 % 256 ∧
      k.sub = n.getD 1 0 ∧ k.level = n.getD 2 0 ∧ k.path = n.getD 3 0 ∧ k.addr.toNat = n.getD 4 0 % 2 ^ 64 ∧
      k.elem = n.getD 5 0 ∧ k.handle = n.getD 6 0 else f = none
    let merged (f g : Option TileFault) : Prop := (f = none → g = j.fault) ∧ (j.fault = none → g = f) ∧
      ∀ a b, j.fault = some a → f = some b → g = some (if b.path < a.path then b else a)
    let left := j.children.filter (fun i => i != pos)
    -- the members that have no more work
    let gone := if x.n = 1 then j.gone ++ [pos] else j.gone
    s.job? x.id = some j →
    (j.member = true ∨ pos ∉ j.children → exec .childWordComplete s = .next s) ∧
    (j.member = false → pos ∈ j.children → Answers .childWordComplete s (fun t => t.mem = s.mem ∧ t.cores = s.cores ∧
      ∃ y f, t.job? j.id = some y ∧ said f ∧ merged f y.fault ∧ y.count = min 65535 (j.count + n.getD 8 0) ∧
        y.skipped = (j.skipped || x.wr) ∧ y.word = j.word ∧ y.gone = gone ∧
        y.stop = (j.stop || (j.tw.stop && y.fault.isSome)) ∧
        -- the stop reaches the members that have work, and in the first pass those that wait for the second (R223)
        (j.tw.stop = true → y.fault.isSome = true → j.stop = false →
          ∀ i ∈ (if j.phase = 0 then (otherMembers s j).filter (fun i => !gone.contains i) else left),
            Posted t (.stop (s.memberAt i) j.id)) ∧
        (let goes := j.executed = true ∧ left = [] ∧ j.phase = 0 ∧ (tileCtx s j).far s = true
         (¬ goes → y.children = left ∧ y.executed = j.executed ∧ y.phase = j.phase) ∧
         (goes → y.phase = 1 ∧ y.executed = false ∧ (y.stop = true → y.vals = []) ∧
           y.children = (otherMembers s j).filter (fun i => (tileCtx s j).second s i && !gone.contains i) ∧
           ∀ i ∈ y.children, Posted t (.finish (s.memberAt i) j.id y.vals) ∧
             (y.stop = true → Posted t (.stop (s.memberAt i) j.id))))))

/-- R212, R214: a member goes on to its second pass. -/
def Claim.TileSecondPass : Prop :=
  ∀ (s : State) (j : TileJob),
    let x := s.input
    x.flag = true → s.tiles.jobs.find? (fun k => k.member && k.origin == x.dev && k.far == x.id) = some j →
    (j.executed = false ∨ j.phase ≠ 0 → exec .tileWordStart s = .next s) ∧
    (j.executed = true → j.phase = 0 → Answers .tileWordStart s (fun t => t.mem = s.mem ∧ t.cores = s.cores ∧
      ∃ y, t.job? j.id = some y ∧ y.phase = 1 ∧ y.executed = false ∧ y.vals.length = x.nats.length / 3 ∧
        ∀ i, i < x.nats.length / 3 → y.vals[i]? =
          some (x.nats.getD (3 * i) 0, x.nats.getD (3 * i + 1) 0, x.nats.getD (3 * i + 2) 0)))

/-- R204, R206, R208: a copy of a level-5 word arrives. -/
def Claim.TileMemberAccept : Prop :=
  ∀ s : State,
    let a := s.input.tile
    let m := memberTag s a.dtid a.att
    let room := queued s ⟨4, 0⟩ < 256 ∧ (a.dtid = none ∨ m.1 ≠ 0)
    let j := memberJob a (s.nextId + 1) { s with nextId := s.nextId + 1 }
    -- key and counter are the root's, which its copy brings (R453)
    let s1 : State := { s with nextId := s.nextId + 1, tiles := { s.tiles with jobs := s.tiles.jobs ++ [j] } }
    s.input.flag = true →
    (¬ room → exec .tileWordAccept s = .next s) ∧
    (∀ y z, y.member = true → drawsKey y.op y.tw = true → keyRead y z = (z, some y)) ∧
    (∀ v k, room → s.job? (s.nextId + 1) = none → staticCheck j s1 = (v, .ok k) → v.tiles = s1.tiles → j.op ≠ 0x18 →
      Answers .tileWordAccept s (fun t => ∃ y, t.tiles.jobs = s.tiles.jobs ++ [y] ∧ y.member = true ∧ y.accepted = true ∧
        y.started = false ∧ y.origin = a.src ∧ y.far = a.id ∧ y.word = a.word ∧ y.core = a.core ∧ y.unit = ⟨4, 0⟩ ∧
        y.tag = m.1 ∧ y.owner = m.2.2 ∧ y.root = (s.chain a.chain).pt ∧ t.mem = v.mem ∧ t.cores = v.cores)) ∧
    (∀ v e, room → s.job? (s.nextId + 1) = none → staticCheck j s1 = (v, .error e) → v.tiles = s1.tiles → Answers .tileWordAccept s (fun t =>
      t.tiles.jobs = s.tiles.jobs ∧ ∃ f, Posted t (.report a.src a.id 1 (some f) 1 false []) ∧
        f.cause = e ∧ f.level = 4 ∧ f.path = s.memberPos * 2 ^ 48))

/-- R173, R223, R470: stops from the root. -/
def Claim.TileStopped : Prop :=
  ∀ s : State,
    let x := s.input
    let shares := s.sched.packets.filter (fun p => p.share && p.home == x.dev && p.chain == x.chain)
    let hit (j : TileJob) : Bool := j.member && j.origin == x.dev && j.far == x.id
    (x.flag = false → Answers .tileStop s (fun t => t.cores = s.cores ∧ t.mem = s.mem ∧ t.sched = s.sched ∧
      t.tiles = { s.tiles with jobs := s.tiles.jobs.map (fun j => if hit j then { j with stop := true } else j) })) ∧
    let asked (h : Share) : Bool := h.root == x.dev && h.chain == x.chain && !pkTxn h.words
    (x.flag = true → shares = [] → x.wr = true → exec .tileStop s = .next s) ∧
    (x.flag = true → shares = [] → x.wr = false → Answers .tileStop s (fun t => t.cores = s.cores ∧ t.mem = s.mem ∧
      t.tiles = s.tiles ∧ t.sched = { s.sched with shares := s.sched.shares.filter (fun h => !asked h) } ∧
      ((∃ h ∈ s.sched.shares, asked h = true) → Posted t (.shareEnd x.dev x.chain none 0 true)) ∧
      ((∀ h ∈ s.sched.shares, asked h = false) → t = s))) ∧
    (∀ p, x.flag = true → shares = [p] → x.wr = true → Answers .tileStop s (fun t => t.cores = s.cores ∧
      t.sched = s.sched ∧ ∀ j ∈ t.tiles.jobs, j.member = false → j.owner = p.id → j.op = 0x1A → j.executed = true)) ∧
    (∀ p, x.flag = true → shares = [p] → x.wr = false → s.packet? p.id = some p → p.settled = false → p.killed = false →
      p.dtid = none → Answers .tileStop s (fun t => ∃ q, t.packet? p.id = some q ∧ q.killed = true ∧ q.e = true))

/-- R173, R197, R199, R203 to R208, R220 to R223, R465, R468 to R470: a word received is checked, and is queued or ends
with its executor's own fault; a member's copy waits while its queue is full; a word starts in its turn, a level-5 word
going to the members; a member's report takes its place among the children, the least path's fault is kept, the counts
add up; a stop reaches the member's word; the word completes after its arrival on BAR; a regrouping T.KERN places its
groups once its unit has drained; a T.AMAX history is written once; a T.WAITEV reads its event word again. The model's own
choices: a packet's word releases every core of its unit as it completes (log 70); a regroup waits for free group IDs
(log 97). -/
def Obligations.TileLifeResults : Prop :=
  Claim.TileAccept ∧ Claim.TileStart ∧ Claim.TileComplete ∧ Claim.TileRegroup ∧ Claim.TileHistory ∧ Claim.TilePoll ∧
  Claim.TileNone ∧ Claim.TileReport ∧ Claim.TileSecondPass ∧ Claim.TileMemberAccept ∧ Claim.TileStopped

/-! ### The ends of waits, and the copy engine -/

/-- R224, R229, R235, R248, R267, R268, R314, R316, R350, R385 to R390, R429, R431, R449, R478: a release event tries the
word at which its stream is blocked again, and changes nothing where no word is blocked so; among accesses that wait for
tile bits a ready copy ranks above the matrix engine and that above a stream; the watchdog turns a word that stays
blocked for 2^24 cycles into a STALLWD trap, nest fault or copy error; the copy engine takes the head of its queue, ends
one whose records are bad with RECORD, waits for its tile bits, moves every position and passes the command's tl0 number;
a cancelled command passes without error; a nest that ended passes its tl1 number. -/
def Obligations.ReleaseAndCopyResults : Prop :=
  (∀ (s : State) (e : Instr) (why : Stall),
    let x := s.input
    let blocked := issuing s x.core x.stream = true ∧ ((s.core x.core).stream x.stream).stall = some why
    (e, why) ∈ [(Instr.queueStallRelease, Stall.queue), (.nestStart, .nest), (.tlwaitComplete, .tlwait),
      (.bwaitComplete, .bwait), (.taggedAccessPerformed, .tag)] → x.flag = false →
    (x.stream = .m ∨ ¬ blocked → exec e s = .next s) ∧
    (x.stream ≠ .m → blocked → Retries e s x.core x.stream)) ∧
  (∀ (s : State) (t : State) (bs : List Byte) (i : Instr) (n : Nat) (w : RemoteWait),
    let x := s.input
    let told := s.modCore x.core (fun c => c.modStream x.stream (fun y =>
      { y with wait := some { w with result := some (.data []) } }))
    let f := told.focused x.core x.stream
    (((s.core x.core).stream x.stream).stall ≠ some .inv → exec .invComplete s = .next s) ∧
    (x.stream ≠ .m → ((s.core x.core).stream x.stream).stall = some .inv → issuing s x.core x.stream = true →
      ((s.core x.core).stream x.stream).wait = some w → fetchInstr x.core x.stream f.pc.toNat f = (t, .ok bs) →
      decode x.stream bs = .ok (i, n) → waits i = true → Answers .invComplete s (fun u => exec i t = .next u))) ∧
  (∀ (s : State) (q : RemoteReq),
    let x := s.input
    let mine (r : RemoteReq) : Bool := r.src == x.dev && r.id == x.id
    x.flag = true →
    let old := q.time + s.fab.tmo * 1000 < s.now
    let up (n : Nat) : Nat := if n < 2 ^ 32 - 1 then n + 1 else n
    (s.fab.tagged.find? mine = none → exec .taggedAccessPerformed s = .next s) ∧
    (∀ core t, s.fab.tagged.find? mine = some q → ¬ old → q.pa / 2 ^ 54 ≠ 1 → spadCore s q.pa = some core →
      (homeSpad core (q.pa % 2 ^ 21) q s = (t, none) → exec .taggedAccessPerformed s = .next s) ∧
      (∀ r, homeSpad core (q.pa % 2 ^ 21) q s = (t, some r) → Answers .taggedAccessPerformed s (fun u =>
        u.cores = t.cores ∧ u.mem = t.mem ∧ u.fab.tagged = t.fab.tagged.filter (fun r => !mine r) ∧
        (∀ route, pickRoute t q.src 4 = some route → u.fab.sent = t.fab.sent ++ [⟨.response q.src q.id r, route⟩])))) ∧
    (s.fab.tagged.find? mine = some q → ¬ old → q.pa / 2 ^ 54 ≠ 1 → spadCore s q.pa = none →
      Answers .taggedAccessPerformed s (fun u => u.cores = s.cores ∧
        u.fab.tagged = s.fab.tagged.filter (fun r => !mine r) ∧ u.fab.stale = up s.fab.stale)) ∧
    (s.fab.tagged.find? mine = some q → old → Answers .taggedAccessPerformed s (fun u =>
      u.cores = s.cores ∧ u.mem = s.mem ∧ u.fab.sent = s.fab.sent ∧
      u.fab.tagged = s.fab.tagged.filter (fun r => !mine r) ∧ u.fab.expired = up s.fab.expired))) ∧
  (∀ s : State,
    let x := s.input
    let c := s.core x.core
    let w := StreamKind.x
    let copyGoes := c.copyStall = true ∧ c.halted = false ∧ ∃ r, c.copyRun = some r ∧ copyReady c r = true
    let f := s.focused x.core .m
    -- a ready copy comes before the others at its tiles
    (∀ t k, copyGoes → (∃ r, c.copyRun = some r ∧ t ∈ r.tiles.map (fun p => p.1)) →
      c.stepReady k t = false ∧ c.moveReady k t = false) ∧
    (x.engine = .copy →
      (copyGoes → exec .tileAccessPerformed s = exec .copyCommandComplete s) ∧
      (¬ copyGoes → exec .tileAccessPerformed s = .next s)) ∧
    (x.engine = .m →
      (issuing s x.core .m = false ∨ c.m.stall = false → exec .tileAccessPerformed s = .next s) ∧
      (∀ t i, issuing s x.core .m = true → c.m.stall = true → stepWord x.core f = (t, some i) →
        waitsStep i = true →
        Answers .tileAccessPerformed s (fun u => exec i t = .next u))) ∧
    (x.engine = .x →
      ((issuing s x.core w = false ∨ (c.stream w).stall ≠ some .tile) → exec .tileAccessPerformed s = .next s) ∧
      (issuing s x.core w = true → (c.stream w).stall = some .tile → Retries .tileAccessPerformed s x.core w))) ∧
  (∀ (s : State) (k : StreamKind) (e : EngineKind) (why : Stall),
    let x := s.input
    let y := (s.core x.core).stream k
    let due := why.counted = true ∧ 2 ^ 24 ≤ y.stallCnt ∧ issuing s x.core k = true
    let f := s.focused x.core k
    (e, k) ∈ [(EngineKind.a, StreamKind.a), (.x, .x)] → x.engine = e →
    (y.stall = none → exec .stallWatchdog s = .next s) ∧
    (y.stall = some why → ¬ due → exec .stallWatchdog s = .next s) ∧
    (∀ t bs i n u, y.stall = some why → due → fetchInstr x.core k f.pc.toNat f = (t, .ok bs) →
      decode k bs = .ok (i, n) → waits i = true → exec i t = .next u →
      let z := (u.core x.core).stream k
      let still := z.stall = some why ∧ z.pc = y.pc ∧ z.stallCnt = y.stallCnt
      (¬ still → exec .stallWatchdog s = .next u) ∧
      (still → exec .stallWatchdog s = .next (trapEntry x.core k 0x0E 0 0 id s)))) ∧
  (∀ s : State,
    let x := s.input
    let c := s.core x.core
    let due := c.m.stall = true ∧ 2 ^ 24 ≤ c.m.stallCnt ∧ issuing s x.core .m = true
    let ends := Answers .stallWatchdog s (fun u => (u.core x.core).m.run = false ∧ (u.core x.core).m.fault = true ∧
      (u.core x.core).tl 1 = (c.tl 1).complete c.m.nest true ∧ u.mem = s.mem)
    let f := s.focused x.core .m
    (x.engine = .m → ¬ due → exec .stallWatchdog s = .next s) ∧
    (∀ t, x.engine = .m → due → stepWord x.core f = (t, none) → ends) ∧
    (∀ t i u, x.engine = .m → due → stepWord x.core f = (t, some i) → waitsStep i = true → exec i t = .next u →
      ((u.core x.core).m.stall = true → ends) ∧ ((u.core x.core).m.stall = false → exec .stallWatchdog s = .next u)) ∧
    (∀ r, x.engine = .copy → c.copyStall = true → 2 ^ 24 ≤ c.copyCnt → c.halted = false → c.copyRun = some r →
      (copyReady c r = true → exec .stallWatchdog s = .next (s.modCore x.core (fun c => { c with copyCnt := 0 }))) ∧
      (copyReady c r = false → Answers .stallWatchdog s (fun t => (t.core x.core).copyRun = none ∧
        (t.core x.core).copyStall = false ∧ (t.core x.core).tl 0 = (c.tl 0).complete r.cmd.num true ∧ t.mem = s.mem ∧
        (t.core x.core).a = c.a ∧ (t.core x.core).x = c.x))) ∧
    (x.engine = .copy → c.copyStall = false ∨ c.copyCnt < 2 ^ 24 ∨ c.halted = true →
      exec .stallWatchdog s = .next s)) ∧
  (∀ (s : State),
    let x := s.input
    let c := s.core x.core
    let key := 1024 + x.core
    let taken (rest : List CopyCmd) (t : State) : Prop := (t.core x.core).copyQ = rest ∧ (t.core x.core).spad = c.spad ∧
      (t.core x.core).queues = c.queues ∧ t.mem = s.mem
    (c.halted = true ∨ c.copyRun.isSome = true ∨ c.copyQ = [] → exec .copyCommandStart s = .next s) ∧
    (∀ id h r rest, c.halted = false → c.copyRun = none → c.copyQ = .lrec id h r :: rest →
      Answers .copyCommandStart s (fun t => taken rest t ∧ (t.core x.core).tls = c.tls ∧
        t.tiles = { s.tiles with tables := smod [] s.tiles.tables key (fun m => sset 0 m h r) })) ∧
    (∀ num dst src ow consume scope can k rest, c.halted = false → c.copyRun = none →
      c.copyQ = .copy num dst src ow consume scope can k :: rest →
      let la := loadLayout s key src 1023
      let lb := loadLayout s key dst 1023
      let ends := Answers .copyCommandStart s (fun t => (t.core x.core).copyQ = rest ∧ (t.core x.core).copyRun = none ∧
        (t.core x.core).tl 0 = (c.tl 0).complete num true ∧ t.mem = s.mem)
      (la = none ∨ lb = none → ends) ∧
      (∀ a b, la = some a → lb = some b →
        (a.count ≠ b.count ∨ a.fmt ≠ b.fmt → ends) ∧
        (a.count = b.count → a.fmt = b.fmt → Answers .copyCommandStart s (fun t => taken rest t ∧
          ∃ r, (t.core x.core).copyRun = some r ∧ r.cmd = .copy num dst src ow consume scope can k ∧
            r.srcRec = (recordWords s key src).map (BitVec.ofNat 768) ∧
            r.dstRec = (recordWords s key dst).map (BitVec.ofNat 768) ∧
            (t.core x.core).copyStall = !copyReady c r))))) ∧
  (∀ s : State,
    let x := s.input
    let c := s.core x.core
    let asked (r : CopyRun) : Prop := c.halted = false ∧ ∃ e ∈ c.cancels, e.1 = r.cmd.num ∧ e.2 = .cancelling
    (c.copyRun = none → exec .copyCommandComplete s = .next s ∧ exec .copyCancelAck s = .next s) ∧
    (c.halted = true → exec .copyCommandComplete s = .next s) ∧
    (∀ r, c.copyRun = some r → c.halted = false → copyReady c r = false →
      exec .copyCommandComplete s = .next (s.modCore x.core (fun c => { c with copyStall := true }))) ∧
    (∀ r a b t err, c.copyRun = some r → c.halted = false → copyReady c r = true → r.layouts = some (a, b) →
      copyMove x.core r a.count s = (t, err) → Answers .copyCommandComplete s (fun u =>
        (u.core x.core).copyRun = none ∧ u.mem = t.mem ∧ u.host = t.host ∧
        (u.core x.core).tl 0 = ((t.core x.core).tl 0).complete r.cmd.num err.isSome ∧
        (err = none → (u.core x.core).spad = (t.core x.core).spad) ∧
        (u.core x.core).full = (r.tiles.foldl (fun c p => c.tileAfter p.2 p.1) (t.core x.core)).full)) ∧
    (∀ r, c.copyRun = some r → ¬ asked r → exec .copyCancelAck s = .next s) ∧
    (∀ r, c.copyRun = some r → asked r → copyReady c r = false ∨ x.n = 0 → Answers .copyCancelAck s (fun u =>
      (u.core x.core).copyRun = none ∧ u.mem = s.mem ∧ (u.core x.core).spad = c.spad ∧ (u.core x.core).full = c.full ∧
      (r.cmd.num, CancelStatus.cancelled) ∈ (u.core x.core).cancels ∧
      (u.core x.core).tl 0 = (c.tl 0).complete r.cmd.num false)) ∧
    (∀ r t err, c.copyRun = some r → asked r → copyReady c r = true → 0 < x.n → copyMove x.core r x.n s = (t, err) →
      Answers .copyCancelAck s (fun u => (u.core x.core).copyRun = none ∧ u.mem = t.mem ∧
        (u.core x.core).spad = (t.core x.core).spad ∧
        (u.core x.core).tl 0 = ((t.core x.core).tl 0).complete r.cmd.num false))) ∧
  (∀ s : State,
    let x := s.input
    let m := (s.core x.core).m
    let halted := (s.core x.core).halted
    (m.run = false ∨ m.ended = false ∨ halted = true → exec .nestEnd s = .next s) ∧
    (m.run = true → m.ended = true → halted = false → Answers .nestEnd s (fun t => (t.core x.core).m.run = false ∧
      (t.core x.core).m.ended = false ∧ (t.core x.core).m.fault = false ∧ (t.core x.core).m.aborted = false ∧
      (t.core x.core).tl 1 = ((s.core x.core).tl 1).complete m.nest false ∧ t.mem = s.mem ∧
      (t.core x.core).spad = (s.core x.core).spad ∧ (t.core x.core).a = (s.core x.core).a)))

/-! ### Encodings, the step, reset, and the invariant of instruction addresses -/

/-- R334, R335, R339 to R345: words written out from the spec's encodings decode to the instructions they stand for; a
word with a reserved field set or for another stream is refused. -/
def Obligations.SpecWordsDecode : Prop :=
  let one (k : StreamKind) (w : Nat) (i : Instr) : Prop := decode k (leBytes 4 w) = .ok (i, 4)
  let two (w e : Nat) (i : Instr) : Prop := decode .x (leBytes 4 w ++ leBytes 4 e) = .ok (i, 8)
  one .a 0x00E110DA (.sel 7 1 2 3) ∧ one .x 0x00E110DA (.sel 7 1 2 3) ∧ one .x 0x048110C3 (.fma 4 1 2 3) ∧
  (decode .a (leBytes 4 0x048110C3)).isOk = false ∧
  one .a 0x70623001 (.ldd 3 2 1 true 1) ∧ one .a 0xB8000140 (.trap 5) ∧ one .x 0xC3080410 (.vfma 4 1 2 false false) ∧
  two 0xDC0C0411 1 (.vcmp 6 1 2 false false 1) ∧ two 0xEB0A0001 0x3F800000 (.vldi 5 false false 0x3F800000) ∧
  one .x 0xEE000000 (.minv false) ∧ two 0xF1000001 5 (.bmz 5) ∧ (decode .x (leBytes 4 0xC0060411)).isOk = false ∧
  one .m 0x70000000 .msync ∧ one .m 0x80000000 .mend ∧ (decode .m (leBytes 4 0x70000001)).isOk = false

/-- R334 to R345: for every well-formed instruction that has words, decoding its words gives it back with every operand
at every value its encoding admits, whatever bytes follow: a scalar word in each stream that takes it, a vector word with
its extension, a step word, a tile word. -/
def Obligations.DecodeEncodeAgree : Prop :=
  ∀ (i : Instr) (n w : Nat), wellFormed i = true → encode i = some (n, w) →
    (i.isStep = true → ∀ rest, decode .m (leBytes 4 w ++ rest) = .ok (i, 4)) ∧
    (i.isStep = false → n = 4 → w / 2 ^ 30 ≠ 3 → ∀ k rest, k ≠ .m → scalarAccepted k w = true → csrAccepted k w = true →
      decode k (leBytes 4 w ++ rest) = .ok (i, 4)) ∧
    (i.isStep = false → n ≤ 8 → w % 2 ^ 32 / 2 ^ 30 = 3 → ∀ rest, decode .x (leBytes n w ++ rest) = .ok (i, n)) ∧
    (n = 32 → decodeTile w = .ok i)

/-- R334, R338, R339, R341, R345: the words of an instruction fit their length, and decoding reads every bit: what a
stream or an executor decodes is well formed, and its words are the very bytes decoded, so no reserved bit is passed
over. -/
def Obligations.DecodingReadsEveryBit : Prop :=
  (∀ i, Sys2Proof.Laws.EncodeFits.Statement i) ∧
  (∀ (k : StreamKind) (bs : List Byte) (i : Instr) (n : Nat), decode k bs = .ok (i, n) →
    wellFormed i = true ∧ encode i = some (n, leNat (bs.take n))) ∧
  (∀ (w : Nat) (i : Instr), w < 2 ^ 256 → decodeTile w = .ok i → wellFormed i = true ∧ encode i = some (32, w))

/-- R203, R224, R338, R342: a turn of a stream runs the instruction that the bytes at its PC decode to, on the state its
fetch left; bytes that decode to none raise ILLEGAL, a failed fetch its fault; in the scratchpad window the bytes are
those of the scratchpad. The M-stream runs the step word at its PC, an executor the tile word it holds. The agenda,
events and passing time are the model's own (log 1), and so is `settleTurn`: a turn that must wait for an internal link that
trains (R25) or for an earlier request to leave (R49) has no effect and is taken again after the others (log 109). -/
def Obligations.StepRunsDecodedWord : Prop :=
  (∀ back u : State, (u.focus.waits = false → settleTurn back (.next u) = .next u) ∧
    (u.focus.waits = true → settleTurn back (.next u) = .next back)) ∧
  (∀ s t : State, s.focus.waits = false → step s = .next t → t.focus.waits = false) ∧
  (∀ (s f back : State) (c : Nat) (k : StreamKind), k ≠ .m → s.focus.waits = false →
    (s.agenda = [] ∧ s.focus.core = c ∧ s.focus.kind = k ∧ f = s ∧ back = s ∨
      ∃ rest, s.agenda = .stream c k :: rest ∧ f = ({ s with agenda := rest } : State).focused c k ∧
        back = { s with agenda := rest ++ [.stream c k] }) →
    (issuing s c k = false → step s = .next s ∨ ∃ rest, step s = .next { s with agenda := rest }) ∧
    (∀ t bs i n, issuing s c k = true → fetchInstr c k f.pc.toNat f = (t, .ok bs) → decode k bs = .ok (i, n) →
      step s = settleTurn back (exec i t)) ∧
    (∀ t bs e, issuing s c k = true → fetchInstr c k f.pc.toNat f = (t, .ok bs) → decode k bs = .error e →
      step s = settleTurn back (.next (trap 0x01 0 (BitVec.ofNat 64 (fromBytes (bs.take 4))) t))) ∧
    (∀ t e, issuing s c k = true → fetchInstr c k f.pc.toNat f = (t, .error (.fault e)) →
      step s = settleTurn back (.next (trapErr e t.pc t))) ∧
    (∀ t, issuing s c k = true → fetchInstr c k f.pc.toNat f = (t, .error .wait) →
      step s = settleTurn back (.next (block .remote t)))) ∧
  (∀ (s : State) (c va : Nat) (k : StreamKind), inWindow va = true → va % 4 = 0 → va + 8 ≤ 2 ^ 64 →
    let off := va % 2 ^ 21
    let w := fromBytes ((s.core c).spadBytes off 4)
    (∀ j, j < 8 → sget false (s.core c).spadPois ((off + j) / 8) = false) →
    (k = .x ∧ vectorPair w = true → fetchInstr c k va s = (s, .ok ((s.core c).spadBytes off 8))) ∧
    (¬ (k = .x ∧ vectorPair w = true) → fetchInstr c k va s = (s, .ok ((s.core c).spadBytes off 4)))) ∧
  -- an extension is fetched for a vector word that takes one, and for no word that is ILLEGAL by itself
  (∀ w e, vectorPair w = true → w / 2 ^ 30 % 4 = 3 ∧ w % 2 = 1 ∧
    (decode .x (leBytes 4 w)).isOk = false ∧ (w / 2 ^ 24 % 64 ∈ [28, 30, 31, 32, 34, 36, 37, 43, 44, 49, 50]) ∧
    (e < 2 ^ 32 → ∀ i n, decode .x (leBytes 4 w ++ leBytes 4 e) = .ok (i, n) → n = 8)) ∧
  (∀ (s : State) (c : Nat), s.agenda = [] → s.focus.core = c → s.focus.kind = .m → s.focus.waits = false →
    (issuing s c .m = false ∨ (s.core c).m.ended = true → step s = .next s) ∧
    (issuing s c .m = true → (s.core c).m.ended = false →
      (∀ t i, stepWord c s = (t, some i) → step s = settleTurn s (exec i t)) ∧
      (∀ t, stepWord c s = (t, none) → step s = settleTurn s (.next t)))) ∧
  (∀ (s : State) (id : Nat) (rs : List RemoteResult) (rest : List Turn), s.agenda = .tile id rs :: rest →
    s.focus.waits = false →
    (∀ j i, s.job? id = some j → j.started = true → j.executed = false → (s.slot j.slot).halted = false →
      decodeTile j.word.toNat = .ok i →
      step s = settleTurn { s with agenda := rest ++ [.tile id rs] }
        (exec i { s with agenda := rest, focus := { s.focus with tile := id }, input := { results := rs } })) ∧
    ((∀ j, s.job? id = some j → j.started = false ∨ j.executed = true ∨ (s.slot j.slot).halted = true) → step s = .next { s with agenda := rest })) ∧
  (∀ (s : State) (i : Instr) (x : Input) (rest : List Turn), s.agenda = .event i x :: rest →
    (i.isEvent = true → inputWf i x = true →
      step s = settleTurn { s with agenda := rest ++ [.event i x] } (exec i { s with agenda := rest, input := x })) ∧
    (i.isEvent = false ∨ inputWf i x = false → step s = .fault .illFormedEvent))

/-- R20, R27, R33, R39, R66, R69, R83, R97, R158, R164, R192, R225, R233, R238, R248, R267, R323: what reset leaves, by
the values the spec gives; memory and the registers that the spec gives no value read 0 (log 2, log 3, log 5: the model's
choice), and no stream runs. -/
def Obligations.ResetState : Prop :=
  let s := State.reset
  s.agenda = [] ∧ s.pkg.stage = 0 ∧ s.pkg.cause = 0 ∧ s.pkg.cap = 120 ∧
  (∀ l, (s.link l).state = .down ∧ (s.link l).attempts = 0) ∧
  s.fab.tmo = 100 ∧ s.fab.thr = 75 ∧ s.fab.detEn = true ∧ s.fab.stale = 0 ∧ s.fab.expired = 0 ∧ s.fab.lock = false ∧
  s.host.intstat = 0 ∧ s.host.intmask = 0 ∧ s.host.mbGo = false ∧
  (∀ c, (s.chain c).en = false ∧ (s.chain c).vec = 3 ∧ (s.chain c).state = .idle ∧ (s.chain c).base = 0) ∧
  (∀ i, (s.slot i).state = .unbound ∧ (s.slot i).packet = none) ∧ s.sched.prtmo = 200 ∧
  (∀ t, sget .free s.mem.master t = .free) ∧ (∀ k, sget 0 s.mem.irtCode k = 0) ∧
  (∀ a, s.mem.byte a = 0 ∧ s.mem.poisoned a 1 = false) ∧ s.perg.nbt = [] ∧ s.arb.valid = false ∧ s.arb.commits = 0 ∧
  s.tiles.jobs = [] ∧ s.dbg.state = 0 ∧ s.quiet ∧
  (∀ c, let x := s.core c
    (∀ k, (x.stream k).run = .idle ∧ (x.stream k).reg 0 = 0 ∧ (x.stream k).loops = [] ∧ (x.stream k).inTrap = false) ∧
    x.m.run = false ∧ x.place = none ∧ x.halted = false ∧ x.vlen = 512 ∧ x.mstack = [BitVec.allOnes 2048] ∧
    (∀ t, x.isFull t = false) ∧ (∀ o, x.tagAt o = false) ∧ (∀ n, (x.tl n).issued = 0 ∧ (x.tl n).passed = 0) ∧
    (∀ q, x.queue q = []) ∧ x.sxf = 0 ∧ x.txst.kind = 0) ∧
  Memory.wf s = true ∧ s.aligned

/-- R342, R364, R366, R308, R309: from every state in which both streams of every core hold aligned instruction addresses
(the PC, the address a trap resumes at, the bounds of the loop levels), a word of any stream that completes, waits or
traps leaves them aligned: no branch, jump, loop, trap, return or CSR write reaches an address that is no multiple
of 4. -/
def Obligations.StreamStepsKeepAligned : Prop :=
  ∀ s t : State, s.agenda = [] → s.aligned → step s = .next t → t.aligned
end

