-- ==== Sys2Proof/Laws/Dispatch.lean ====
section
/-! SUPPORT. The meaning that each instruction has, arm by arm. -/

section OneByOne

set_option Elab.async false

namespace Sys2Proof.Machine

@[simp] theorem exec_add (d a b : Nat) (s' : State) :
    exec (.add d a b) s' = execAdd d a b s' := rfl
@[simp] theorem exec_sub (d a b : Nat) (s' : State) :
    exec (.sub d a b) s' = execSub d a b s' := rfl
@[simp] theorem exec_mul (d a b : Nat) (s' : State) :
    exec (.mul d a b) s' = execMul d a b s' := rfl
@[simp] theorem exec_mulh (d a b : Nat) (s' : State) :
    exec (.mulh d a b) s' = execMulh d a b s' := rfl
@[simp] theorem exec_mulhu (d a b : Nat) (s' : State) :
    exec (.mulhu d a b) s' = execMulhu d a b s' := rfl
@[simp] theorem exec_div (d a b : Nat) (s' : State) :
    exec (.div d a b) s' = execDiv d a b s' := rfl
@[simp] theorem exec_divu (d a b : Nat) (s' : State) :
    exec (.divu d a b) s' = execDivu d a b s' := rfl
@[simp] theorem exec_rem (d a b : Nat) (s' : State) :
    exec (.rem d a b) s' = execRem d a b s' := rfl
@[simp] theorem exec_remu (d a b : Nat) (s' : State) :
    exec (.remu d a b) s' = execRemu d a b s' := rfl
@[simp] theorem exec_and (d a b : Nat) (s' : State) :
    exec (.and d a b) s' = execAnd d a b s' := rfl
@[simp] theorem exec_or (d a b : Nat) (s' : State) :
    exec (.or d a b) s' = execOr d a b s' := rfl
@[simp] theorem exec_xor (d a b : Nat) (s' : State) :
    exec (.xor d a b) s' = execXor d a b s' := rfl
@[simp] theorem exec_andn (d a b : Nat) (s' : State) :
    exec (.andn d a b) s' = execAndn d a b s' := rfl
@[simp] theorem exec_orn (d a b : Nat) (s' : State) :
    exec (.orn d a b) s' = execOrn d a b s' := rfl
@[simp] theorem exec_shl (d a b : Nat) (s' : State) :
    exec (.shl d a b) s' = execShl d a b s' := rfl
@[simp] theorem exec_shr (d a b : Nat) (s' : State) :
    exec (.shr d a b) s' = execShr d a b s' := rfl
@[simp] theorem exec_sra (d a b : Nat) (s' : State) :
    exec (.sra d a b) s' = execSra d a b s' := rfl
@[simp] theorem exec_rol (d a b : Nat) (s' : State) :
    exec (.rol d a b) s' = execRol d a b s' := rfl
@[simp] theorem exec_ror (d a b : Nat) (s' : State) :
    exec (.ror d a b) s' = execRor d a b s' := rfl
@[simp] theorem exec_min (d a b : Nat) (s' : State) :
    exec (.min d a b) s' = execMin d a b s' := rfl
@[simp] theorem exec_max (d a b : Nat) (s' : State) :
    exec (.max d a b) s' = execMax d a b s' := rfl
@[simp] theorem exec_minu (d a b : Nat) (s' : State) :
    exec (.minu d a b) s' = execMinu d a b s' := rfl
@[simp] theorem exec_maxu (d a b : Nat) (s' : State) :
    exec (.maxu d a b) s' = execMaxu d a b s' := rfl
@[simp] theorem exec_slt (d a b : Nat) (s' : State) :
    exec (.slt d a b) s' = execSlt d a b s' := rfl
@[simp] theorem exec_sltu (d a b : Nat) (s' : State) :
    exec (.sltu d a b) s' = execSltu d a b s' := rfl
@[simp] theorem exec_seq (d a b : Nat) (s' : State) :
    exec (.seq d a b) s' = execSeq d a b s' := rfl
@[simp] theorem exec_sel (d a b n : Nat) (s' : State) :
    exec (.sel d a b n) s' = execSel d a b n s' := rfl
@[simp] theorem exec_clz (d a : Nat) (s' : State) :
    exec (.clz d a) s' = execClz d a s' := rfl
@[simp] theorem exec_ctz (d a : Nat) (s' : State) :
    exec (.ctz d a) s' = execCtz d a s' := rfl
@[simp] theorem exec_popc (d a : Nat) (s' : State) :
    exec (.popc d a) s' = execPopc d a s' := rfl
@[simp] theorem exec_brev (d a : Nat) (s' : State) :
    exec (.brev d a) s' = execBrev d a s' := rfl
@[simp] theorem exec_bswap (d a : Nat) (s' : State) :
    exec (.bswap d a) s' = execBswap d a s' := rfl
@[simp] theorem exec_bfx (d a b c : Nat) (s' : State) :
    exec (.bfx d a b c) s' = execBfx d a b c s' := rfl
@[simp] theorem exec_bfi (d a b c : Nat) (s' : State) :
    exec (.bfi d a b c) s' = execBfi d a b c s' := rfl
@[simp] theorem exec_clmul (d a b : Nat) (s' : State) :
    exec (.clmul d a b) s' = execClmul d a b s' := rfl
@[simp] theorem exec_clmulh (d a b : Nat) (s' : State) :
    exec (.clmulh d a b) s' = execClmulh d a b s' := rfl
@[simp] theorem exec_fadd (d a b : Nat) (s' : State) :
    exec (.fadd d a b) s' = execFadd d a b s' := rfl
@[simp] theorem exec_fsub (d a b : Nat) (s' : State) :
    exec (.fsub d a b) s' = execFsub d a b s' := rfl
@[simp] theorem exec_fmul (d a b : Nat) (s' : State) :
    exec (.fmul d a b) s' = execFmul d a b s' := rfl
@[simp] theorem exec_fma (d a b c : Nat) (s' : State) :
    exec (.fma d a b c) s' = execFma d a b c s' := rfl
@[simp] theorem exec_fmin (d a b : Nat) (s' : State) :
    exec (.fmin d a b) s' = execFmin d a b s' := rfl
@[simp] theorem exec_fmax (d a b : Nat) (s' : State) :
    exec (.fmax d a b) s' = execFmax d a b s' := rfl
@[simp] theorem exec_fabs (d a : Nat) (s' : State) :
    exec (.fabs d a) s' = execFabs d a s' := rfl
@[simp] theorem exec_fneg (d a : Nat) (s' : State) :
    exec (.fneg d a) s' = execFneg d a s' := rfl
@[simp] theorem exec_fcmpeq (d a b : Nat) (s' : State) :
    exec (.fcmpeq d a b) s' = execFcmpeq d a b s' := rfl
@[simp] theorem exec_fcmplt (d a b : Nat) (s' : State) :
    exec (.fcmplt d a b) s' = execFcmplt d a b s' := rfl
@[simp] theorem exec_fcmple (d a b : Nat) (s' : State) :
    exec (.fcmple d a b) s' = execFcmple d a b s' := rfl
@[simp] theorem exec_fcvtfi (d a cv : Nat) (s' : State) :
    exec (.fcvtfi d a cv) s' = execFcvtfi d a cv s' := rfl
@[simp] theorem exec_fcvtif (d a cv : Nat) (s' : State) :
    exec (.fcvtif d a cv) s' = execFcvtif d a cv s' := rfl
@[simp] theorem exec_pcmp (d a b cond : Nat) (s' : State) :
    exec (.pcmp d a b cond) s' = execPcmp d a b cond s' := rfl
@[simp] theorem exec_pand (d a b : Nat) (s' : State) :
    exec (.pand d a b) s' = execPand d a b s' := rfl
@[simp] theorem exec_por (d a b : Nat) (s' : State) :
    exec (.por d a b) s' = execPor d a b s' := rfl
@[simp] theorem exec_pnot (d a : Nat) (s' : State) :
    exec (.pnot d a) s' = execPnot d a s' := rfl
@[simp] theorem exec_pmov (d a mode : Nat) (s' : State) :
    exec (.pmov d a mode) s' = execPmov d a mode s' := rfl
@[simp] theorem exec_addi (d a : Nat) (imm : BitVec 16) (s' : State) :
    exec (.addi d a imm) s' = execAddi d a imm s' := rfl
@[simp] theorem exec_andi (d a : Nat) (imm : BitVec 16) (s' : State) :
    exec (.andi d a imm) s' = execAndi d a imm s' := rfl
@[simp] theorem exec_ori (d a : Nat) (imm : BitVec 16) (s' : State) :
    exec (.ori d a imm) s' = execOri d a imm s' := rfl
@[simp] theorem exec_xori (d a : Nat) (imm : BitVec 16) (s' : State) :
    exec (.xori d a imm) s' = execXori d a imm s' := rfl
@[simp] theorem exec_shli (d a sh : Nat) (s' : State) :
    exec (.shli d a sh) s' = execShli d a sh s' := rfl
@[simp] theorem exec_shri (d a sh : Nat) (s' : State) :
    exec (.shri d a sh) s' = execShri d a sh s' := rfl
@[simp] theorem exec_srai (d a sh : Nat) (s' : State) :
    exec (.srai d a sh) s' = execSrai d a sh s' := rfl
@[simp] theorem exec_slti (d a : Nat) (imm : BitVec 16) (s' : State) :
    exec (.slti d a imm) s' = execSlti d a imm s' := rfl
@[simp] theorem exec_sltiu (d a : Nat) (imm : BitVec 16) (s' : State) :
    exec (.sltiu d a imm) s' = execSltiu d a imm s' := rfl
@[simp] theorem exec_li (d : Nat) (imm : BitVec 16) (s' : State) :
    exec (.li d imm) s' = execLi d imm s' := rfl
@[simp] theorem exec_lui (d : Nat) (imm : BitVec 16) (s' : State) :
    exec (.lui d imm) s' = execLui d imm s' := rfl
@[simp] theorem exec_beq (a b : Nat) (off : BitVec 16) (s' : State) :
    exec (.beq a b off) s' = execBeq a b off s' := rfl
@[simp] theorem exec_bne (a b : Nat) (off : BitVec 16) (s' : State) :
    exec (.bne a b off) s' = execBne a b off s' := rfl
@[simp] theorem exec_blt (a b : Nat) (off : BitVec 16) (s' : State) :
    exec (.blt a b off) s' = execBlt a b off s' := rfl
@[simp] theorem exec_bge (a b : Nat) (off : BitVec 16) (s' : State) :
    exec (.bge a b off) s' = execBge a b off s' := rfl
@[simp] theorem exec_bltu (a b : Nat) (off : BitVec 16) (s' : State) :
    exec (.bltu a b off) s' = execBltu a b off s' := rfl
@[simp] theorem exec_bgeu (a b : Nat) (off : BitVec 16) (s' : State) :
    exec (.bgeu a b off) s' = execBgeu a b off s' := rfl
@[simp] theorem exec_j (off : BitVec 26) (s' : State) :
    exec (.j off) s' = execJ off s' := rfl
@[simp] theorem exec_jal (off : BitVec 26) (s' : State) :
    exec (.jal off) s' = execJal off s' := rfl
@[simp] theorem exec_jr (d a : Nat) (imm : BitVec 16) (s' : State) :
    exec (.jr d a imm) s' = execJr d a imm s' := rfl
@[simp] theorem exec_loop (d a len : Nat) (s' : State) :
    exec (.loop d a len) s' = execLoop d a len s' := rfl
@[simp] theorem exec_loops (d a st len : Nat) (s' : State) :
    exec (.loops d a st len) s' = execLoops d a st len s' := rfl
@[simp] theorem exec_ldb (d b p : Nat) (post sx : Bool) (off : BitVec 10) (s' : State) :
    exec (.ldb d b p post sx off) s' = execLdb d b p post sx off s' := rfl
@[simp] theorem exec_ldh (d b p : Nat) (post sx : Bool) (off : BitVec 10) (s' : State) :
    exec (.ldh d b p post sx off) s' = execLdh d b p post sx off s' := rfl
@[simp] theorem exec_ldw (d b p : Nat) (post sx : Bool) (off : BitVec 10) (s' : State) :
    exec (.ldw d b p post sx off) s' = execLdw d b p post sx off s' := rfl
@[simp] theorem exec_ldd (d b p : Nat) (post : Bool) (off : BitVec 10) (s' : State) :
    exec (.ldd d b p post off) s' = execLdd d b p post off s' := rfl
@[simp] theorem exec_stb (d b p : Nat) (post : Bool) (sc : Nat) (off : BitVec 10) (s' : State) :
    exec (.stb d b p post sc off) s' = execStb d b p post sc off s' := rfl
@[simp] theorem exec_sth (d b p : Nat) (post : Bool) (sc : Nat) (off : BitVec 10) (s' : State) :
    exec (.sth d b p post sc off) s' = execSth d b p post sc off s' := rfl
@[simp] theorem exec_stw (d b p : Nat) (post : Bool) (sc : Nat) (off : BitVec 10) (s' : State) :
    exec (.stw d b p post sc off) s' = execStw d b p post sc off s' := rfl
@[simp] theorem exec_std (d b p : Nat) (post : Bool) (sc : Nat) (off : BitVec 10) (s' : State) :
    exec (.std d b p post sc off) s' = execStd d b p post sc off s' := rfl
@[simp] theorem exec_ldq (q b p : Nat) (post w : Bool) (off : BitVec 10) (s' : State) :
    exec (.ldq q b p post w off) s' = execLdq q b p post w off s' := rfl
@[simp] theorem exec_stq (q b p : Nat) (post w : Bool) (off : BitVec 10) (s' : State) :
    exec (.stq q b p post w off) s' = execStq q b p post w off s' := rfl
@[simp] theorem exec_ldf (d b p : Nat) (post sys keep : Bool) (off : BitVec 10) (s' : State) :
    exec (.ldf d b p post sys keep off) s' = execLdf d b p post sys keep off s' := rfl
@[simp] theorem exec_ste (d b p : Nat) (post sys keep : Bool) (off : BitVec 10) (s' : State) :
    exec (.ste d b p post sys keep off) s' = execSte d b p post sys keep off s' := rfl
@[simp] theorem exec_tagset (d b p : Nat) (post : Bool) (off : BitVec 10) (s' : State) :
    exec (.tagset d b p post off) s' = execTagset d b p post off s' := rfl
@[simp] theorem exec_tagclr (d b p : Nat) (post : Bool) (off : BitVec 10) (s' : State) :
    exec (.tagclr d b p post off) s' = execTagclr d b p post off s' := rfl
@[simp] theorem exec_rld (d b p : Nat) (post ord : Bool) (off : BitVec 10) (s' : State) :
    exec (.rld d b p post ord off) s' = execRld d b p post ord off s' := rfl
@[simp] theorem exec_rst (d b p : Nat) (post ord : Bool) (off : BitVec 10) (s' : State) :
    exec (.rst d b p post ord off) s' = execRst d b p post ord off s' := rfl
@[simp] theorem exec_rsta (d b p : Nat) (post ord : Bool) (off : BitVec 10) (s' : State) :
    exec (.rsta d b p post ord off) s' = execRsta d b p post ord off s' := rfl
@[simp] theorem exec_amo (d a b op : Nat) (s' : State) :
    exec (.amo d a b op) s' = execAmo d a b op s' := rfl
@[simp] theorem exec_amor (d a b op : Nat) (s' : State) :
    exec (.amor d a b op) s' = execAmor d a b op s' := rfl
@[simp] theorem exec_mcst (d a b set : Nat) (s' : State) :
    exec (.mcst d a b set) s' = execMcst d a b set s' := rfl
@[simp] theorem exec_cpy (d a b sc : Nat) (s' : State) :
    exec (.cpy d a b sc) s' = execCpy d a b sc s' := rfl
@[simp] theorem exec_cpyc (d a b sc : Nat) (s' : State) :
    exec (.cpyc d a b sc) s' = execCpyc d a b sc s' := rfl
@[simp] theorem exec_cpyx (a : Nat) (s' : State) :
    exec (.cpyx a) s' = execCpyx a s' := rfl
@[simp] theorem exec_cpyq (d a : Nat) (s' : State) :
    exec (.cpyq d a) s' = execCpyq d a s' := rfl
@[simp] theorem exec_lrec (a b lvl : Nat) (s' : State) :
    exec (.lrec a b lvl) s' = execLrec a b lvl s' := rfl
@[simp] theorem exec_fence (sc : Nat) (s' : State) :
    exec (.fence sc) s' = execFence sc s' := rfl
@[simp] theorem exec_rel (sc : Nat) (s' : State) :
    exec (.rel sc) s' = execRel sc s' := rfl
@[simp] theorem exec_acq (sc : Nat) (s' : State) :
    exec (.acq sc) s' = execAcq sc s' := rfl
@[simp] theorem exec_inv (a : Nat) (all : Bool) (sc : Nat) (s' : State) :
    exec (.inv a all sc) s' = execInv a all sc s' := rfl
@[simp] theorem exec_tlwait (a n : Nat) (s' : State) :
    exec (.tlwait a n) s' = execTlwait a n s' := rfl
@[simp] theorem exec_tlread (d n sel : Nat) (s' : State) :
    exec (.tlread d n sel) s' = execTlread d n sel s' := rfl
@[simp] theorem exec_barv (d a sc : Nat) (s' : State) :
    exec (.barv d a sc) s' = execBarv d a sc s' := rfl
@[simp] theorem exec_bwait (a b sc : Nat) (s' : State) :
    exec (.bwait a b sc) s' = execBwait a b sc s' := rfl
@[simp] theorem exec_pref (a lvl : Nat) (s' : State) :
    exec (.pref a lvl) s' = execPref a lvl s' := rfl
@[simp] theorem exec_bqpush (a : Nat) (s' : State) :
    exec (.bqpush a) s' = execBqpush a s' := rfl
@[simp] theorem exec_bqpop (d : Nat) (s' : State) :
    exec (.bqpop d) s' = execBqpop d s' := rfl
@[simp] theorem exec_bqpeek (d : Nat) (nb : Bool) (s' : State) :
    exec (.bqpeek d nb) s' = execBqpeek d nb s' := rfl
@[simp] theorem exec_qskip (d a q : Nat) (nb : Bool) (s' : State) :
    exec (.qskip d a q nb) s' = execQskip d a q nb s' := rfl
@[simp] theorem exec_qpop (d q n : Nat) (s' : State) :
    exec (.qpop d q n) s' = execQpop d q n s' := rfl
@[simp] theorem exec_qpush (q a : Nat) (s' : State) :
    exec (.qpush q a) s' = execQpush q a s' := rfl
@[simp] theorem exec_txbegin (d : Nat) (s' : State) :
    exec (.txbegin d) s' = execTxbegin d s' := rfl
@[simp] theorem exec_txvote (a : Nat) (s' : State) :
    exec (.txvote a) s' = execTxvote a s' := rfl
@[simp] theorem exec_txwait (d : Nat) (s' : State) :
    exec (.txwait d) s' = execTxwait d s' := rfl
@[simp] theorem exec_txabort (s' : State) :
    exec (.txabort) s' = execTxabort s' := rfl
@[simp] theorem exec_txread (d a sel : Nat) (s' : State) :
    exec (.txread d a sel) s' = execTxread d a sel s' := rfl
@[simp] theorem exec_trap (imm : BitVec 20) (s' : State) :
    exec (.trap imm) s' = execTrap imm s' := rfl
@[simp] theorem exec_eret (s' : State) :
    exec (.eret) s' = execEret s' := rfl
@[simp] theorem exec_csrr (d csr : Nat) (s' : State) :
    exec (.csrr d csr) s' = execCsrr d csr s' := rfl
@[simp] theorem exec_csrw (d a csr : Nat) (s' : State) :
    exec (.csrw d a csr) s' = execCsrw d a csr s' := rfl
@[simp] theorem exec_csrs (d a csr : Nat) (s' : State) :
    exec (.csrs d a csr) s' = execCsrs d a csr s' := rfl
@[simp] theorem exec_csrc (d a csr : Nat) (s' : State) :
    exec (.csrc d a csr) s' = execCsrc d a csr s' := rfl
@[simp] theorem exec_exit (s' : State) :
    exec (.exit) s' = execExit s' := rfl
@[simp] theorem exec_spawn (d a b : Nat) (s' : State) :
    exec (.spawn d a b) s' = execSpawn d a b s' := rfl
@[simp] theorem exec_tissue (d a : Nat) (s' : State) :
    exec (.tissue d a) s' = execTissue d a s' := rfl
@[simp] theorem exec_tfence (s' : State) :
    exec (.tfence) s' = execTfence s' := rfl
@[simp] theorem exec_brkd (s' : State) :
    exec (.brkd) s' = execBrkd s' := rfl
@[simp] theorem exec_nop (s' : State) :
    exec (.nop) s' = execNop s' := rfl
@[simp] theorem exec_mloop (n a fld : Nat) (s' : State) :
    exec (.mloop n a fld) s' = execMloop n a fld s' := rfl
@[simp] theorem exec_mcfg (a fld : Nat) (s' : State) :
    exec (.mcfg a fld) s' = execMcfg a fld s' := rfl
@[simp] theorem exec_mgo (d a : Nat) (s' : State) :
    exec (.mgo d a) s' = execMgo d a s' := rfl
@[simp] theorem exec_mstat (d sel : Nat) (s' : State) :
    exec (.mstat d sel) s' = execMstat d sel s' := rfl
@[simp] theorem exec_mabort (d : Nat) (s' : State) :
    exec (.mabort d) s' = execMabort d s' := rfl
@[simp] theorem exec_vadd (vd va vb : Nat) (nf mk : Bool) (s' : State) :
    exec (.vadd vd va vb nf mk) s' = execVadd vd va vb nf mk s' := rfl
@[simp] theorem exec_vsub (vd va vb : Nat) (nf mk : Bool) (s' : State) :
    exec (.vsub vd va vb nf mk) s' = execVsub vd va vb nf mk s' := rfl
@[simp] theorem exec_vmul (vd va vb : Nat) (nf mk : Bool) (s' : State) :
    exec (.vmul vd va vb nf mk) s' = execVmul vd va vb nf mk s' := rfl
@[simp] theorem exec_vfma (vd va vb : Nat) (nf mk : Bool) (s' : State) :
    exec (.vfma vd va vb nf mk) s' = execVfma vd va vb nf mk s' := rfl
@[simp] theorem exec_vfms (vd va vb : Nat) (nf mk : Bool) (s' : State) :
    exec (.vfms vd va vb nf mk) s' = execVfms vd va vb nf mk s' := rfl
@[simp] theorem exec_vfnma (vd va vb : Nat) (nf mk : Bool) (s' : State) :
    exec (.vfnma vd va vb nf mk) s' = execVfnma vd va vb nf mk s' := rfl
@[simp] theorem exec_vmin (vd va vb : Nat) (nf mk : Bool) (s' : State) :
    exec (.vmin vd va vb nf mk) s' = execVmin vd va vb nf mk s' := rfl
@[simp] theorem exec_vmax (vd va vb : Nat) (nf mk : Bool) (s' : State) :
    exec (.vmax vd va vb nf mk) s' = execVmax vd va vb nf mk s' := rfl
@[simp] theorem exec_vabs (vd va : Nat) (nf mk : Bool) (s' : State) :
    exec (.vabs vd va nf mk) s' = execVabs vd va nf mk s' := rfl
@[simp] theorem exec_vneg (vd va : Nat) (nf mk : Bool) (s' : State) :
    exec (.vneg vd va nf mk) s' = execVneg vd va nf mk s' := rfl
@[simp] theorem exec_vrcp (vd va : Nat) (nf mk : Bool) (s' : State) :
    exec (.vrcp vd va nf mk) s' = execVrcp vd va nf mk s' := rfl
@[simp] theorem exec_vrsq (vd va : Nat) (nf mk : Bool) (s' : State) :
    exec (.vrsq vd va nf mk) s' = execVrsq vd va nf mk s' := rfl
@[simp] theorem exec_vsqrt (vd va : Nat) (nf mk : Bool) (s' : State) :
    exec (.vsqrt vd va nf mk) s' = execVsqrt vd va nf mk s' := rfl
@[simp] theorem exec_vexp2 (vd va : Nat) (nf mk : Bool) (s' : State) :
    exec (.vexp2 vd va nf mk) s' = execVexp2 vd va nf mk s' := rfl
@[simp] theorem exec_vlog2 (vd va : Nat) (nf mk : Bool) (s' : State) :
    exec (.vlog2 vd va nf mk) s' = execVlog2 vd va nf mk s' := rfl
@[simp] theorem exec_vdiv (vd va vb : Nat) (nf mk : Bool) (s' : State) :
    exec (.vdiv vd va vb nf mk) s' = execVdiv vd va vb nf mk s' := rfl
@[simp] theorem exec_viadd (vd va vb : Nat) (nf mk : Bool) (s' : State) :
    exec (.viadd vd va vb nf mk) s' = execViadd vd va vb nf mk s' := rfl
@[simp] theorem exec_visub (vd va vb : Nat) (nf mk : Bool) (s' : State) :
    exec (.visub vd va vb nf mk) s' = execVisub vd va vb nf mk s' := rfl
@[simp] theorem exec_vimul (vd va vb : Nat) (nf mk : Bool) (s' : State) :
    exec (.vimul vd va vb nf mk) s' = execVimul vd va vb nf mk s' := rfl
@[simp] theorem exec_vimulh (vd va vb : Nat) (nf mk : Bool) (s' : State) :
    exec (.vimulh vd va vb nf mk) s' = execVimulh vd va vb nf mk s' := rfl
@[simp] theorem exec_vand (vd va vb : Nat) (nf mk : Bool) (s' : State) :
    exec (.vand vd va vb nf mk) s' = execVand vd va vb nf mk s' := rfl
@[simp] theorem exec_vor (vd va vb : Nat) (nf mk : Bool) (s' : State) :
    exec (.vor vd va vb nf mk) s' = execVor vd va vb nf mk s' := rfl
@[simp] theorem exec_vxor (vd va vb : Nat) (nf mk : Bool) (s' : State) :
    exec (.vxor vd va vb nf mk) s' = execVxor vd va vb nf mk s' := rfl
@[simp] theorem exec_vshl (vd va vb : Nat) (nf mk : Bool) (s' : State) :
    exec (.vshl vd va vb nf mk) s' = execVshl vd va vb nf mk s' := rfl
@[simp] theorem exec_vshr (vd va vb : Nat) (nf mk : Bool) (s' : State) :
    exec (.vshr vd va vb nf mk) s' = execVshr vd va vb nf mk s' := rfl
@[simp] theorem exec_vsra (vd va vb : Nat) (nf mk : Bool) (s' : State) :
    exec (.vsra vd va vb nf mk) s' = execVsra vd va vb nf mk s' := rfl
@[simp] theorem exec_vimin (vd va vb : Nat) (nf mk : Bool) (s' : State) :
    exec (.vimin vd va vb nf mk) s' = execVimin vd va vb nf mk s' := rfl
@[simp] theorem exec_vimax (vd va vb : Nat) (nf mk : Bool) (s' : State) :
    exec (.vimax vd va vb nf mk) s' = execVimax vd va vb nf mk s' := rfl
@[simp] theorem exec_vcmp (vd va vb : Nat) (nf mk : Bool) (cond : Nat) (s' : State) :
    exec (.vcmp vd va vb nf mk cond) s' = execVcmp vd va vb nf mk cond s' := rfl
@[simp] theorem exec_vsel (vd va vb : Nat) (nf mk : Bool) (s' : State) :
    exec (.vsel vd va vb nf mk) s' = execVsel vd va vb nf mk s' := rfl
@[simp] theorem exec_vcvt (vd va vb : Nat) (nf mk : Bool) (src dst mode : Nat) (sat : Bool) (s' : State) :
    exec (.vcvt vd va vb nf mk src dst mode sat) s' = execVcvt vd va vb nf mk src dst mode sat s' := rfl
@[simp] theorem exec_vpack (vd va vb : Nat) (nf mk : Bool) (src dst mode : Nat) (sat : Bool) (s' : State) :
    exec (.vpack vd va vb nf mk src dst mode sat) s' = execVpack vd va vb nf mk src dst mode sat s' := rfl
@[simp] theorem exec_vunpk (vd va : Nat) (nf mk : Bool) (src dst : Nat) (half : Bool) (s' : State) :
    exec (.vunpk vd va nf mk src dst half) s' = execVunpk vd va nf mk src dst half s' := rfl
@[simp] theorem exec_vperm (vd va vb : Nat) (nf mk : Bool) (s' : State) :
    exec (.vperm vd va vb nf mk) s' = execVperm vd va vb nf mk s' := rfl
@[simp] theorem exec_vshuf (vd va vb : Nat) (nf mk : Bool) (pat k : Nat) (s' : State) :
    exec (.vshuf vd va vb nf mk pat k) s' = execVshuf vd va vb nf mk pat k s' := rfl
@[simp] theorem exec_vbcast (vd a : Nat) (nf mk : Bool) (s' : State) :
    exec (.vbcast vd a nf mk) s' = execVbcast vd a nf mk s' := rfl
@[simp] theorem exec_vreds (vd va : Nat) (nf mk : Bool) (op : Nat) (s' : State) :
    exec (.vreds vd va nf mk op) s' = execVreds vd va nf mk op s' := rfl
@[simp] theorem exec_vscan (vd va vb : Nat) (nf mk : Bool) (op : Nat) (s' : State) :
    exec (.vscan vd va vb nf mk op) s' = execVscan vd va vb nf mk op s' := rfl
@[simp] theorem exec_vclmul (vd va vb : Nat) (nf mk : Bool) (s' : State) :
    exec (.vclmul vd va vb nf mk) s' = execVclmul vd va vb nf mk s' := rfl
@[simp] theorem exec_vrng (vd va : Nat) (nf mk : Bool) (s' : State) :
    exec (.vrng vd va nf mk) s' = execVrng vd va nf mk s' := rfl
@[simp] theorem exec_vpop (vd q : Nat) (m : Bool) (n : Nat) (nf : Bool) (s' : State) :
    exec (.vpop vd q m n nf) s' = execVpop vd q m n nf s' := rfl
@[simp] theorem exec_vpush (q va : Nat) (nf : Bool) (s' : State) :
    exec (.vpush q va nf) s' = execVpush q va nf s' := rfl
@[simp] theorem exec_vmovt (vd va : Nat) (sfx dir : Bool) (s' : State) :
    exec (.vmovt vd va sfx dir) s' = execVmovt vd va sfx dir s' := rfl
@[simp] theorem exec_vldi (vd : Nat) (nf mk : Bool) (imm : BitVec 32) (s' : State) :
    exec (.vldi vd nf mk imm) s' = execVldi vd nf mk imm s' := rfl
@[simp] theorem exec_vshape (a : Nat) (nf : Bool) (ew len : Nat) (tv : Bool) (tsel : Nat) (s' : State) :
    exec (.vshape a nf ew len tv tsel) s' = execVshape a nf ew len tv tsel s' := rfl
@[simp] theorem exec_mpush (n : Nat) (nf : Bool) (s' : State) :
    exec (.mpush n nf) s' = execMpush n nf s' := rfl
@[simp] theorem exec_minv (nf : Bool) (s' : State) :
    exec (.minv nf) s' = execMinv nf s' := rfl
@[simp] theorem exec_mpop (nf : Bool) (s' : State) :
    exec (.mpop nf) s' = execMpop nf s' := rfl
@[simp] theorem exec_mset (n va : Nat) (nf mk : Bool) (s' : State) :
    exec (.mset n va nf mk) s' = execMset n va nf mk s' := rfl
@[simp] theorem exec_bmz (off : BitVec 32) (s' : State) :
    exec (.bmz off) s' = execBmz off s' := rfl
@[simp] theorem exec_bmnz (off : BitVec 32) (s' : State) :
    exec (.bmnz off) s' = execBmnz off s' := rfl
@[simp] theorem exec_vfrd (vd : Nat) (nf : Bool) (s' : State) :
    exec (.vfrd vd nf) s' = execVfrd vd nf s' := rfl
@[simp] theorem exec_vfclr (s' : State) :
    exec (.vfclr) s' = execVfclr s' := rfl
@[simp] theorem exec_mget (n : Nat) (nf : Bool) (s' : State) :
    exec (.mget n nf) s' = execMget n nf s' := rfl
@[simp] theorem exec_mldw (p : Bool) (fmt : Nat) (mx s : Bool) (pl : Nat) (s' : State) :
    exec (.mldw p fmt mx s pl) s' = execMldw p fmt mx s pl s' := rfl
@[simp] theorem exec_mmac (p : Bool) (af : Nat) (ac : Bool) (s' : State) :
    exec (.mmac p af ac) s' = execMmac p af ac s' := rfl
@[simp] theorem exec_mmacs (p : Bool) (af : Nat) (ac : Bool) (s' : State) :
    exec (.mmacs p af ac) s' = execMmacs p af ac s' := rfl
@[simp] theorem exec_mdrn (p dt cc ov : Bool) (s' : State) :
    exec (.mdrn p dt cc ov) s' = execMdrn p dt cc ov s' := rfl
@[simp] theorem exec_mzero (p ov : Bool) (s' : State) :
    exec (.mzero p ov) s' = execMzero p ov s' := rfl
@[simp] theorem exec_mcmp (p one : Bool) (fmt : Nat) (sc : Bool) (s' : State) :
    exec (.mcmp p one fmt sc) s' = execMcmp p one fmt sc s' := rfl
@[simp] theorem exec_mpred (cond lvl : Nat) (and inv : Bool) (s' : State) :
    exec (.mpred cond lvl and inv) s' = execMpred cond lvl and inv s' := rfl
@[simp] theorem exec_msync (s' : State) :
    exec (.msync) s' = execMsync s' := rfl
@[simp] theorem exec_mend (s' : State) :
    exec (.mend) s' = execMend s' := rfl
@[simp] theorem exec_mnop (s' : State) :
    exec (.mnop) s' = execMnop s' := rfl
@[simp] theorem exec_tCopy (w : TileWord) (s' : State) :
    exec (.tCopy w) s' = execTCopy w s' := rfl
@[simp] theorem exec_tFill (w : TileWord) (s' : State) :
    exec (.tFill w) s' = execTFill w s' := rfl
@[simp] theorem exec_tEw (w : TileWord) (s' : State) :
    exec (.tEw w) s' = execTEw w s' := rfl
@[simp] theorem exec_tMap (w : TileWord) (s' : State) :
    exec (.tMap w) s' = execTMap w s' := rfl
@[simp] theorem exec_tRed (w : TileWord) (s' : State) :
    exec (.tRed w) s' = execTRed w s' := rfl
@[simp] theorem exec_tScan (w : TileWord) (s' : State) :
    exec (.tScan w) s' = execTScan w s' := rfl
@[simp] theorem exec_tCvt (w : TileWord) (s' : State) :
    exec (.tCvt w) s' = execTCvt w s' := rfl
@[simp] theorem exec_tMma (w : TileWord) (s' : State) :
    exec (.tMma w) s' = execTMma w s' := rfl
@[simp] theorem exec_tMmas (w : TileWord) (s' : State) :
    exec (.tMmas w) s' = execTMmas w s' := rfl
@[simp] theorem exec_tCmp (w : TileWord) (s' : State) :
    exec (.tCmp w) s' = execTCmp w s' := rfl
@[simp] theorem exec_tAmax (w : TileWord) (s' : State) :
    exec (.tAmax w) s' = execTAmax w s' := rfl
@[simp] theorem exec_tRng (w : TileWord) (s' : State) :
    exec (.tRng w) s' = execTRng w s' := rfl
@[simp] theorem exec_tOpt (w : TileWord) (s' : State) :
    exec (.tOpt w) s' = execTOpt w s' := rfl
@[simp] theorem exec_tAr (w : TileWord) (s' : State) :
    exec (.tAr w) s' = execTAr w s' := rfl
@[simp] theorem exec_tAg (w : TileWord) (s' : State) :
    exec (.tAg w) s' = execTAg w s' := rfl
@[simp] theorem exec_tRs (w : TileWord) (s' : State) :
    exec (.tRs w) s' = execTRs w s' := rfl
@[simp] theorem exec_tBc (w : TileWord) (s' : State) :
    exec (.tBc w) s' = execTBc w s' := rfl
@[simp] theorem exec_tKern (w : TileWord) (s' : State) :
    exec (.tKern w) s' = execTKern w s' := rfl
@[simp] theorem exec_tSig (w : TileWord) (s' : State) :
    exec (.tSig w) s' = execTSig w s' := rfl
@[simp] theorem exec_tWaitev (w : TileWord) (s' : State) :
    exec (.tWaitev w) s' = execTWaitev w s' := rfl
@[simp] theorem exec_linkTrainingDone (s' : State) :
    exec (.linkTrainingDone) s' = execLinkTrainingDone s' := rfl
@[simp] theorem exec_trainingAttemptTimeout (s' : State) :
    exec (.trainingAttemptTimeout) s' = execTrainingAttemptTimeout s' := rfl
@[simp] theorem exec_linkLossOfLock (s' : State) :
    exec (.linkLossOfLock) s' = execLinkLossOfLock s' := rfl
@[simp] theorem exec_internalLossOfLock (s' : State) :
    exec (.internalLossOfLock) s' = execInternalLossOfLock s' := rfl
@[simp] theorem exec_retrain (s' : State) :
    exec (.retrain) s' = execRetrain s' := rfl
@[simp] theorem exec_moduleReset (s' : State) :
    exec (.moduleReset) s' = execModuleReset s' := rfl
@[simp] theorem exec_recoveryPackage (s' : State) :
    exec (.recoveryPackage) s' = execRecoveryPackage s' := rfl
@[simp] theorem exec_spdmRequest (s' : State) :
    exec (.spdmRequest) s' = execSpdmRequest s' := rfl
@[simp] theorem exec_pwrcapWrite (s' : State) :
    exec (.pwrcapWrite) s' = execPwrcapWrite s' := rfl
@[simp] theorem exec_arbiterSample (s' : State) :
    exec (.arbiterSample) s' = execArbiterSample s' := rfl
@[simp] theorem exec_throttleLevelApply (s' : State) :
    exec (.throttleLevelApply) s' = execThrottleLevelApply s' := rfl
@[simp] theorem exec_junctionTemperature (s' : State) :
    exec (.junctionTemperature) s' = execJunctionTemperature s' := rfl
@[simp] theorem exec_capClear (s' : State) :
    exec (.capClear) s' = execCapClear s' := rfl
@[simp] theorem exec_captureWindowEdge (s' : State) :
    exec (.captureWindowEdge) s' = execCaptureWindowEdge s' := rfl
@[simp] theorem exec_captureEvent (s' : State) :
    exec (.captureEvent) s' = execCaptureEvent s' := rfl
@[simp] theorem exec_remoteRequest (s' : State) :
    exec (.remoteRequest) s' = execRemoteRequest s' := rfl
@[simp] theorem exec_remoteAck (s' : State) :
    exec (.remoteAck) s' = execRemoteAck s' := rfl
@[simp] theorem exec_remoteResponse (s' : State) :
    exec (.remoteResponse) s' = execRemoteResponse s' := rfl
@[simp] theorem exec_fabricForward (s' : State) :
    exec (.fabricForward) s' = execFabricForward s' := rfl
@[simp] theorem exec_requestExpiry (s' : State) :
    exec (.requestExpiry) s' = execRequestExpiry s' := rfl
@[simp] theorem exec_linkMapUpdate (s' : State) :
    exec (.linkMapUpdate) s' = execLinkMapUpdate s' := rfl
@[simp] theorem exec_timeMessageSend (s' : State) :
    exec (.timeMessageSend) s' = execTimeMessageSend s' := rfl
@[simp] theorem exec_timeMessage (s' : State) :
    exec (.timeMessage) s' = execTimeMessage s' := rfl
@[simp] theorem exec_fabtmoWrite (s' : State) :
    exec (.fabtmoWrite) s' = execFabtmoWrite s' := rfl
@[simp] theorem exec_domainDigest (s' : State) :
    exec (.domainDigest) s' = execDomainDigest s' := rfl
@[simp] theorem exec_pcSelect (s' : State) :
    exec (.pcSelect) s' = execPcSelect s' := rfl
@[simp] theorem exec_refreshDue (s' : State) :
    exec (.refreshDue) s' = execRefreshDue s' := rfl
@[simp] theorem exec_selfRefreshEntry (s' : State) :
    exec (.selfRefreshEntry) s' = execSelfRefreshEntry s' := rfl
@[simp] theorem exec_selfRefreshExit (s' : State) :
    exec (.selfRefreshExit) s' = execSelfRefreshExit s' := rfl
@[simp] theorem exec_eccError (s' : State) :
    exec (.eccError) s' = execEccError s' := rfl
@[simp] theorem exec_statusWriteApply (s' : State) :
    exec (.statusWriteApply) s' = execStatusWriteApply s' := rfl
@[simp] theorem exec_statusWriteComplete (s' : State) :
    exec (.statusWriteComplete) s' = execStatusWriteComplete s' := rfl
@[simp] theorem exec_tagAllocation (s' : State) :
    exec (.tagAllocation) s' = execTagAllocation s' := rfl
@[simp] theorem exec_normaliserSweepStart (s' : State) :
    exec (.normaliserSweepStart) s' = execNormaliserSweepStart s' := rfl
@[simp] theorem exec_normaliserSweepComplete (s' : State) :
    exec (.normaliserSweepComplete) s' = execNormaliserSweepComplete s' := rfl
@[simp] theorem exec_init (s' : State) :
    exec (.init) s' = execInit s' := rfl
@[simp] theorem exec_setacc (s' : State) :
    exec (.setacc) s' = execSetacc s' := rfl
@[simp] theorem exec_clracc (s' : State) :
    exec (.clracc) s' = execClracc s' := rfl
@[simp] theorem exec_clrpoison (s' : State) :
    exec (.clrpoison) s' = execClrpoison s' := rfl
@[simp] theorem exec_vmcmdIllegal (s' : State) :
    exec (.vmcmdIllegal) s' = execVmcmdIllegal s' := rfl
@[simp] theorem exec_vmcmdComplete (s' : State) :
    exec (.vmcmdComplete) s' = execVmcmdComplete s' := rfl
@[simp] theorem exec_register (s' : State) :
    exec (.register) s' = execRegister s' := rfl
@[simp] theorem exec_deregister (s' : State) :
    exec (.deregister) s' = execDeregister s' := rfl
@[simp] theorem exec_query (s' : State) :
    exec (.query) s' = execQuery s' := rfl
@[simp] theorem exec_collectiveIssue (s' : State) :
    exec (.collectiveIssue) s' = execCollectiveIssue s' := rfl
@[simp] theorem exec_chunkArrival (s' : State) :
    exec (.chunkArrival) s' = execChunkArrival s' := rfl
@[simp] theorem exec_markArrival (s' : State) :
    exec (.markArrival) s' = execMarkArrival s' := rfl
@[simp] theorem exec_planeCancel (s' : State) :
    exec (.planeCancel) s' = execPlaneCancel s' := rfl
@[simp] theorem exec_slotTmoExpiry (s' : State) :
    exec (.slotTmoExpiry) s' = execSlotTmoExpiry s' := rfl
@[simp] theorem exec_collectiveTimeout (s' : State) :
    exec (.collectiveTimeout) s' = execCollectiveTimeout s' := rfl
@[simp] theorem exec_collectiveCancel (s' : State) :
    exec (.collectiveCancel) s' = execCollectiveCancel s' := rfl
@[simp] theorem exec_collectiveComplete (s' : State) :
    exec (.collectiveComplete) s' = execCollectiveComplete s' := rfl
@[simp] theorem exec_arbourVote (s' : State) :
    exec (.arbourVote) s' = execArbourVote s' := rfl
@[simp] theorem exec_arbourNodeTimer (s' : State) :
    exec (.arbourNodeTimer) s' = execArbourNodeTimer s' := rfl
@[simp] theorem exec_arbourDecision (s' : State) :
    exec (.arbourDecision) s' = execArbourDecision s' := rfl
@[simp] theorem exec_attemptDeadline (s' : State) :
    exec (.attemptDeadline) s' = execAttemptDeadline s' := rfl
@[simp] theorem exec_attemptVote (s' : State) :
    exec (.attemptVote) s' = execAttemptVote s' := rfl
@[simp] theorem exec_attemptSettled (s' : State) :
    exec (.attemptSettled) s' = execAttemptSettled s' := rfl
@[simp] theorem exec_registerWrite (s' : State) :
    exec (.registerWrite) s' = execRegisterWrite s' := rfl
@[simp] theorem exec_cxlReset (s' : State) :
    exec (.cxlReset) s' = execCxlReset s' := rfl
@[simp] theorem exec_cxlMemAccess (s' : State) :
    exec (.cxlMemAccess) s' = execCxlMemAccess s' := rfl
@[simp] theorem exec_ping (s' : State) :
    exec (.ping) s' = execPing s' := rfl
@[simp] theorem exec_bind (s' : State) :
    exec (.bind) s' = execBind s' := rfl
@[simp] theorem exec_unbind (s' : State) :
    exec (.unbind) s' = execUnbind s' := rfl
@[simp] theorem exec_domcfg (s' : State) :
    exec (.domcfg) s' = execDomcfg s' := rfl
@[simp] theorem exec_svnset (s' : State) :
    exec (.svnset) s' = execSvnset s' := rfl
@[simp] theorem exec_preempt (s' : State) :
    exec (.preempt) s' = execPreempt s' := rfl
@[simp] theorem exec_irtset (s' : State) :
    exec (.irtset) s' = execIrtset s' := rfl
@[simp] theorem exec_mbcmdIllegal (s' : State) :
    exec (.mbcmdIllegal) s' = execMbcmdIllegal s' := rfl
@[simp] theorem exec_chainEnable (s' : State) :
    exec (.chainEnable) s' = execChainEnable s' := rfl
@[simp] theorem exec_chtailWrite (s' : State) :
    exec (.chtailWrite) s' = execChtailWrite s' := rfl
@[simp] theorem exec_tear (s' : State) :
    exec (.tear) s' = execTear s' := rfl
@[simp] theorem exec_kill (s' : State) :
    exec (.kill) s' = execKill s' := rfl
@[simp] theorem exec_packetFetch (s' : State) :
    exec (.packetFetch) s' = execPacketFetch s' := rfl
@[simp] theorem exec_waitPoll (s' : State) :
    exec (.waitPoll) s' = execWaitPoll s' := rfl
@[simp] theorem exec_packetComplete (s' : State) :
    exec (.packetComplete) s' = execPacketComplete s' := rfl
@[simp] theorem exec_slotSelect (s' : State) :
    exec (.slotSelect) s' = execSlotSelect s' := rfl
@[simp] theorem exec_domainShare (s' : State) :
    exec (.domainShare) s' = execDomainShare s' := rfl
@[simp] theorem exec_lateCheck (s' : State) :
    exec (.lateCheck) s' = execLateCheck s' := rfl
@[simp] theorem exec_escalationRelease (s' : State) :
    exec (.escalationRelease) s' = execEscalationRelease s' := rfl
@[simp] theorem exec_escalationCancel (s' : State) :
    exec (.escalationCancel) s' = execEscalationCancel s' := rfl
@[simp] theorem exec_groupRetire (s' : State) :
    exec (.groupRetire) s' = execGroupRetire s' := rfl
@[simp] theorem exec_groupDrained (s' : State) :
    exec (.groupDrained) s' = execGroupDrained s' := rfl
@[simp] theorem exec_preemptionPoint (s' : State) :
    exec (.preemptionPoint) s' = execPreemptionPoint s' := rfl
@[simp] theorem exec_preemptTimeout (s' : State) :
    exec (.preemptTimeout) s' = execPreemptTimeout s' := rfl
@[simp] theorem exec_contextSave (s' : State) :
    exec (.contextSave) s' = execContextSave s' := rfl
@[simp] theorem exec_contextSaveComplete (s' : State) :
    exec (.contextSaveComplete) s' = execContextSaveComplete s' := rfl
@[simp] theorem exec_contextRestore (s' : State) :
    exec (.contextRestore) s' = execContextRestore s' := rfl
@[simp] theorem exec_schcfgWrite (s' : State) :
    exec (.schcfgWrite) s' = execSchcfgWrite s' := rfl
@[simp] theorem exec_tileWordAccept (s' : State) :
    exec (.tileWordAccept) s' = execTileWordAccept s' := rfl
@[simp] theorem exec_tileWordStart (s' : State) :
    exec (.tileWordStart) s' = execTileWordStart s' := rfl
@[simp] theorem exec_childWordComplete (s' : State) :
    exec (.childWordComplete) s' = execChildWordComplete s' := rfl
@[simp] theorem exec_tileWordComplete (s' : State) :
    exec (.tileWordComplete) s' = execTileWordComplete s' := rfl
@[simp] theorem exec_tileStop (s' : State) :
    exec (.tileStop) s' = execTileStop s' := rfl
@[simp] theorem exec_regroupPlacement (s' : State) :
    exec (.regroupPlacement) s' = execRegroupPlacement s' := rfl
@[simp] theorem exec_amaxHistoryWrite (s' : State) :
    exec (.amaxHistoryWrite) s' = execAmaxHistoryWrite s' := rfl
@[simp] theorem exec_waitevPoll (s' : State) :
    exec (.waitevPoll) s' = execWaitevPoll s' := rfl
@[simp] theorem exec_queueStallRelease (s' : State) :
    exec (.queueStallRelease) s' = execQueueStallRelease s' := rfl
@[simp] theorem exec_tileAccessPerformed (s' : State) :
    exec (.tileAccessPerformed) s' = execTileAccessPerformed s' := rfl
@[simp] theorem exec_taggedAccessPerformed (s' : State) :
    exec (.taggedAccessPerformed) s' = execTaggedAccessPerformed s' := rfl
@[simp] theorem exec_copyCommandStart (s' : State) :
    exec (.copyCommandStart) s' = execCopyCommandStart s' := rfl
@[simp] theorem exec_copyCommandComplete (s' : State) :
    exec (.copyCommandComplete) s' = execCopyCommandComplete s' := rfl
@[simp] theorem exec_copyCancelAck (s' : State) :
    exec (.copyCancelAck) s' = execCopyCancelAck s' := rfl
@[simp] theorem exec_nestStart (s' : State) :
    exec (.nestStart) s' = execNestStart s' := rfl
@[simp] theorem exec_nestEnd (s' : State) :
    exec (.nestEnd) s' = execNestEnd s' := rfl
@[simp] theorem exec_tlwaitComplete (s' : State) :
    exec (.tlwaitComplete) s' = execTlwaitComplete s' := rfl
@[simp] theorem exec_barrierArrival (s' : State) :
    exec (.barrierArrival) s' = execBarrierArrival s' := rfl
@[simp] theorem exec_bwaitComplete (s' : State) :
    exec (.bwaitComplete) s' = execBwaitComplete s' := rfl
@[simp] theorem exec_invComplete (s' : State) :
    exec (.invComplete) s' = execInvComplete s' := rfl
@[simp] theorem exec_stallWatchdog (s' : State) :
    exec (.stallWatchdog) s' = execStallWatchdog s' := rfl
@[simp] theorem exec_halt (s' : State) :
    exec (.halt) s' = execHalt s' := rfl
@[simp] theorem exec_haltMessage (s' : State) :
    exec (.haltMessage) s' = execHaltMessage s' := rfl
@[simp] theorem exec_resume (s' : State) :
    exec (.resume) s' = execResume s' := rfl
@[simp] theorem exec_dbgdataAccess (s' : State) :
    exec (.dbgdataAccess) s' = execDbgdataAccess s' := rfl
@[simp] theorem exec_lineWriteBack (s' : State) :
    exec (.lineWriteBack) s' = execLineWriteBack s' := rfl
@[simp] theorem exec_linkLevelReplay (s' : State) :
    exec (.linkLevelReplay) s' = execLinkLevelReplay s' := rfl
@[simp] theorem exec_hbmStackTemperature (s' : State) :
    exec (.hbmStackTemperature) s' = execHbmStackTemperature s' := rfl
@[simp] theorem exec_invVc8Message (s' : State) :
    exec (.invVc8Message) s' = execInvVc8Message s' := rfl

end Sys2Proof.Machine

end OneByOne
end

