-- ==== Sys2Proof/Laws/Sparse.lean ====
section
/-! SUPPORT. Laws of sparse data: reading after writing, and the canonical form that every write keeps. -/

namespace Sys2Proof.Machine

theorem sget_sput_self {α : Type} (d : α) (m : Sparse α) (k : Nat) (v : α) : sget d (sput m k v) k = v := by
  induction m with
  | nil => simp [sput, sget]
  | cons p m ih =>
    obtain ⟨k', v'⟩ := p
    simp only [sput]
    split
    · simp [sget]
    · split
      · simp [sget]
      · simp [sget, *]

theorem sget_sput_ne {α : Type} (d : α) (m : Sparse α) {k j : Nat} (v : α) (h : j ≠ k) :
    sget d (sput m k v) j = sget d m j := by
  induction m with
  | nil => simp [sput, sget, h]
  | cons p m ih =>
    obtain ⟨k', v'⟩ := p
    simp only [sput]
    split
    · simp [sget, h]
    · split
      · subst_vars; simp [sget, h]
      · simp [sget, ih]

/-- A second write to a key replaces the first. -/
theorem sput_sput {α : Type} (m : Sparse α) (k : Nat) (v w : α) : sput (sput m k v) k w = sput m k w := by
  induction m with
  | nil => simp [sput]
  | cons p m ih =>
    obtain ⟨k', v'⟩ := p
    simp only [sput]
    split
    · rename_i h; simp [sput]
    · split
      · simp [sput, *]
      · simp [sput, *]

/-- Removing a key leaves it at the default. -/
theorem sget_filter_self {α : Type} (d : α) (m : Sparse α) (k : Nat) :
    sget d (m.filter (fun p => decide (p.1 ≠ k))) k = d := by
  induction m with
  | nil => simp [sget]
  | cons p m ih =>
    obtain ⟨k', v'⟩ := p
    by_cases h : k' = k
    · simpa [h] using ih
    · simpa [h, sget, Ne.symm h] using ih

theorem sget_filter_ne {α : Type} (d : α) (m : Sparse α) {k j : Nat} (h : j ≠ k) :
    sget d (m.filter (fun p => decide (p.1 ≠ k))) j = sget d m j := by
  induction m with
  | nil => simp [sget]
  | cons p m ih =>
    obtain ⟨k', v'⟩ := p
    by_cases e : k' = k
    · subst e; simpa [sget, h] using ih
    · simp only [ne_eq, decide_not, e, List.filter_cons, decide_false, Bool.not_false, if_true, sget]
      split
      · rfl
      · simpa using ih

/-- Reading after a write: the value at the key, what stood before elsewhere. -/
theorem sget_sset {α : Type} [DecidableEq α] (d : α) (m : Sparse α) (k j : Nat) (v : α) :
    sget d (sset d m k v) j = if j = k then v else sget d m j := by
  unfold sset
  split
  · rename_i e
    split
    · rename_i h; rw [h, sget_filter_self, e]
    · rename_i h; rw [sget_filter_ne d m h]
  · split
    · rename_i h; rw [h, sget_sput_self]
    · rename_i h; rw [sget_sput_ne d m v h]

theorem sget_smod_self {α : Type} (d : α) (m : Sparse α) (k : Nat) (f : α → α) :
    sget d (smod d m k f) k = f (sget d m k) := by simp [smod, sget_sput_self]

theorem sget_smod_ne {α : Type} (d : α) (m : Sparse α) {k j : Nat} (f : α → α) (h : j ≠ k) :
    sget d (smod d m k f) j = sget d m j := by simp [smod, sget_sput_ne d m _ h]

/-! ### The canonical form -/

theorem mem_keys_sput {α : Type} {m : Sparse α} {k : Nat} {v : α} {p : Nat × α} (h : p ∈ sput m k v) :
    p.1 = k ∨ p ∈ m := by
  induction m with
  | nil => simp [sput] at h; simp [h]
  | cons q m ih =>
    obtain ⟨k', v'⟩ := q
    simp only [sput] at h
    split at h
    · simp only [List.mem_cons] at h ⊢; rcases h with h | h <;> simp_all
    · split at h
      · simp only [List.mem_cons] at h ⊢; rcases h with h | h <;> simp_all
      · simp only [List.mem_cons] at h ⊢
        rcases h with h | h
        · simp [h]
        · rcases ih h with h | h <;> simp [h]

theorem scanonical_sput {α : Type} [DecidableEq α] {d : α} {m : Sparse α} (k : Nat) {v : α} (hv : v ≠ d)
    (h : scanonical d m = true) : scanonical d (sput m k v) = true := by
  induction m with
  | nil => simp [sput, scanonical, hv]
  | cons q m ih =>
    obtain ⟨k', v'⟩ := q
    simp only [scanonical, Bool.and_eq_true, decide_eq_true_eq, List.all_eq_true] at h
    obtain ⟨⟨h1, h2⟩, h3⟩ := h
    simp only [sput]
    split
    · rename_i lt
      simp only [scanonical, Bool.and_eq_true, decide_eq_true_eq, List.all_eq_true, List.mem_cons]
      refine ⟨⟨hv, ?_⟩, ⟨h1, h2⟩, h3⟩
      rintro p (rfl | hp)
      · exact lt
      · exact Nat.lt_trans lt (h2 p hp)
    · split
      · rename_i e
        subst e
        simp only [scanonical, Bool.and_eq_true, decide_eq_true_eq, List.all_eq_true]
        exact ⟨⟨hv, h2⟩, h3⟩
      · rename_i n e
        simp only [scanonical, Bool.and_eq_true, decide_eq_true_eq, List.all_eq_true]
        refine ⟨⟨h1, fun p hp => ?_⟩, ih h3⟩
        rcases mem_keys_sput hp with hp | hp
        · omega
        · exact h2 p hp

theorem scanonical_filter {α : Type} [DecidableEq α] {d : α} {m : Sparse α} (f : Nat × α → Bool)
    (h : scanonical d m = true) : scanonical d (m.filter f) = true := by
  induction m with
  | nil => exact h
  | cons q m ih =>
    obtain ⟨k', v'⟩ := q
    simp only [scanonical, Bool.and_eq_true, decide_eq_true_eq, List.all_eq_true] at h
    obtain ⟨⟨h1, h2⟩, h3⟩ := h
    rw [List.filter_cons]
    split
    · simp only [scanonical, Bool.and_eq_true, decide_eq_true_eq, List.all_eq_true]
      exact ⟨⟨h1, fun p hp => h2 p (List.mem_filter.1 hp).1⟩, ih h3⟩
    · exact ih h3

/-- A write keeps the canonical form. -/
theorem scanonical_sset {α : Type} [DecidableEq α] {d : α} {m : Sparse α} (k : Nat) (v : α)
    (h : scanonical d m = true) : scanonical d (sset d m k v) = true := by
  unfold sset
  split
  · exact scanonical_filter _ h
  · exact scanonical_sput k ‹_› h

theorem scanonical_swrite {α : Type} [DecidableEq α] {d : α} (vs : List α) {m : Sparse α} (k : Nat)
    (h : scanonical d m = true) : scanonical d (swrite d m k vs) = true := by
  induction vs generalizing m k with
  | nil => exact h
  | cons v vs ih => exact ih (k + 1) (scanonical_sset k v h)

/-! ### Bytes and integers -/

theorem length_toBytes (n v : Nat) : (toBytes n v).length = n := by
  induction n generalizing v with
  | zero => rfl
  | succ n ih => simp [toBytes, ih]

theorem fromBytes_toBytes (n v : Nat) : fromBytes (toBytes n v) = v % 256 ^ n := by
  induction n generalizing v with
  | zero => simp [toBytes, fromBytes, Nat.mod_one]
  | succ n ih =>
    have hp : (256 : Nat) ^ (n + 1) = 256 * 256 ^ n := by rw [Nat.pow_succ, Nat.mul_comm]
    simp only [toBytes, fromBytes, ih, BitVec.toNat_ofNat, hp, Nat.mod_mul]

theorem fromBytes_append (a b : List Byte) : fromBytes (a ++ b) = fromBytes a + 256 ^ a.length * fromBytes b := by
  induction a with
  | nil => simp [fromBytes]
  | cons x a ih => simp only [List.cons_append, fromBytes, ih, List.length_cons, Nat.pow_succ]; ring

end Sys2Proof.Machine
end

