-- ==== Sys2Proof/Laws/Memory.lean ====
section
/-! SUPPORT. Every operation that writes the stacks or host memory keeps their canonical form. -/

namespace Sys2Proof.Machine

/-- The stacks' cells and poison are in canonical form. -/
def MemSt.wf (m : MemSt) : Bool := scanonical memDefault m.hbm && scanonical false m.poison

theorem MemSt.wf_iff (m : MemSt) :
    m.wf = true ↔ scanonical memDefault m.hbm = true ∧ scanonical false m.poison = true := by
  simp [MemSt.wf]

theorem MemSt.wf_setByte {m : MemSt} (a : Nat) (b : Byte) (h : m.wf = true) : (m.setByte a b).wf = true := by
  rw [MemSt.wf_iff] at h ⊢
  exact ⟨scanonical_sset _ _ h.1, h.2⟩

theorem MemSt.wf_setPoison {m : MemSt} (a : Nat) (p : Bool) (h : m.wf = true) : (m.setPoison a p).wf = true := by
  rw [MemSt.wf_iff] at h ⊢
  exact ⟨h.1, scanonical_sset _ _ h.2⟩

theorem MemSt.wf_putBytes (bs : List Byte) {m : MemSt} (a : Nat) (h : m.wf = true) : (m.putBytes a bs).wf = true := by
  induction bs generalizing m a with
  | nil => exact h
  | cons b bs ih => exact ih (a + 1) (MemSt.wf_setByte a b h)

theorem MemSt.wf_clear (l : List Nat) (f : Nat → Nat) {m : MemSt} (h : m.wf = true) :
    (l.foldl (fun m i => m.setPoison (f i) false) m).wf = true := by
  induction l generalizing m with
  | nil => exact h
  | cons i l ih => exact ih (MemSt.wf_setPoison (f i) false h)

theorem MemSt.wf_write {m : MemSt} (a : Nat) (bs : List Byte) (h : m.wf = true) : (m.write a bs).wf = true :=
  MemSt.wf_clear _ (fun i => ((a + 31) / 32 + i) * 32) (MemSt.wf_putBytes bs a h)

theorem MemSt.wf_putMeta {m : MemSt} (a : Nat) (md : Meta) (h : m.wf = true) : (m.putMeta a md).wf = true := by
  rw [MemSt.wf_iff] at h ⊢
  exact ⟨scanonical_swrite _ _ h.1, h.2⟩

theorem scanonical_hostWrite {s : State} (a : Nat) (bs : List Byte) (h : scanonical memDefault s.host.mem = true) :
    scanonical memDefault (hostWrite a bs s).host.mem = true := scanonical_swrite _ _ h

theorem reset_mem_wf : State.reset.mem.wf = true := rfl

@[simp] theorem raiseTag_mem (t : Nat) (f : BitVec 16) (s : State) : (raiseTag t f s).mem = s.mem := by
  unfold raiseTag
  split <;> rfl

theorem metaError_mem_wf {s : State} (a : Nat) (h : s.mem.wf = true) : (metaError a s).mem.wf = true := by
  unfold metaError
  generalize liveTags s = l
  suffices ∀ u : State, u.mem.wf = true → (l.foldl (fun s t => raiseTag t flCORR s) u).mem.wf = true from
    this _ (MemSt.wf_putMeta a _ h)
  induction l with
  | nil => exact fun _ hu => hu
  | cons t l ih => exact fun u hu => ih _ (by simpa using hu)

end Sys2Proof.Machine
end

