-- ==== Sys2Proof/Laws/State.lean ====
section
/-! SUPPORT. What each update of the state leaves in each of its parts. -/

namespace Sys2Proof.Machine

/-! ### Cores -/

@[simp] theorem State.core_setCore (s : State) (k : Nat) (c : CoreSt) : (s.setCore k c).core k = c := by
  simp [State.core, State.setCore, sget_sput_self]

theorem State.core_setCore_ne (s : State) {k j : Nat} (c : CoreSt) (h : j ≠ k) :
    (s.setCore k c).core j = s.core j := by simp [State.core, State.setCore, sget_sput_ne _ _ _ h]

@[simp] theorem State.setCore_setCore (s : State) (k : Nat) (c d : CoreSt) :
    (s.setCore k c).setCore k d = s.setCore k d := by simp [State.setCore, sput_sput]

@[simp] theorem State.setCore_focus (s : State) (k : Nat) (c : CoreSt) : (s.setCore k c).focus = s.focus := rfl
@[simp] theorem State.setCore_agenda (s : State) (k : Nat) (c : CoreSt) : (s.setCore k c).agenda = s.agenda := rfl
@[simp] theorem State.setCore_input (s : State) (k : Nat) (c : CoreSt) : (s.setCore k c).input = s.input := rfl
@[simp] theorem State.setCore_nextId (s : State) (k : Nat) (c : CoreSt) : (s.setCore k c).nextId = s.nextId := rfl
@[simp] theorem State.setCore_pkg (s : State) (k : Nat) (c : CoreSt) : (s.setCore k c).pkg = s.pkg := rfl
@[simp] theorem State.setCore_fab (s : State) (k : Nat) (c : CoreSt) : (s.setCore k c).fab = s.fab := rfl
@[simp] theorem State.setCore_mem (s : State) (k : Nat) (c : CoreSt) : (s.setCore k c).mem = s.mem := rfl
@[simp] theorem State.setCore_perg (s : State) (k : Nat) (c : CoreSt) : (s.setCore k c).perg = s.perg := rfl
@[simp] theorem State.setCore_arb (s : State) (k : Nat) (c : CoreSt) : (s.setCore k c).arb = s.arb := rfl
@[simp] theorem State.setCore_host (s : State) (k : Nat) (c : CoreSt) : (s.setCore k c).host = s.host := rfl
@[simp] theorem State.setCore_sched (s : State) (k : Nat) (c : CoreSt) : (s.setCore k c).sched = s.sched := rfl
@[simp] theorem State.setCore_tiles (s : State) (k : Nat) (c : CoreSt) : (s.setCore k c).tiles = s.tiles := rfl
@[simp] theorem State.setCore_dbg (s : State) (k : Nat) (c : CoreSt) : (s.setCore k c).dbg = s.dbg := rfl

@[simp] theorem State.core_modCore (s : State) (k : Nat) (f : CoreSt → CoreSt) :
    (s.modCore k f).core k = f (s.core k) := by simp [State.modCore]

theorem State.core_modCore_ne (s : State) {k j : Nat} (f : CoreSt → CoreSt) (h : j ≠ k) :
    (s.modCore k f).core j = s.core j := s.core_setCore_ne _ h

@[simp] theorem State.modCore_modCore (s : State) (k : Nat) (f g : CoreSt → CoreSt) :
    (s.modCore k f).modCore k g = s.modCore k (fun c => g (f c)) := by simp [State.modCore]

/-! ### Memory -/

@[simp] theorem State.withMem_mem (s : State) (m : MemSt) : (s.withMem m).mem = m := rfl
@[simp] theorem State.withMem_cores (s : State) (m : MemSt) : (s.withMem m).cores = s.cores := rfl
@[simp] theorem State.withMem_core (s : State) (m : MemSt) (k : Nat) : (s.withMem m).core k = s.core k := rfl
@[simp] theorem State.withMem_focus (s : State) (m : MemSt) : (s.withMem m).focus = s.focus := rfl
@[simp] theorem State.withMem_host (s : State) (m : MemSt) : (s.withMem m).host = s.host := rfl
@[simp] theorem State.withMem_sched (s : State) (m : MemSt) : (s.withMem m).sched = s.sched := rfl
@[simp] theorem State.withMem_arb (s : State) (m : MemSt) : (s.withMem m).arb = s.arb := rfl

/-! ### The stream in execution -/

@[simp] theorem CoreSt.stream_setStream (c : CoreSt) (k : StreamKind) (x : StreamSt) :
    (c.setStream k x).stream k = x := by cases k <;> rfl

@[simp] theorem CoreSt.setStream_setStream (c : CoreSt) (k : StreamKind) (x y : StreamSt) :
    (c.setStream k x).setStream k y = c.setStream k y := by cases k <;> rfl

@[simp] theorem CoreSt.setStream_stream (c : CoreSt) (k : StreamKind) : c.setStream k (c.stream k) = c := by
  cases k <;> rfl

theorem State.modCur_def (s : State) (f : CoreSt → CoreSt) : s.modCur f = s.setCore s.focus.core (f s.cur) := rfl

@[simp] theorem State.cur_modCur (s : State) (f : CoreSt → CoreSt) : (s.modCur f).cur = f s.cur := by
  simp [State.modCur, State.cur, State.modCore]

@[simp] theorem State.focus_modCur (s : State) (f : CoreSt → CoreSt) : (s.modCur f).focus = s.focus := rfl

@[simp] theorem State.modCur_modCur (s : State) (f g : CoreSt → CoreSt) :
    (s.modCur f).modCur g = s.modCur (fun c => g (f c)) := State.modCore_modCore s s.focus.core f g

/-- A changed stream read back. -/
@[simp] theorem State.strm_modStrm (s : State) (f : StreamSt → StreamSt) : (s.modStrm f).strm = f s.strm := by
  simp [State.modStrm, State.strm, CoreSt.modStream]

/-! ### Registers (R225) -/

/-- Register 0 reads 0, a write to it is discarded; any other register reads what was last written to it. -/
theorem StreamSt.reg_setReg (x : StreamSt) (n m : Nat) (v : Word) :
    (x.setReg n v).reg m = if m = 0 then 0 else if m = n then v else x.reg m := by
  unfold StreamSt.reg StreamSt.setReg
  by_cases hm : m = 0
  · simp [hm]
  · by_cases hn : n = 0
    · subst hn; simp [hm]
    · simp [hm, hn, sget_sset]

@[simp] theorem StreamSt.setReg_pc (x : StreamSt) (n : Nat) (v : Word) : (x.setReg n v).pc = x.pc := by
  unfold StreamSt.setReg; split <;> rfl

@[simp] theorem StreamSt.setReg_preds (x : StreamSt) (n : Nat) (v : Word) : (x.setReg n v).preds = x.preds := by
  unfold StreamSt.setReg; split <;> rfl

@[simp] theorem StreamSt.setReg_loops (x : StreamSt) (n : Nat) (v : Word) : (x.setReg n v).loops = x.loops := by
  unfold StreamSt.setReg; split <;> rfl

@[simp] theorem StreamSt.setPred_pc (x : StreamSt) (n : Nat) (b : Bool) : (x.setPred n b).pc = x.pc := by
  unfold StreamSt.setPred; split <;> rfl

@[simp] theorem StreamSt.setPred_regs (x : StreamSt) (n : Nat) (b : Bool) : (x.setPred n b).regs = x.regs := by
  unfold StreamSt.setPred; split <;> rfl

end Sys2Proof.Machine
end

