-- ==== Sys2Proof/Laws/Stream.lean ====
section
/-! SUPPORT. What the shared operations of a stream's words do: the end of a word, a result written, a branch. -/

namespace Sys2Proof.Machine

/-! ### The exposure moves on without touching a stream -/

/-- A change of a core that neither reads nor writes a stream. -/
def StreamFree (f : CoreSt → CoreSt) : Prop := ∀ (c : CoreSt) (k : StreamKind) (x : StreamSt), f (c.setStream k x) = (f c).setStream k x

theorem streamFree_foldl {α : Type} (g : CoreSt → α → CoreSt) (h : ∀ a, StreamFree (fun c => g c a)) (l : List α) :
    StreamFree (fun c => l.foldl g c) := by
  intro c k x
  induction l generalizing c with
  | nil => rfl
  | cons a l ih =>
    have e := h a c k x
    simp only at e
    simp only [List.foldl_cons, e]
    exact ih (g c a)

theorem streamFree_putPlace (b : VByte) : StreamFree (fun c => c.putPlace b) := by
  intro c k x
  cases k <;> (simp only [CoreSt.putPlace, CoreSt.setTile, CoreSt.tileByte, CoreSt.isStaged, CoreSt.setStream]; split <;> rfl)

theorem streamFree_putPlaces (bs : List VByte) : StreamFree (fun c => c.putPlaces bs) := by
  intro c k x
  have h := streamFree_foldl CoreSt.putPlace streamFree_putPlace bs c k x
  simp only at h
  cases k <;> (simp only [CoreSt.putPlaces, h]; rfl)

theorem streamFree_land (bs : List VByte) : StreamFree (fun c => c.land bs) := by
  intro c k x
  have h := streamFree_putPlaces bs c k x
  simp only at h
  cases k <;> (simp only [CoreSt.land, h]; rfl)

theorem setPending_setStream (c : CoreSt) (k : StreamKind) (x : StreamSt) (l : List PendingWrite) :
    ({ c.setStream k x with pending := l } : CoreSt) = ({ c with pending := l } : CoreSt).setStream k x := by
  cases k <;> rfl

theorem setStream_pending (c : CoreSt) (k : StreamKind) (x : StreamSt) : (c.setStream k x).pending = c.pending := by
  cases k <;> rfl

theorem streamFree_age_go (n : Nat) (ws : List PendingWrite) : StreamFree (fun c => CoreSt.age.go n ws c) := by
  intro c k x
  induction n generalizing ws c with
  | zero => rfl
  | succ n ih =>
    cases ws with
    | nil => rfl
    | cons w ws =>
      simp only at ih
      simp only [CoreSt.age.go]
      split
      · rw [setStream_pending, setPending_setStream]; exact ih _ _
      · split
        · rw [setStream_pending, setPending_setStream]; exact ih _ _
        · have h := streamFree_land (seenUnder w.bytes ws).1 c k x
          simp only at h
          rw [h, setStream_pending, setPending_setStream]; exact ih _ _

/-- The exposure moves on beside the streams (R239). -/
theorem age_setStream (c : CoreSt) (k : StreamKind) (x : StreamSt) : (c.setStream k x).age = c.age.setStream k x := by
  have h := streamFree_age_go c.pending.length (c.pending.map (fun w => { w with left := w.left - 1 }))
    { c with pending := [] } k x
  have e : c.age = CoreSt.age.go c.pending.length (c.pending.map (fun w => { w with left := w.left - 1 }))
      { c with pending := [] } := by simp only [CoreSt.age, List.length_map]
  rw [e]
  unfold CoreSt.age
  simp only [setStream_pending, List.length_map, setPending_setStream]
  exact h

/-- A change that neither reads nor writes a stream leaves both as they stand. -/
theorem StreamFree.stream {f : CoreSt → CoreSt} (h : StreamFree f) (c : CoreSt) (k : StreamKind) :
    (f c).stream k = c.stream k := by
  have := h c k (c.stream k)
  rw [CoreSt.setStream_stream] at this
  rw [this, CoreSt.stream_setStream]

@[simp] theorem age_stream (c : CoreSt) (k : StreamKind) : c.age.stream k = c.stream k :=
  StreamFree.stream age_setStream c k

@[simp] theorem aged_stream (c : CoreSt) (j k : StreamKind) : (c.aged j).stream k = c.stream k := by
  unfold CoreSt.aged; split <;> simp

/-! ### The end of a word -/

/-- A word of four bytes ends in a state whose core and stream are given. -/
theorem finish_leaving (s : State) (c : CoreSt) : finish (s.setCore s.focus.core c) =
    s.leaving c ((c.stream s.focus.kind).advance 4) := by
  simp only [finish, finishSize, State.modCur, State.modCore, State.core_setCore, State.setCore_setCore,
    State.setCore_focus, CoreSt.modStream, State.leaving]
  congr 1
  unfold CoreSt.aged
  split <;> simp

theorem State.leaving_setStream (s : State) (c : CoreSt) (x y : StreamSt) :
    s.leaving (c.setStream s.focus.kind x) y = s.leaving c y := by
  unfold State.leaving CoreSt.aged
  split
  · rw [age_setStream, CoreSt.setStream_setStream]
  · rw [CoreSt.setStream_setStream]

/-- The end of a word that changed its stream alone. -/
theorem finish_modStrm (s : State) (f : StreamSt → StreamSt) :
    finish (s.modStrm f) = s.leaving s.cur ((f s.strm).advance 4) := by
  have : s.modStrm f = s.setCore s.focus.core (s.cur.setStream s.focus.kind (f s.strm)) := rfl
  rw [this, finish_leaving, CoreSt.stream_setStream, State.leaving_setStream]

/-- A word with nothing but its end. -/
theorem finish_self (s : State) : finish s = s.leaving s.cur (s.strm.advance 4) := by
  simp only [finish, finishSize, State.modCur, State.modCore, CoreSt.modStream, State.leaving, State.cur, State.strm]
  congr 1
  unfold CoreSt.aged
  split <;> simp

/-- A word of one result (R351). -/
theorem result_leaves (d : Nat) (v : Word) (s : State) :
    result d v s = .next (s.leaving s.cur ((s.strm.setReg d v).advance 4)) := by
  simp only [result, State.wr, finish_modStrm]

theorem predResult_leaves (d : Nat) (b : Bool) (s : State) :
    predResult d b s = .next (s.leaving s.cur ((s.strm.setPred d b).advance 4)) := by
  simp only [predResult, State.wp, finish_modStrm]

theorem alu2_leaves (f : Word → Word → Word) (d a b : Nat) (s : State) :
    alu2 f d a b s = .next (s.leaving s.cur ((s.strm.setReg d (f (s.rd a) (s.rd b))).advance 4)) :=
  result_leaves d _ s

theorem alu1_leaves (f : Word → Word) (d a : Nat) (s : State) :
    alu1 f d a s = .next (s.leaving s.cur ((s.strm.setReg d (f (s.rd a))).advance 4)) := result_leaves d _ s

/-- A taken branch from a state that differs in its stream alone (R365). -/
theorem branchTo_modStrm (t : Word) (s : State) (f : StreamSt → StreamSt) :
    branchTo t (s.modStrm f) = s.leaving s.cur ((f s.strm).jump t) := by
  have h1 : s.modStrm f = s.setCore s.focus.core (s.cur.setStream s.focus.kind (f s.strm)) := rfl
  rw [h1, ← State.leaving_setStream s s.cur (f s.strm)]
  simp only [branchTo, State.modCur, State.modCore, State.core_setCore, State.setCore_setCore, State.setCore_focus,
    CoreSt.modStream, State.leaving]
  congr 1
  unfold CoreSt.aged
  split <;> simp

theorem branchTo_self (t : Word) (s : State) : branchTo t s = s.leaving s.cur (s.strm.jump t) := by
  simp only [branchTo, State.modCur, State.modCore, CoreSt.modStream, State.leaving, State.cur, State.strm]
  congr 1
  unfold CoreSt.aged
  split <;> simp

end Sys2Proof.Machine
end

