-- ==== Sys2Proof/Tests/Slice0.lean ====
section
/-! SUPPORT. Tests: ill-formed terms that the checks refuse, words written out from the spec's encodings, single steps
on small states with results worked out from the rules, and for each statement with hypotheses a state that meets
them. -/

namespace Sys2Proof.Tests

-- one theorem after another: the checks run in little memory
set_option Elab.async false

open Sys2Proof Sys2Proof.Machine

/-! ### Ill-formed terms -/

/-- Register and predicate numbers, shift amounts and selectors outside their fields (R334, R354, R356, R359, R362). -/
theorem test_wf_scalar :
    [Instr.add 32 0 0, .sub 0 32 0, .mul 0 0 32, .sel 1 2 3 8, .clz 32 0, .bfx 1 2 3 32, .fma 1 2 32 3, .fabs 0 32,
      .fcvtfi 1 2 16, .fcvtfi 1 2 5, .fcvtif 1 2 29, .pcmp 8 1 1 0, .pcmp 1 1 1 6, .pand 1 8 1, .pnot 1 8,
      .pmov 8 1 0, .pmov 1 8 1, .pmov 1 1 2, .pmov 1 1 3, .pmov 1 1 4, .addi 32 0 0, .shli 1 1 64, .li 32 0,
      .beq 32 0 0, .jr 0 32 0, .loop 1 1 0, .loop 1 1 65536, .loops 1 1 0 1, .loops 1 1 1 0, .loops 1 1 8 1].all
      (fun i => !wellFormed i) = true := by decide

/-- A post-increment into its own base, queue, scope, operation and level numbers outside their lists (R371, R376 to
R392). -/
theorem test_wf_memory :
    [Instr.ldb 3 3 0 true false 0, .ldd 1 32 0 false 0, .ldd 1 1 8 false 0, .stb 1 1 0 false 4 0,
      .ldq 4 1 0 false false 0, .stq 2 1 0 false false 0, .ldf 2 2 0 true false false 0, .ste 32 1 0 false false false 0,
      .tagset 1 1 8 false 0, .rld 5 5 0 true false 0, .amo 1 1 1 0, .amo 0 1 1 13, .amor 1 1 1 13, .mcst 1 1 1 8,
      .cpy 1 1 1 5, .lrec 1 1 6, .fence 5, .inv 1 true 5, .tlwait 1 8, .tlread 1 1 4, .barv 1 1 5, .bwait 1 1 5,
      .pref 1 3, .bqpush 32, .qskip 1 1 4 false, .qpop 1 4 0, .qpush 2 1, .txread 1 1 2, .csrr 1 1024, .spawn 1 1 32,
      .tissue 32 1, .mloop 6 1 0, .mloop 0 1 5, .mcfg 1 7, .mstat 1 3].all (fun i => !wellFormed i) = true := by decide

/-- Vector registers, format pairs, patterns and operations outside their lists (R339, R407 to R424). -/
theorem test_wf_vector :
    [Instr.vadd 128 0 0 false false, .vabs 0 128 false false, .vcmp 1 1 1 false false 10,
      .vcvt 1 1 0 false false 1 1 0 false, .vcvt 1 1 0 false false 5 1 0 false, .vcvt 1 1 2 false false 0 1 0 false,
      .vpack 1 1 1 false false 1 0 0 false, .vunpk 1 1 false false 0 1 false, .vshuf 1 1 1 false false 6 0,
      .vshuf 1 1 1 false false 2 1, .vbcast 1 32 false false, .vreds 1 1 false false 12, .vscan 1 1 0 false false 3,
      .vscan 1 1 1 false false 0, .vscan 1 1 1 false false 12, .vpop 1 4 false 0 false, .vpush 2 1 false,
      .vmovt 40 16 false true, .vmovt 1 1 false true, .vmovt 8 1 false false, .vshape 1 false 0 1 false 0,
      .vshape 0 false 4 0 false 0, .mpush 8 false, .mset 8 1 false false].all (fun i => !wellFormed i) = true := by decide

/-- Weight formats, precisions, tile operands and levels outside their lists (R435 to R445), tile word fields (R345). -/
theorem test_wf_matrix :
    [Instr.mldw false 1 true false 0, .mldw false 4 false false 0, .mldw false 16 true false 1, .mldw false 5 false false 0,
      .mmac false 7 false, .mdrn false false false true, .mcmp false false 5 false, .mpred 0 1 false false,
      .mpred 2 6 false false, .tCopy { tileFields 0 with level := 8 }, .tSig { tileFields 0 with ho := 65536 },
      .tFill { tileFields 0 with tl := 16 }].all (fun i => !wellFormed i) = true := by decide

/-- Events whose signals name nothing the package has. -/
theorem test_wf_events :
    [(Instr.linkTrainingDone, ({ link := 62 } : Input)), (.arbiterSample, {}), (.throttleLevelApply, { die := 4 }),
      (.capClear, { n := 64 }), (.remoteRequest, { req := { (default : RemoteReq) with src := 64, size := 8 } }),
      (.linkMapUpdate, { dev := 64 }), (.pcSelect, { pc := 512 }), (.eccError, { site := .scratchpad 512 0 }),
      (.statusWriteApply, { stack := 8 }), (.chunkArrival, { vals := [0] }), (.markArrival, { link := 4 }),
      (.arbourVote, { node := 2 }), (.attemptVote, { dtid := 65536 }), (.registerWrite, { off := 2 ^ 24 }),
      (.cxlMemAccess, { off := 32 }), (.chainEnable, { chain := 4096 }), (.waitPoll, { n := 4 }),
      (.slotSelect, { slot := 256 }), (.domainShare, {}), (.groupRetire, { gid := 16384 }), (.nestEnd, { core := 512 }),
      (.lineWriteBack, { cache := .l2 128 }), (.hbmStackTemperature, { stack := 8 }),
      (.tileWordAccept, { flag := true, tile := { (default : TileArrival) with unit := ⟨3, 0⟩ } })].all
      (fun p => !inputWf p.1 p.2) = true := by decide

/-! ### Words written out from the encodings -/

/-- What the three streams read from a word and its extension: the first that takes it. -/
def read (k : StreamKind) (w : Nat) (e : Nat := 0) : Option (Instr × Nat) := (decode k (leBytes 4 w ++ leBytes 4 e)).toOption

/-- Words of R334 and R354 to R362, every field at a value of its own: arithmetic and predicates. -/
theorem test_decode_scalar :
    [(0x03B37000, Instr.add 29 19 14), (0x03B37001, .sub 29 19 14), (0x03B37002, .mul 29 19 14),
      (0x03B37003, .mulh 29 19 14), (0x03B37004, .mulhu 29 19 14), (0x03B37005, .div 29 19 14),
      (0x03B37006, .divu 29 19 14), (0x03B37007, .rem 29 19 14), (0x03B37008, .remu 29 19 14),
      (0x03B37009, .and 29 19 14), (0x03B3700A, .or 29 19 14), (0x03B3700B, .xor 29 19 14),
      (0x03B3700C, .andn 29 19 14), (0x03B3700D, .orn 29 19 14), (0x03B3700E, .shl 29 19 14),
      (0x03B3700F, .shr 29 19 14), (0x03B37010, .sra 29 19 14), (0x03B37011, .rol 29 19 14),
      (0x03B37012, .ror 29 19 14), (0x03B37013, .min 29 19 14), (0x03B37014, .max 29 19 14),
      (0x03B37015, .minu 29 19 14), (0x03B37016, .maxu 29 19 14), (0x03B37017, .slt 29 19 14),
      (0x03B37018, .sltu 29 19 14), (0x03B37019, .seq 29 19 14), (0x03B3719A, .sel 29 19 14 6),
      (0x03B3001B, .clz 29 19), (0x03B3001C, .ctz 29 19), (0x03B3001D, .popc 29 19), (0x03B3001E, .brev 29 19),
      (0x03B3001F, .bswap 29 19), (0x03B37660, .bfx 29 19 14 25), (0x03B37661, .bfi 29 19 14 25),
      (0x03B37022, .clmul 29 19 14), (0x03B37023, .clmulh 29 19 14), (0x08737140, .pcmp 3 19 14 5),
      (0x08653001, .pand 3 5 6), (0x08653002, .por 3 5 6), (0x08650003, .pnot 3 5), (0x08730004, .pmov 3 19 0)].all
      (fun p => read .a p.1 == some (p.2, 4)) = true := by decide

/-- Words of R334 and R358 to R371: immediates and branches. -/
theorem test_decode_immediate :
    [(0x0FB3A5C3, Instr.addi 29 19 0xa5c3), (0x13B3A5C3, .andi 29 19 0xa5c3), (0x17B3A5C3, .ori 29 19 0xa5c3),
      (0x1BB3A5C3, .xori 29 19 0xa5c3), (0x1FB3002D, .shli 29 19 45), (0x23B3002D, .shri 29 19 45),
      (0x27B3002D, .srai 29 19 45), (0x2BB3A5C3, .slti 29 19 0xa5c3), (0x2FB3A5C3, .sltiu 29 19 0xa5c3),
      (0x33A0A5C3, .li 29 0xa5c3), (0x37A0A5C3, .lui 29 0xa5c3), (0x3A6EA5C3, .beq 19 14 0xa5c3),
      (0x3E6EA5C3, .bne 19 14 0xa5c3), (0x426EA5C3, .blt 19 14 0xa5c3), (0x466EA5C3, .bge 19 14 0xa5c3),
      (0x4A6EA5C3, .bltu 19 14 0xa5c3), (0x4E6EA5C3, .bgeu 19 14 0xa5c3), (0x52A5C371, .j 0x2a5c371),
      (0x56A5C371, .jal 0x2a5c371), (0x5BB3A5C3, .jr 29 19 0xa5c3), (0x5FB3A5C3, .loop 29 19 42435),
      (0x63B3D234, .loops 29 19 6 4660)].all
      (fun p => read .a p.1 == some (p.2, 4)) = true := by decide

/-- Words of R336, R371 to R386: loads, stores, tags, atomics and copies. -/
theorem test_decode_access :
    [(0x67AED6C7, Instr.ldb 29 14 6 true true 0x2c7), (0x6BAED6C7, .ldh 29 14 6 true true 0x2c7),
      (0x6FAED6C7, .ldw 29 14 6 true true 0x2c7), (0x73AED2C7, .ldd 29 14 6 true 0x2c7),
      (0x77AEDAC7, .stb 29 14 6 true 2 0x2c7), (0x7BAEDAC7, .sth 29 14 6 true 2 0x2c7),
      (0x7FAEDAC7, .stw 29 14 6 true 2 0x2c7), (0x83AEDAC7, .std 29 14 6 true 2 0x2c7),
      (0x846ED6C7, .ldq 3 14 6 true true 0x2c7), (0x882ED6C7, .stq 1 14 6 true true 0x2c7),
      (0x8FAEDEC7, .ldf 29 14 6 true true true 0x2c7), (0x93AEDEC7, .ste 29 14 6 true true true 0x2c7),
      (0x97AED2C7, .tagset 29 14 6 true 0x2c7), (0x97AED6C7, .tagclr 29 14 6 true 0x2c7),
      (0x9BAEDAC7, .rld 29 14 6 true true 0x2c7), (0x9FAEDAC7, .rst 29 14 6 true true 0x2c7),
      (0x9FAEDEC7, .rsta 29 14 6 true true 0x2c7), (0xA01370C0, .amo 0 19 14 3), (0xA3B37241, .amor 29 19 14 9),
      (0xA7B37140, .mcst 29 19 14 5), (0xABB37100, .cpy 29 19 14 4), (0xABB370C1, .cpyc 29 19 14 3),
      (0xA8130002, .cpyx 19), (0xABB30003, .cpyq 29 19), (0xA8137104, .lrec 19 14 4)].all
      (fun p => read .a p.1 == some (p.2, 4)) = true := by decide

/-- Words of R337, R387 to R395: synchronisation, queues, transactions and system words. -/
theorem test_decode_system :
    [(0xAC0000C0, Instr.fence 3), (0xAC000101, .rel 4), (0xAC000082, .acq 2), (0xAC1308C3, .inv 19 true 3),
      (0xAC132804, .tlwait 19 5), (0xAFA02885, .tlread 29 5 2), (0xAFB30106, .barv 29 19 4),
      (0xAC137107, .bwait 19 14 4), (0xAC130088, .pref 19 2), (0xB0130000, .bqpush 19), (0xB3A00001, .bqpop 29),
      (0xB3A00042, .bqpeek 29 true), (0xB3B30843, .qskip 29 19 1 true), (0xB7A00000, .txbegin 29),
      (0xB4130001, .txvote 19), (0xB7A00002, .txwait 29), (0xB4000003, .txabort), (0xB7B30044, .txread 29 19 1),
      (0xBA970C40, .trap 0xa5c31), (0xB8000001, .eret), (0xBBA00542, .csrr 29 21), (0xBBB30803, .csrw 29 19 32),
      (0xBBB308C4, .csrs 29 19 35), (0xBBB30505, .csrc 29 19 20), (0xB8000006, .exit),
      (0xBBB37007, .spawn 29 19 14), (0xB800000A, .brkd), (0xB800000B, .nop)].all
      (fun p => read .a p.1 == some (p.2, 4)) = true := by decide

/-- Words only the X-stream takes (R337, R342): floating point, its queues, TISSUE and the matrix controls. -/
theorem test_decode_scalar_x :
    [(0x07B37000, Instr.fadd 29 19 14), (0x07B37001, .fsub 29 19 14), (0x07B37002, .fmul 29 19 14),
      (0x07B37643, .fma 29 19 14 25), (0x07B37004, .fmin 29 19 14), (0x07B37005, .fmax 29 19 14),
      (0x07B30006, .fabs 29 19), (0x07B30007, .fneg 29 19), (0x07B37008, .fcmpeq 29 19 14),
      (0x07B37009, .fcmplt 29 19 14), (0x07B3700A, .fcmple 29 19 14), (0x07B3008B, .fcvtfi 29 19 2),
      (0x07B3030C, .fcvtif 29 19 12), (0xB3A018C4, .qpop 29 3 3), (0xB0330005, .qpush 1 19),
      (0xBBB30008, .tissue 29 19), (0xB8000009, .tfence), (0xBCB30100, .mloop 5 19 4), (0xBC130181, .mcfg 19 6),
      (0xBFB30002, .mgo 29 19), (0xBFA00083, .mstat 29 2), (0xBFA00004, .mabort 29)].all
      (fun p => read .x p.1 == some (p.2, 4)) = true := by decide

/-- Vector words without an extension (R339, R340). -/
theorem test_decode_vector :
    [(0xC0BA96AE, Instr.vadd 93 37 85 true true), (0xC1BA96AE, .vsub 93 37 85 true true),
      (0xC2BA96AE, .vmul 93 37 85 true true), (0xC3BA96AE, .vfma 93 37 85 true true),
      (0xC4BA96AE, .vfms 93 37 85 true true), (0xC5BA96AE, .vfnma 93 37 85 true true),
      (0xC6BA96AE, .vmin 93 37 85 true true), (0xC7BA96AE, .vmax 93 37 85 true true),
      (0xC8BA9406, .vabs 93 37 true true), (0xC9BA9406, .vneg 93 37 true true),
      (0xCABA9406, .vrcp 93 37 true true), (0xCBBA9406, .vrsq 93 37 true true),
      (0xCCBA9406, .vsqrt 93 37 true true), (0xCDBA9406, .vexp2 93 37 true true),
      (0xCEBA9406, .vlog2 93 37 true true), (0xCFBA96AE, .vdiv 93 37 85 true true),
      (0xD0BA96AE, .viadd 93 37 85 true true), (0xD1BA96AE, .visub 93 37 85 true true),
      (0xD2BA96AE, .vimul 93 37 85 true true), (0xD3BA96AE, .vimulh 93 37 85 true true),
      (0xD4BA96AE, .vand 93 37 85 true true), (0xD5BA96AE, .vor 93 37 85 true true),
      (0xD6BA96AE, .vxor 93 37 85 true true), (0xD7BA96AE, .vshl 93 37 85 true true),
      (0xD8BA96AE, .vshr 93 37 85 true true), (0xD9BA96AE, .vsra 93 37 85 true true),
      (0xDABA96AE, .vimin 93 37 85 true true), (0xDBBA96AE, .vimax 93 37 85 true true),
      (0xDDBA96AE, .vsel 93 37 85 true true), (0xE1BA96AE, .vperm 93 37 85 true true),
      (0xE3BA4C06, .vbcast 93 19 true true), (0xE6BA96AE, .vclmul 93 37 85 true true),
      (0xE7BA9406, .vrng 93 37 true true), (0xE8BA086C, .vpop 93 2 true 5 true), (0xE9037404, .vpush 1 93 true),
      (0xEA609410, .vmovt 48 37 true false), (0xED001804, .mpush 6 true), (0xEE000004, .minv true),
      (0xEF000004, .mpop true), (0xF00C9406, .mset 6 37 true true), (0xF3BA0004, .vfrd 93 true),
      (0xF4000000, .vfclr), (0xF50C0004, .mget 6 true)].all
      (fun p => read .x p.1 == some (p.2, 4)) = true := by decide

/-- Step words (R341). -/
theorem test_decode_step :
    [(0x0A1A0000, Instr.mldw true 16 true true 4), (0x1A800000, .mmac true 2 true),
      (0x2C800000, .mmacs true 4 true), (0x3E000000, .mdrn true true true false), (0x4C000000, .mzero true true),
      (0x5C280000, .mcmp true true 2 true), (0x65700000, .mpred 2 5 true true), (0x70000000, .msync),
      (0x80000000, .mend), (0x90000000, .mnop)].all
      (fun p => read .m p.1 == some (p.2, 4)) = true := by decide

/-- The matrix words of chapter 17's table of encodings. -/
theorem test_decode_matrix_table :
    [(0xBC010000, Instr.mloop 0 1 0), (0xBC450080, .mloop 2 5 2), (0xBC070101, .mcfg 7 4), (0xBC000141, .mcfg 0 5),
      (0xBC400002, .mgo 2 0), (0xBC800043, .mstat 4 1), (0xBC600004, .mabort 3)].all
      (fun p => read .x p.1 == some (p.2, 4) && read .a p.1 == none) = true ∧
    [(0x00200000, Instr.mldw false 1 false false 0), (0x00900000, .mldw false 4 true false 0),
      (0x021A0000, .mldw false 16 true true 4), (0x10800000, .mmac false 0 true), (0x25000000, .mmacs false 5 false),
      (0x3A000000, .mdrn true false true false), (0x35000000, .mdrn false true false true), (0x4C000000, .mzero true true),
      (0x50280000, .mcmp false false 2 true), (0x64000000, .mpred 2 0 false false), (0x66800000, .mpred 3 2 false false),
      (0x62300000, .mpred 1 0 true true)].all (fun p => read .m p.1 == some (p.2, 4)) = true := by decide

/-- Vector words with an extension: the six of R424's list of encodings, and words of R404 to R423 with every field set. -/
theorem test_decode_extended :
    [(0xDE0E0401, 0x80, Instr.vcvt 7 1 0 false false 0 2 0 false), (0xDC0C0411, 1, .vcmp 6 1 2 false false 1),
      (0xE40E1001, 0, .vreds 7 4 false false 0), (0xE5141029, 0xC, .vscan 10 4 5 false false 12),
      (0xEB0A0001, 0x3F800000, .vldi 5 false false 0x3F800000), (0xEC000001, 0x40, .vshape 0 false 0 16 false 0),
      (0xF1000001, 5, .bmz 5), (0xF2000001, 0xFFFFFFFB, .bmnz 0xFFFFFFFB), (0xDEBA96AF, 0xC080, .vcvt 93 37 85 true true 0 2 4 true),
      (0xDFBA96AF, 0x9040, .vpack 93 37 85 true true 0 1 1 true), (0xE0BA9407, 0x10001, .vunpk 93 37 true true 1 0 true),
      (0xE2BA96AF, 0xABC1, .vshuf 93 37 85 true true 1 0xABC), (0xE4BA9407, 8, .vreds 93 37 true true 8),
      (0xDCBA96AF, 5, .vcmp 93 37 85 true true 5), (0xEBBA0007, 0xFFFFFFFF, .vldi 93 true true 0xFFFFFFFF),
      (0xEC000001, 0x167FFE, .vshape 0 false 2 4095 true 44), (0xEC005C05, 1, .vshape 23 true 1 0 false 0)].all
      (fun p => read .x p.1 p.2.1 == some (p.2.2, 8)) = true := by decide

/-- What the encodings' rules refuse: a reserved bit, another stream's word, an extension where none belongs or none
where one does, and the forbidden words of R424's table (R338, R339, R342). -/
theorem test_decode_refused :
    [(StreamKind.a, 0x00010825), (.a, 0x0013081B), (.a, 0x04810840), (.a, 0xC3080410), (.x, 0x70623001), (.x, 0xB8000007),
      (.x, 0xC0060411), (.x, 0xEB0A0000), (.x, 0xE5161029), (.x, 0xEA101000), (.m, 0x70000001), (.m, 0xA0000000),
      (.a, 0xFFFFFFFF), (.a, 0xB8000542), (.a, 0xB8000402)].map (fun p => read p.1 p.2 0xC) =
    [none, none, none, none, none, none, none, none, none, none, none, none, none, some (.csrr 0 21, 4), none] := by decide

/-- R345's example: a level-1 T.COPY with ASYNC from record 4 to record 5, completing on tl3; and each op code of R341. -/
theorem test_decode_tile :
    (decodeTile (0x0004000500002101 + 0x300000000 * 2 ^ 128)).toOption = some (.tCopy ⟨1, false, false, true, false, false,
      0, 5, 4, 0, 0, 0, 0, 3, 0, 0⟩) ∧
    ([1, 2, 3, 4, 5, 6, 7, 8, 9, 10, 11, 12, 13, 16, 17, 18, 19, 24, 25, 26].map (fun o => (decodeTile o).toOption)) =
      ([.tCopy, .tFill, .tEw, .tMap, .tRed, .tScan, .tCvt, .tMma, .tMmas, .tCmp, .tAmax, .tRng, .tOpt, .tAr, .tAg, .tRs,
        .tBc, .tKern, .tSig, .tWaitev].map (fun f : TileWord → Instr => some (f (tileFields 0)))) ∧
    [0, 14, 20, 27, 255].all (fun o => (decodeTile o).toOption.isNone) = true := by decide

/-- The words of the tables of encodings in chapters 14, 15 and 18. -/
theorem test_decode_tables :
    [(0x00E110DA, Instr.sel 7 1 2 3), (0x08453080, .pcmp 2 5 6 2), (0x34808000, .lui 4 0x8000), (0x14841234, .ori 4 4 0x1234),
      (0x1C840020, .shli 4 4 32), (0x40430002, .blt 2 3 2), (0x581F0000, .jr 0 31 0), (0x5C030005, .loop 0 3 5),
      (0x60446006, .loops 2 4 3 6), (0x70623001, .ldd 3 2 1 true 1), (0x84241401, .ldq 1 4 0 true true 1),
      (0x84054001, .ldq 0 5 2 false false 1), (0x88061401, .stq 0 6 0 true true 1), (0x8C480400, .ldf 2 8 0 false false true 0),
      (0x90670800, .ste 3 7 0 false true false 0), (0x952A0400, .tagclr 9 10 0 false 0), (0x9C640802, .rst 3 4 0 false true 2),
      (0xA0021800, .amo 0 2 3 0), (0xA0A63A41, .amor 5 6 7 9), (0xA40530C0, .mcst 0 5 6 3), (0xA82218C0, .cpy 1 2 3 3),
      (0xAC0000C1, .rel 3), (0xAC2400C6, .barv 1 4 3), (0xAC0408C7, .bwait 4 1 3), (0xAC050004, .tlwait 5 0),
      (0xB0E00042, .bqpeek 7 true), (0xB1CF0043, .qskip 14 15 0 true), (0xB8000140, .trap 5), (0xB8800242, .csrr 4 9),
      (0xB8070505, .csrc 0 7 0x14), (0xB8432007, .spawn 2 3 4)].all (fun p => read .a p.1 == some (p.2, 4)) = true ∧
    [(0x048110C3, Instr.fma 4 1 2 3), (0x04A102CB, .fcvtfi 5 1 11), (0xB8050403, .csrw 0 5 0x10), (0xB8660008, .tissue 3 6)].all
      (fun p => read .x p.1 == some (p.2, 4)) = true ∧
    (read .a 0xB8660008, read .x 0xB8432007) = (none, none) := by decide

/-! ### Single steps -/

/-- A stream that runs with the registers and predicates given, every other register 0. -/
def running (regs : List (Nat × Word)) (preds : BitVec 8 := 0) : StreamSt :=
  { run := .running, pc := 0xFFFFFFFFFFE00000, regs := regs, preds := preds }

/-- A device whose core 0 is `c`, with its stream `k` in execution. -/
def box (c : CoreSt) (k : StreamKind := .a) : State := { State.reset with cores := [(0, c)], focus := { kind := k } }

/-- A core whose A-stream, or whose X-stream, runs with the registers given. -/
def onA (regs : List (Nat × Word)) (c : CoreSt := {}) : State := box { c with a := running regs }
def onX (regs : List (Nat × Word)) (c : CoreSt := {}) : State := box { c with x := running regs } .x

/-- What `f` reads of the next state. -/
def after {α : Type} (i : Instr) (s : State) (f : State → α) : Option α :=
  match exec i s with
  | .next t => some (f t)
  | _ => none

/-- A scalar register after an instruction. -/
def regAfter (i : Instr) (s : State) (n : Nat) : Option Word := after i s (fun t => t.rd n)

/-- R354 to R358: wrapping, high products, the division corners, the two worked examples of R356 and of R358, and a sum
into one of its sources. -/
theorem test_integer_words :
    let s := onA [(1, 0xFFFFFFFFFFFFFFFF), (2, 1), (3, 0x8000000000000000), (4, 4), (5, 0xABCD), (6, 8), (7, 60), (8, 5)]
    regAfter (.add 1 1 2) s 1 = some 0 ∧ regAfter (.mulh 9 3 1) s 9 = some 0 ∧
    regAfter (.mulhu 9 3 1) s 9 = some 0x7FFFFFFFFFFFFFFF ∧ regAfter (.div 9 3 1) s 9 = some 0x8000000000000000 ∧
    regAfter (.rem 9 3 1) s 9 = some 0 ∧ regAfter (.div 9 2 0) s 9 = some 0xFFFFFFFFFFFFFFFF ∧
    regAfter (.bfx 9 5 4 6) s 9 = some 0xBC ∧ regAfter (.bfi 1 8 7 6) s 1 = some 0x5FFFFFFFFFFFFFFF ∧
    regAfter (.lui 4 0x8000) s 4 = some 0xFFFFFFFF80000000 ∧
    regAfter (.ori 4 4 0x1234) (onA [(4, 0xFFFFFFFF80000000)]) 4 = some 0xFFFFFFFF80001234 ∧
    regAfter (.add 0 1 2) s 0 = some 0 ∧ after (.add 1 1 2) s (fun t => t.pc) = some 0xFFFFFFFFFFE00004 := by decide

/-- R361: the worked examples of the scalar conversions. -/
theorem test_scalar_conversions :
    let s := onX [(1, 0xC02C0000), (2, 0x1000001)]
    regAfter (.fcvtfi 5 1 0) s 5 = some 0xFFFFFFFFFFFFFFFD ∧ regAfter (.fcvtfi 5 1 1) s 5 = some 0xFFFFFFFFFFFFFFFE ∧
    regAfter (.fcvtfi 5 1 11) s 5 = some 0xFFFFFFFFFFFFFFFD ∧ regAfter (.fcvtif 6 2 0) s 6 = some 0x4B800000 ∧
    regAfter (.fcvtif 6 2 16) s 6 = some 0x4B80 ∧ after (.fcvtif 6 2 0) s (fun t => t.cur.sxf) = some 0x10 := by
  decide +kernel

/-- R371, R376, R392: the worked example of a load into a queue under a false predicate, and the pop of its null entry. -/
theorem test_null_entry :
    let s := box { a := running [(5, 0xFFFFFFFFFFE00100)], coreCfg := 0x11 } .a
    (after (.ldq 0 5 2 true false 1) s (fun t => (t.rd 5, t.cur.queue 0))) =
      some (0xFFFFFFFFFFE00108, [⟨List.replicate 8 0, true, false⟩]) ∧
    let q : CoreSt := { x := running [(7, 1)] 8, coreCfg := 0x11, queues := [(0, [⟨List.replicate 8 0, true, false⟩])] }
    (after (.qpop 7 0 3) (box q .x) (fun t => (t.rd 7, t.pr 3, t.cur.queue 0))) =
      some (0, false, []) := by decide

/-- R366, R367: the end word of two levels, the worked example's inner level in its last pass and its outer one in its
first: the inner level is popped and the outer one starts its second pass. -/
theorem test_loop_end :
    let l (a n x : Nat) : LoopLevel := ⟨BitVec.ofNat 64 a, 16, 0, n, 0, x, 0, n, false, false⟩
    let s := box { a := { running [] with pc := 16, loops := [l 12 3 2, l 4 2 0] } }
    after .nop s (fun t => (t.pc, t.strm.loops)) = some (4, [l 4 2 1]) ∧
    after .nop (box { a := { running [] with pc := 16, loops := [l 12 3 1, l 4 2 0] } })
      (fun t => (t.pc, t.strm.loops)) = some (12, [l 12 3 2, l 4 2 0]) := by decide

/-- R307, R309, R315: a trap taken at VEC·4, resuming after a SWTRAP and at the word after an ALIGN, and one not taken. -/
theorem test_trap_entry :
    let s := box { a := { running [(1, 0xFFFFFFFFFFE00101)] with trapVec := 0x1001 } }
    after (.trap 5) s (fun t => (t.pc, t.strm.trapCode, t.strm.trapAddr, t.strm.trapPc, t.strm.inTrap)) =
      some (0x1000, 0x12, 5, 0xFFFFFFFFFFE00004, true) ∧
    after (.ldd 2 1 0 false 0) s (fun t => (t.pc, t.strm.trapCode, t.strm.trapAddr, t.strm.trapPc)) =
      some (0x1000, 2, 0xFFFFFFFFFFE00101, 0xFFFFFFFFFFE00000) ∧
    after (.trap 5) (onA []) (fun t => (t.cur.fault, t.strm.inTrap)) = some (some ⟨0x12, 0, 5⟩, false) := by decide

/-- R69, R70: the worked example of the interleave under codes 0 and 7. -/
theorem test_interleave :
    (interleave 0 false 0x200041A40, interleave 7 false 0x200041A40) = ((2, 3, 0x1000240), (1, 26, 0x1000040)) := by decide

/-- R285, R288, R291, R292: the worked examples: an element of a nested integer, a direct conversion and one through
BF16, and the first random word of key 0 and counter 0. -/
theorem test_number_formats :
    (Fmt.e2m1.round .rne 0 0 (Fmt.fp32.decode 0x3FA00001)).1 = 3 ∧
    (Fmt.e2m1.round .rne 0 0 (Fmt.bf16.decode 0x3FA0)).1 = 2 ∧ rbits 0 0 0 = 0x6627E8D5 ∧
    (Fmt.fp32.fadd 0x3F800000 0x33800000).1 = 0x3F800000 ∧ (Fmt.fp32.fadd 0x3F800000 0x34400000).1 = 0x3F800002 := by
  decide +kernel

/-- R404, R421: the worked example's compare, and the complement of the top mask within the one below. -/
theorem test_vector_masks :
    let v (r : Nat) (l : List Nat) : Sparse Byte := ((l.flatMap (toBytes 4)).zipIdx.map (fun p => (2048 * r + p.2, p.1)))
    let c : CoreSt := { x := running [], vsh := 16, vec := v 1 [0xC0000000, 0x40400000, 0x7FC00000, 0x3F000000] }
    after (.vcmp 2 9 1 false false 1) (box c .x) (fun t => (t.cur.vec.filter (fun p => 4096 ≤ p.1)).map (fun p => p.1)) =
      some [4100, 4101, 4102, 4103, 4108, 4109, 4110, 4111] ∧
    after (.vcmp 2 9 1 false false 1) (box c .x) (fun t => (t.cur.lane 2, t.cur.lane 1)) = some (1, 0) ∧
    after (.minv false) (box { c with mstack := [2, 10, 15] } .x) (fun t => t.cur.mstack) =
      some [8, 10, 15] := by decide +kernel

/-- R37: the worked example of a capture unit: base 200 and w 4, three packets. -/
theorem test_capture :
    let u : CapSt := { en := true, opened := true, src := 1, hb := 200 + 4 * 2 ^ 32 }
    let go (v : Nat) (u : CapSt) : Option CapSt :=
      after .captureEvent { State.reset with pkg := { State.reset.pkg with caps := [(0, u)] }, input := { n := 1, v := BitVec.ofNat 64 v } }
        (fun t => sget {} t.pkg.caps 0)
    ((go 263 u).bind (fun u => (go 180 u).bind (go 900))).map (fun u => (u.cnt, u.min, u.max, u.hist)) =
      some (3, 180, 900, [(0, 1), (3, 1), (15, 1)]) := by decide

/-! ### States that meet the hypotheses of the statements -/

/-- The answer of an operation that also changes the state. -/
def fst {α : Type} (r : State × α) : α := r.2

/-- How an access ends: its bytes, its fault, or a wait. -/
def ends (r : State × Access) : Option (List Byte) × Option MemErr :=
  match r.2 with
  | .done bs => (some bs, none)
  | .fault e => (none, some e)
  | .wait => (none, none)

/-- A fault of an operation, where it answers one. -/
def err {α : Type} (r : State × Except MemErr α) : Option MemErr := match r.2 with | .error e => some e | .ok _ => none

/-- What an operation answers, where it does. -/
def ans {α : Type} (r : State × Except MemErr α) : Option α := r.2.toOption

/-- The device of a domain of one, whose core 0 has three pages of 64 KiB in its TLB: local HBM at 0x10000, SPACE 1 at
0x20000, SPACE 2 (core 1's scratchpad) at 0x30000, and a host page at 0x40000. -/
def mapped (regs : List (Nat × Word)) (c : CoreSt := {}) (k : StreamKind := .a) : State :=
  let tlb : List TlbEntry := [⟨0, 0x10000, 16, 0x10007⟩, ⟨0, 0x20000, 16, 0x40000000010007⟩,
    ⟨0, 0x30000, 16, 0x80000000200007⟩, ⟨0, 0x40000, 16, 0xC0000000000007⟩]
  let s := box { c with a := running regs, x := running regs, tlb := tlb } k
  { s with fab := { s.fab with members := 1 } }

/-- A flight of core 0 that is not acknowledged. -/
def flight : Flight := ⟨⟨0, 1, .store true, 0x40000000010000, 8, [], false, 0⟩, .tl2 0 1 0 none, 0, .gone [1], false⟩

/-- R355's cases, each at its operand. -/
theorem witness_division :
    let s := onA [(1, 0x8000000000000000), (2, 0xFFFFFFFFFFFFFFFF)]
    s.rd 0 = 0 ∧ s.rd 1 = BitVec.intMin 64 ∧ s.rd 2 = BitVec.allOnes 64 ∧ s.rd 2 ≠ 0 := by decide

/-- Each branch's condition met and not met, and JR to aligned and misaligned targets. -/
theorem witness_branches :
    let s := onA [(1, 4), (2, 0xFFFFFFFFFFFFFFFF)]
    (s.rd 1 = s.rd 1 ∧ s.rd 1 ≠ s.rd 2 ∧ (s.rd 2).toInt < (s.rd 1).toInt ∧ ¬ (s.rd 1).toInt < (s.rd 2).toInt ∧
      s.rd 1 < s.rd 2 ∧ ¬ s.rd 2 < s.rd 1) ∧
    (s.rd 1 + (4 : BitVec 16).signExtend 64).toNat % 4 = 0 ∧ (s.rd 1 + (2 : BitVec 16).signExtend 64).toNat % 4 ≠ 0 := by
  decide

/-- A stream that goes straight on, a second core, and X-streams with no exposure and with one. -/
theorem witness_advance :
    (running []).straight = true ∧ (1 ≠ (onA []).focus.core) ∧ (onA []).focus.kind = .a ∧ (onX []).focus.kind = .x ∧
    (onX []).cur.pending = [] ∧ 0x17FFFF < 0x180000 := by decide

/-- A LOOP and a LOOPS at their end word, in a pass that goes on and in their last. -/
theorem witness_loop_end :
    let l (n st x : Nat) : LoopLevel := ⟨4, 16, 1, n, st, x, 0, n, false, false⟩
    let x (l : LoopLevel) : StreamSt := { running [] with pc := 16, loops := [l] }
    (x (l 2 0 0)).active = [l 2 0 0] ∧ (l 2 0 0).stop = 16 ∧ (0 + 1 < (l 2 0 0).n) ∧ (l 2 0 1).n ≤ 1 + 1 ∧
    (x (l 2 7 0)).active = [l 2 7 0] ∧ 1 ≤ (l 2 7 0).stages ∧ (l 2 7 0).lim = (l 2 7 0).n ∧ (l 2 7 0).cut = false ∧
    0 + 1 < (l 2 7 0).n + (7 - 1) ∧ (l 2 7 7).n + (7 - 1) ≤ 7 + 1 ∧ (x (l 2 7 0)).preempt = false := by decide

/-- A first level, a count of 0, a fifth level, and a place at an active end word. -/
theorem witness_loop_words :
    let l : LoopLevel := ⟨4, 0xFFFFFFFFFFE00100, 1, 2, 0, 0, 0, 2, false, false⟩
    let s (r : Word) (ls : List LoopLevel) := box { a := { running [(1, r)] with loops := ls } }
    let fits (s : State) := s.strm.straight = true ∧
      ∀ l ∈ s.strm.active.head?, (s.pc + BitVec.ofNat 64 (4 * 5)).toNat ≤ l.stop.toNat
    (fits (s 3 []) ∧ (s 3 []).rd 1 ≠ 0 ∧ (s 3 []).strm.loops.length < 4) ∧
    (fits (s 0 [l]) ∧ (s 0 [l]).rd 1 = 0 ∧
      (s 0 [l]).strm.active.all (fun m => m.stop != (s 0 [l]).pc + BitVec.ofNat 64 20) = true) ∧
    (fits (s 3 [l, l, l, l]) ∧ 4 ≤ (s 3 [l, l, l, l]).strm.loops.length) ∧
    ¬ fits (s 3 [{ l with stop := 0xFFFFFFFFFFE00000 }]) := by decide

/-- A stream whose traps are taken, one with EN 0, one in a handler; a placed core of a group. -/
theorem witness_traps :
    let pl : Placement := ⟨0, 3, 7, 0, 0, 0, 0, [], 0⟩
    let s (v : Word) (t : Bool) := box { a := { running [] with trapVec := v, inTrap := t }, place := some pl, trapEn := 1, sxf := 1 }
    ((s 1 false).strm.trapVec.getLsbD 0 = true ∧ (s 1 false).strm.inTrap = false) ∧
    (s 0 false).strm.trapVec.getLsbD 0 = false ∧ (s 1 true).strm.inTrap = true ∧ (s 1 true).cur.place = some pl ∧
    (s 1 true).dbg.brkHalt = false ∧ (s 1 true).dbg.state = 0 ∧
    ({ s 1 true with dbg := { brkHalt := true } } : State).dbg.brkHalt = true ∧ (onA []).cur.place = none ∧
    ((s 1 true).cur.sxf ||| (s 1 true).cur.vxf) &&& (s 1 true).cur.trapEn.setWidth 5 ≠ 0 ∧
    ((onA []).cur.sxf ||| (onA []).cur.vxf) &&& (onA []).cur.trapEn.setWidth 5 = 0 := by decide

/-- Loads and stores under a false and a true predicate: done, faulting and waiting; the window's edges. -/
theorem witness_accesses :
    let s := mapped [(1, 0xFFFFFFFFFFE00100), (2, 0xFFFFFFFFFFFFFFF8), (3, 0x20000), (4, 0x50000)]
      { spadPois := [(0x21, true)] }
    s.pr 0 = true ∧ s.pr 7 = false ∧
    ends (loadBytes (s.rd 1).toNat 8 s) = (some (List.replicate 8 0), none) ∧
    ends (loadBytes (s.rd 3).toNat 8 s) = (none, none) ∧
    ends (loadBytes (s.rd 4).toNat 8 s) = (none, some .xlate) ∧ ends (storeBytes (s.rd 4).toNat 4 [1] s) = (none, some .xlate) ∧
    ends (storeBytes (s.rd 1).toNat 4 [1] s) = (some [], none) ∧
    (s.windowReady (s.rd 1).toNat 8 ∧ s.windowReady (s.rd 2).toNat 8) ∧
    (inWindow (s.rd 1).toNat = true ∧ ((s.rd 1).toNat + 1) % 2 ≠ 0 ∧ (s.rd 1).toNat + 1 + 2 ≤ 2 ^ 64) ∧
    s.cur.spadBad (0x108 % 2 ^ 21) 8 ≠ none ∧ 2 ^ 64 < (s.rd 2).toNat + 4 + 8 := by
  unfold State.windowReady
  decide +kernel

/-- A store that waits for a tl2 number. -/
theorem witness_store_waits :
    let s := mapped [(3, 0x20000)] { tls := [(2, { issued := 256 })] }
    tl2Full s 0 = true ∧ ends (storeBytes (s.rd 3).toNat 4 [1] s) = (none, none) := by decide

/-- Offsets of one region at their cells, and the limits of memory and the scratchpad. -/
theorem witness_read_after_write :
    let m : MemSt := {}
    cellKey (m.cell 5) = cellKey (m.cell 5) ∧ 2 ^ 39 - 1 + [(1 : Byte)].length ≤ 2 ^ 39 ∧ [(1 : Byte)][0]? = some 1 ∧
    Memory.wf State.reset = true ∧ (box {}).mem.poisoned 0 1 = false ∧ (1 : Nat) ≠ (box {}).focus.core := by decide

/-- A queue that fits and has room, a full one, an empty one, one with an entry, a poisoned one, one of depth 0. -/
theorem witness_queues :
    let e (p : Bool) : QEntry := ⟨List.replicate 8 0, false, p⟩
    let s (l : List QEntry) := mapped [(1, 0xFFFFFFFFFFE00100), (2, 3)] { coreCfg := 0x40000004, queues := [(0, l), (4, l), (6, l), (7, l)] }
    (cfgVec (s []).cur.coreCfg.toNat 0 = false ∧ (s []).cur.queueDepth 0 = 4 ∧ (s []).cur.queueDepth 4 = 4 ∧
      (s []).cur.queueDepth 1 = 0) ∧
    ((s []).cur.queue 0 = [] ∧ (s []).cur.queue 4 = [] ∧ (s []).cur.queue 7 = []) ∧
    (let f := s [e false, e false, e false, e false]
     f.cur.queueDepth 0 ≤ (f.cur.queue 0).length ∧ f.cur.queueDepth 4 ≤ (f.cur.queue 4).length) ∧
    (let f := s [e false, e true]
     f.cur.queue 0 = e false :: [e true] ∧ (f.cur.queue 0).length < f.cur.queueDepth 0 ∧ (e false).poison = false ∧
       (s [e true]).cur.queue 4 = [e true] ∧ (e true).poison = true ∧ f.strm.skip = none ∧
       (f.rd 0).toNat ≤ (f.cur.queue 7).length ∧ (f.cur.queue 7).length < (f.rd 2).toNat ∧ f.cur.queueDepth 7 ≠ 0) := by
  decide

/-- The addresses a tagged word, a remote word and an atomic name, with each fault. -/
theorem witness_tagged :
    let s := mapped [(1, 0xFFFFFFFFFFE00100), (2, 0xFFFFFFFFFFE00208), (3, 0xFFFFFFFFFFFFFFF8), (4, 0xFFFFFFFFFFE00104), (5, 2)]
      { tags := [(0x20, true), (0x41, true)], spadPois := [(0x41, true)] }
    (s.windowReady (s.rd 1).toNat 8 ∧ s.cur.tagAt 0x100 = true ∧ s.cur.tagAt 0x110 = false) ∧
    (inWindow (s.rd 2).toNat = true ∧ (s.rd 2).toNat % 8 = 0 ∧ s.cur.tagAt 0x208 = true ∧ s.cur.spadBad 0x208 8 ≠ none) ∧
    (release 0 4 s).2 = true ∧ (release 0 4 { s with fab := { s.fab with flights := [flight] } }).2 = false ∧
    err (tagTarget 0 0x50000 false s) = some .xlate ∧ (ans (tagTarget 0 0x30000 true s)).isSome = true ∧
    tl2Full s 0 = false ∧ tl2Full (mapped [] { tls := [(2, { issued := 257, passed := 1 })] }) 0 = true ∧
    (match ans (findTarget 0 0x10000 8 false s), ans (findTarget 0 0x30004 8 true s) with
      | some (.segs l), some (.segs m) => !l.all Seg.isSpad && m.all Seg.isSpad
      | _, _ => false) = true ∧
    ((s.rd 3).toNat + 8 * 1 ≤ 2 ^ 64 ∧ ¬ (s.rd 3).toNat + 8 * (s.rd 5).toNat ≤ 2 ^ 64 ∧ inWindow 0x10000 = false ∧
      (s.rd 4).toNat % 8 ≠ 0 ∧ (s.rd 4).toNat + 8 ≤ 2 ^ 64) := by
  unfold State.windowReady
  decide +kernel

/-- A remote word at each kind of target, and a multicast at its region's end, past it, misaligned, and with no region. -/
theorem witness_remote :
    let s := mapped [(1, 0xFFF8), (2, 0x10000), (3, 4)]
    let t : State := { s with fab := { s.fab with mcrep := [(0, { base := 0x40000000010000, size := 16, valid := true })] } }
    let regions (s : State) (set : Nat) := ((List.range 4).map (fun i => sget {} s.fab.mcrep (4 * set + i))).filter
      (fun r => r.valid && decide (r.base / 2 ^ 54 < 2))
    let short (x : Word) := (regions t 0).any (fun r => decide (r.bytes < x.toNat + 8))
    err (remoteTarget 0 0x10000 true s) = some .split ∧ err (remoteTarget 0 0x20004 true s) = some .align ∧
    ans (remoteTarget 0 0x20008 false s) = some (0x40000000010008, false) ∧
    (ends (remoteCall .load 0x20008 0x40000000010008 8 [] false s)) = (none, none) ∧
    (short (t.rd 1), short (t.rd 2), short (t.rd 3)) = (false, true, false) ∧ (t.rd 1).toNat % 8 = 0 ∧
    (t.rd 3).toNat % 8 ≠ 0 ∧ (regions t 7).length = 0 := by decide +kernel

/-- An atomic's targets: the window, STRICT, each fault, local memory done and poisoned, and a remote home. -/
theorem witness_atomics :
    let s := mapped [(1, 0xFFFFFFFFFFE00100)] {}
    let p := s.withMem (s.mem.setPoison 0x10020 true)
    let t := mapped [(1, 0xFFFFFFFFFFE00100)] { txst := { strict := true } }
    let seg (a : Nat) (ph : Phys) : Target := .segs [⟨a, 8, ph.casesOn (fun l => l.off) id id id id, ph, false⟩]
    s.windowReady (s.rd 1).toNat 8 ∧ s.cur.txst.strict = false ∧ t.cur.txst.strict = true ∧
    err (atomicTarget 0 0x40000 8 .add s) = some .split ∧ err (atomicTarget 0 0x10004 8 .add s) = some .align ∧
    ans (atomicTarget 0 0x10020 8 .add s) = some (seg 0x10020 (.hbm ⟨0x10020, none⟩)) ∧
    Target.remote (seg 0x10020 (.hbm ⟨0x10020, none⟩)) = none ∧
    ans (localAtomic 0 (seg 0x10020 (.hbm ⟨0x10020, none⟩)) .add 1 0 s) = some 0 ∧
    err (localAtomic 0 (seg 0x10020 (.hbm ⟨0x10020, none⟩)) .add 1 0 p) = some .poison ∧
    ans (atomicTarget 0 0x20020 8 .cas s) = some (seg 0x20020 (.domain 0x40000000010020)) ∧
    Target.remote (seg 0x20020 (.domain 0x40000000010020)) = some (0x40000000010020, false) := by
  unfold State.windowReady
  decide +kernel

/-- A copy queue with room and full, cancel slots free, with one over and with none; handles of each status. -/
theorem witness_copies :
    let k (n : Nat) : CopyCmd := .copy n 1 2 false false 0 true ⟨0, 0, false⟩
    let p (n : Nat) : Nat × CancelStatus := (n, .pending)
    let c : CoreSt := { copyQ := [k 5], cancels := [p 4, p 5, (2, .done), (3, .cancelling)] }
    let full : CoreSt := { copyQ := (List.range 16).map k, cancels := [p 1, p 2, p 3, p 4] }
    (16 ≤ full.copyQ.length ∧ c.copyQ.length < 16 ∧ ({} : CoreSt).cancels.length < 4 ∧ 4 ≤ c.cancels.length) ∧
    c.cancels.find? (fun e => e.2.isOver) = some (2, .done) ∧ full.cancels.all (fun e => !e.2.isOver) = true ∧
    c.cancels.find? (fun e => e.1 == 5) = some (p 5) ∧ c.copyQ.any (CopyCmd.isNum 5) = true ∧
    c.cancels.find? (fun e => e.1 == 4) = some (p 4) ∧ c.copyQ.any (CopyCmd.isNum 4) = false ∧
    c.cancels.find? (fun e => e.1 == 9) = none := by decide

/-- Handles at the ends of their tables, and a record's address ready, poisoned and misaligned. -/
theorem witness_record_loads :
    let s := onA [(1, 1), (2, 1023), (3, 1024), (4, 0xFFFFFFFFFFE00060), (5, 0xFFFFFFFFFFE00070)]
    (1 ≤ (s.rd 1).toNat % 65536 ∧ (s.rd 2).toNat % 65536 ≤ 1023 ∧ ¬ (s.rd 3).toNat % 65536 ≤ 1023 ∧ ¬ 1 ≤ (s.rd 0).toNat % 65536) ∧
    (inWindow (s.rd 4).toNat = true ∧ (s.rd 4).toNat % 32 = 0 ∧ (s.rd 4).toNat + 96 ≤ 2 ^ 64 ∧
      s.cur.spadBad ((s.rd 4).toNat % 2 ^ 21) 96 = none ∧ s.strm.parts = []) ∧
    (inWindow (s.rd 5).toNat = true ∧ (s.rd 5).toNat % 32 ≠ 0) ∧ s.cur.copyQ.length < 16 := by decide

/-- A release performed and one that waits: for a remote store of its own at stack scope, of any core at sys; an INV with no
other member, one that waits and one answered. -/
theorem witness_fences :
    let s := mapped []
    let t (c : Nat) : State := { s with fab := { s.fab with flights := [{ flight with user := .tl2 c 1 0 none }] } }
    let w (r : Option RemoteResult) := box { a := { running [] with wait := some ⟨1, r⟩ } }
    (release 0 4 s).2 = true ∧ (release 0 4 (t 8)).2 = false ∧ (release 0 3 (t 8)).2 = true ∧ (release 0 2 (t 0)).2 = false ∧
    flightsOf s 0 = [] ∧
    s.strm.wait = none ∧ s.members.filter (fun d => d != s.self) = [] ∧
    (w (some (.data []))).strm.wait = some ⟨1, some (.data [])⟩ ∧ (w none).strm.wait = some ⟨1, none⟩ := by decide

/-- Numbers past and not past, with an error in range and enabled; completions in and out of order. -/
theorem witness_timelines :
    let tl : Timeline := { issued := 9, passed := 4, errFirst := 3, done := [(6, false)] }
    let s := box { a := running [(1, 4), (2, 5), (3, 2)], tls := [(7, tl)], trapEn := 2 ^ 15 }
    (s.cur.tl 7).passed < (s.rd 2).toNat ∧ (s.rd 1).toNat ≤ (s.cur.tl 7).passed ∧
    ((s.cur.tl 7).errFirst ≠ 0 ∧ (s.cur.tl 7).errFirst ≤ (s.rd 1).toNat ∧ s.cur.trapEn.getLsbD (8 + 7) = true) ∧
    ¬ (s.cur.tl 7).errFirst ≤ (s.rd 3).toNat ∧ (∀ p ∈ tl.done, tl.passed + 1 < p.1 ∧ p.1 ≠ 5) ∧ tl.passed < 5 ∧
    (∀ p ∈ tl.done, tl.passed + 1 < p.1 ∧ p.1 ≠ 8) := by decide

/-- A barrier in local memory done and poisoned, in the window, misaligned, and at a remote home; a phase past and not. -/
theorem witness_barriers :
    let s := mapped [(1, 0xFFFFFFFFFFE00000)]
    let p := s.withMem (s.mem.setPoison 0x10040 true)
    let l : Loc := ⟨0x10040, none⟩
    inWindow (s.rd 1).toNat = true ∧ err (barrierAt 0 0x10008 true s) = some .align ∧
    err (barrierAt 0 0x40000 false s) = some .barspace ∧ ans (barrierAt 0 0x10040 true s) = some (0x10040, .hbm l) ∧
    s.strm.wait = none ∧ ans (homeArrive l (s.ctx 0) .iatomic s) = some 0 ∧
    err (homeArrive l (p.ctx 0) .iatomic p) = some .poison ∧
    ans (homeLoad { l with off := l.off + 8 } 4 (s.ctx 0) s) = some ([0, 0, 0, 0], false) ∧
    ans (barrierAt 0 0x20040 false s) = some (0x40000000010040, .domain 0x40000000010040) ∧
    phasePast 1 0 = true ∧ phasePast 0 0 = false ∧ phasePast (2 ^ 31) 0 = true ∧ phasePast (2 ^ 31 + 1) 0 = false := by
  decide +kernel

/-- A core outside a transaction, in a launch transaction with and without a group, and in a local one. -/
theorem witness_transactions :
    let pl : Placement := ⟨0, 3, 7, 0, 0, 0, 0, [], 0⟩
    let s (k t : Nat) (p : Option Placement) := box { a := running [(1, 0x8001)], txst := { kind := k, tag := t }, place := p }
    let g : Group := ⟨7, 1, [0, 1], 1, 0, 1, .running, false, false⟩
    let u : State := { s 1 5 (some pl) with sched := { groups := [g] } }
    let w : State := (s 0 0 none).withMem { (s 0 0 none).mem with waiting := [.attempt 3, .core 0] }
    let o (busy : Bool) : State :=
      let b := box { a := running [], txst := { kind := 2, tag := 5, outcome := some true } }
      let l : List StatusWrite := if busy then [⟨5, .committed, [7], .core 0⟩] else [⟨6, .committed, [7], .attempt 3⟩]
      b.withMem { b.mem with master := [(5, .active)], writes := l }
    (s 0 0 none).cur.txst.kind = 0 ∧ (s 2 5 none).cur.txst.kind = 2 ∧ (s 1 5 none).cur.txst.kind = 1 ∧
    (freeTags (s 0 0 none)).head? = some 1 ∧ (s 0 0 none).mem.waiting = [] ∧ asked 0 (s 0 0 none) = false ∧
    asked 0 w = true ∧ (s 0 0 none).mem.given.find? (fun p => p.1 == 0) = none ∧
    ((w.withMem { w.mem with given := [(1, 7), (0, 5)] }).mem.given.find? (fun p => p.1 == 0) = some (0, 5)) ∧
    ((s 0 0 none).strm.run = .running ∧ (s 0 0 none).focus.kind = .a) ∧
    ((o true).cur.txst.outcome = some true ∧ settling (o true) = true ∧ settling (o false) = false ∧
      sget .free (o true).mem.master 5 = .active ∧ (s 2 5 none).cur.txst.outcome = none) ∧
    (s 1 5 none).cur.place = none ∧ (s 1 5 (some pl)).group? 7 = none ∧ u.group? 7 = some g ∧
    (release 0 4 (s 2 5 none)).2 = true ∧ tagWorkDone 0 5 (s 2 5 none) = true ∧
    tagWorkDone 0 5 (box { m := { run := true, carry := ⟨5, 0, false⟩ } }) = false := by decide

/-- A CSR that both streams list, one that the X-stream alone lists, and one that neither does. -/
theorem witness_csrs :
    let listed (s : State) (n : Nat) : Prop := n ≤ 0x00A ∨ n = 0x012 ∨ n = 0x014 ∨ n = 0x015 ∨ (0x020 ≤ n ∧ n ≤ 0x023) ∨
      (s.focus.kind = .x ∧ (n = 0x010 ∨ n = 0x011 ∨ n = 0x013))
    listed (onA []) 0x00A ∧ listed (onA []) 0x023 ∧ ¬ listed (onA []) 0x011 ∧ listed (onX []) 0x011 ∧ ¬ listed (onX []) 0x00B ∧
    ¬ listed (onX []) 0x024 := by decide

/-- A packet ready in the window, misaligned, faulting and waiting; chains that take it and refuse it; the store full. -/
theorem witness_spawns :
    let s := mapped [(1, 3), (2, 0xFFFFFFFFFFE00080), (3, 0xFFFFFFFFFFE00040), (4, 4096)]
    let u : State := { s with host := { s.host with chains := [(3, { en := true, spawn := true, state := .active })] } }
    let f : State := { u with host := { u.host with store := List.replicate 2048 (3, []) } }
    inWindow (s.rd 2).toNat = true ∧ (s.rd 2).toNat % 128 = 0 ∧ (s.rd 3).toNat % 128 ≠ 0 ∧ 4096 ≤ (s.rd 4).toNat ∧
    (release 0 3 s).2 = true ∧ (release 0 3 { s with fab := { s.fab with flights := [{ flight with user := .ack 0 }] } }).2 = false ∧
    s.strm.parts = [] ∧ s.fab.flights = [] ∧ (∀ p ∈ s.cur.l1 ++ l2Of s 0, p.2.dirty ≠ 0 → localLine p.1 = true) ∧
    ({ u.cur.txst with tag := 3 } : TxSt).tag ≠ 0 ∧
    err (findTarget 0 0x50000 1 false s) = some .xlate ∧ (ans (findTarget 0 0x20000 1 false s)).isSome = true ∧
    (match loadRuns 8 (packetWords 0x20000) 0 s with | (_, a, _) => ends (s, a)) = (none, none) ∧
    (match loadRuns 8 (packetWords 0xFF80) 0 s with | (_, a, _) => ends (s, a)) = (none, some .xlate) ∧
    s.cur.spadBad 0x80 128 = none ∧ (s.chain 3).en = false ∧ (u.chain 3).en = true ∧ (u.chain 3).spawn = true ∧
    (u.chain 3).state = .active ∧ u.host.store.length + u.arb.heldSp.length < 2048 ∧ u.cur.txst.tag = 0 ∧
    2048 ≤ f.host.store.length + f.arb.heldSp.length := by decide +kernel

/-- A tile word in the window of each kind of level, its executor with room and full. -/
theorem witness_tile_issue :
    let s (b : Byte) := box { x := running [(1, 0xFFFFFFFFFFE00020)], spad := [(0x21, b)] } .x
    let j : TileJob := { (default : TileJob) with unit := ⟨1, 0⟩ }
    let f : State := { s 0 with tiles := { jobs := List.replicate 16 j } }
    let w (s : State) := fromBytes (s.cur.spadBytes 0x20 32)
    (s 0).windowReady ((s 0).rd 1).toNat 32 ∧ bits (w (s 6)) 10 8 = 6 ∧ bits (w (s 5)) 10 8 = 5 ∧
    (release 0 4 (s 5)).2 = true ∧ queued (s 0) (unitOf 1 0) < queueCap 1 ∧ queueCap 1 ≤ queued f (unitOf 0 0) ∧
    ((0xFFFFFFFFFFE00030 : Word).toNat % 32 ≠ 0) ∧ err (findTarget 0 0x50000 1 false (mapped [])) = some .xlate := by
  unfold State.windowReady
  decide +kernel

/-- MGO with a nest running and with none; a DCTL that is legal and ones that are not; status changes 3 and 4 cycles old. -/
theorem witness_matrix_controls :
    let h : MStatus := ⟨10, 1, 0, none⟩
    let s (t : Word) := let b := box { x := running [(1, 0xC3), (2, 4), (3, 0x400)], m := { run := true, hist := [h] } } .x
      ({ b with fab := { b.fab with dtime := t } } : State)
    let legal (v : Nat) : Prop := v % 64 ≤ 3 ∧ v / 64 % 8 ≤ 3 ∧ v < 2 ^ 10
    (s 0).cur.m.run = true ∧ (onX []).cur.m.run = false ∧ legal ((s 0).rd 1).toNat ∧ ¬ legal ((s 0).rd 2).toNat ∧
    ¬ legal ((s 0).rd 3).toNat ∧ (∀ h ∈ (s 14).cur.m.hist, h.time + 4 ≤ (s 14).now) ∧ (s 13).cur.m.hist = h :: [] ∧
    (s 13).now < h.time + 4 := by decide

/-- Step words that execute and that do not: offsets, tiles and weights in place and not, the last tile and the first
that does not exist, full bits either way, counters in their first and last passes. -/
theorem witness_step_words :
    let tile (t : Int) : Prop := 0 ≤ t ∧ t < 40
    let fits (off : Int) (n : Nat) : Prop := 0 ≤ off ∧ off + n ≤ 2 ^ 21 ∧ off % 64 = 0
    let w : Weights := ⟨1, false, false, 0, 0, []⟩
    let c (a b d ws : Nat) (i : Int) : CoreSt :=
      let cfg : MConfig := { abase := a, cbase := b, dbase := d, wbase := ws }
      let m : MatrixSt := { run := true, mp := true, weights := some w, cfg := cfg, loops := [(0, { trip := 2, astr := i, wstr := i })],
                            idx := [(0, 1)] }
      { m := m, full := 3 }
    let x := c 0 39 0 0x1F8000 0
    let y := c 40 1 0x1FFFFF 0x1FF000 (-64)
    (x.m.mp = true ∧ ({} : CoreSt).m.mp = false ∧ fits x.m.wadr 8192 ∧ firstSome (fun r => x.spadBad (0x1F8000 + r.1) r.2)
      (weightRanges 1 false false 0) = none) ∧
    ((2 : Int) ^ 21 < y.m.wadr + 8192 ∧ (c 0 0 0 0 (-64)).m.wadr < 0 ∧ (c 0 0 0 32 0).m.wadr % 64 ≠ 0) ∧
    firstSome (fun r => ({ x with spadPois := [(0x3F000, true)] } : CoreSt).spadBad (0x1F8000 + r.1) r.2)
      (weightRanges 1 false false 0) = some 0x1F8000 ∧
    (({} : CoreSt).m.weights = none ∧ x.m.weights = some w ∧ w.s = false ∧ afPairs w 0 = true ∧ afPairs w 1 = false) ∧
    (tile x.m.act ∧ tile x.m.acc ∧ x.m.act ≠ x.m.acc ∧ ¬ tile (c 40 0 0 0 0).m.act ∧ ¬ tile y.m.act ∧
      (c 1 1 0 0 0).m.act = (c 1 1 0 0 0).m.acc ∧ x.m.first = none) ∧
    (x.isFull 0 = true ∧ x.isFull 1 = true ∧ x.isFull 39 = false ∧ x.tileBad 0 0 8192 = false ∧
      ({ x with tilePois := [(0, true)] } : CoreSt).tileBad 0 0 8192 = true) ∧
    (x.m.dadr = 0 ∧ x.m.dadr ≠ x.m.acc ∧ ¬ tile y.m.dadr ∧ (c 0 0 0 0 0).m.dadr = (c 0 0 0 0 0).m.acc ∧ fits x.m.dadr 16384) ∧
    ((x.m.level 0).trip = x.m.ctr 0 + 1 ∧ ({} : MatrixSt).ctr 0 + 1 = (({} : MatrixSt).level 0).trip ∧
      ({ x.m with idx := [] } : MatrixSt).ctr 0 + 1 < (x.m.level 0).trip ∧ ∀ k, k < 6 → (x.m.level k).trip ≤ x.m.ctr k + 1) := by
  decide

/-- The formats of weights, dense and sparse, that the element rules tell apart, and an output format. -/
theorem witness_matrix_elements :
    let w (fmt : Nat) (mx s : Bool) : Weights := ⟨fmt, mx, s, 0, 0, []⟩
    let m : MConfig := { dctl := 0 }
    (w 1 false false).s = false ∧ (w 1 false false).fmt = 1 ∧ (w 2 true true).s = true ∧ (w 2 true true).mx = true ∧
    (w 3 true false).fmt = 3 ∧ 63 < 64 ∧ 31 < 32 ∧ m.dctl.toNat % 64 ≤ 3 := by decide

/-- Vector words whose names exist and do not, with no hazard, at one, and with a poisoned source; the conditions of the
statements about vector words. -/
theorem witness_vector_words :
    let view (t : Nat) : BitVec 21 := BitVec.ofNat 21 (16 + 2 ^ 14 + t * 2 ^ 15)
    let c : CoreSt := { x := running [], vsh := 16, vpend := true, pending := [⟨[⟨4096, 1, 0xFF⟩], 3, false, []⟩], vecPois := [(256, true)] }
    (c.vw = 4 ∧ c.vlen = 4 ∧ c.vnameOk 127 = true ∧ ({ c with vsh := view 40 } : CoreSt).vnameOk 112 = false ∧
      ({ c with vsh := view 39 } : CoreSt).vnameOk 112 = true ∧ ({ c with vsh := 18 } : CoreSt).vw = 1) ∧
    (c.placePending (c.vplace 2) = true ∧ c.placePending (c.vplace 3) = false ∧ c.placeBad (c.vplace 1) 16 = true ∧
      c.placeBad (c.vplace 0) 16 = false) ∧ (8 ≤ fmtBits 0 ∧ 8 ≤ fmtBits 1) := by decide

/-- Vector state words: queues, tiles, the mask stack and the view in each state their rules tell apart. -/
theorem witness_vector_state :
    let e (p : Bool) : QEntry := ⟨[], false, p⟩
    let c (l : List QEntry) : CoreSt :=
      { coreCfg := BitVec.ofNat 64 (68 + 68 * 2 ^ 28), queues := [(0, l), (4, l)], vsh := 2048, full := 1,
        tilePois := [(0, true)], vecPois := [(256, true)], vpend := true, pending := [⟨[⟨4096, 1, 0xFF⟩], 1, false, []⟩] }
    let v : CoreSt := { vsh := BitVec.ofNat 21 (2048 + 2 ^ 14) }
    ([⟨0, 1, 0xFF⟩, ⟨1, 1, 0xFF⟩].map (fun b : VByte => b.place)).Nodup ∧ ((c []).pending.all (fun w => w.left == 1)) = true ∧
    ((c []).vectorQueue 0 = true ∧ (c []).vectorQueue 1 = false ∧ (c []).vectorQueue 4 = true ∧ (c []).queue 0 = [] ∧
      (c [e true]).queue 0 = e true :: [] ∧ (c [e false]).queue 0 = e false :: []) ∧
    ((c []).queue 4).length < (c []).queueDepth 4 ∧ (c (List.replicate 4 (e false))).queueDepth 4 ≤ ((c (List.replicate 4 (e false))).queue 4).length ∧
    ((c []).placeBad ((c []).vplace 1) 2048 = true ∧ (c []).placeBad ((c []).vplace 3) 2048 = false ∧
      (c []).placePending ((c []).vplace 2) = true) ∧
    (v.vtv = true ∧ (c []).vtv = false ∧ (c []).isFull 0 = true ∧ (c []).isFull 1 = false ∧ (c []).tileBad 0 0 32768 = true ∧
      ({ full := 1 } : CoreSt).tileBad 0 0 32768 = false) ∧
    (({} : CoreSt).mstack.length < 16 ∧ (16 ≤ (List.replicate 16 (0 : BitVec 2048)).length) ∧ ({} : CoreSt).mstack.length < 2 ∧
      ({} : CoreSt).vlen = 512) ∧
    (∀ p, p < ({ mstack := [0], vsh := 4 } : CoreSt).vlen → ({ mstack := [0], vsh := 4 } : CoreSt).top.getLsbD p = false) ∧
    ({ mstack := [1], vsh := 4 } : CoreSt).top.getLsbD 0 = true := by decide +kernel

/-- Links in each state, reports that reach a width and that do not, a link of each class, the attempts at their limit. -/
theorem witness_links :
    let r (m : Nat) : TrainReport := ⟨[(16, 3, m), (8, 3, 40)], 1⟩
    let s (i : Nat) (st : LinkState) (n : Nat) : State :=
      { State.reset with pkg := { State.reset.pkg with stage := 7, links := [(i, { state := st, attempts := n })] }, input := { link := i } }
    let none' : TrainReport := ⟨[(16, 3, 31)], 0⟩
    chosen 12 (r 32) = some (16, 3, 32) ∧ chosen 12 (r 31) = some (8, 3, 40) ∧ chosen 12 none' = none ∧
    ((s 12 .training 0).link 12).state = .training ∧ ((s 12 .training 1).link 12).attempts + 1 < 3 ∧
    2 ≤ ((s 12 .training 2).link 12).attempts ∧ ((s 57 .up 0).link 57).state = .up ∧ ((s 11 .degraded 0).link 11).state = .degraded ∧
    (s 12 .down 0).pkg.stage = 7 ∧ (linkPartner (s 0 .up 0) 0).isSome = true ∧ ((s 0 .up 0).link 0).state ≠ .failed := by decide

/-- Reports of each verdict, against the fused SVN, which is left open. -/
theorem witness_bring_up :
    let s := State.reset
    let good : ImageReport := ⟨true, true, true, s.pkg.svn, 1⟩
    let bad : ImageReport := ⟨true, false, true, s.pkg.svn, 1⟩
    (good.rsaOk = true ∧ good.slhOk = true ∧ good.keysOk = true ∧ s.pkg.svn ≤ good.svn) ∧
    ¬ (bad.rsaOk = true ∧ bad.slhOk = true ∧ bad.keysOk = true) ∧
    (let t : State := { s with pkg := { s.pkg with svn := 2, stage := 15, recover := true } }
     let old : ImageReport := ⟨true, true, true, 1, 1⟩
     old.svn < t.pkg.svn ∧ t.pkg.recover = true ∧ t.pkg.stage = 15) :=
  ⟨⟨rfl, rfl, rfl, Nat.le_refl _⟩, by decide, by decide⟩

/-- The halt's temperature and the one below it, a device READY, an event that a capture unit's source names. -/
theorem witness_power :
    let u : CapSt := { opened := true, src := 9 + 63 * 2 ^ 16 }
    let s : State := { State.reset with pkg := { State.reset.pkg with stage := 7, caps := [(63, u)] }, input := { n := 9, t := 63 } }
    s.pkg.stage = 7 ∧ (10999 < 11000 ∧ 11000 ≤ 11000) ∧ s.dbg.thermal = false ∧ 1 ≤ s.input.n ∧ s.input.n ≤ 9 ∧
    (let o := sget {} s.pkg.caps 63
     o.opened = true ∧ o.freeze = false ∧ o.src % 2 ^ 16 = s.input.n ∧ o.src / 2 ^ 16 % 2 ^ 6 = s.input.t) := by decide

/-- Requests for this device at plain and versioned memory and at a core's scratchpad, in time and too old, one for a
group that is gone, and tagged words either way. -/
theorem witness_remote_requests :
    let pl : Placement := ⟨0, 3, 7, 1, 0, 0, 0, [], 0⟩
    let b : State := box { place := some pl, tags := [(1, true)] }
    let s (pa : Nat) (k : ReqKind) (t : Nat) : State :=
      { b with fab := { b.fab with members := 3, dtime := 100001, gids := [(7, { live := true, used := true, inc := 1, cores := [0] })] },
               pkg := { b.pkg with stage := 7 }, input := { req := ⟨1, 1, k, pa, 8, [], false, t⟩, off := 0x10000 } }
    let old := s 0x40000000010000 .load 0
    let young := s 0x40000000010000 .load 1
    (paDev young.input.req.pa = young.self ∧ young.input.req.src ≠ young.self ∧ young.pkg.stage = 7 ∧ young.now ≤ young.input.req.time + young.fab.tmo * 1000 ∧
      ¬ old.now ≤ old.input.req.time + old.fab.tmo * 1000) ∧
    (young.input.req.pa / 2 ^ 54 = 1 ∧ versionedAt young 0x10000 = none ∧ young.mem.poisoned 0x10000 8 = false ∧
      (young.mem.setPoison 0x10000 true).poisoned 0x10000 8 = true) ∧
    (physOf young young.input.off = some (.hbm ⟨0x10000, none⟩) ∧ young.mem.poisoned 0x10000 12 = false) ∧
    (let q : RemoteReq := { young.input.req with src := 0 }
     let t : State := { young with fab := { young.fab with loop := [q] }, input := { req := q } }
     t.input.req.src = t.self ∧ t.fab.loop = [t.input.req]) ∧
    (spadCore young (2 ^ 55 + 2 ^ 44 + 7 * 2 ^ 30) = some 0 ∧ spadCore young (2 ^ 55 + 7 * 2 ^ 30) = none ∧
      paDev (2 ^ 55 + 2 ^ 44 + 7 * 2 ^ 30) = young.self) ∧
    (2 ^ 55 / 2 ^ 54 ≠ 1 ∧ b.cur.tagAt 8 = true ∧ b.cur.tagAt 16 = false ∧ b.cur.spadBad 8 8 = none) := by decide +kernel

/-- A flight of a tl2 number and one of a stream's word, a request too old and one that waits here. -/
theorem witness_remote_completions :
    let f : Flight := flight
    let g : Flight := { flight with user := .stream 0 .a }
    let q : RemoteReq := ⟨5, 1, .ldf false, 0, 8, [], false, 0⟩
    let s (f : Flight) : State :=
      let b := box { a := { running [] with wait := some ⟨1, none⟩ } }
      { b with fab := { b.fab with flights := [f], dtime := 100001, tagged := [q] }, input := { id := 1, dev := 5 } }
    (s f).flight? 1 = some f ∧ (((s f).fab.flights.filter (fun g => g.req.id != f.req.id)).any (fun g => g.ofNum 0 1)) = false ∧
    (([f, f].filter (fun g => g.req.id != 0)).any (fun g => g.ofNum 0 1)) = true ∧ (s g).flight? 1 = some g ∧
    (((s g).core 0).stream .a).wait = some ⟨1, none⟩ ∧ f.req.time + (s f).fab.tmo * 1000 < (s f).now ∧
    (s f).fab.tagged.any (fun q => q.src == 5 && q.id == 1 && decide (q.time + (s f).fab.tmo * 1000 < (s f).now)) = true ∧
    (5 : Nat) ≠ (s f).self := by decide

/-- A packet for another device with its next link up and down, with a route and with none; a member, its master, a
message from another device. -/
theorem witness_fabric :
    let p : FabPacket := ⟨2, 1, 1, [1], .request, 1, 0⟩
    let s (l : LinkState) : State :=
      let b := State.reset
      { b with fab := { b.fab with ncm1 := 1, members := 3, detEn := false }, pkg := { b.pkg with stage := 7, links := [(12, { state := l })] },
               input := { pkt := p, dev := 1 } }
    p.dst ≠ (s .up).self ∧ (s .up).now ≤ p.time + (s .up).fab.tmo * 1000 ∧ (p.route ≠ [] ∧
      portUp (s .up) 0 (firstPort 0 p.route) = true ∧ p.hop + p.route.length ≤ 4) ∧
    portUp (s .down) 0 (firstPort 0 p.route) = false ∧ pickRoute (s .down) 1 3 = none ∧ (s .up).isMember (s .up).self = true ∧
    (s .up).fab.master = false ∧ (s .up).input.dev ≠ (s .up).self ∧ (s .up).waiting (FabMsg.forwarded p).vc p.dst = false ∧
    (let q : FabPacket := { p with cls := .management }
     let t : State := { s .up with fab := { (s .up).fab with held := [.time 1 0, .vote 1 0 ⟨0, 0, 0⟩] } }
     t.waiting (FabMsg.forwarded q).vc q.dst = true ∧ t.waiting (FabMsg.forwarded p).vc p.dst = false ∧
       t.waiting (FabMsg.forwarded q).vc 0 = false) ∧
    pickRoute (s .up) 1 3 = some [1] ∧ ([] : List Nat) = { p with route := [] }.route := by decide +kernel

/-- A far request whose answer comes from its home, and one to this device itself, whose answer waits; a core halted and
not; a response collected. -/
theorem witness_answers :
    let q (pa : Nat) : RemoteReq := ⟨0, 1, .load, pa, 8, [], false, 0⟩
    let f (pa : Nat) : Flight := ⟨q pa, .stream 0 .a, 0, .gone [1], false⟩
    let s (pa : Nat) (back : List (Nat × RemoteResult)) : State :=
      { State.reset with fab := { State.reset.fab with flights := [f pa], back := back, members := 3 }, input := { id := 1 } }
    paDev (q 0x41000000010000).pa ≠ (s 0 []).self ∧ paDev (q 0x40000000010000).pa = (s 0 []).self ∧
    ((s 0 [(1, .data [])]).fab.back.find? (fun p => p.1 == 1)).map (fun p => p.2) = some (.data []) ∧
    (s 0 []).fab.held = [] ∧ (s 0 []).fab.late.any (fun p => p.1 == (s 0 []).input.id) = false ∧
    ((box { halted := true }).core 0).halted = true ∧ (State.reset.core 0).halted = false := by decide

/-- A member that is not the time master, and the digest of device 0; a partner of each class of link. -/
theorem witness_members :
    let s : State := { State.reset with fab := { State.reset.fab with x := 1, ncm1 := 1, members := 3 }, input := { dev := 0 } }
    s.self ≠ 0 ∧ s.input.dev = 0 ∧ linkPartner s 12 = some 0 ∧ linkPartner s 26 = some 0 ∧ linkPartner s 25 = none ∧
    s.fab.held = [] ∧ s.input.nats = [] := by decide

/-! ### Tile words -/

/-- A tile word of `op` at `level`, with what `f` sets, for core 0's own unit, its packet `p`. -/
def tword (op level : Nat) (more : Nat := 0) : BitVec 256 := BitVec.ofNat 256 (op + level * 2 ^ 8 + more)

/-- A word held by an executor: accepted, and with `started` in progress. -/
def job (w : BitVec 256) (started : Bool := false) : TileJob :=
  { (default : TileJob) with
    id := 1, word := w, unit := ⟨bits w.toNat 10 8, 0⟩, tl := 3, num := 1, accepted := true, started := started }

/-- Core 0's state `c`, with the word `j` held and in turn, in a domain of one. -/
def held (j : TileJob) (c : CoreSt := {}) : State :=
  let s := mapped [] c
  { s with tiles := { s.tiles with jobs := [j] }, focus := { s.focus with tile := j.id }, input := { id := j.id } }

/-- A record of one FP32 position at `base` of memory kind `mem`. -/
def one32 (mem base : Nat) : BitVec 768 :=
  BitVec.ofNat 768 (base + 2 ^ 63 + mem * 2 ^ 103 + 2 ^ 128 * (1 + 2 ^ 32 + 2 ^ 104))

/-- Words of every operation that works on records: one whose sources are ready, one whose are not, and one whose output a
copy command comes before (R235). -/
theorem witness_tile_records :
    let j (op f : Nat) : TileJob :=
      { job (tword op 0 (f * 2 ^ 16 + 2 ^ 32 + 2 * 2 ^ 48)) true with recs := [(0, one32 2 0), (3, one32 2 1)] }
    let s (op f : Nat) (c : CoreSt) : State := held (j op f) c
    let copy : CopyRun := ⟨.copy 1 2 1 false false 0 true ⟨0, 0, false⟩, [one32 2 0], [one32 1 64]⟩
    let leaves (s : State) (j : TileJob) : List Leaf := (tileCtx (moveKids j.id s) j).ready (moveKids j.id s)
    (∀ op ∈ [1, 3, 9], let k := j op 0; let t := s op 0 { full := 2 }
      t.job? t.focus.tile = some k ∧ k.started = true ∧ k.executed = false ∧ k.stop = false ∧ k.phase = 0 ∧
      (tileCtx t k).far t = false ∧ (tileCtx t k).sources = [1] ∧ (tileCtx t k).tilesOf (tileCtx t k).outputs = [0] ∧
      (leaves t k).length = 1 ∧ leaves (s op 0 {}) k = [] ∧
      leaves (s op 0 { full := 2, copyRun := some copy, copyStall := true }) k = []) ∧
    (∀ f, f < 8 → bits (j 3 (32 * f)).tw.mode.toNat 9 5 = f) ∧ (∀ f, f < 3 → bits (j 7 (32 * f)).tw.mode.toNat 6 5 = f) ∧
    bits (j 7 0x80).tw.mode.toNat 7 7 = 1 ∧ bits (j 7 0x80).tw.mode.toNat 6 5 = 0 := by decide +kernel


/-- The same, under page tables that map the first GiB of virtual addresses to HBM. -/
def tabled (s : State) : State :=
  s.withMem ((({} : MemSt).write 0 (toBytes 8 (2 ^ 21 + 1))).write (2 ^ 21) (toBytes 8 7))

/-- A word whose BAR is `va`, at level `level`. -/
def barWord (op level va : Nat) (more : Nat := 0) : BitVec 256 := tword op level (va * 2 ^ 192 + more)

/-- T.CVT's scale from its history, translated and not; words of collectives given to the Pergola and not; T.SIG's and
T.WAITEV's event words: misaligned, untranslated, at the window's last word, in HBM, before and after the value. -/
theorem witness_tile_services :
    let c : CollSt := ⟨5, 1, 7, 0, 0, 1, 0, false, 0, 0, 0, 0, 0, 0, false, 0, 0, []⟩
    let cvt : TileJob := { job (tword 7 0 (0x80 * 2 ^ 16)) true with hbase := some 0x10000 }
    let s (op va : Nat) (p0 : Nat := 0) : State := held (job (barWord op 1 va (p0 * 2 ^ 96)) true) { spad := [(0x1FFFF8, 5)] }
    let last := 0xFFFFFFFFFFFFFFF8
    let j (op va : Nat) : TileJob := job (barWord op 1 va) true
    let bad (op va : Nat) : Option MemErr := (barFault (j op va) 8 (op == 0x19) (s op va)).2
    let same (id b : Nat) : TileJob := { j 0x10 0 with id := id, begun := b }
    let v := fromBytes (((s 0x1A last).core 0).spadBytes (last % 2 ^ 21) 8)
    ((tileCtx (tabled (held cvt)) cvt).delayed (tabled (held cvt))).2.isOk = true ∧
    ((tileCtx (held cvt) cvt).delayed (held cvt)).2.isOk = false ∧ cvt.vals = [] ∧ unpackExp (packExp (some none)) = some none ∧
    unpackExp (packExp none) = none ∧
    ((s 0x10 0).perg.colls = [] ∧ [c].any (fun c => c.word == (job 0).id) = true ∧ (job 0).executed = false ∧
      (let t (b : Nat) : State := { s 0x10 0 with tiles := { (s 0x10 0).tiles with jobs := [same 1 b, same 2 5] } }
       let late (k : TileJob) : Bool := decide (0x10 ≤ k.op ∧ k.op ≤ 0x13 ∧ k.tw.p0.toNat % 2 ^ 16 = 0 ∧ k.begun < 5) && k.started && !k.executed
       (t 6).tiles.jobs.any late = false ∧ (t 4).tiles.jobs.any late = true ∧ (t 4).perg.colls = [])) ∧
    ((j 0x19 last).tw.bar = BitVec.ofNat 64 last ∧ (j 0x19 last).tw.level ≤ 1 ∧ bad 0x19 last = none ∧ bad 0x1A last = none ∧
      bad 0x19 (last + 1) = some .align ∧ bad 0x1A (last + 1) = some .align ∧ bad 0x19 0x50000 = some .xlate ∧
      inWindow last = true ∧ last + 8 ≤ 2 ^ 64 ∧ (j 0x19 last).tw.mode.getLsbD 5 = false) ∧
    ((releaseUnit ⟨1, 0⟩ (s 0x19 last)).2 = true ∧
      (let t := s 0x19 last; (releaseUnit ⟨1, 0⟩ { t with fab := { t.fab with flights := [flight] } }).2 = false)) ∧
    (let t := tabled (s 0x19 0x10000)
     let r := sigWrite (j 0x19 0x10000) t
     (barFault (j 0x19 0x10000) 8 true t).2 = none ∧ err r = none ∧ r.1.tiles = t.tiles) ∧
    (v = 5 ∧ ((s 0x1A last).core 0).spadBad (last % 2 ^ 21) 8 = none ∧ (v % 2 ^ 32 + 2 ^ 32 - 5) % 2 ^ 32 < 2 ^ 31 ∧
      ¬ (v / 2 ^ 63 % 2 = 1 ∨ (v % 2 ^ 32 + 2 ^ 32 - 6) % 2 ^ 32 < 2 ^ 31) ∧ (j 0x1A last).op = 0x1A) ∧
    (let t := tabled (s 0x1A 0x10000)
     let r := eventRead (j 0x1A 0x10000) t
     ans r = some (List.replicate 8 0) ∧ r.1.tiles = t.tiles ∧ (0 % 2 ^ 32 + 2 ^ 32 - 0) % 2 ^ 32 < 2 ^ 31 ∧
       ¬ ((0 + 2 ^ 32 - 1) % 2 ^ 32 < 2 ^ 31)) := by decide +kernel

/-- A word at acceptance: one that passes and ones that each check refuses; T.KERN with an image that may run, one that
may not, and a BAR that faults. -/
theorem witness_tile_accept :
    let j (op : Nat) (lev : Nat) (more : Nat) (gl : Nat := 1) : TileJob :=
      { job (tword op lev (more + 3 * 2 ^ 160)) with accepted := false, glevel := gl, unit := ⟨lev, 0⟩ }
    let s (k : TileJob) : State := held k
    let checks (k : TileJob) : Option (BitVec 8) := match staticCheck k (s k) with | (_, .ok _) => none | (_, .error e) => some e
    let kern (va : Nat) : TileJob := j 0x18 1 (va * 2 ^ 192)
    let image (n : Nat) : Sparse Byte := [(92, BitVec.ofNat 8 n), (94, 1)]
    let win := 0xFFFFFFFFFFE00000
    let t (n : Nat) : State := held (kern win) { spad := image n }
    let words (n : Nat) : State × Except MemErr (List (List Byte)) :=
      Sys2Proof.Machine.each (fun i s => agentRead (kern win).agent (win + 8 * i) 8 s) [11, 12, 13, 14] (t n)
    let runs (n : Nat) : Option Bool := (words n).2.toOption.map (fun bs =>
      kernOk (kern win) (List.replicate 11 0 ++ wordsOf 4 bs.flatten ++ [0]))
    let packed (f : Bool) : TileJob := { j 3 1 0 with packet := some 4, accepted := f }
    (s (j 3 1 0)).job? 1 = some (j 3 1 0) ∧ (s (j 3 1 0)).input.flag = false ∧
    checks (j 3 1 (2 ^ 32 + 2 * 2 ^ 48 + 3 * 2 ^ 64)) = none ∧ checks (j 0x1F 1 0) = some 0x20 ∧ checks (j 0x19 5 0) = some 0x21 ∧
    checks (j 3 1 (2 ^ 15)) = some 0x22 ∧ (j 3 1 0).op ≠ 0x18 ∧ (j 3 1 0).member = false ∧ (kern win).op = 0x18 ∧
    checks (kern win) = none ∧ (barFault (kern (win + 64)) 128 false (s (kern (win + 64)))).2 = some .align ∧
    (barFault (kern win) 128 false (t 1)).2 = none ∧ (words 1).1.tiles = (t 1).tiles ∧ runs 1 = some true ∧ runs 0 = some false ∧
    (packetEnters (packed false) (s (packed false)) = true ∧ packetEnters (packed false)
      (let b := s (packed false); { b with tiles := { b.tiles with jobs := List.replicate 16 (packed true) } }) = false) := by
  decide +kernel

/-- Words that may start, among others in progress and earlier ones; a record that fails; a level-5 word with other
members. -/
theorem witness_tile_start :
    let rs : Sparse (Sparse (BitVec 768)) := [(1024, [(1, one32 1 0), (2, one32 1 8)])]
    let j (op lev : Nat) (more : Nat := 0) : TileJob :=
      { job (tword op lev (2 ^ 32 + 2 * 2 ^ 48 + more)) with unit := ⟨lev, 0⟩, id := 2 }
    let s (k : TileJob) (l : List TileJob) (r : Sparse (Sparse (BitVec 768))) : State :=
      let b := held k
      { b with tiles := { b.tiles with jobs := l ++ [k], tables := r }, input := { id := 2 }, fab := { b.fab with members := 3, ncm1 := 1 } }
    let k := j 1 1
    let x : TileJob := job (tword 1 1) true
    (s k [] rs).job? 2 = some k ∧ mayStart (s k [] rs) k = true ∧ recordCheck (s k [] rs) k = none ∧
    recordCheck (s k [] []) k = some (0x23, 1) ∧ mayStart (s k [x] rs) k = false ∧
    (mayStart (s (j 0x19 4) [{ x with unit := ⟨4, 0⟩, word := tword 1 4, core := 1 }] rs) (j 0x19 4) = true) ∧
    (mayStart (s (j 1 1 0x2000) [{ x with core := 1, started := false }] rs) (j 1 1 0x2000) = false) ∧
    otherMembers (s k [] rs) k = [] ∧ otherMembers (s (j 0x10 5) [] rs) (j 0x10 5) = [1] ∧
    recordCheck (s (j 0x10 5) [] rs) (j 0x10 5) = none := by decide +kernel

/-- Words whose work is over, of a TISSUE and of a packet, with no fault and with one, an arrival that succeeds, and one
that faults on a barrier in POISON; words whose work is not over. -/
theorem witness_tile_complete :
    let f : TileFault := ⟨0x08, 0, 1, 0, 0, 0, 1, 9⟩
    let done (w : BitVec 256) (e : Option TileFault) (p : Option Nat) : TileJob :=
      { job w true with executed := true, fault := e, packet := p, unit := ⟨1, 0⟩ }
    let pk : Packet := ⟨4, 0, 0, 0, 0, false, ⟨[], 1, 0, [], none, 0, none, false, 0, none, 0, none⟩, false, some 1, none, 0, false, false, [], false, false, []⟩
    let s (j : TileJob) : State := let b := tabled (held j { frec := 1 }); { b with sched := { b.sched with packets := [pk] } }
    let bad (s : State) : State := s.withMem (s.mem.setPoison 0x10000 true)
    let w := tword 3 1
    let a := barWord 3 1 0x10000
    let j (e : Option TileFault) : TileJob := done w e none
    let p := done w none (some 4)
    let wait : State := { s p with fab := { (s p).fab with flights := [flight] } }
    workOver (s (j none)) (j none) = true ∧ workOver (s (j (some f))) (j (some f)) = true ∧
    workOver (s (job w true)) (job w true) = false ∧
    (arriveBar (done a none none) (s (done a none none))).1.tiles = (s (done a none none)).tiles ∧
    err (arriveBar (done a none none) (s (done a none none))) = none ∧
    err (arriveBar (done a none none) (bad (s (done a none none)))) = some .poison ∧
    (arriveBar (done a none none) (bad (s (done a none none)))).1.tiles = (s (done a none none)).tiles ∧
    ((s (j (some f))).core 0).frec.getLsbD 0 = true ∧ fromBytes (((s (j (some f))).core 0).spadBytes 192 8) % 256 = 0 ∧
    (workOver (s p) p = true ∧ (releaseUnit p.unit (s p)).2 = true ∧ (releaseUnit p.unit wait).2 = false ∧
      err (arriveBar p (releaseUnit p.unit (s p)).1) = none ∧
      ((arriveBar p (releaseUnit p.unit (s p)).1).1.packet? 4) = some pk) := by decide +kernel

/-- A regrouping T.KERN whose unit has drained, and one whose unit has not. -/
theorem witness_tile_regroup :
    let g : Group := ⟨1, 4, [0], 1, 0, 1, .running, false, false⟩
    let pk : Packet := ⟨4, 0, 0, 0, 0, false, ⟨[], 1, 0, [], none, 0, none, false, 0, none, 0, none⟩, false, none, none, 0, false, false, [1], false, false, []⟩
    let j : TileJob := { job (tword 0x18 1) with unit := ⟨1, 0⟩, owner := 4, img := (List.replicate 11 0) ++ [BitVec.ofNat 64 (2 ^ 32 + 2 ^ 48)] }
    let s (gs : List Group) : State :=
      let b := held j
      { b with sched := { b.sched with packets := [pk], groups := gs, slots := [(0, { packet := some 4, state := .busy })] } }
    (s []).job? (s []).input.id = some j ∧ j.kernHeld = true ∧ j.launch (s []) = some pk ∧ unitDrained (s []) 4 j.unit = true ∧
    unitDrained (s [g]) 4 j.unit = false ∧ pkGcount j.img = 1 ∧ leastGid (s []) 16384 0 = some 0 ∧
    (let k : TileJob := { j with img := (List.replicate 11 0) ++ [BitVec.ofNat 64 (2 ^ 32 + 2 ^ 48), 0x10000, 0, 0, 0] }
     let b := tabled (s [])
     let t : State := { b with tiles := { b.tiles with jobs := [k] }, sched := { b.sched with packets := [{ pk with groups := [] }] } }
     t.job? t.input.id = some k ∧ k.kernHeld = true ∧ k.launch t = some { pk with groups := [] } ∧ unitDrained t 4 k.unit = true ∧
     pkGlevel k.img = 1 ∧ pkGcount k.img ≤ gidsLeft t ∧ t.fab.loop = [] ∧
     (match xlatAt (unitFirst k.unit) pk.root (pkCode k.img) false t with
       | (_, .ok x) => x.phys == .hbm ⟨0x10000, none⟩ | (_, .error _) => false) = true) := by decide +kernel

/-- A T.AMAX with its history word in HBM and untranslated; a T.WAITEV whose word holds and does not; no word at all. -/
theorem witness_tile_events :
    let h (m : Bool) : TileJob := { job (tword 0x0B 1) true with executed := true, hbase := some 0x10000, vals := [(0, 0, 5)], member := m }
    let s := tabled (held (h false))
    let x (s : State) := (xlatAt 512 0 0x10000 true s).2
    ((x s).toOption.map (fun x => x.phys == .hbm ⟨0x10000, none⟩) = some true) ∧
    err (homeStore ⟨0x10000, none⟩ (toBytes 4 5) ⟨0, 0⟩ .pergola s) = none ∧
    (homeStore ⟨0x10000, none⟩ (toBytes 4 5) ⟨0, 0⟩ .pergola s).1.tiles = s.tiles ∧
    (match x (held (h false)) with | .error .xlate => true | _ => false) = true ∧
    (h false).hbase = some 0x10000 ∧ (h false).vals = (0, 0, 5) :: [] ∧ ((h false).tw.level = 5 → (h false).phase = 1) ∧
    (State.reset).input.flag = false ∧ (State.reset).job? (State.reset).input.id = none := by decide +kernel

/-- A root's word with a member still to report, and its report with a fault and without; a member's word in its first
pass; a copy that finds room, and one for a full queue; shares of another device's
launches: one that runs, one that waits, one of a transaction that waits. -/
theorem witness_tile_members :
    let j : TileJob := { job (tword 3 5 (2 ^ 14)) true with unit := ⟨4, 0⟩, children := [1] }
    let m : TileJob := { job (tword 6 5) true with unit := ⟨4, 0⟩, member := true, origin := 1, far := 9, executed := true }
    let pk : Packet := ⟨4, 2, 1, 0, 0, true, ⟨[], 1, 0, [], none, 0, none, false, 0, none, 0, none⟩, false, none, none, 0, false, false, [], false, false, []⟩
    let s (k : TileJob) (f : Bool) : State :=
      let b := held k
      { b with fab := { b.fab with members := 3, ncm1 := 1 }, sched := { b.sched with packets := [pk] },
               input := { dev := 1, id := if k.member then 9 else 1, flag := f, chain := 2, wr := true,
                          nats := [8, 0, 0, 0, 5, 6, 7, 3, 1], tile := ⟨⟨4, 0⟩, tword 3 5, 0, 0, 0, false, false, 2, 1, 9, none, 0, 0⟩ } }
    let pos := ((s j true).members.filter (fun d => decide (d < 1))).length
    (s j true).job? (s j true).input.id = some j ∧ j.member = false ∧ pos ∈ j.children ∧ j.tw.stop = true ∧ j.stop = false ∧
    j.fault = none ∧ (s m true).tiles.jobs.find? (fun k => k.member && k.origin == 1 && k.far == 9) = some m ∧ m.phase = 0 ∧
    ((s m true).tiles.jobs.filter (fun j => j.unit == ⟨4, 0⟩ && !j.started)).length < 256 ∧
    (s m true).input.tile.dtid = none ∧ (s j true).job? ((s j true).nextId + 2) = none ∧
    (let t := s m true
     let a := memberJob t.input.tile (t.nextId + 1) { t with nextId := t.nextId + 1 }
     let u : State := { t with nextId := t.nextId + 1, tiles := { t.tiles with jobs := t.tiles.jobs ++ [a] } }
     let bad : TileJob := { a with word := tword 3 5 (2 ^ 15) }
     (match staticCheck bad u with | (v, .error e) => e == 0x22 && v.tiles == u.tiles | _ => false) = true ∧
       (match staticCheck { a with word := tword 3 5 (2 ^ 32 + 2 * 2 ^ 48 + 3 * 2 ^ 64) } u with
         | (v, .ok _) => v.tiles == u.tiles | _ => false) = true) ∧
    ((s m true).sched.packets.filter (fun p => p.share && p.home == 1 && p.chain == 2) = [pk] ∧ pk.settled = false ∧
      pk.killed = false ∧ pk.dtid = none) ∧
    (let sh (ws : List Word) : Share := ⟨1, 2, ws, 0, 0, 0, 0, 0⟩
     shareWaits 1 2 (sh []) = true ∧ shareWaits 1 2 (sh [128]) = false ∧ shareWaits 0 2 (sh []) = false) := by decide +kernel

/-! ### Stacks and maintenance -/

/-- A device whose first GiB of HBM is one versioned page, of chain 0, with what `f` makes of its memory. -/
def versioned (f : MemSt → MemSt) : State :=
  let m := (({} : MemSt).write 0 (toBytes 8 (2 ^ 21 + 1))).write (2 ^ 21) (toBytes 8 15)
  { State.reset with mem := f m, host := { State.reset.host with chains := [(0, { en := true })] } }

/-- A page below an entry of a table is a page of that table. -/
theorem versioned_below {m : MemSt} {fuel table i e : Nat} {x : Nat × Nat}
    (ht : ¬ ((!tableAddr table || table % 2 ^ tableBits fuel ≠ 0) = true)) (hi : i < 32)
    (he : fromBytes (m.bytes (table + 8 * i) 8) = e) (hv : ¬ ((!bit e 0 || bits e 63 56 ≠ 0) = true)) (hl : ¬ bit e 1 = true)
    (hx : x ∈ versionedIn m fuel (bits e 55 8 * 256)) : x ∈ versionedIn m (fuel + 1) table := by
  unfold versionedIn
  rw [if_neg ht]
  refine List.mem_flatMap.2 ⟨i, List.mem_range.2 ?_, ?_⟩
  · split
    · exact Nat.lt_of_lt_of_le hi (by decide)
    · exact hi
    · omega
  · simp only [he]
    rw [if_neg hv, if_neg hl]
    exact hx

/-- A leaf entry of a versioned page is one. -/
theorem versioned_leaf {m : MemSt} {fuel table i e : Nat}
    (ht : ¬ ((!tableAddr table || table % 2 ^ tableBits fuel ≠ 0) = true)) (hi : i < 32)
    (he : fromBytes (m.bytes (table + 8 * i) 8) = e) (hv : ¬ ((!bit e 0 || bits e 63 56 ≠ 0) = true)) (hl : bit e 1 = true)
    (hp : (bit e 3 && decide ((fuel = 1 ∨ fuel = 2) ∧ bits e 55 8 * 256 < 2 ^ 39)) = true) :
    (bits e 55 8 * 256, 2 ^ leafBits fuel) ∈ versionedIn m (fuel + 1) table := by
  unfold versionedIn
  rw [if_neg ht]
  refine List.mem_flatMap.2 ⟨i, List.mem_range.2 ?_, ?_⟩
  · split
    · exact Nat.lt_of_lt_of_le hi (by decide)
    · exact hi
    · omega
  · simp only [he]
    rw [if_neg hv, if_pos hl, if_pos hp]
    exact List.mem_singleton.2 rfl

/-- Where the tables are as `versioned` leaves them, the page is found. -/
theorem versioned_page (s : State) (hc : s.host.chains = [(0, { en := true })])
    (h0 : fromBytes (s.mem.bytes 0 8) = 2 ^ 21 + 1) (h1 : fromBytes (s.mem.bytes (2 ^ 21) 8) = 15) :
    (0, 2 ^ 30) ∈ versionedPages s := by
  unfold versionedPages
  rw [hc]
  refine List.mem_flatMap.2 ⟨(0, { en := true }), List.mem_singleton.2 rfl, ?_⟩
  rw [if_pos (Or.inl rfl)]
  exact versioned_below (i := 0) (by decide) (by decide) h0 (by decide) (by decide)
    (versioned_leaf (i := 0) (by decide) (by decide) h1 (by decide) (by decide) (by decide))

/-- Requests that pick each way; a channel that picks, is empty, idles, is in self-refresh, and postpones. -/
theorem witness_stacks :
    let w (id : Nat) (c : PcSource) (a : PcAction) (off arr : Nat) : PcWaiting := ⟨⟨id, c, off, a, none, 0, 0, 0⟩, arr⟩
    let l : List PcWaiting := [w 1 .other (.read 32) 0 0, w 2 (.pergola 5) (.write [1]) 4096 1, w 3 .normaliser (.read 4) 8192 2]
    let s (q : List PcWaiting) (sr : Bool) : State :=
      let b := State.reset
      { b with fab := { b.fab with dtime := 1000000 },
               mem := { b.mem.setPoison 0 true with pcs := [(0, { queue := q, selfRef := sr })] },
               input := { pc := 0, flag := true } }
    let here (off : Nat) : Bool := (({} : MemSt).cell off).1 * 64 + (({} : MemSt).cell off).2.1 == 0
    (pickRequest {} 0 2004 (fun _ => false) false l).map (fun w => w.req.id) = some 1 ∧
    (pickRequest {} 0 2005 (fun _ => false) false l).map (fun w => w.req.id) = some 2 ∧
    (pickRequest {} 0 2004 (fun _ => false) true l).map (fun w => w.req.id) = some 3 ∧
    (((s l false).pcSt 0).selfRef = false ∧ ((s [] true).pcSt 0).selfRef = true ∧ ((s [] false).pcSt 0).queue = [] ∧
      (s [] false).mem.poisoned 0 32 = true ∧ (State.reset).mem.poisoned 0 32 = false ∧ here 0 = true) ∧
    (let b : StackSt := sget {} (s [] false).mem.bdies 0
     b.srcEn = true ∧ 1000 * max 1 b.srcIdle ≤ (s [] false).now ∧ ¬ 1000 * max 1 b.srcIdle ≤ (State.reset).now ∧
       min 8 b.rfpost = 4) ∧
    (((s l false).pcSt 0).deadline = true ∧ ((s l false).pcSt 0).postponed < 4 ∧ ((s [] false).pcSt 0).deadline = false) := by
  decide +kernel

/-- Errors at each place, lines in the caches, stacks that sweep and that do not. -/
theorem witness_stack_errors :
    let md : Meta := ⟨0, 5, 0, false, false, 0⟩
    let s := versioned (fun m => { (m.putMeta 256 md) with master := [(5, .active)], bdies := [(m.stackOf 256, { mirror := [(5, ⟨.active, 0⟩)] })] })
    (0, 2 ^ 30) ∈ versionedPages s ∧ (versionedAt s 256).isSome = true ∧ s.mem.metaAt 256 = md ∧ md.tag ≠ 0 ∧
    s.mem.status (s.mem.stackOf 256) md.tag = .active ∧ sget .free s.mem.master 5 = .active ∧
    (let c : CoreSt := { queues := [(0, [⟨[], false, false⟩])], l1 := [(2, { Line.empty with dirty := 1, valid := 1 })] }
     let t : State := { box c with mem := { (box c).mem with l2 := [(1, [(3, { Line.empty with dirty := 1 })])] } }
     (t.core 0).queue 0 = [⟨[], false, false⟩] ∧ lineAt t (.l1 0) 2 ≠ Line.empty ∧ lineAt t (.l1 0) 1 = Line.empty ∧
       lineAt t (.l2 1) 3 ≠ Line.empty ∧ (lineAt t (.l2 1) 3).dirty.getLsbD 0 = true ∧ 128 * 3 < 2 ^ 39) ∧
    (let t : State := s.withMem { s.mem with master := [(5, .aborted)], bdies := [(0, { busy := true })] }
     anySettled t = true ∧ anySettled s = false ∧ (sget {} t.mem.bdies 0 : StackSt).busy = true ∧
       (sget {} s.mem.bdies 0 : StackSt).busy = false) := by
  have h : (0, 2 ^ 30) ∈ versionedPages (versioned (fun m => { (m.putMeta 256 ⟨0, 5, 0, false, false, 0⟩) with
      master := [(5, .active)], bdies := [(m.stackOf 256, { mirror := [(5, ⟨.active, 0⟩)] })] })) :=
    versioned_page _ rfl (by decide +kernel) (by decide +kernel)
  refine ⟨h, ?_, by decide +kernel⟩
  exact List.find?_isSome.2 ⟨_, h, by decide⟩

/-- A maintenance command inside the versioned page, its block's tag ACTIVE and not, one outside, an illegal one, and
one that has run. -/
theorem witness_maintenance :
    let v (op n : Nat) (ran : Bool) : VmSt := { op := op, go := true, ran := ran, addr := 256, count := n }
    let s (op n : Nat) (ran : Bool) (t : Nat) : State := versioned (fun m =>
      { (m.putMeta 256 ⟨0, t, 0, false, false, 0⟩) with vm := v op n ran, bdies := [(m.stackOf 256, { mirror := [(5, ⟨.active, 0⟩)] })] })
    (∀ t, t ∈ [0, 5] → ∃ p ∈ versionedPages (s 2 1 false t), p.1 ≤ 256 ∧ 256 < p.1 + p.2) ∧
    (∀ op, op < 5 → (s op 1 false 5).mem.vm = v op 1 false) ∧
    ((s 2 1 false 5).mem.metaAt 256).tag = 5 ∧ (s 2 1 false 5).mem.status ((s 2 1 false 5).mem.stackOf 256) 5 = .active ∧
    ((s 2 1 false 0).mem.metaAt 256).tag = 0 ∧ ((s 2 1 false 0).mem.metaAt 256).rsv = 0 ∧
    versionedPages { State.reset with mem := { State.reset.mem with vm := v 1 1 false } } = [] ∧
    (v 5 0 false).go = true ∧ 5 ≤ (v 5 0 false).op ∧ (v 2 1 true).ran = true ∧ (v 0 1 false).op = 0 := by
  refine ⟨?_, by decide +kernel⟩
  intro t ht
  have h (t : Nat) (h0 : _) (h1 : _) := versioned_page (versioned (fun m =>
    { (m.putMeta 256 ⟨0, t, 0, false, false, 0⟩) with
        vm := { op := 2, go := true, ran := false, addr := 256, count := 1 },
        bdies := [(m.stackOf 256, { mirror := [(5, ⟨.active, 0⟩)] })] })) rfl h0 h1
  simp only [List.mem_cons, List.not_mem_nil, or_false] at ht
  rcases ht with rfl | rfl
  · exact ⟨_, h 0 (by decide +kernel) (by decide +kernel), by decide⟩
  · exact ⟨_, h 5 (by decide +kernel) (by decide +kernel), by decide⟩

/-! ### Transactions and collectives -/

/-- A packet's head with the words given. -/
def headOf (ws : List Word) (seq : Nat := 1) : Head := ⟨ws, seq, 0, [], none, 0, none, false, 0, none, 0, none⟩

/-- A packet of chain 0 in slot 0, with the words and the groups given. -/
def packet (ws : List Word) (gs : List Nat := []) (d : Option Nat := none) : Packet :=
  ⟨4, 0, 0, 0, 0, false, headOf ws, false, none, d, 0, false, false, gs, false, false, []⟩

/-- A device READY with that packet in slot 0. -/
def ready (ps : List Packet) : State :=
  let s := State.reset
  { s with pkg := { s.pkg with stage := 7 }, fab := { s.fab with members := 1 }, nextId := 10,
           sched := { s.sched with packets := ps, slots := [(0, { packet := ps.head?.map (fun p => p.id), state := .busy })] } }

/-- Status writes that a mirror has to apply and that all have applied; allocations with a free tag and with none. -/
theorem witness_status_writes :
    let a : Attempt := ⟨3, 0, 0, 4, .opening, 0, 5000, 0, 0, 0, none, false, false⟩
    let p := packet [BitVec.ofNat 64 1] [] (some 3)
    let w (l : List Nat) : StatusWrite := ⟨5, .active, l, .attempt 3⟩
    let s (a : Attempt) (l : List Nat) : State :=
      let b := ready [p]
      { b with arb := { b.arb with attempts := [a] },
               mem := { b.mem with writes := [w l], master := [(5, .active)], waiting := [.attempt 3] }, input := { tag := 5, stack := 2 } }
    let full : State := let b := s a []; { b with mem := { b.mem with master := (List.range 64).map (fun i => (i, .active)) } }
    ((s a [2]).mem.writes.find? (fun y => y.tag == 5 && y.left.contains 2) = some (w [2])) ∧
    ((s a [1]).mem.writes.find? (fun y => y.tag == 5 && y.left.contains 2) = none) ∧
    (waitingUsers (s a []) = .attempt 3 :: [] ∧ freeTags (s a []) ≠ [] ∧ freeTags full = []) ∧
    ((s a []).mem.writes.find? (fun y => y.tag == 5 && y.left.isEmpty) = some (w []) ∧ (s a []).attempt? 3 = some a ∧
      launchPackets (s a []) a = [p] ∧ pkType p.head.words = 1 ∧ pkKern p.head.words = false ∧ (s a []).packet? 4 = some p) ∧
    (let b : Attempt := { a with state := .settling, tag := 5 }
     (s b []).attempt? 3 = some b ∧ b.state ≠ .opening ∧ sget .free (s b []).mem.master 5 = .active) := by decide +kernel

/-- Attempts whose work is over, of a launch of this device and of a level-5 launch, with a veto and without; one past
its deadline; settled ones of every decision. -/
theorem witness_attempts :
    let a (st : AttState) (hw : BitVec 16) : Attempt := ⟨3, 0, 0, 4, st, 5, 5000, hw, 0, 0, none, false, false⟩
    let p (lev : Nat) : Packet := packet [BitVec.ofNat 64 (1 + lev * 16 + 1024)] [1] (some 3)
    let g : Group := ⟨1, 4, [0], 1, 0, 1, .running, false, false⟩
    let s (a : Attempt) (lev : Nat) (gs : List Group) (t : Word) : State :=
      let b := ready [p lev]
      { b with arb := { b.arb with attempts := [a] }, fab := { b.fab with dtime := t }, mem := { b.mem with master := [(5, .active)] },
               sched := { b.sched with groups := gs }, input := { dtid := 3 } }
    let dec (ab : Bool) (f : BitVec 16) : Attempt := { a .settling 0 with dec := some ⟨ab, f, 0⟩, settled := true }
    let x := a .running 0
    ((s x 1 [] 0).attempt? 3 = some x ∧ attemptDone (s x 1 [] 0) x = true ∧ attemptDone (s x 1 [g] 0) x = false) ∧
    (arbourLaunch (s x 5 [] 0) x = true ∧ arbourLaunch (s x 1 [] 0) x = false) ∧
    (voteFlags (s x 1 [] 0) x &&& 0x1FFF = 0 ∧ voteFlags (s (a .running 1) 1 [] 0) (a .running 1) &&& 0x1FFF ≠ 0) ∧
    (x.td ≤ (s x 1 [g] 5000).now ∧ ¬ x.td ≤ (s x 1 [g] 4999).now ∧ (s x 1 [g] 5000).group? 1 = some g) ∧
    (let d := dec true 0
     (s d 1 [] 0).packet? d.packet = some (p 1) ∧ drained (s d 1 [] 0) (p 1) = true ∧ launchPackets (s d 1 [] 0) d = [p 1] ∧
       d.att + 1 ≤ pkRetry (p 1).head.words ∧ ¬ ({ d with att := 1 } : Attempt).att + 1 ≤ pkRetry (p 1).head.words) ∧
    ((0x1000 : BitVec 16).getLsbD 12 = true ∧ (0x0400 : BitVec 16).getLsbD 10 = true ∧ (0x0400 : BitVec 16).getLsbD 12 = false) := by
  decide +kernel

/-- Votes and decisions at a node: well formed and not, the first of two inputs and the last, at the root and below; an
entry before and past its time. -/
theorem witness_arbour :
    let m (w : Nat) : ArbMsg := ⟨BitVec.ofNat 64 (w + 3 * 2 ^ 16), 1, 9⟩
    let e (n : Nat) : NodeEntry := ⟨3, 0, 9, 0, 0, 0, n, false⟩
    let nd (r : Bool) (n k : Nat) : NodeSt := { en := true, root := r, expect := k, entries := [e n] }
    let a : Attempt := ⟨3, 0, 0, 4, .voted, 5, 5000, 0, 0, 0, none, false, false⟩
    let s (x : NodeSt) (w : Nat) : State :=
      let b := ready []
      { b with arb := { b.arb with nodes := [(0, x)], attempts := [a] }, mem := { b.mem with master := [(5, .active)] },
               input := { msg := m w, dtid := 3 } }
    let ok (w type : Nat) : Prop := w % 4 = type ∧ w / 2 ^ 10 % 2 ^ 6 = 0 ∧ w / 2 ^ 38 % 2 ^ 10 = 0
    ok (m 0).w0.toNat 0 ∧ ok (m 1).w0.toNat 1 ∧ ¬ ok (m 1024).w0.toNat 0 ∧ (1 : Word).toNat < 2 ^ 14 ∧
    (((s (nd true 0 2) 0).node 0).en = true ∧ 1 ≤ (nd true 0 2).expect ∧ (nd true 0 2).expect ≤ 8) ∧ ¬ (1 ≤ (nd true 0 0).expect) ∧ (3, 0) ∉ (nd true 0 2).passed ∧ 0 + 1 ≠ (nd true 0 2).expect ∧
    1 + 1 = (nd true 1 2).expect ∧ (nd true 1 2).root = true ∧ (nd false 1 2).root = false ∧ (s (nd true 0 2) 0).self < 64 ∧
    (nd true 0 2).entries.find? (fun e => e.dtid == 3 && e.att == 0 && !e.sent) = some (e 0) ∧
    (s (nd true 0 2) 0).now < (e 0).td + 2000 * (max 1 (nd true 0 2).height - 1) ∧
    (let t : State := { s (nd false 0 2) 0 with fab := { (s (nd false 0 2) 0).fab with dtime := 9 } }
     (e 0).td + 2000 * (max 1 (nd false 0 2).height - 1) ≤ t.now) ∧
    ((s (nd true 0 2) 1).attempt? 3 = some a ∧ a.att = 0 ∧ sget .free (s (nd true 0 2) 1).mem.master a.tag = .active ∧ a.tag ≠ 0) := by
  decide +kernel

/-- Registration records that name a buffer and that do not; the NBT with the name, without it and full; a stripe and
none; names in use and free; QUERY's record address in HBM. -/
theorem witness_named_buffers :
    let v (name cap : Nat) : Nat := name + 2 ^ 32 + cap * 2 ^ 128
    let e (n : Nat) : NbEntry := ⟨n, 0, 1, 0, 1, 0, 0, 0, 0, 0⟩
    let s (op : Nat) (r : Nat) (l : List NbEntry) (code : Nat) : State :=
      let b := ready []
      { b with perg := { b.perg with go := true, op := op, name := 7, nbt := l, recAddr := 2 ^ 33 },
               mem := ({ b.mem with irtCode := [(0, code)] } : MemSt).write (2 ^ 33) (toBytes 64 r) }
    let c : CollSt := ⟨1, 1, 7, 0, 0, 1, 0, false, 0, 0, 0, 0, 0, 0, false, 0, 0, []⟩
    let rd (t : State) : Option NbEntry := parseRecord t (fromBytes ((recordAt t).2.getD []))
    (rd (s 1 (v 7 1) [] 7) = some (e 7) ∧ rd (s 1 (v 7 0) [] 7) = none ∧ (recordAt (s 1 (v 7 1) [] 7)).2.isSome = true) ∧
    ((s 1 (v 7 1) [e 7] 7).nbEntry 7 = some (e 7) ∧ (s 1 (v 7 1) [] 7).nbEntry 7 = none ∧ inStripe (s 1 (v 7 1) [] 7) (e 7) = true ∧
      inStripe (s 1 (v 7 1) [] 6) (e 7) = false ∧ 256 ≤ (List.replicate 256 (e 8)).length ∧ ([] : List NbEntry).length < 256) ∧
    (outstanding (s 2 0 [e 7] 7) 7 = false ∧ outstanding { (ready []) with perg := { colls := [c] } } 7 = true) ∧
    (physOf (s 3 0 [e 7] 7) (2 ^ 33) = some (.hbm ⟨2 ^ 33, none⟩)) := by decide +kernel

/-- 256 slots that hold `x`, and what their places read as. -/
def fullOf (x : SlotP) : PlaneSt := { slots := (List.range' 0 256).map (fun i => (i, some x)) }

theorem fullOf_get (x : SlotP) : ∀ n k i : Nat, k ≤ i → i < k + n →
    sget none ((List.range' k n).map (fun i => (i, some x))) i = some x
  | 0, k, i, h, h' => by omega
  | n + 1, k, i, h, h' => by
    rw [List.range'_succ, List.map_cons, sget]
    by_cases e : i = k
    · rw [if_pos e]
    · rw [if_neg e]
      exact fullOf_get x n (k + 1) i (by omega) (by omega)

/-- A plane whose slots hold another name has no slot of a name and none free. -/
theorem fullOf_none (x : SlotP) (name seq att : Nat) (h : x.name ≠ name) :
    slotOf (fullOf x) name seq att = none ∧ slotFor (fullOf x) name seq = none := by
  have get (i : Nat) (hi : i ∈ probes name seq) : sget none (fullOf x).slots i = some x := by
    obtain ⟨j, _, rfl⟩ := List.mem_map.1 hi
    exact fullOf_get x 256 0 _ (Nat.zero_le _) (by omega)
  constructor
  · refine List.find?_eq_none.2 (fun i hi => ?_)
    rw [get i hi]
    simp [h]
  · refine List.find?_eq_none.2 (fun i hi => ?_)
    rw [get i hi]
    simp

/-- A ring step at each end of its range; a collective issued in its turn, held for a slot, and one whose name another
transaction holds. -/
theorem witness_collective_issue :
    let e : NbEntry := ⟨7, 0, 1, 0, 64, 0, 0, 0, 0, 0⟩
    let h : NbEntry := ⟨7, 0, 1, 0, 64, 0, 0, 0, 0, 5⟩
    let c : CollSt := ⟨1, 1, 7, 0, 0, 1, 0, false, 0, 0, 0, 0, 0, 0, false, 0, 0, []⟩
    let x : SlotP := freshSlot 8 0 0 0 0 none
    let pl (full : Bool) : PlaneSt := if full then fullOf x else {}
    let s (e : NbEntry) (full : Bool) : State :=
      let b := ready []
      { b with perg := { b.perg with nbt := [e], colls := [c], planes := [(0, pl full)] }, input := { id := 1 },
               mem := { b.mem with master := [(5, .active)] } }
    let t := s e false
    let p := endpoint t 1 c e
    ((s e true).plane 0 = fullOf x ∧ slotOf (fullOf x) 7 0 0 = none ∧ slotFor (fullOf x) 7 0 = none) ∧
    ((s e true).slotP 0 0 = some x ∧ 0 < 1 - 0) ∧
    (t.coll? 1 = some c ∧ t.nbEntry 7 = some e ∧ c.issued = false ∧ c.open ≠ [] ∧
      (t.perg.colls.find? (fun d => d.name == c.name)).map (fun d => d.id) = some 1) ∧
    (slotsFree t 7 0 0 = true ∧ (seqIssue e 0 (tagState t)).isSome = true ∧ p.m = 0) ∧
    (h.tag ≠ 0 ∧ sget .free (s h false).mem.master h.tag = .active ∧ h.tag ≠ c.tag ∧ seqIssue h c.tag (tagState (s h false)) = none) :=
  ⟨⟨rfl, fullOf_none _ _ _ _ (by decide)⟩, by decide +kernel⟩

/-- A chunk and a MARK that find a slot, a free one, one of another signature, one whose early chunks are held, no
entry; a ring with a partner; slots past their time; collectives in each state of their planes. -/
theorem witness_collective_events :
    let e : NbEntry := ⟨7, 0, 1, 0, 64, 0, 0, 0, 0, 0⟩
    let c (pl : Sparse (Option PlaneStatus)) (i : Bool) : CollSt := ⟨1, 1, 7, 0, 0, 1, 0, false, 0, 0, 0, 0, 5, 0, i, 0, 0, pl⟩
    let x (sig : Word) (i : Option Nat) (early : List (Word × Word × List (BitVec 32))) : SlotP :=
      { freshSlot 7 0 0 sig 0 i with early := early }
    let k := (probes 7 0).headD 0
    let s (l : Sparse (Option SlotP)) (nb : List NbEntry) (cs : List CollSt) : State :=
      let b := ready []
      { b with perg := { b.perg with nbt := nb, colls := cs, planes := [(0, { slots := l })] },
               fab := { b.fab with members := 3, ncm1 := 1, dtime := 1000 },
               pkg := { b.pkg with links := [(12, { state := .up, pdev := 1 })] }, mem := { b.mem with master := [(5, .aborted)] },
               input := { stack := 0, v := BitVec.ofNat 64 (7 * 2 ^ 36), u := 0, slot := k, id := 1, tag := 5, link := 1 } }
    passesBy (s [] [e] []) 0 1 = false ∧
    (slotOf ((s [] [] []).plane 0) 7 0 0 = none ∧ (s [] [] []).nbEntry 7 = none ∧ (s [] [e] []).nbEntry 7 = some e ∧
      slotFor ((s [] [e] []).plane 0) 7 0 = some k) ∧
    (let sig : Word := BitVec.ofNat 64 (7 * 2 ^ 36)
     let l := [(k, some (x sig none [])), (k, some (x 1 none []))]
     slotOf ((s (l.take 1) [e] []).plane 0) 7 0 0 = some k ∧ (s (l.take 1) [e] []).slotP 0 k = some (x sig none []) ∧
       (s (l.drop 1) [e] []).slotP 0 k = some (x 1 none []) ∧ (1 : Word) ≠ sig ∧
       2 ≤ (x sig none [(0, 0, []), (0, 0, [])]).early.length ∧ (x sig none []).early.length < 2 ∧
       (x sig (some 1) []).issued.bind (s [] [e] [c [] true]).coll? = some (c [] true)) ∧
    (let t := s [(k, some (x 0 none []))] [e] []
     (x 0 none []).taken + e.tmo * 1000 ≤ t.now ∧ ¬ (x 0 none []).taken + 2 * 1000 ≤ t.now) ∧
    ((c [(0, some .mismatch)] true).open ≠ [] ∧ sget none (c [(0, some .mismatch)] true).planes 0 = some .mismatch ∧
      sget none (c [(0, some .timeout)] true).planes 0 = some .timeout ∧ (∀ i, i < 8 → sget none (c [] true).planes i = none) ∧
      (c ((List.range 8).map (fun i => (i, some .ok))) true).open = []) ∧
    ((5 : Nat) ≠ 0 ∧ sget .free (s [] [e] []).mem.master 5 = .aborted ∧ (s [] [e] []).mem.writes = []) ∧
    (let j : TileJob := { job (tword 0x10 1) true with unit := ⟨1, 0⟩ }
     let t : State := { s [] [e] [c [] true] with tiles := { (s [] [e] []).tiles with jobs := [j] } }
     t.job? (c [] true).word = some j ∧ j.member = false ∧ j.fault = none) := by decide +kernel

/-! ### The host, pre-emption, chains, packets -/

/-- Mailbox commands with each answer; register offsets at their ends; a CXL.mem write in the last region that counts
and in the first that does not. -/
theorem witness_host_commands :
    let ws (w0 : Nat) (w3 : Nat := 0) : List Word := [BitVec.ofNat 64 w0, 0, 0, BitVec.ofNat 64 w3]
    let b0 : BindRec := ⟨1, false, false, 0, 1, [0], 0⟩
    let s (code : Nat) (r : List Word) (x : SlotSt) (y : SlotSt) : State :=
      let t := ready []
      { t with host := { t.host with mbGo := true, mbCode := code, mbArg := [(0, BitVec.ofNat 64 (2 ^ 20))] },
               mem := t.mem.write (2 ^ 20) (r.flatMap (fun w => toBytes 8 w.toNat)),
               sched := { t.sched with slots := [(0, x), (1, y)] } }
    let record := ws (2 ^ 8 + 2 ^ 26)
    let free : SlotSt := { bind := some b0, state := .free }
    let t := s 2 record free {}
    (t.pkg.stage = 7 ∧ t.host.mbGo = true ∧ t.host.mbCode = 2 ∧ (mailRecord 4 t).2 = some record ∧ parseBind record = some (0, b0)) ∧
    ((mailRecord 4 (s 2 (ws 0) free {})).2.bind parseBind = none ∧ overlap b0 b0 = true ∧
      overlap b0 { b0 with first := 1 } = false ∧ ({ b0 with first := 1 } : BindRec) ≠ b0) ∧
    (({ free with state := .busy } : SlotSt).state = .busy ∧ free.held = none ∧ free.unbind = false ∧
      { b0 with save := true, base := 2 ^ 30 }.base = ({ free with heldBase := 2 ^ 30 } : SlotSt).heldBase ∧ b0.save = false) ∧
    (parseBind (ws (2 ^ 8 + 511 * 2 ^ 16 + 2 ^ 26)) ≠ none ∧ parseBind (ws (2 ^ 8 + 511 * 2 ^ 16 + 2 * 2 ^ 26)) = none) ∧
    (let dom : List Word := [BitVec.ofNat 64 (1 * 64), 3, 0, 0, 0, 0, 0, 0]
     (mailRecord 8 (s 4 dom free {})).2 = some dom ∧ domainOk dom = true ∧ domainOk (dom.set 1 5) = false ∧
       domainBusy (s 4 dom free {}) = false ∧ domainBusy (ready [packet [BitVec.ofNat 64 (1 + 5 * 16)]]) = true) ∧
    ((State.reset).pkg.stage ≠ 7 ∧ (0x90101 : Nat) % 4 ≠ 0 ∧ (freeTags t).length = 63 ∧ t.sched.packets = [] ∧
      (62 < 63 ∧ 15 < 16) ∧ 63 * 2 ^ 33 - 64 < 63 * 2 ^ 33 ∧ t.mem.vm.go = false ∧ t.perg.go = false ∧ (t.chain 4095).en = false) := by
  decide +kernel

/-- Slots whose packets run, halted and not; a core open to debug; streams and a nest asked to pre-empt, at a point, past
PRTMO and before; a slot that may save, one that saves, and one whose saved packet runs again. -/
theorem witness_preemption :
    let pl : Placement := ⟨0, 0, 1, 1, 0, 0, 0, [], 0⟩
    let y (st : Option Stall) : StreamSt := { run := .running, preempt := true, stall := st }
    let c (st : Option Stall) (r : RunState) : CoreSt :=
      { a := { y st with run := r }, place := some pl, m := { run := r == .running, preempt := true, stall := true, cfg := { plev := 6 } } }
    let g : Group := ⟨1, 4, [0], 1, 0, 1, .running, false, false⟩
    let p : Packet := { packet [] [1] with preempt := true }
    let b : BindRec := ⟨1, false, true, 0, 1, [0], 2 ^ 22⟩
    let s (st : Option Stall) (r : RunState) (t : Word) (x : SlotSt) (d : Nat) : State :=
      let u := ready [p]
      { u with cores := [(0, c st r)], fab := { u.fab with dtime := t }, dbg := { u.dbg with state := d },
               sched := { u.sched with groups := [g], slots := [(0, { x with packet := some 4, bind := some b })] } }
    let x : SlotSt := { state := .busy }
    let u := s (some .queue) .running 200000 x 0
    (u.dbg.state = 0 ∧ (u.slot 0).packet ≠ none ∧ (u.slot 0).state = .busy ∧ u.packet? 4 = some p ∧ u.group? 1 = some g ∧
      ¬ (∃ k, k < 4 ∧ 10500 ≤ (sget {} u.pkg.dies k : DieSt).temp) ∧ (s none .running 0 x 2).dbg.state = 2 ∧ pl.slot = u.dbg.hslot) ∧
    ((u.core 0).a.preempt = true ∧ (u.core 0).a.stall = some .queue ∧ (u.core 0).halted = false ∧
      askedAt u 0 + u.sched.prtmo * 1000 ≤ u.now ∧ ¬ askedAt u 0 + u.sched.prtmo * 1000 ≤ (s none .running 199999 x 0).now ∧
      (u.core 0).m.run = true ∧ (u.core 0).m.stall = true ∧ 6 ≤ (u.core 0).m.cfg.plev ∧ ({} : MatrixSt).cfg.plev < 6) ∧
    (let v := s none .stopped 0 x 0
     groupsOf v 4 = [g] ∧ coreStopped v 0 = true ∧ coreStopped u 0 = false ∧ (v.core 0).l1 = [] ∧ l2Of v 0 = [] ∧ p.killed = false) ∧
    (let v := s none .stopped 0 { state := .saving } 0
     (v.slot 0).state = .saving ∧ (v.slot 0).bind = some b ∧ p.share = false ∧ (v.chain 0).kill = false ∧ (heldCores [g]).Nodup ∧
       scopeCore b ≤ 0 ∧ 0 < scopeCore b + 512 ∧ b.base + 2 ^ 31 ≤ 2 ^ 39) ∧
    (let f : SavedCore := ⟨c none .stopped, 0, []⟩
     let v := s none .idle 0 { state := .busy, held := some p, groups := [g], saved := [f], heldBase := 2 ^ 22 } 0
     (v.slot 0).held = some p ∧ (v.slot 0).packet = some p.id ∧ (v.slot 0).groups = [g] ∧ 0 < g.cores.length ∧ f ∈ (v.slot 0).saved ∧
       f.core.place = some pl ∧ pl.gid = g.gid ∧ pl.index = g.cores.getD 0 0 - g.cores.headD 0 ∧ (v.slot 0).wantPre = false ∧
       newCores b [f] g = [0] ∧ newCores { b with first := 3 } [f] g = [3]) ∧
    ((ready [{ packet [] with share := true, home := 1, chain := 2 }]).sched.packets.find?
      (fun p => p.share && p.home == 1 && p.chain == 2)).isSome = true := by decide +kernel

/-- Chains idle, active and tearing; a packet to fetch that runs, one refused, one that cannot be read; waits met and not,
with an error flag; heads late and not; an escalation. -/
theorem witness_chains :
    let h (ws : List Word) : Head := { headOf ws with waits := [false, true, true, true], late := 5 }
    let ch (hs : List Head) : ChainSt := { en := true, state := .active, hds := hs, tail := if hs = [] then 1 else 0,
                                           cw := 2 ^ 21, ev := 2 ^ 22, head := 2 ^ 20, pt := 2 ^ 23 }
    let s (k : ChainSt) (w : Nat) (ev : Nat) (t : Word) (e : List (Nat × Bool)) : State :=
      let u := ready []
      { u with host := { u.host with chains := [(0, k)] }, fab := { u.fab with dtime := t }, sched := { u.sched with esc := e },
               mem := (u.mem.write (2 ^ 20) (toBytes 8 w)).write (2 ^ 22) (toBytes 8 ev) }
    let u := s (ch []) 0 0 0 []
    let bytes := u.mem.bytes (2 ^ 20) 128
    (u.pkg.stage = 7 ∧ (u.chain 0).state ≠ .idle ∧ (u.chain 0).fetched ≠ (u.chain 0).tail ∧ (u.chain 0).hds = [] ∧
      (u.chain 1).state = .idle ∧ (u.chain 1).en = false ∧ (u.chain 1).spawn = false) ∧
    ((physRead false false (2 ^ 20) 128 u).2.toOption = some bytes ∧ (refusal 0 (wordsOf 16 bytes) u).2 = none ∧
      (refusal 0 (wordsOf 16 bytes) u).1.chain 0 = u.chain 0 ∧
      err (physRead false false (2 ^ 20) 128 (u.withMem (u.mem.setPoison (2 ^ 20) true))) = some .poison ∧
      (refusal 0 (BitVec.ofNat 64 15 :: []) u).2 = some 1 ∧
      (let txn (ws : List Word) : Prop := packetBad ws = false ∧ packetSplit ws = false ∧ kernBad u ws = false ∧ pkTxn ws = true
       let level5 := [BitVec.ofNat 64 (128 + 5 * 16 + 2 ^ 24)]
       txn [128] ∧ pkTxLimit [128] = 0 ∧ txn level5 ∧ pkLevel level5 = 5 ∧ u.arb.valid = false)) ∧
    ((u.chain 0).done = [] ∧ (u.chain 0).base + 1 = 1 ∧ (u.chain 0).next = (u.chain 0).base ∧ physOf u (2 ^ 21) = some (.hbm ⟨2 ^ 21, none⟩) ∧
      (u.chain 0).irq = false ∧ u.sched.packets = []) ∧
    (let x := h []
     let v := fun (e : Nat) => fromBytes ((s (ch [x]) 0 e 0 []).mem.bytes (2 ^ 22) 8)
     (s (ch [x]) 0 0 0 []).chain 0 = ch [x] ∧ x.waits.getD 0 true = false ∧ x.waits.getD 1 true = true ∧
       physOf u (2 ^ 22 + 8 * 0) = some (.hbm ⟨2 ^ 22, none⟩) ∧ u.mem.poisoned (2 ^ 22) 8 = false ∧
       (v 0 % 2 ^ 32 + 2 ^ 32 - 0) % 2 ^ 32 < 2 ^ 31 ∧ ¬ ((v (2 ^ 31) % 2 ^ 32 + 2 ^ 32 - 0) % 2 ^ 32 < 2 ^ 31) ∧
       (v (2 ^ 63)).testBit 63 = true ∧ (v 0).testBit 63 = false) ∧
    (pkOnerr [BitVec.ofNat 64 (2 ^ 16)] = 1 ∧ pkOnerr [BitVec.ofNat 64 (2 ^ 17)] = 2 ∧ pkOnerr [] = 0 ∧
      pkLate [BitVec.ofNat 64 (2 ^ 14)] = 1 ∧ pkLate [BitVec.ofNat 64 (2 ^ 15)] = 2 ∧ pkLate [] = 0) ∧
    ((h []).late ≠ 0 ∧ (h []).late < (s (ch [h []]) 0 0 6 []).now ∧ ¬ (h []).late < (s (ch [h []]) 0 0 5 []).now ∧ (h []).esc = none ∧
      (h []).offered = false ∧ (h []).saved = none) ∧
    ((s (ch [h []]) 0 0 0 [(0, true)]).sched.esc.any (fun p => p.1 == 0) = true ∧ u.sched.esc.any (fun p => p.1 == 0) = false) := by
  decide +kernel

/-- A free slot with a candidate of each kind and with none; groups that retire and drain and that do not; packets whose
work is over and is not. -/
theorem witness_packets :
    let tile (op lev : Nat) (more : Nat := 0) : List Word :=
      [BitVec.ofNat 64 (1 + lev * 16 + more), BitVec.ofNat 64 (op + lev * 2 ^ 8), 0, 0, 0]
    let sig (tx : Nat) : List Word := [BitVec.ofNat 64 (1 + 16 + tx * 128), BitVec.ofNat 64 (0x19 + 2 ^ 8 + tx * 2 ^ 12), 0, 0, 0]
    let b : BindRec := ⟨1, false, false, 0, 1, [0], 0⟩
    let s (ws : List Word) (st : SlotState) : State :=
      let u := ready []
      { u with host := { u.host with chains := [(0, { en := true, state := .active, hds := [headOf ws], next := 1 })] },
               sched := { u.sched with slots := [(0, { bind := some b, state := st })] } }
    let why (ws : List Word) : Option (BitVec 8 × Nat) :=
      let u := s ws .free
      let hl : State := { u.modChain 0 (fun y => { y with hds := [] }) with nextId := u.nextId + 1 }
      (wordCause (u.nextId + 1) (latch 0 (packetOf (u.nextId + 1) 0 0 (headOf ws) hl) hl)).2
    lateCheck 0 (s (sig 0) .free) = s (sig 0) .free ∧ pickCandidate [(5, 2), (5, 1), (6, 0)] = some 1 ∧
    (slotCandidates (s (sig 0) .free) 0 b ≠ [] ∧ pickCandidate (slotCandidates (s (sig 0) .free) 0 b) = some 0 ∧
      slotCandidates (s [] .free) 0 { b with chains := [1] } = [] ∧
      (s (sig 0) .free).dbg.thermal = false ∧ ((s (sig 0) .busy).slot 0).state ≠ .free) ∧
    (why (sig 0) = none ∧ why (sig 1) = none ∧ why (tile 0x18 1) = none ∧ pkKern (tile 0x18 1) = true ∧ pkKern (sig 0) = false ∧
      pkTxn (sig 1) = true ∧ pkTxn (sig 0) = false ∧ pkType (sig 0) = 1 ∧ pkLevel (sig 0) ≠ 5 ∧
      (headOf (sig 0)).isLate (s (sig 0) .free).now = false ∧ (s (sig 0) .free).packet? 11 = none) ∧
    (let pl : Placement := ⟨0, 0, 1, 1, 0, 0, 0, [], 0⟩
     let g (st : GroupState) : Group := ⟨1, 4, [0], 1, 0, 1, st, false, false⟩
     let c (r : RunState) (q : Sparse (List QEntry)) : CoreSt := { a := { run := r }, x := { run := r }, place := some pl, queues := q }
     let v (st : GroupState) (k : CoreSt) : State :=
       let u := ready [packet [] [1]]
       { u with cores := [(0, k)], sched := { u.sched with groups := [g st] }, input := { gid := 1, id := 4 } }
     (v .running {}).group? 1 = some (g .running) ∧ coreEnded (g .running) (c .exited []) = true ∧
       coreEnded (g .running) (c .running []) = false ∧ residue (c .exited [(2, [⟨[], false, false⟩])]) = 4 ∧
       (v .running {}).packet? 4 = some (packet [] [1]) ∧ coreDrained (v .draining {}) 0 = true ∧
       coreDrained (v .draining { copyQ := [.lrec 0 0 0] }) 0 = false ∧ l2Of (v .draining {}) 0 = [] ∧
       coreEnded (g .running) { c .exited [] with txst := { kind := 2, tag := 5 } } = true) ∧
    (let p : Packet := { packet [] with done := true }
     let u : State := let r := ready [p]; { r with host := { r.host with chains := [(0, { cw := 2 ^ 21 })] } }
     packetOver u p = true ∧ packetOver u (packet []) = false ∧ packetGiven u p = false ∧
       packetGiven { u with host := { u.host with chains := [(0, { base := 1 })] } } p = true ∧ pkLevel p.head.words ≠ 5 ∧
       physOf u (u.chain 0).cw = some (.hbm ⟨2 ^ 21, none⟩) ∧
       u.sched.packets.filter (fun q => !q.share && q.chain == 0 && q.head.seq == 1) = [p]) :=
  ⟨rfl, by decide +kernel⟩

/-! ### The ends of waits, the copy engine, encodings and steps -/

/-- Streams blocked for each reason and not; a tagged word here and gone; a copy that is ready and one that is not. -/
theorem witness_waits :
    let c (st : Option Stall) (n : Nat) : CoreSt :=
      { a := { running [] with stall := st, stallCnt := n, wait := some ⟨5, none⟩ }, spad := [(0, 0xDA), (1, 0x10), (2, 0xE1)] }
    let s (st : Option Stall) (n : Nat := 0) : State := box (c st n)
    (∀ w ∈ [Stall.queue, .nest, .tlwait, .bwait, .tag, .inv], ((s (some w)).core 0).a.stall = some w ∧ issuing (s (some w)) 0 .a = true) ∧
    ((s none).core 0).a.stall = none ∧ (s none).input.flag = false ∧ ((s (some .inv)).core 0).a.wait = some ⟨5, none⟩ ∧
    (Stall.counted .queue = true ∧ 2 ^ 24 ≤ ((s (some .queue) (2 ^ 24)).core 0).a.stallCnt ∧ ¬ 2 ^ 24 ≤ ((s (some .queue) 5).core 0).a.stallCnt) ∧
    (let q : RemoteReq := ⟨5, 1, .ldf false, 2 ^ 55, 8, [], false, 0⟩
     let t : State := { mapped [] { tags := [(0, true)] } with input := { flag := true, dev := 5, id := 1 } }
     let u : State := { t with fab := { t.fab with tagged := [q] } }
     u.fab.tagged.find? (fun r => r.src == 5 && r.id == 1) = some q ∧ t.fab.tagged.find? (fun r => r.src == 5 && r.id == 1) = none) := by
  decide +kernel

/-- A matrix engine blocked at a step word that waits, at one that goes on, and within the watchdog's time; a nest that
has ended. -/
theorem witness_matrix_waits :
    let m (st : Bool) (n : Nat) (e : Bool) : MatrixSt := { run := true, ended := e, stall := st, stallCnt := n, pc := 0xFFFFFFFFFFE00000 }
    let s (st : Bool) (n : Nat) (e : Bool := false) : State :=
      box { m := m st n e, place := some ⟨0, 0, 1, 1, 0, 0, 0, [], 0⟩, spad := [(3, 0x70)] } .m
    issuing (s true 0) 0 .m = true ∧ ((s true (2 ^ 24)).core 0).m.stall = true ∧ 2 ^ 24 ≤ ((s true (2 ^ 24)).core 0).m.stallCnt ∧
    ¬ 2 ^ 24 ≤ ((s true 3).core 0).m.stallCnt ∧ ((s false 0).core 0).m.stall = false ∧
    (stepWord 0 (s true 0)).2 = some .msync ∧ ((s false 0 true).core 0).m.ended = true ∧ (({} : CoreSt).m.run = false) := by
  decide +kernel

/-- A copy queue with a command, an LREC and nothing; commands whose records agree, differ and are missing; a run that is
ready and one that waits for its tile; a cancel asked and not. -/
theorem witness_copy_engine :
    let cmd : CopyCmd := .copy 1 2 1 false false 2 true ⟨0, 0, false⟩
    let r (mem : Nat) : CopyRun := ⟨cmd, [one32 1 64], [one32 mem 0]⟩
    let c (q : List CopyCmd) (run : Option CopyRun) (st : CancelStatus) : CoreSt :=
      { copyQ := q, copyRun := run, cancels := [(1, st)], copyStall := true, copyCnt := 2 ^ 24 }
    let s (q : List CopyCmd) (run : Option CopyRun) (st : CancelStatus) (l : Sparse (BitVec 768)) : State :=
      let b := box (c q run st)
      { b with tiles := { b.tiles with tables := [(1024, l)] }, input := { n := 1, engine := .copy } }
    let t := s [cmd] none .pending [(1, one32 1 0), (2, one32 1 64)]
    ((t.core 0).copyQ = cmd :: [] ∧ (t.core 0).copyRun = none ∧ (t.core 0).halted = false) ∧
    (let la := loadLayout t 1024 1 1023
     let lb := loadLayout t 1024 2 1023
     la.isSome = true ∧ lb.isSome = true ∧ la.map (fun x => (x.count, x.fmt)) = lb.map (fun x => (x.count, x.fmt)) ∧
       (loadLayout (s [cmd] none .pending []) 1024 1 1023) = none) ∧
    (copyReady (c [] (some (r 1)) .pending) (r 1) = true ∧ copyReady (c [] (some (r 2)) .pending) (r 2) = false ∧
      (r 1).layouts.isSome = true ∧ (copyMove 0 (r 1) 1 (s [] (some (r 1)) .pending [])).2 = none) ∧
    ((s [] (some (r 1)) .cancelling []).core 0).cancels = [(1, .cancelling)] ∧ (r 1).cmd.num = 1 ∧ CancelStatus.pending ≠ .cancelling ∧
    2 ^ 24 ≤ (c [] (some (r 2)) .pending).copyCnt := by decide +kernel

/-- Instructions of each kind with words, at the least and the greatest values of an operand, and the conditions under
which each stream takes them. -/
theorem witness_encodings :
    let well (i : Instr) : Prop := wellFormed i = true ∧ (encode i).isSome = true
    (well (.addi 0 31 0x7FFF) ∧ well (.addi 31 0 0x8000) ∧ well (.vfma 0 0 0 false false) ∧ well (.vcmp 6 1 2 false false 1) ∧
      well .mend ∧ well (.trap 255)) ∧
    ((Instr.msync).isStep = true ∧ (Instr.addi 0 31 0x7FFF).isStep = false) ∧
    (match encode (.addi 31 0 0x8000) with
     | some (n, w) => n == 4 && w / 2 ^ 30 != 3 && scalarAccepted .a w && csrAccepted .a w && scalarAccepted .x w && csrAccepted .x w
     | none => false) = true ∧
    (match encode (.vcmp 6 1 2 false false 1) with | some (n, w) => n == 8 && w % 2 ^ 32 / 2 ^ 30 == 3 | none => false) = true ∧
    (match decode .x (leBytes 4 0xC3080410) with | .ok (_, n) => n == 4 | .error _ => false) = true ∧
    (match decodeTile ((tword 1 7 (2 ^ 16)).toNat) with | .ok i => wellFormed i && (encode i).map Prod.fst == some 32 | .error _ => false) = true := by
  decide +kernel

/-- Turns of a stream at a word that decodes, at one that does not, at an address that cannot be fetched, and of a stream
that does not issue; a tile word in progress and one that is not; an event and a turn whose signals name nothing. -/
theorem witness_steps :
    let s (w : Nat) (pc : Word) (r : RunState) : State :=
      box { a := { running [] with pc := pc, run := r }, spad := (leBytes 4 w).zipIdx.map (fun p => (p.2, p.1)) }
    let win : Word := 0xFFFFFFFFFFE00000
    let got (t : State) : Option (List Byte) × Bool :=
      match (fetchInstr 0 .a t.pc.toNat t).2 with | .ok bs => (some bs, false) | .error (.fault _) => (none, true) | .error _ => (none, false)
    let t := s 0x00E110DA win .running
    (t.agenda = [] ∧ t.focus.core = 0 ∧ t.focus.kind = .a ∧ issuing t 0 .a = true ∧ issuing (s 0 win .exited) 0 .a = false) ∧
    (got t = (some (leBytes 4 0x00E110DA), false) ∧ (decode .a (leBytes 4 0x00E110DA)).isOk = true ∧
      (decode .a (leBytes 4 0x048110C3)).isOk = false ∧ got (s 0 0x10000 .running) = (none, true)) ∧
    (inWindow win.toNat = true ∧ win.toNat % 4 = 0 ∧ win.toNat + 8 ≤ 2 ^ 64 ∧
      ∀ j, j < 8 → sget false (t.core 0).spadPois ((win.toNat % 2 ^ 21 + j) / 8) = false) ∧
    (let u : State := { held (job (tword 1 0 (2 ^ 32)) true) with agenda := [.tile 1 []] }
     u.job? 1 = some (job (tword 1 0 (2 ^ 32)) true) ∧ (decodeTile (tword 1 0 (2 ^ 32)).toNat).isOk = true) ∧
    (Instr.refreshDue.isEvent = true ∧ inputWf .refreshDue { pc := 511 } = true ∧ inputWf .refreshDue { pc := 512 } = false ∧
      Instr.msync.isEvent = false) ∧
    (∀ c : Nat, (State.reset.core c).a.pc.toNat % 4 = 0) ∧ (match step t with | .next _ => true | _ => false) = true := by
  refine ⟨by decide +kernel, by decide +kernel, by decide +kernel, by decide +kernel, by decide +kernel, fun c => rfl, by decide +kernel⟩

/-- A state whose addresses are aligned and whose stream runs: its step goes on. -/
theorem witness_aligned :
    let s := box { a := running [(1, 5)], spad := [(0, 0xDA), (1, 0x10), (2, 0xE1)] }
    s.agenda = [] ∧ s.aligned ∧ ∃ t, step s = .next t := by
  refine ⟨rfl, ?_, _, rfl⟩
  intro c
  by_cases h : c = 0
  · subst h
    constructor <;> simp [State.core, box, sget, StreamSt.aligned, running]
  · constructor <;> simp [State.core, box, sget, h, StreamSt.aligned]

/-! ### The hypotheses that name no single instruction -/

/-- Devices at whose pseudo-channels no request waits. -/
theorem witness_quiet :
    State.reset.quiet ∧ (mapped []).quiet ∧ (ready []).quiet ∧ (versioned id).quiet ∧
    (∀ j, (held j).quiet) :=
  ⟨⟨fun _ => rfl, fun _ _ => ⟨nofun, nofun⟩⟩, ⟨fun _ => rfl, fun _ _ => ⟨nofun, nofun⟩⟩,
    ⟨fun _ => rfl, fun _ _ => ⟨nofun, nofun⟩⟩, ⟨fun _ => rfl, fun _ _ => ⟨nofun, nofun⟩⟩,
    fun _ => ⟨fun _ => rfl, fun _ _ => ⟨nofun, nofun⟩⟩⟩

/-- Caches with room for a store and for a prefetched line, and a word of local memory. -/
theorem witness_caches :
    let s := mapped [(1, 0x10000)]
    ((s.rd 1).toNat + (List.replicate 8 (0 : Byte)).length ≤ 2 ^ 39 ∧ (l2Of s 0).length + 17 ≤ 32768) ∧
    (∀ n, ((s.core 0).l1.filter (fun p => p.1 % 256 == n)).length < 8) ∧ inWindow (s.rd 1).toNat = false ∧
    (match coreXlat 0 (s.rd 1).toNat false s with | (_, .ok x) => x.phys == .hbm ⟨0x10000, none⟩ | _ => false) = true ∧
    s.fab.loop = [] ∧ s.mem.poisoned 0x10000 1 = false := by
  refine ⟨by decide, fun _ => (show (0 : Nat) < 8 by decide), by decide, by decide +kernel, rfl, by decide⟩

/-- A tile word that TISSUE takes at once: a dirty line of local memory, no request on its way, room in the queue. -/
theorem witness_tile_issue_completes :
    let c : CoreSt := { spad := [(0x21, 1)], l1 := [(2, { Line.empty with dirty := 1, valid := 1 })] }
    let s := mapped [(1, 0xFFFFFFFFFFE00020)] c .x
    let lvl := bits (fromBytes (s.cur.spadBytes 0x20 32)) 10 8
    s.windowReady (s.rd 1).toNat 32 ∧ lvl = 1 ∧ s.fab.flights = [] ∧
    (∀ p ∈ s.cur.l1 ++ l2Of s 0, p.2.dirty ≠ 0 → localLine p.1 = true) ∧ queued s (unitOf lvl 0) < queueCap (unitOf lvl 0).level := by
  unfold State.windowReady
  decide +kernel

/-- A copy command that waits for tile 1 and is ready, and one that is not; the matrix engine and a VMOVT likewise; a step
word that has performed one of its accesses. -/
theorem witness_tile_ranks :
    let cmd : CopyCmd := .copy 1 2 1 false false 2 true ⟨0, 0, false⟩
    let r : CopyRun := ⟨cmd, [one32 1 64], [one32 2 1]⟩
    let c (full : BitVec 40) : CoreSt := { copyRun := some r, copyStall := true, full := full }
    let m (full : BitVec 40) : CoreSt := { m := { stall := true, want := some (1, .read false) }, full := full }
    (c 2).copyFirst 1 = true ∧ (c 0).copyFirst 1 = false ∧ (c 2).copyFirst 0 = false ∧ (c 2).isFull 1 = true ∧
    ((m 2).m.stall = true ∧ (m 2).wants (m 2).m.want 1 = true ∧ (m 0).wants (m 0).m.want 1 = false) ∧
    copyReady (c 2) r = true ∧ (1 ∈ r.tiles.map (fun p => p.1)) ∧
    ({ run := true, first := some [1] } : MatrixSt).first = some [1] := by decide +kernel

/-- A tile's content, and a pending write of the plain kind. -/
theorem witness_tile_moves :
    (List.replicate 32768 (0 : Byte)).length = 32768 ∧ ({} : CoreSt).pending = [] ∧
    (⟨[⟨4096, 1, 0xFF⟩], 1, false, []⟩ : PendingWrite).early = false :=
  ⟨List.length_replicate, rfl, rfl⟩

/-- A word above level 0 whose staging finds its tile registers free, and a versioned
page that a T.SIG of level 2 names. -/
theorem witness_tile_waits :
    let j : TileJob := { job (tword 1 1 (2 ^ 32 + 2 * 2 ^ 48)) true with unit := ⟨1, 0⟩, recs := [(0, one32 1 0), (1, one32 1 64)] }
    let s := held j
    let x : TileJob := { job (tword 1 0) true with unit := ⟨0, 0⟩, id := 9 }
    ((tileCtx s j).leaves.all (fun leaf => (List.range 8).all (fun i =>
      (s.core leaf.core).unitReady (.write false) (32 + i))) = true ∧ j.unit.level ≤ 1 ∧ (tileCtx s j).far s = false) ∧
    x.tw.level = 0 ∧ j.tw.level ≠ 0 ∧
    (match agentXlat ⟨0, 0, 0, 0, false⟩ true 0x100 (versioned id) with
      | (_, .ok x) => (match x.phys with | .hbm l => l.ver.isSome | _ => false)
      | (_, .error _) => false) = true := by decide +kernel

/-- Requests whose links carry traffic and whose links do not; a pseudo-channel in self-refresh with a request; a cell
outside the versioned pages, a block's first slot and its second, with the slot that is committed. -/
theorem witness_channels :
    let w : PcWaiting := ⟨⟨1, .other, 0, .read 32, none, 512, 0, 0⟩, 0⟩
    let s (st : LinkState) : State :=
      { State.reset with pkg := { State.reset.pkg with links := (List.range 62).map (fun i => (i, { state := st })) } }
    let p : PcSt := { queue := [w], selfRef := true }
    let md : Meta := ⟨0, 5, 0, false, false, 0⟩
    let t (st : TagState) := versioned (fun m => { (m.putMeta 256 md) with master := [(5, st)], bdies := [(m.stackOf 256, { mirror := [(5, ⟨st, 0⟩)] })] })
    reaches (s .up) 0 w = true ∧ reaches (s .training) 0 w = false ∧ w.req.num = 0 ∧ 512 ≤ w.req.core ∧
    (p.selfRef = true ∧ p.queue ≠ []) ∧
    (versionedCell [(0, 2 ^ 30)] 256 = some (256, 0) ∧ versionedCell [(0, 2 ^ 30)] (2 ^ 30 + 256) = some (256, 1) ∧
      versionedCell [(0, 2 ^ 30)] (2 ^ 31) = none) ∧
    ((0 : Nat) ≠ committedSlot (t .active).mem ((t .active).mem.stackOf 256) ((t .active).mem.metaAt 256) ∧
      0 = committedSlot (t .committed).mem ((t .committed).mem.stackOf 256) ((t .committed).mem.metaAt 256)) ∧
    ({ md with rsv := 1 } : Meta).rsv ≠ 0 := by decide +kernel

/-- A tag handed to a TXBEGIN that waits and one to a stream that does not; a write that may hand over its tag, and one of
a launch for whose groups no identifier is left. -/
theorem witness_tag_handing :
    let x (st : Option Stall) : CoreSt := { a := { running [] with stall := st } }
    let s (st : Option Stall) : State := (box (x st)).withMem { (box (x st)).mem with given := [(0, 5)], master := [(5, .active)] }
    let w (u : TagUser) (st : TagState) : StatusWrite := ⟨5, st, [], u⟩
    (∀ p ∈ (s (some .txn)).mem.given, beginWaits (s (some .txn)) p.1 = true) ∧
    ((0, 5) ∈ (s none).mem.given ∧ beginWaits (s none) 0 = false ∧ sget .free (s none).mem.master 5 = .active) ∧
    mayHand (s none) (w (.core 0) .active) = true ∧ mayHand (s none) (w .nobody .aborted) = true ∧
    (let ids := (List.range 3).map (fun i => (i, ({ live := true } : GidSt)))
     let t : State := { State.reset with fab := { State.reset.fab with gids := ids } }
     gidsLeft t = 16381 ∧ gidsLeft t < 16382 ∧ 1 ≤ gidsLeft t) := by decide +kernel

/-- Reset has no identifier left for a launch that asks for more groups than there are. -/
theorem witness_no_identifiers :
    let ws : List Word := [BitVec.ofNat 64 1, BitVec.ofNat 64 0x18] ++ List.replicate 14 (BitVec.ofNat 64 (2 ^ 64 - 1))
    let gone : State := { State.reset with fab := { State.reset.fab with gids := [(0, { live := true })] } }
    gidsLeft gone = 16383 ∧ idsFor gone false ws = false ∧ idsFor State.reset false [BitVec.ofNat 64 1] = true := by
  decide +kernel

/-- A node with inputs aimed at it, an attempt that has passed it, and a decision that meets one already taken. -/
theorem witness_nodes :
    let nd : NodeSt := { en := true, expect := 2, aimed := [(1, false, 0)], passed := [(3, 0, 9)] }
    let a : Attempt := ⟨3, 0, 0, 4, .settling, 5, 5000, 0, 0, 0, none, false, false⟩
    (3, 0, 9) ∈ nd.passed ∧ (3, 0, 10) ∉ nd.passed ∧ (1, false, 0) ∈ nd.aimed ∧ a.state = .settling ∧ a.tag ≠ 0 := by decide

/-- Rings that carry, and rings that do not, of a collective that needs them. -/
theorem witness_rings :
    let e : NbEntry := ⟨7, 0, 1, 0, 64, 0, 0, 0, 0, 0⟩
    let c : CollSt := ⟨1, 1, 7, 0, 0, 1, 0, false, 0, 0, 0, 0, 0, 0, true, 0, 0, []⟩
    let s (st : LinkState) : State := { State.reset with
      fab := { State.reset.fab with ncm1 := 1, members := 3 }, pkg := { State.reset.pkg with
        links := (List.range 32).map (fun i => (26 + i, { state := st })) } }
    ((∀ j, j < 4 → ringUp (s .up) 0 j = true) ∧ ringsDown (s .up) (endpoint (s .up) 0 c e) [] = false) ∧
    (c.kind = 0 ∧ 0 < (s .down).fab.ncm1 ∧ ringUp (s .down) 0 0 = false ∧ ringUp (s .down) 0 1 = false ∧
      ringsDown (s .down) (endpoint (s .down) 0 c e) [] = true) := by decide +kernel

/-- SVNSET's values, PREEMPT of a chain whose packet may be saved, IRTSET of a region that a buffer uses; the register
writes' state; a 64-byte read at each side of the last region. -/
theorem witness_mailbox :
    let b : BindRec := ⟨1, false, true, 0, 1, [0], 2 ^ 22⟩
    let p := packet []
    let s : State :=
      let u := ready [p]
      { u with pkg := { u.pkg with svn := 2, fwSvn := 5 }, host := { u.host with mbArg := [(0, 3)] },
               sched := { u.sched with slots := [(0, { packet := some 4, state := .busy, bind := some b })] },
               perg := { u.perg with nbt := [⟨7, 0, 1, 2 ^ 33, 1, 0, 0, 0, 0, 0⟩] } }
    (s.pkg.svn < 3 ∧ 3 ≤ s.pkg.fwSvn ∧ 2 ≤ s.pkg.svn ∧ s.pkg.fwSvn < 6) ∧
    (s.sched.packets.filter (fun p => p.chain == 0 && !p.share) = [p] ∧ s.packet? p.id = some p ∧ p.dtid = none ∧
      pkLevel p.head.words ≠ 5 ∧ (s.slot p.slot).bind = some b ∧ b.save = true ∧ (s.slot p.slot).held = none) ∧
    (∃ e ∈ s.perg.nbt, e.base / 2 ^ 33 ≤ 1 ∧ 1 ≤ (e.base + e.bytes - 1) / 2 ^ 33) ∧
    s.mem.poisoned 0 64 = false ∧ (s.mem.setPoison 0 true).poisoned 0 64 = true ∧ s.fab.held = [] ∧ s.fab.late = [] := by
  decide +kernel

/-- Escalated heads, the first of a chain and one behind a packet that came back. -/
theorem witness_escalations :
    let h (e : Option Bool) (o : Bool) : Head := { headOf [] with esc := e, offered := o }
    let ch : ChainSt := { en := true, state := .active, hds := [h none false, h (some true) true] }
    let s : State :=
      let u := ready []
      { u with host := { u.host with chains := [(0, ch)] }, sched := { u.sched with esc := [(0, true)] } }
    s.sched.esc.any (fun p => p.1 == 0) = true ∧ (s.chain 0).hds = [h none false] ++ h (some true) true :: [] ∧
    (∀ g ∈ [h none false], g.esc = none ∨ g.offered = false) ∧ (h (some true) true).esc.isSome = true ∧
    (h (some true) true).offered = true ∧ (h (some true) true).saved = none := by decide

/-- Shares in wait that a slot takes, and the identifiers a T.KERN's groups need. -/
theorem witness_shares :
    let ws : List Word := [BitVec.ofNat 64 (1 + 5 * 16 + 128), BitVec.ofNat 64 0x10, 0, 0, 0]
    let sh : Share := ⟨1, 2, ws, 0, 0, 3, 0, 5000⟩
    let b : BindRec := ⟨5, true, false, 0, 1, [0], 0⟩
    let s : State :=
      let u := ready []
      { u with sched := { u.sched with shares := [sh], slots := [(0, { bind := some b, state := .free })] } }
    pkTxn ws = true ∧ candidateIds s 4096 = true ∧ s.sched.shares = sh :: [] ∧ sh.root ≠ s.self ∧
    (∀ p ∈ s.sched.packets, p.id < s.nextId + 1) := by decide +kernel

/-- A child word that may enter its executor's queue, and ones that may not: the queue is full, it has entered; one that may
start, and ones that may not: not entered, behind a child word that entered earlier, with a word in progress there. -/
theorem witness_child_words :
    let k : TileJob := { job (tword 1 2 (2 ^ 32 + 2 * 2 ^ 48)) true with
      unit := ⟨2, 0⟩, begun := 5, recs := [(0, one32 1 0), (3, one32 1 64)] }
    let y (n : Nat) : TileJob := { job (tword 1 1) with unit := ⟨1, 3⟩, id := 100 + n }
    let s (l : List TileJob) : State := { held k with tiles := { (held k).tiles with jobs := k :: l } }
    let kids := (tileCtx (s []) k).newKids
    let kid (n : Option Nat) : Kid := ⟨⟨1, 3⟩, n, none⟩
    let at' (n : Nat) : Kid := kid (some n)
    kids = [kid none] ∧ k.issuedTo ⟨1, 3⟩ = some 5 ∧
    mayEnter (s []) k (kid none) = true ∧ mayEnter (s ((List.range 16).map y)) k (kid none) = false ∧
    mayEnter (s []) k (at' 6) = false ∧
    mayBegin (s []) k (at' 6) = true ∧ mayBegin (s []) k (kid none) = false ∧
    mayBegin (s [{ y 0 with kids := [at' 5] }]) k (at' 6) = false ∧ mayBegin (s [{ y 0 with started := true }]) k (at' 6) = false ∧
    (tileCtx (s []) k).ready (s []) = [] ∧ ((moveKids 1 ((s []).modJob 1 (fun j => { j with kids := kids }))).job? 1).map
      (fun j => j.kids.map (fun k => k.begun.isSome)) = some [true] := by decide +kernel

/-- A root whose members all have reported and whose second pass remains, and one with members still to report. -/
theorem witness_second_pass :
    let j : TileJob := { job (tword 5 5 (2 ^ 32 + 2 * 2 ^ 48)) true with
      unit := ⟨4, 0⟩, children := [1], executed := true, recs := [(0, one32 1 0), (1, one32 1 64)] }
    j.children.filter (fun i => i != 1) = [] ∧ j.executed = true ∧ j.phase = 0 ∧ j.member = false ∧ (1 ∈ j.children) := by
  decide +kernel

/-- A tagged request in time and one too old, at a core that holds its group, with the tag it waits for and without. -/
theorem witness_tagged_requests :
    let q (t : Nat) : RemoteReq := ⟨5, 1, .ldf false, 2 ^ 55 + 2 ^ 44 + 7 * 2 ^ 30 + 8, 8, [], false, t⟩
    let s (tag : Bool) (t : Nat) : State :=
      let b := box { tags := if tag then [(1, true)] else [] }
      { b with fab := { b.fab with tagged := [q t], dtime := 100001, members := 33, ncm1 := 5,
                                   gids := [(7, { live := true, used := true, inc := 1, cores := [0] })] },
               input := { flag := true, dev := 5, id := 1 } }
    (s true 1).fab.tagged.find? (fun r => r.src == 5 && r.id == 1) = some (q 1) ∧
    ((q 0).time + (s true 0).fab.tmo * 1000 < (s true 0).now ∧ ¬ (q 1).time + (s true 1).fab.tmo * 1000 < (s true 1).now) ∧
    spadCore (s true 1) (q 1).pa = some 0 ∧ spadCore (box {}) (q 1).pa = none ∧
    ((homeSpad 0 8 (q 1) (s true 1)).2.isSome = true ∧ (homeSpad 0 8 (q 1) (s false 1)).2 = none) := by decide +kernel

/-- Words that are fetched with their extension and words that are not; turns of the agenda: a stream's, and a tile word's
whose slot is halted. -/
theorem witness_fetches :
    (vectorPair 0xDC0C0411 = true ∧ vectorPair 0xC3080410 = false ∧ vectorPair 0xB8000140 = false ∧ 1 < 2 ^ 32 ∧
      (decode .x (leBytes 4 0xDC0C0411 ++ leBytes 4 1)).isOk = true) ∧
    (let b := held (job (tword 1 0) true)
     let s : State := { b with agenda := [.tile 1 []], sched := { b.sched with slots := [(0, { halted := true })] } }
     s.job? 1 = some (job (tword 1 0) true) ∧ (s.slot (job (tword 1 0) true).slot).halted = true) ∧
    (let s : State := { onX [] with agenda := [.stream 0 .x] }
     s.agenda = .stream 0 .x :: [] ∧ issuing s 0 .x = true) := by decide +kernel

/-- A LOOP with count 0 of the X-stream: its end word a vector word with an extension, an extension, a word that has not
come from its remote home, and an end word that an active level shares (R367). -/
theorem witness_loop_skips :
    let l : LoopLevel := ⟨4, 0xFFFFFFFFFFE00008, 1, 2, 0, 0, 0, 2, false, false⟩
    let s (pc : Word) (ls : List LoopLevel) : State :=
      let ws := [0, 0, 0xDC0C0411, 0xDC0C0411]
      let b := mapped [] { spad := (ws.flatMap (leBytes 4)).zipIdx.map (fun p => (p.2, p.1)) } .x
      b.modCore 0 (fun c => { c with x := { c.x with pc := pc, loops := ls } })
    let win : Word := 0xFFFFFFFFFFE00000
    (pairAtEnd 0 win.toNat 2 1 false (s win [])).2 = some true ∧ (pairAtEnd 0 win.toNat 3 1 false (s win [])).2 = some false ∧
    (pairAtEnd 0 0x20000 3 1 false (s 0x20000 [])).2 = none ∧ (s win [l]).strm.straight = true ∧
    (s win [l]).strm.active = [l] ∧ (s win [l]).pc + BitVec.ofNat 64 (4 * 2) = l.stop ∧ (s win [l]).rd 1 = 0 ∧
    (∃ w, fetchWord 0 .x win.toNat 1 (s win []) = (s win [], .word w)) ∧ vectorPair 0xDC0C0411 = true := by
  refine ⟨?_, ?_, ?_, ?_, ?_, ?_, ?_, ⟨_, rfl⟩, ?_⟩ <;> decide +kernel

/-- Addresses of a record, a packet and a tile word that end beyond the address space, fault, or are misaligned outside the
window; a page of each home. -/
theorem witness_homes :
    let s := mapped []
    let ok (va n : Nat) : Bool := (findTarget 0 va n false s).2.isOk
    let home (va : Nat) : Option Phys := (coreXlat 0 va true s).2.toOption.map (fun x => x.phys)
    (inWindow 0xFFFFFFFFFFFFFFF0 = true ∧ 2 ^ 64 < 0xFFFFFFFFFFFFFFF0 + 32 ∧ ok 0xFFFFFFFFFFFFFFF0 32 = false) ∧
    (ok 0x50000 32 = false ∧ ok 0x10008 8 = true ∧ 0x10008 % 128 ≠ 0 ∧ ok 0x10010 32 = true ∧ 0x10010 % 32 ≠ 0) ∧
    home 0x10040 = some (.hbm ⟨0x10040, none⟩) ∧ home 0x20040 = some (.domain 0x40000000010040) ∧
    home 0x30000 = some (.spad 0x80000000200000) ∧ home 0x40000 = some (.host 0) ∧ home 0x50000 = none ∧
    inWindow 0x30000 = false := by decide +kernel

/-- Step words whose first access is made; whose second tile is not ready, is ready, and is one that a copy command comes
before; a nest stopped with a tile's bit to give back. -/
theorem witness_second_accesses :
    let copy : CopyRun := ⟨.copy 1 2 1 false false 0 true ⟨0, 0, false⟩, [one32 1 0], [one32 2 1]⟩
    let w : Weights := ⟨1, false, false, 0, 0, []⟩
    let c (full : BitVec 40) (f : Option (List Byte)) (st : Bool) : CoreSt :=
      { m := { run := true, mp := true, weights := some w, first := f, taken := some 0, cfg := { cbase := 1, dbase := 1 } }, full := full,
        copyRun := some copy, copyStall := st }
    ((c 1 none false).isFull 0 = true ∧ (c 1 none false).copyFirst 0 = false ∧ (c 1 none false).isFull 1 = false ∧
      (c 3 none true).isFull 1 = true ∧ (c 3 none true).copyFirst 1 = true ∧ ((c 3 none true).setFull 0 false).copyFirst 1 = true) ∧
    ((c 3 (some []) false).m.first = some [] ∧ (c 3 (some []) false).isFull 1 = true ∧ (c 3 (some []) false).copyFirst 1 = false ∧
      (c 1 (some []) false).isFull 1 = false ∧ (c 3 (some []) false).tileBad 1 0 16384 = false ∧
      ({ c 3 (some []) false with tilePois := [(4096, true)] } : CoreSt).tileBad 1 0 16384 = true) ∧
    ((c 3 none false).m.taken = some 0 ∧ ({} : CoreSt).m.taken = none) ∧
    ((c 3 none false).m.act = 0 ∧ (c 3 none false).m.acc = 1 ∧ (c 3 none false).m.dadr = 1) := by decide +kernel

/-- A Pergola link at each end of the range with chunks in flight on it and on another. -/
theorem witness_lost_rings :
    let b := State.reset
    let up (i : Nat) : State :=
      { b with pkg := { b.pkg with links := [(i, { state := .up })] }, input := { link := i, nats := [0] },
               perg := { b.perg with planes := [(0, { sent := [((i - 26) % 4, 0, 0, []), (3, 0, 0, [])] })] } }
    ((up 26).link 26).state = .up ∧ ((up 57).link 57).state = .up ∧ (26 ≤ 26 ∧ 57 < 58) ∧ (up 26).fab.held = [] ∧
    ((up 26).plane 0).sent.zipIdx.filter (fun c => decide (c.2 ∈ (up 26).input.nats) && c.1.1 == 0) = [((0, 0, 0, []), 0)] := by
  decide +kernel

/-- A device whose slot runs a group as it overheats. -/
theorem witness_hot_slots :
    let g : Group := ⟨1, 4, [0], 1, 0, 1, .running, false, false⟩
    let u := ready [packet [] [1]]
    let s : State := { u with sched := { u.sched with groups := [g] } }
    (s.slot 0).state = .busy ∧ (s.slot 0).packet = some 4 ∧ s.packet? 4 = some (packet [] [1]) ∧ 1 ∈ (packet [] [1]).groups ∧
    s.group? 1 = some g ∧ 0 ∈ g.cores ∧ s.dbg.thermal = false := by decide +kernel

/-- A node that an early decision has passed and one that it has not; a held request that finds no route; one that writes
poison. -/
theorem witness_no_way :
    let nd (l : List (Nat × Nat × Nat)) : NodeSt := { en := true, expect := 2, passed := l }
    let q : RemoteReq := ⟨0, 1, .store true, 0x41000000010000, 8, [], true, 0⟩
    let f : Flight := { flight with req := q }
    let b := State.reset
    let s : State := { b with fab := { b.fab with flights := [f], ncm1 := 1, members := 3 } }
    ((3, 1, 0) ∈ (nd [(3, 1, 0)]).passed ∧ (3, 1, 0) ∉ (nd [(3, 1, 9)]).passed ∧ (nd []).entries = []) ∧
    (s.fab.flights.find? (fun g => g.req.id == q.id) = some f ∧ (s.core f.core).halted = false ∧ requestRoute s f.core q = none) ∧
    ({ q with kind := .poison } : RemoteReq).kind = .poison ∧ b.pkg.stage ≠ 7 := by decide +kernel

/-- A collective whose name a die's mirror still holds ACTIVE though the master does not; a turn that waits. -/
theorem witness_mirrors :
    let e : NbEntry := ⟨7, 0, 1, 0, 64, 0, 0, 0, 0, 5⟩
    let c : CollSt := ⟨1, 1, 7, 0, 0, 1, 0, false, 0, 0, 0, 0, 0, 0, false, 0, 0, []⟩
    let b := ready []
    let s : State := { b with perg := { b.perg with nbt := [e], colls := [c] }, input := { id := 1 },
                              mem := { b.mem with bdies := [(6, { mirror := [(5, ⟨.active, 0⟩)] })] } }
    (e.tag ≠ 0 ∧ e.tag ≠ c.tag ∧ sget .free s.mem.master e.tag ≠ .active ∧ s.mem.status 6 e.tag = .active) ∧
    s.coll? 1 = some c ∧ s.nbEntry 7 = some e ∧ c.issued = false ∧ c.open ≠ [] ∧
    s.focus.waits = false ∧ ({ s.focus with waits := true } : Focus).waits = true := by decide +kernel

/-- A level-5 launch that runs in a slot here, as its root's own packet and as a share, and a share that waits; slots that
are halted and cores asked to pre-empt between words and within one. -/
theorem witness_launches :
    let ws : List Word := [BitVec.ofNat 64 (5 * 16)]
    let p := packet ws
    let q : Packet := { packet ws with id := 5, slot := 1, share := true, home := 1 }
    let s : State := { ready [p, q] with sched := { (ready [p, q]).sched with
      shares := [⟨1, 0, ws, 0, 0, 0, 0, 0⟩], slots := [(0, { packet := some 4, state := .busy }), (1, { packet := some 5, state := .busy })] } }
    (p.ofLaunch s.self 0 0 = true ∧ q.ofLaunch s.self 0 0 = false ∧ q.ofLaunch s.self 1 0 = true ∧ pkLevel p.head.words = 5) ∧
    ((s.slot 0).packet.bind s.packet? = some p ∧ (s.slot 1).packet.bind s.packet? = some q) ∧
    (s.sched.shares.any (shareOf 1 0) = true ∧ s.sched.shares.any (shareOf 0 0) = false) ∧
    (let y (w : Option RemoteWait) (f : Option Nat) : StreamSt := { run := .running, preempt := true, wait := w, fetch := { id := f } }
     (y none none).wait = none ∧ (y none none).fetch.id = none ∧ (y (some ⟨1, none⟩) none).wait ≠ none ∧ (y none (some 1)).fetch.id ≠ none) ∧
    ((1, 0) ∈ ({ far := [(1, 0)] } : DbgSt).far ∧ (1, 0) ∉ ({} : DbgSt).far) := by decide +kernel

/-- A group whose stores have left the device and one whose have not; heads in the Lodge's queue, the oldest first; a packet
whose word may run, for a slot whose group IDs are free. -/
theorem witness_queue_entries :
    let h (n : Nat) (e : Option Bool) : Head := { headOf [] n with esc := e, offered := e.isSome }
    let ch : ChainSt := { en := true, state := .active, hds := [h 3 (some true), h 2 none, h 1 (some false)] }
    let asked := (ch.hds.filter (fun h => h.esc.isSome && h.offered)).reverse
    (asked[0]? = some (h 1 (some false)) ∧ asked[1]? = some (h 3 (some true)) ∧ asked[2]? = none ∧
      ch.hds = [h 3 (some true), h 2 none] ++ h 1 (some false) :: [] ∧ (∀ g ∈ [h 3 (some true), h 2 none], g.seq ≠ 1)) ∧
    (let one : ChainSt := { ch with hds := [h 1 (some true)] }
     (one.hds.filter (fun h => h.esc.isSome && h.offered)).reverse[0]? = some (h 1 (some true)) ∧ (h 1 (some true)).saved = none) ∧
    (let s (l : List Flight) : State := { ready [] with fab := { (ready []).fab with flights := l } }
     ((s [flight]).fab.flights.all (fun f => match f.user with | .stream _ _ => true | _ => false)) = false ∧
     ((s [{ flight with user := .stream 0 .a }]).fab.flights.all (fun f => match f.user with | .stream _ _ => true | _ => false)) = true ∧
     (∀ c ∈ [0], ((s []).core c).l1 = [] ∧ l2Of (s []) c = [])) ∧
    (let ws : List Word := [BitVec.ofNat 64 (1 + 16), BitVec.ofNat 64 (0x18 + 2 ^ 8), 0, 0, 0, 0, 0, 0, 0, 0, 0, BitVec.ofNat 64 (2 ^ 32 + 2 ^ 48), 0x10000]
     let u := tabled (ready [])
     let hl : State := { u with nextId := u.nextId + 1 }
     let latched := latch 0 (packetOf 11 0 0 (headOf ws) hl) hl
     let v := (wordCause 11 latched).1
     (wordCause 11 latched).2 = none ∧ v.sched = latched.sched ∧ pkKern ws = true ∧ pkGlevel ws = 1 ∧ pkGcount ws ≤ gidsLeft v ∧
       v.fab.loop = [] ∧ candidateIds { u with host := { u.host with chains := [(0, { hds := [headOf ws] })] } } 0 = true) := by decide +kernel

/-- A word whose operands lie in the window: its reads succeed and change nothing; granules of a reduction all there, and one
missing. -/
theorem witness_tile_reads :
    let j : TileJob := { job (tword 8 1 (2 ^ 32 + 2 * 2 ^ 48 + 3 * 2 ^ 64)) true with
      unit := ⟨1, 0⟩, recs := [(0, one32 1 0), (3, one32 1 64), (6, one32 1 128)] }
    let s := held j
    let c := tileCtx s j
    let leaf : Leaf := ⟨0, 0, c.split.whole⟩
    let clean (r : State × Except ElemErr Nat) : Prop := r.2.isOk = true ∧ r.1.mem = s.mem ∧ r.1.cores = s.cores ∧ r.1.fab = s.fab
    clean (c.get leaf 1 0 0 s) ∧ clean (c.getPl leaf 2 0 0 0 s) ∧ clean (c.get leaf 3 0 0 s) ∧
    (c.lay 4).isSome = false ∧ (c.shape 1).getD 0 0 = 1 ∧ (c.shape 2).getD 0 0 = 1 ∧ c.count 1 = 1 ∧ c.reduction.n = 1 ∧
    (let vals : List Partial := [(0, 0, 5), (0, 1, 6), (1, 0, 7)]
     (∀ k, k < 2 → (vals.find? (fun p => p.1 == 0 && p.2.1 == k)).isSome = true) ∧ (∀ p ∈ vals, p.1 = 0 → p.2.1 < 2) ∧
       (∀ p ∈ vals, ¬ (p.1 = 1 ∧ p.2.1 = 1))) := by
  decide +kernel

/-- A word with a BAR that its executor no longer translates, and one in the window, at completion; a word held back by a
child word that entered before it; a packet's word behind one of its chain that waits; a member's word with a key. -/
theorem witness_tile_turns :
    let e (va : Nat) : TileJob := { job (barWord 3 1 va) true with executed := true, unit := ⟨1, 0⟩ }
    let fails (va : Nat) : Option MemErr := err (arriveBar (e va) (held (e va)))
    let j : TileJob := { job (tword 1 1 (2 ^ 13 + 2 ^ 32 + 2 * 2 ^ 48)) with unit := ⟨1, 0⟩, entry := 6 }
    let p (n : Nat) : TileJob := { job (tword 1 2) true with
      unit := ⟨2, 0⟩, id := 9, kids := [⟨⟨1, 0⟩, some n, none⟩] }
    let s (n : Nat) : State := { held j with tiles := { (held j).tiles with jobs := [j, p n] } }
    let w (n : Nat) : TileJob := { job (tword 1 1) with unit := ⟨1, 0⟩, id := n, packet := some n, accepted := false }
    let q : State := { held (w 1) with tiles := { (held (w 1)).tiles with jobs := [w 1, w 2] } }
    (dataOp (e 0x10000).op = true ∧ fails 0x50000 = some .xlate ∧ fails 0xFFFFFFFFFFE00000 = some .barspace) ∧
    (mayStart (s 7) j = true ∧ mayStart (s 5) j = false) ∧
    (packetEnters (w 1) q = true ∧ packetEnters (w 2) q = false) ∧
    (let m : TileJob := { job (tword 0x0C 5) with unit := ⟨4, 0⟩, member := true, key := 3 }
     drawsKey m.op m.tw = true ∧ m.member = true) := by decide +kernel

/-- A root whose word stops with a member that has work and one that has none left; a wait of a launch's packet that ends
with it. -/
theorem witness_tile_stops :
    let f : TileFault := ⟨0x08, 0, 4, 2 ^ 48, 0, 0, 1, 9⟩
    let j : TileJob := { job (tword 5 5 (2 ^ 14 + 2 ^ 32 + 2 * 2 ^ 48)) true with
      unit := ⟨4, 0⟩, children := [1], gone := [2], fault := some f, recs := [(0, one32 1 0), (3, one32 1 64)] }
    let s : State := { held j with fab := { (held j).fab with members := 7, ncm1 := 2 }, input := { id := 1, dev := 1, n := 1 } }
    let w : TileJob := { job (tword 0x1A 4) true with unit := ⟨4, 0⟩, owner := 4 }
    (j.tw.stop = true ∧ j.stop = false ∧ j.phase = 0 ∧ 1 ∈ j.children ∧ s.input.n = 1) ∧
    (w.member = false ∧ w.owner = (packet []).id ∧ w.op = 0x1A ∧ w.executed = false) := by decide +kernel

end Sys2Proof.Tests
end

section
/-! SUPPORT. The CSR words: what each CSR reads after one of them is written, and what the write leaves unchanged. -/

namespace Sys2Proof.Machine

/-! ### The core in execution changed -/

@[simp] theorem State.fab_modCur (s : State) (f : CoreSt → CoreSt) : (s.modCur f).fab = s.fab := rfl

@[simp] theorem State.strm_modCur_kept (s : State) (f : CoreSt → CoreSt) (ha : (f s.cur).a = s.cur.a)
    (hx : (f s.cur).x = s.cur.x) : (s.modCur f).strm = s.strm := by
  simp only [State.strm, State.cur_modCur, State.focus_modCur]
  cases s.focus.kind <;> simp [CoreSt.stream, ha, hx]

/-! ### The stream in execution changed -/

@[simp] theorem State.cur_modStrm (s : State) (f : StreamSt → StreamSt) :
    (s.modStrm f).cur = s.cur.setStream s.focus.kind (f s.strm) := by
  simp [State.modStrm, CoreSt.modStream, State.strm]

@[simp] theorem State.focus_modStrm (s : State) (f : StreamSt → StreamSt) : (s.modStrm f).focus = s.focus := rfl

@[simp] theorem State.fab_modStrm (s : State) (f : StreamSt → StreamSt) : (s.modStrm f).fab = s.fab := rfl

@[simp] theorem CoreSt.coreCfg_setStream (c : CoreSt) (k : StreamKind) (x : StreamSt) :
    (c.setStream k x).coreCfg = c.coreCfg := by cases k <;> rfl

@[simp] theorem CoreSt.place_setStream (c : CoreSt) (k : StreamKind) (x : StreamSt) :
    (c.setStream k x).place = c.place := by cases k <;> rfl

@[simp] theorem CoreSt.txst_setStream (c : CoreSt) (k : StreamKind) (x : StreamSt) :
    (c.setStream k x).txst = c.txst := by cases k <;> rfl

@[simp] theorem CoreSt.vsh_setStream (c : CoreSt) (k : StreamKind) (x : StreamSt) :
    (c.setStream k x).vsh = c.vsh := by cases k <;> rfl

@[simp] theorem CoreSt.vxf_setStream (c : CoreSt) (k : StreamKind) (x : StreamSt) :
    (c.setStream k x).vxf = c.vxf := by cases k <;> rfl

@[simp] theorem CoreSt.sxf_setStream (c : CoreSt) (k : StreamKind) (x : StreamSt) :
    (c.setStream k x).sxf = c.sxf := by cases k <;> rfl

@[simp] theorem CoreSt.vpend_setStream (c : CoreSt) (k : StreamKind) (x : StreamSt) :
    (c.setStream k x).vpend = c.vpend := by cases k <;> rfl

@[simp] theorem CoreSt.trapEn_setStream (c : CoreSt) (k : StreamKind) (x : StreamSt) :
    (c.setStream k x).trapEn = c.trapEn := by cases k <;> rfl

@[simp] theorem CoreSt.frec_setStream (c : CoreSt) (k : StreamKind) (x : StreamSt) :
    (c.setStream k x).frec = c.frec := by cases k <;> rfl

/-! ### VXF after its flags are cleared (R298) -/

theorem foldl_flags_or (m : Sparse Flags) (a : Flags) :
    m.foldl (fun f p => f ||| p.2) a = a ||| m.foldl (fun f p => f ||| p.2) 0 := by
  induction m generalizing a with
  | nil => simp
  | cons p m ih => rw [List.foldl_cons, List.foldl_cons, ih, ih (0 ||| p.2)]; simp [BitVec.or_assoc]

/-- The lanes that keep no flag drop out of the list, and add nothing to VXF. -/
theorem CoreSt.vxf_clearLanes (c : CoreSt) (f : Flags) : (c.clearLanes f).vxf = c.vxf &&& ~~~f := by
  simp only [CoreSt.vxf, CoreSt.clearLanes]
  induction c.lanes with
  | nil => simp
  | cons p m ih =>
    have lane : (p :: m).foldl (fun f p => f ||| p.2) 0 &&& ~~~f =
        (p.2 &&& ~~~f) ||| (m.foldl (fun f p => f ||| p.2) 0 &&& ~~~f) := by
      rw [List.foldl_cons, foldl_flags_or]; ext i; simp [Bool.and_or_distrib_right]
    rw [lane, ← ih]
    by_cases h : p.2 &&& ~~~f = 0
    · simp [h]
    · simp only [List.filterMap_cons, h, if_false, List.foldl_cons]
      rw [foldl_flags_or]; simp

theorem setWidth_and_not {w : Nat} (a b : BitVec w) :
    (a &&& ~~~b).setWidth 64 = a.setWidth 64 &&& ~~~(b.setWidth 64) := by
  ext i
  by_cases h : i < w
  · simp [h]
  · simp [BitVec.getLsbD_of_ge _ i (Nat.le_of_not_lt h)]

/-! ### What a CSR reads after each of the writable ones is changed (R344)

Each field shows at its own number; at every other number the two states read the same. -/

theorem csrRead_modCur_vsh (s : State) (v : BitVec 21) (m : Nat) :
    csrRead (s.modCur (fun c => { c with vsh := v })) m = if m = 0x010 then v.setWidth 64 else csrRead s m := by
  unfold csrRead
  split <;> simp_all [CoreSt.vxf]

theorem csrRead_modCur_lanes (s : State) (v : Sparse Flags) (m : Nat) :
    csrRead (s.modCur (fun c => { c with lanes := v })) m =
      if m = 0x011 then (v.foldl (fun f p => f ||| p.2) (0 : Flags)).setWidth 64 else csrRead s m := by
  unfold csrRead
  split <;> simp_all [CoreSt.vxf]

theorem csrRead_modCur_sxf (s : State) (v : Flags) (m : Nat) :
    csrRead (s.modCur (fun c => { c with sxf := v })) m = if m = 0x012 then v.setWidth 64 else csrRead s m := by
  unfold csrRead
  split <;> simp_all [CoreSt.vxf]

theorem csrRead_modCur_vpend (s : State) (v : Bool) (m : Nat) :
    csrRead (s.modCur (fun c => { c with vpend := v })) m =
      if m = 0x013 then (if v then 1 else 0) else csrRead s m := by
  unfold csrRead
  split <;> simp_all [CoreSt.vxf]

theorem csrRead_modCur_trapEn (s : State) (v : Word) (m : Nat) :
    csrRead (s.modCur (fun c => { c with trapEn := v })) m = if m = 0x014 then v else csrRead s m := by
  unfold csrRead
  split <;> simp_all [CoreSt.vxf]

theorem csrRead_modCur_frec (s : State) (v : Word) (m : Nat) :
    csrRead (s.modCur (fun c => { c with frec := v })) m = if m = 0x015 then v else csrRead s m := by
  unfold csrRead
  split <;> simp_all [CoreSt.vxf]

@[simp] theorem trapCause_trapVec (k : StreamKind) (x : StreamSt) (v : Word) :
    trapCause k { x with trapVec := v } = trapCause k x := rfl

@[simp] theorem trapCause_trapPc (k : StreamKind) (x : StreamSt) (v : Word) :
    trapCause k { x with trapPc := v } = trapCause k x := rfl

theorem csrRead_modStrm_trapVec (s : State) (v : Word) (m : Nat) :
    csrRead (s.modStrm (fun x => { x with trapVec := v })) m = if m = 0x020 then v else csrRead s m := by
  unfold csrRead
  split <;> simp_all

theorem csrRead_modStrm_trapPc (s : State) (v : Word) (m : Nat) :
    csrRead (s.modStrm (fun x => { x with trapPc := v })) m = if m = 0x023 then v else csrRead s m := by
  unfold csrRead
  split <;> simp_all

/-- VXF loses the flags that a W1C write has set (R298, R473). -/
theorem csrRead_modCur_clearLanes (s : State) (f : Flags) (m : Nat) :
    csrRead (s.modCur (fun c => c.clearLanes f)) m =
      if m = 0x011 then csrRead s m &&& ~~~(f.setWidth 64) else csrRead s m := by
  refine (csrRead_modCur_lanes s (s.cur.clearLanes f).lanes m).trans ?_
  split
  · subst m
    change ((s.cur.clearLanes f).vxf).setWidth 64 = s.cur.vxf.setWidth 64 &&& ~~~(f.setWidth 64)
    rw [CoreSt.vxf_clearLanes, setWidth_and_not]
  · rfl

/-! ### The RW bits of a CSR (R344, R473) -/

/-- The bits of `mask` from `v`, the others from `old`. -/
def mergeBits (mask old v : Word) : Word := (old &&& ~~~mask) ||| (v &&& mask)

/-- A field at the bottom of its CSR holds all RW bits it takes. -/
theorem setWidth_mergeBits {w : Nat} (old : BitVec w) (v : Word) :
    ((mergeBits ((BitVec.allOnes w).setWidth 64) (old.setWidth 64) v).setWidth w).setWidth 64 =
      mergeBits ((BitVec.allOnes w).setWidth 64) (old.setWidth 64) v := by
  ext i hi
  by_cases h : i < w
  · simp [mergeBits, h, hi]
  · simp [mergeBits, h, BitVec.getLsbD_of_ge old i (Nat.le_of_not_lt h)]

theorem mergeBits_zero (old v : Word) : mergeBits 0 old v = old := by
  change (old &&& BitVec.allOnes 64) ||| (v &&& 0#64) = old
  rw [BitVec.and_allOnes, BitVec.and_zero, BitVec.or_zero]

/-- VPEND, which the state holds as one bit (R344). -/
theorem mergeBits_one (p : Bool) (v : Word) :
    (if (mergeBits 1 (if p then 1 else 0) v).getLsbD 0 then 1 else 0) = mergeBits 1 (if p then 1 else 0) v := by
  have bit : v &&& 1 = if v.getLsbD 0 then 1 else 0 := by
    refine BitVec.and_one_eq_setWidth_ofBool_getLsbD.trans ?_
    cases v.getLsbD 0 <;> rfl
  rw [mergeBits, bit]
  cases p <;> cases v.getLsbD 0 <;> rfl

theorem csrRead_csrSet (n : Nat) (v : Word) (s : State) (m : Nat) :
    csrRead (csrSet n v s) m = if m = n then mergeBits (csrMask n) (csrRead s n) v else csrRead s m := by
  unfold csrSet
  split
  · rw [csrRead_modCur_vsh]; congr 1; exact setWidth_mergeBits s.cur.vsh v
  · rw [csrRead_modCur_sxf]; congr 1; exact setWidth_mergeBits s.cur.sxf v
  · rw [csrRead_modCur_vpend]; congr 1; exact mergeBits_one s.cur.vpend v
  · exact csrRead_modCur_trapEn _ _ m
  · exact csrRead_modCur_frec _ _ m
  · exact csrRead_modStrm_trapVec _ _ m
  · exact csrRead_modStrm_trapPc _ _ m
  · have read_only : csrMask n = 0 := by unfold csrMask; split <;> simp_all
    change csrRead s m = _
    rw [read_only, mergeBits_zero]
    split
    · rw [‹m = n›]
    · rfl

/-! ### What a CSR word leaves unchanged (R473) -/

/-- What a CSR word keeps: the memory, the other cores, and of its stream the registers, PC, predicates and loops. -/
structure CsrFrame (s t : State) : Prop where
  focus : t.focus = s.focus
  mem   : t.mem = s.mem
  regs  : t.strm.regs = s.strm.regs
  pc    : t.strm.pc = s.strm.pc
  preds : t.strm.preds = s.strm.preds
  loops : t.strm.loops = s.strm.loops
  cores : ∀ c, c ≠ s.focus.core → t.core c = s.core c

theorem CsrFrame.refl (s : State) : CsrFrame s s := ⟨rfl, rfl, rfl, rfl, rfl, rfl, fun _ _ => rfl⟩

theorem CsrFrame.trans {s t u : State} (h : CsrFrame s t) (g : CsrFrame t u) : CsrFrame s u where
  focus := g.focus.trans h.focus
  mem := g.mem.trans h.mem
  regs := g.regs.trans h.regs
  pc := g.pc.trans h.pc
  preds := g.preds.trans h.preds
  loops := g.loops.trans h.loops
  cores c hc := (g.cores c (h.focus ▸ hc)).trans (h.cores c hc)

theorem csrFrame_modCur (s : State) (f : CoreSt → CoreSt) (ha : (f s.cur).a = s.cur.a) (hx : (f s.cur).x = s.cur.x) :
    CsrFrame s (s.modCur f) := by
  have h := State.strm_modCur_kept s f ha hx
  exact ⟨rfl, rfl, by rw [h], by rw [h], by rw [h], by rw [h], fun _ hc => State.core_modCore_ne s f hc⟩

theorem csrFrame_modStrm (s : State) (f : StreamSt → StreamSt) (regs : (f s.strm).regs = s.strm.regs)
    (pc : (f s.strm).pc = s.strm.pc) (preds : (f s.strm).preds = s.strm.preds)
    (loops : (f s.strm).loops = s.strm.loops) : CsrFrame s (s.modStrm f) := by
  have h := State.strm_modStrm s f
  exact ⟨rfl, rfl, by rw [h, regs], by rw [h, pc], by rw [h, preds], by rw [h, loops],
    fun _ hc => State.core_modCore_ne s _ hc⟩

theorem csrFrame_csrSet (n : Nat) (v : Word) (s : State) : CsrFrame s (csrSet n v s) := by
  unfold csrSet
  split
  · exact csrFrame_modCur s _ rfl rfl
  · exact csrFrame_modCur s _ rfl rfl
  · exact csrFrame_modCur s _ rfl rfl
  · exact csrFrame_modCur s _ rfl rfl
  · exact csrFrame_modCur s _ rfl rfl
  · exact csrFrame_modStrm s _ rfl rfl rfl rfl
  · exact csrFrame_modStrm s _ rfl rfl rfl rfl
  · exact CsrFrame.refl s

/-! ### The CSR words (R344, R473) -/

/-- The state in which a CSR word on a listed CSR writes its result: the RW and W1C bits have their new values. -/
def csrAfter (n : Nat) (new : Word) (w1c : Flags) (s : State) : State :=
  if n = 0x011 then (csrSet n new s).modCur (fun c => c.clearLanes w1c) else csrSet n new s

theorem csrRead_csrAfter_self (n : Nat) (new : Word) (w1c : Flags) (s : State) :
    csrRead (csrAfter n new w1c s) n = if n = 0x011 then csrRead s n &&& ~~~(w1c.setWidth 64)
      else mergeBits (csrMask n) (csrRead s n) new := by
  unfold csrAfter
  split
  · subst n; rw [csrRead_modCur_clearLanes, if_pos rfl]; rfl
  · rw [csrRead_csrSet, if_pos rfl]

theorem csrRead_csrAfter_ne (n : Nat) (new : Word) (w1c : Flags) (s : State) {m : Nat} (h : m ≠ n) :
    csrRead (csrAfter n new w1c s) m = csrRead s m := by
  unfold csrAfter
  split
  · subst n; rw [csrRead_modCur_clearLanes, if_neg h, csrRead_csrSet, if_neg h]
  · rw [csrRead_csrSet, if_neg h]

theorem csrFrame_csrAfter (n : Nat) (new : Word) (w1c : Flags) (s : State) : CsrFrame s (csrAfter n new w1c s) := by
  unfold csrAfter
  split
  · exact (csrFrame_csrSet n new s).trans (csrFrame_modCur _ _ rfl rfl)
  · exact csrFrame_csrSet n new s

theorem csrWord_listed (i : Instr) (d n : Nat) (new w1c : Word) {s : State} (h : csrListed s.focus.kind n = true) :
    csrWord i d n new w1c s = .next (finish ((csrAfter n new (w1c.setWidth 5) s).wr d (csrRead s n))) := by
  simp only [csrWord, h, if_true]; rfl

theorem csrWord_unlisted (i : Instr) (d n : Nat) (new w1c : Word) {s : State} (h : ¬ csrListed s.focus.kind n = true) :
    csrWord i d n new w1c s = .next (trap 0x01 0 (rawWord i) s) := by
  simp only [csrWord, h]; rfl

theorem csrListed_iff (k : StreamKind) (n : Nat) : csrListed k n = true ↔
    n ≤ 0x00A ∨ n = 0x012 ∨ n = 0x014 ∨ n = 0x015 ∨ (0x020 ≤ n ∧ n ≤ 0x023) ∨
      (k = .x ∧ (n = 0x010 ∨ n = 0x011 ∨ n = 0x013)) := by
  simp [csrListed, or_assoc]

/-- Settles O28: every CSR word is `csrWord` with its own new value and W1C bits. -/
theorem csrWordResults : Obligations.CsrWordResults := by
  unfold Obligations.CsrWordResults
  intro s d a n old x listed word
  have meaning (i : Instr) (new w1c : Word) (h : exec i s = csrWord i d n new w1c s) : word i new (w1c.setWidth 5) := by
    refine ⟨fun no => h.trans (csrWord_unlisted i d n new w1c (mt (csrListed_iff _ n).1 no)), fun yes => ?_⟩
    obtain ⟨-, mem, regs, pc, preds, loops, cores⟩ := csrFrame_csrAfter n new (w1c.setWidth 5) s
    exact ⟨csrAfter n new (w1c.setWidth 5) s, h.trans (csrWord_listed i d n new w1c ((csrListed_iff _ n).2 yes)),
      csrRead_csrAfter_self n new _ s, fun _ => csrRead_csrAfter_ne n new _ s, mem, regs, pc, preds, loops, cores⟩
  exact ⟨meaning _ old 0 (exec_csrr d n s), meaning _ x x (exec_csrw d a n s),
    meaning _ (old ||| x) 0 (exec_csrs d a n s), meaning _ (old &&& ~~~x) 0 (exec_csrc d a n s)⟩

end Sys2Proof.Machine
end

section
/-! SUPPORT. The state that reset leaves: each indexed part reads its default everywhere. -/

namespace Sys2Proof.Machine

/-! ### The parts of the reset state -/

@[simp] theorem reset_core (c : Nat) : State.reset.core c = {} := rfl
@[simp] theorem reset_link (l : Nat) : State.reset.link l = {} := rfl
@[simp] theorem reset_pcSt (pc : Nat) : State.reset.pcSt pc = {} := rfl

/-- Nothing waits at a pseudo-channel, and the links are DOWN: none trains, none has failed (R20). -/
theorem reset_quiet : State.reset.quiet := by
  constructor
  · intro pc; rw [reset_pcSt]
  · intro i _; rw [reset_link]; exact ⟨by decide, by decide⟩

/-- A stream that has never run stands at address 0 with no loop level. -/
theorem StreamSt.aligned_default : ({} : StreamSt).aligned :=
  ⟨rfl, rfl, fun _ h => absurd h List.not_mem_nil⟩

theorem reset_aligned : State.reset.aligned := by
  intro c
  rw [reset_core]
  exact ⟨StreamSt.aligned_default, StreamSt.aligned_default⟩

/-- Each byte reads 0, and no granule is poisoned. -/
theorem reset_memory (a : Nat) : State.reset.mem.byte a = 0 ∧ State.reset.mem.poisoned a 1 = false := ⟨rfl, rfl⟩

/-- A stream at reset is idle, whatever its kind, with register 0 at 0, no loop level and no trap taken (R225). -/
theorem reset_stream (k : StreamKind) :
    let x := ({} : CoreSt).stream k
    x.run = .idle ∧ x.reg 0 = 0 ∧ x.loops = [] ∧ x.inTrap = false := by
  cases k <;> exact ⟨rfl, rfl, rfl, rfl⟩

/-- Every tile is empty (R233). -/
theorem reset_isFull (t : Nat) : ({} : CoreSt).isFull t = false := BitVec.getLsbD_zero

/-- Settles O59: every part of the state of reset is its default. -/
theorem resetState : Obligations.ResetState := by
  unfold Obligations.ResetState
  refine ⟨rfl, rfl, rfl, rfl, fun _ => ⟨rfl, rfl⟩, rfl, rfl, rfl, rfl, rfl, rfl, rfl, rfl, rfl,
    fun _ => ⟨rfl, rfl, rfl, rfl⟩, fun _ => ⟨rfl, rfl⟩, rfl, fun _ => rfl, fun _ => rfl, reset_memory, rfl, rfl, rfl,
    rfl, rfl, reset_quiet, ?core, rfl, reset_aligned⟩
  intro c
  rw [reset_core]
  exact ⟨reset_stream, rfl, rfl, rfl, by decide, rfl, reset_isFull, fun _ => rfl, fun _ => ⟨rfl, rfl⟩, fun _ => rfl,
    rfl, rfl⟩

end Sys2Proof.Machine
end

section
/-! SUPPORT. The messages and links of the device: what a change of a link's entry leaves unchanged, the width and rate that
training takes, and the end of training, loss of lock and RETRAIN (R20 to R25, R48). -/

namespace Sys2Proof.Machine

theorem when_of {c : Bool} (f : State → State) (s : State) (h : c = true) : when c f s = .next (f s) := by
  rw [when, if_pos h]

@[simp] theorem LinkState.carries_iff (l : LinkState) : l.carries = true ↔ l = .up ∨ l = .degraded := by
  cases l <;> decide

@[simp] theorem internal_iff (i : Nat) : internal i = true ↔ i < 12 ∨ 58 ≤ i := decide_eq_true_iff

@[simp] theorem raiseInt_intstat (i : Fin 4) (s : State) : (raiseInt i s).host.intstat.getLsbD i = true := by
  fin_cases i <;> simp [raiseInt]

/-! ### A link's entry -/

@[simp] theorem State.link_modLink (s : State) (i : Nat) (f : LinkSt → LinkSt) : (s.modLink i f).link i = f (s.link i) :=
  sget_smod_self ..

theorem State.link_modLink_ne (s : State) {i k : Nat} (f : LinkSt → LinkSt) (h : k ≠ i) :
    (s.modLink i f).link k = s.link k := sget_smod_ne _ _ _ h

theorem State.link_of_pkg {s t : State} (h : t.pkg = s.pkg) (i : Nat) : t.link i = s.link i := by
  rw [State.link, State.link, h]

/-! ### What leaves or waits on the fabric keeps the package -/

@[simp] theorem raiseTag_pkg (t : Nat) (f : BitVec 16) (s : State) : (raiseTag t f s).pkg = s.pkg := by
  unfold raiseTag
  split <;> rfl

@[simp] theorem completeTl_pkg (c n num tag : Nat) (err : Option Rec) (s : State) :
    (completeTl c n num tag err s).pkg = s.pkg := by
  cases err with
  | none => rfl
  | some r => exact raiseTag_pkg ..

@[simp] theorem passTl2_pkg (c num tag : Nat) (err : Option RemoteErr) (va : Nat) (s : State) :
    (passTl2 c num tag err va s).pkg = s.pkg := by
  unfold passTl2
  split
  · cases err <;> rfl
  · exact completeTl_pkg ..

@[simp] theorem completeFlight_pkg (f : Flight) (r : RemoteResult) (s : State) :
    (completeFlight f r s).pkg = s.pkg := by
  unfold completeFlight
  split
  · rfl
  · exact passTl2_pkg ..
  · rfl

@[simp] theorem sendAlong_pkg (q : RemoteReq) (r : List Nat) (s : State) : (sendAlong q r s).pkg = s.pkg := by
  have detour : (keepDetour q r s).pkg = s.pkg := by unfold keepDetour; split <;> rfl
  unfold sendAlong
  dsimp only
  split <;> exact detour

/-- A message that is posted leaves or waits: nothing but the messages sent and held changes. -/
theorem State.post_cases (s : State) (m : FabMsg) : s.post m = s.hold m ∨ ∃ r, s.post m = s.send m r := by
  unfold State.post
  split
  · exact .inl rfl
  · split
    · exact .inr ⟨_, rfl⟩
    · exact .inl rfl

@[simp] theorem State.post_pkg (s : State) (m : FabMsg) : (s.post m).pkg = s.pkg := by
  obtain h | ⟨r, h⟩ := s.post_cases m <;> rw [h] <;> rfl

@[simp] theorem respondTo_pkg (d id : Nat) (r : RemoteResult) (s : State) : (respondTo d id r s).pkg = s.pkg := by
  unfold respondTo
  dsimp only
  split
  · rfl
  · split <;> rfl

@[simp] theorem unroutable_pkg (p : FabPacket) (s : State) : (unroutable p s).pkg = s.pkg := by
  unfold unroutable
  split
  · rfl
  · rfl
  · split <;> rfl
  · rfl
  · rfl

@[simp] theorem replayOne_pkg (m : FabMsg) (s : State) : (replayOne m s).pkg = s.pkg := by
  unfold replayOne
  split
  · split
    · split
      · exact sendAlong_pkg ..
      · exact completeFlight_pkg ..
    · split <;> rfl
  · exact respondTo_pkg ..
  · split <;> rfl
  · dsimp only
    split
    · rfl
    · exact unroutable_pkg ..
  · exact s.post_pkg m

@[simp] theorem releaseOne_pkg (keep : List FabMsg) (m : FabMsg) (s : State) :
    (releaseOne keep m s).2.pkg = s.pkg := by
  unfold releaseOne
  split
  · split
    · split
      · rfl
      · split
        · split
          · rfl
          · dsimp only; exact sendAlong_pkg ..
        · dsimp only; exact completeFlight_pkg ..
    · rfl
  · split
    · rfl
    · split
      · rfl
      · split <;> rfl

@[simp] theorem releaseHeld_pkg (s : State) : (releaseHeld s).pkg = s.pkg :=
  List.foldlRecOn (motive := fun a : List FabMsg × State => a.2.pkg = s.pkg) s.fab.held _ rfl
    fun _ h _ _ => (releaseOne_pkg ..).trans h

@[simp] theorem mapChanged_pkg (s : State) : (mapChanged s).pkg = s.pkg := releaseHeld_pkg _

@[simp] theorem sendMap_pkg (s : State) : (sendMap s).pkg = s.pkg :=
  List.foldlRecOn (motive := fun t : State => t.pkg = s.pkg) _ _ rfl fun _ h _ _ => (State.post_pkg ..).trans h

@[simp] theorem setLink_pkg (i : Nat) (f : LinkSt → LinkSt) (s : State) : (setLink i f s).pkg = (s.modLink i f).pkg := by
  unfold setLink
  dsimp only
  split
  · rfl
  · split
    · exact sendMap_pkg _
    · exact (mapChanged_pkg _).trans (sendMap_pkg _)

/-! ### Only messages change where nothing waits -/

/-- `t` is `s` but for messages of the fabric: each request in flight stays. -/
structure MessagesOnly (s t : State) : Prop where
  rest    : t = { s with fab := t.fab }
  flights : t.fab.flights.map (fun f => f.req) = s.fab.flights.map (fun f => f.req)

theorem MessagesOnly.refl (s : State) : MessagesOnly s s := ⟨rfl, rfl⟩

theorem MessagesOnly.trans {s t u : State} (h : MessagesOnly s t) (g : MessagesOnly t u) : MessagesOnly s u :=
  ⟨by rw [g.rest, h.rest], g.flights.trans h.flights⟩

/-- A message that sends the link map (R48). -/
def FabMsg.isMap : FabMsg → Bool
  | .linkMap .. => true
  | _ => false

theorem messagesOnly_post (s : State) (m : FabMsg) : MessagesOnly s (s.post m) := by
  obtain h | ⟨r, h⟩ := s.post_cases m <;> rw [h] <;> exact ⟨rfl, rfl⟩

theorem held_post {s : State} {m x : FabMsg} (h : x ∈ (s.post m).fab.held) : x ∈ s.fab.held ∨ x = m := by
  obtain e | ⟨r, e⟩ := s.post_cases m <;> rw [e] at h
  · simpa [State.hold] using h
  · exact .inl h

theorem messagesOnly_sendMap (s : State) : MessagesOnly s (sendMap s) :=
  List.foldlRecOn _ _ (.refl s) fun _ h _ _ => h.trans (messagesOnly_post ..)

/-- Where nothing waits, the link map's sending leaves nothing but copies of it waiting. -/
theorem held_sendMap {s : State} (h : s.fab.held = []) : ∀ m ∈ (sendMap s).fab.held, m.isMap = true := by
  refine List.foldlRecOn (motive := fun t : State => ∀ m ∈ t.fab.held, m.isMap = true) _ _ (by simp [h]) ?_
  intro t ih d _ m hm
  obtain hm | rfl := held_post hm
  · exact ih m hm
  · rfl

theorem messagesOnly_releaseOne (keep : List FabMsg) {m : FabMsg} (s : State) (h : m.isMap = true) :
    MessagesOnly s (releaseOne keep m s).2 := by
  cases m with
  | linkMap d ports =>
    simp only [releaseOne]
    split
    · exact .refl s
    · split
      · exact .refl s
      · exact ⟨rfl, rfl⟩
  | _ => cases h

theorem messagesOnly_releaseHeld {s : State} (h : ∀ m ∈ s.fab.held, m.isMap = true) : MessagesOnly s (releaseHeld s) := by
  have released : MessagesOnly s (s.fab.held.foldl (fun (acc : List FabMsg × State) m => releaseOne acc.1 m acc.2) ([], s)).2 :=
    List.foldlRecOn (motive := fun a : List FabMsg × State => MessagesOnly s a.2) _ _ (.refl s)
      fun _ ih m hm => ih.trans (messagesOnly_releaseOne _ _ (h m hm))
  exact released.trans ⟨rfl, rfl⟩

theorem messagesOnly_mapChanged {s : State} (h : ∀ m ∈ s.fab.held, m.isMap = true) : MessagesOnly s (mapChanged s) := by
  unfold mapChanged
  refine MessagesOnly.trans ⟨rfl, ?_⟩ (messagesOnly_releaseHeld h)
  rw [List.map_map]
  refine List.map_congr_left fun f _ => ?_
  simp only [Function.comp]
  split <;> rfl

theorem messagesOnly_setLink (i : Nat) (f : LinkSt → LinkSt) {s : State} (h : s.fab.held = []) :
    MessagesOnly (s.modLink i f) (setLink i f s) := by
  unfold setLink
  dsimp only
  split
  · exact .refl _
  · split
    · exact messagesOnly_sendMap _
    · exact (messagesOnly_sendMap _).trans (messagesOnly_mapChanged (held_sendMap h))

/-! ### What a change of one link leaves unchanged -/

/-- Every link but `i` stands; where nothing waits for a route and nothing was in flight on a lost link, nothing else but
the fabric's messages changes. -/
def OthersStand (i : Nat) (s t : State) : Prop :=
  (∀ k, k ≠ i → t.link k = s.link k) ∧ (s.fab.held = [] ∧ s.input.nats = [] → t.cores = s.cores ∧ t.mem = s.mem ∧
    t.host = s.host ∧ t.sched = s.sched ∧ t.tiles = s.tiles ∧
    t.fab.flights.map (fun f => f.req) = s.fab.flights.map (fun f => f.req))

/-- Link `i` has changed by `f`, and all else stands. -/
def LinkBecomes (i : Nat) (f : LinkSt → LinkSt) (s t : State) : Prop := t.link i = f (s.link i) ∧ OthersStand i s t

theorem linkBecomes_modLink (i : Nat) (f : LinkSt → LinkSt) (s : State) : LinkBecomes i f s (s.modLink i f) :=
  ⟨s.link_modLink i f, fun _ h => s.link_modLink_ne f h, fun _ => ⟨rfl, rfl, rfl, rfl, rfl, rfl⟩⟩

/-- A link changed twice. -/
theorem LinkBecomes.after_modLink {i : Nat} {f g : LinkSt → LinkSt} {s t : State}
    (h : LinkBecomes i g (s.modLink i f) t) : LinkBecomes i (fun l => g (f l)) s t := by
  obtain ⟨self, others, calm⟩ := h
  exact ⟨self.trans (by rw [State.link_modLink]), fun k hk => (others k hk).trans (s.link_modLink_ne f hk), calm⟩

theorem MessagesOnly.kept {s t : State} (h : MessagesOnly s t) : t.cores = s.cores ∧ t.mem = s.mem ∧
    t.host = s.host ∧ t.sched = s.sched ∧ t.tiles = s.tiles ∧
    t.fab.flights.map (fun f => f.req) = s.fab.flights.map (fun f => f.req) := by
  refine ⟨?_, ?_, ?_, ?_, ?_, h.flights⟩ <;> rw [h.rest]

theorem linkBecomes_setLink (i : Nat) (f : LinkSt → LinkSt) (s : State) : LinkBecomes i f s (setLink i f s) := by
  have links (k : Nat) := State.link_of_pkg (setLink_pkg i f s) k
  exact ⟨(links i).trans (s.link_modLink i f), fun k h => (links k).trans (s.link_modLink_ne f h),
    fun calm => (messagesOnly_setLink i f calm.1).kept⟩

/-- What was in flight on a lost link is replayed after the link's change, and the links stand. -/
theorem loseLink_pkg (i : Nat) (f : LinkSt → LinkSt) (lost : List Nat) (s : State) :
    (loseLink i f lost s).pkg = (setLink i f s).pkg := by
  unfold loseLink
  dsimp only
  split
  · rfl
  · exact List.foldlRecOn (motive := fun t : State => t.pkg = (setLink i f s).pkg) _ _ rfl
      fun _ h _ _ => (replayOne_pkg ..).trans h

theorem loseLink_none (i : Nat) (f : LinkSt → LinkSt) (s : State) : loseLink i f [] s =
    if 26 ≤ i ∧ i < 58 then replayRing ((i - 26) / 4) ((i - 26) % 4) [] (setLink i f s) else setLink i f s := by
  simp [loseLink]

theorem linkBecomes_loseLink (i : Nat) (f : LinkSt → LinkSt) (s : State) :
    LinkBecomes i f s (loseLink i f s.input.nats s) := by
  obtain ⟨self, others, kept⟩ := linkBecomes_setLink i f s
  have links (k : Nat) := State.link_of_pkg (loseLink_pkg i f s.input.nats s) k
  refine ⟨(links i).trans self, fun k h => (links k).trans (others k h), fun calm => ?_⟩
  rw [calm.2, loseLink_none]
  split
  · exact kept calm
  · exact kept calm

theorem linkBecomes_startTraining (i : Nat) (s : State) : LinkBecomes i LinkSt.train s (startTraining i s) := by
  unfold startTraining
  split
  · exact linkBecomes_setLink i LinkSt.train s
  · exact linkBecomes_loseLink i LinkSt.train s

/-- Chunks and MARKs in flight on a lost Pergola link leave again on the ring's other link (R24, R99). -/
theorem plane_loseLink {i : Nat} (f : LinkSt → LinkSt) (lost : List Nat) {s : State} (h26 : 26 ≤ i) (h58 : i < 58)
    (calm : s.fab.held = []) :
    let j := (i - 26) % 4
    let old := (s.plane ((i - 26) / 4)).sent
    ((loseLink i f lost s).plane ((i - 26) / 4)).sent = old ++ (old.zipIdx.filter
      (fun c => decide (c.2 ∈ lost) && c.1.1 == j)).map (fun c => (if j % 2 = 0 then j + 1 else j - 1, c.1.2)) := by
  have planes : (setLink i f s).plane ((i - 26) / 4) = s.plane ((i - 26) / 4) := by
    rw [(messagesOnly_setLink i f calm).rest]; rfl
  simp only [loseLink, h26, h58, and_self, if_true, replayRing]
  rw [State.modPlane, State.plane, sget_smod_self, ← State.plane, planes]
  simp only [List.elem_eq_mem]

/-! ### The width and rate that training takes (R21) -/

theorem firstSome_eq_none {α β : Type} (f : α → Option β) (l : List α) :
    firstSome f l = none ↔ ∀ a ∈ l, f a = none := by
  induction l with
  | nil => simp [firstSome]
  | cons a l ih => cases h : f a <;> simp [firstSome, h, ih]

/-- Where a list falls, the first entry that answers is the greatest that does. -/
theorem firstSome_greatest {β : Type} (f : Nat → Option β) {l : List Nat} {b : β} (falls : l.Pairwise (fun x y => y ≤ x))
    (h : firstSome f l = some b) : ∃ a ∈ l, f a = some b ∧ ∀ x ∈ l, f x ≠ none → x ≤ a := by
  induction l with
  | nil => cases h
  | cons a l ih =>
    obtain ⟨below, falls⟩ := List.pairwise_cons.1 falls
    simp only [firstSome] at h
    split at h
    · rename_i first
      cases h
      exact ⟨a, List.mem_cons_self, first, fun x hx _ => (List.mem_cons.1 hx).elim (fun e => e ▸ le_rfl) (below x)⟩
    · rename_i no
      obtain ⟨c, mem, found, top⟩ := ih falls h
      exact ⟨c, List.mem_cons_of_mem _ mem, found, fun x hx hn =>
        (List.mem_cons.1 hx).elim (fun e => absurd no (e ▸ hn)) (fun hx => top x hx hn)⟩

theorem widths_fall (i : Nat) : (widths i).Pairwise (fun x y => y ≤ x) := by
  unfold widths
  split
  · decide
  · decide
  · exact List.pairwise_singleton ..

theorem rates_fall (i : Nat) : (rates i).Pairwise (fun x y => y ≤ x) := by
  unfold rates
  split <;> decide

/-- The margin of 32 that R21 asks for at a width and a rate. -/
def marginAt (t : TrainReport) (w r : Nat) : Option (Nat × Nat × Nat) :=
  t.margins.find? (fun m => m.1 == w && m.2.1 == r && decide (32 ≤ m.2.2))

theorem chosen_eq (i : Nat) (t : TrainReport) :
    chosen i t = firstSome (fun w => firstSome (marginAt t w) (rates i)) (widths i) := rfl

theorem marginAt_some {t : TrainReport} {w r : Nat} {m : Nat × Nat × Nat} (h : marginAt t w r = some m) :
    m ∈ t.margins ∧ m.1 = w ∧ m.2.1 = r ∧ 32 ≤ m.2.2 := by
  refine ⟨List.mem_of_find?_eq_some h, ?_⟩
  simpa [and_assoc] using List.find?_some h

theorem marginAt_ne_none {t : TrainReport} {w r m : Nat} (h : (w, r, m) ∈ t.margins) (enough : 32 ≤ m) :
    marginAt t w r ≠ none := fun no => by simpa [enough] using List.find?_eq_none.1 no _ h

theorem chosen_some {i : Nat} {t : TrainReport} {w v m : Nat} (h : chosen i t = some (w, v, m)) :
    (w, v, m) ∈ t.margins ∧ 32 ≤ m ∧ w ∈ widths i ∧ v ∈ rates i ∧
    (∀ w' v' m', (w', v', m') ∈ t.margins → 32 ≤ m' → w' ∈ widths i → v' ∈ rates i → w' < w ∨ (w' = w ∧ v' ≤ v)) := by
  obtain ⟨w₀, hw, inner, widest⟩ := firstSome_greatest _ (widths_fall i) (chosen_eq i t ▸ h)
  obtain ⟨v₀, hv, found, fastest⟩ := firstSome_greatest _ (rates_fall i) inner
  obtain ⟨mem, rfl, rfl, enough⟩ := marginAt_some found
  refine ⟨mem, enough, hw, hv, fun w' v' m' hm he hw' hv' => ?_⟩
  have answers := marginAt_ne_none hm he
  have wide : w' ≤ w := widest w' hw' fun no => answers ((firstSome_eq_none _ _).1 no v' hv')
  rcases Nat.lt_or_eq_of_le wide with lt | rfl
  · exact .inl lt
  · exact .inr ⟨rfl, fastest v' hv' answers⟩

theorem chosen_none {i : Nat} {t : TrainReport} (h : chosen i t = none) (w v m : Nat) (hm : (w, v, m) ∈ t.margins)
    (hw : w ∈ widths i) (hv : v ∈ rates i) : m < 32 := by
  have inner := (firstSome_eq_none _ _).1 (chosen_eq i t ▸ h) w hw
  by_contra enough
  exact marginAt_ne_none hm (Nat.le_of_not_lt enough) ((firstSome_eq_none _ _).1 inner v hv)

theorem fullWidth_eq (i : Nat) :
    fullWidth i = if i < 4 then 48 else if i < 12 then 64 else if i < 26 then 16 else if i < 58 then 8 else 12 := by
  unfold fullWidth linkKind
  split_ifs <;> rfl

/-! ### The partner's end (R20, R42, R98) -/

theorem linkPeer_internal (s : State) {i : Nat} (h : i < 12 ∨ 58 ≤ i) : linkPeer s i = (0, 0) :=
  if_pos ((internal_iff i).2 h)

/-- The other direction of the same ring, of the four links of a plane (R98). -/
def otherWay (j : Nat) : Nat := match j with | 0 => 1 | 1 => 0 | 2 => 3 | _ => 2

theorem otherWay_spec {j : Nat} (h : j < 4) : otherWay j < 4 ∧ otherWay j / 2 = j / 2 ∧ otherWay j + j = 4 * (j / 2) + 1 := by
  revert j; decide

theorem linkPeer_outer (s : State) {i e : Nat} (outer : ¬ (i < 12 ∨ 58 ≤ i)) (h : linkPartner s i = some e) :
    linkPeer s i = if i < 26 then (e, portTo e s.self) else (e, (i - 26) / 4 * 4 + otherWay ((i - 26) % 4)) := by
  unfold linkPeer
  rw [if_neg (mt (internal_iff i).1 outer), h]
  rfl

/-- Past the internal links, the partner's end is the port that leads back, or the link of the other direction. -/
theorem linkPeer_partner (s : State) {i e : Nat} (outer : ¬ (i < 12 ∨ 58 ≤ i)) (h : linkPartner s i = some e) :
    (linkPeer s i).1 = e ∧ (i < 26 → (linkPeer s i).2 = portTo e s.self) ∧
      (26 ≤ i → (linkPeer s i).2 / 4 = (i - 26) / 4 ∧
        (linkPeer s i).2 + (i - 26) = 2 * ((i - 26) / 2) + 2 * ((linkPeer s i).2 / 2) + 1) := by
  rw [linkPeer_outer s outer h]
  split
  · exact ⟨rfl, fun _ => rfl, fun h => absurd h (by omega)⟩
  · obtain ⟨lt, half, sum⟩ := otherWay_spec (Nat.mod_lt (i - 26) (by decide : 0 < 4))
    exact ⟨rfl, fun h => absurd h ‹_›, fun _ => by dsimp only; omega⟩

/-! ### The end of a training attempt (R21, R22) -/

/-- A link that training has brought up (R20, R21). -/
def LinkSt.trained (i w v m preset : Nat) (peer : Nat × Nat) (l : LinkSt) : LinkSt :=
  { l with
    state := if w = fullWidth i ∧ v = 3 then .up else .degraded, width := w, rate := v, margin := m, preset := preset,
    attempts := l.attempts + 1, pdev := peer.1, plink := peer.2, replays := 0, retrain := false }

theorem exec_linkTrainingDone_chosen {s : State} {w v m : Nat} (training : (s.link s.input.link).state = .training)
    (h : chosen s.input.link s.input.train = some (w, v, m)) :
    exec .linkTrainingDone s = .next (setLink s.input.link
      (LinkSt.trained s.input.link w v m s.input.train.preset (linkPeer s s.input.link)) s) := by
  rw [exec_linkTrainingDone, execLinkTrainingDone, when_of _ _ (beq_iff_eq.2 training), h]
  rfl

theorem exec_linkTrainingDone_fails {s : State} (training : (s.link s.input.link).state = .training)
    (h : chosen s.input.link s.input.train = none) :
    exec .linkTrainingDone s = .next (attemptFails s.input.link s) := by
  rw [exec_linkTrainingDone, execLinkTrainingDone, when_of _ _ (beq_iff_eq.2 training), h]

theorem exec_trainingAttemptTimeout_fails {s : State} (training : (s.link s.input.link).state = .training) :
    exec .trainingAttemptTimeout s = .next (attemptFails s.input.link s) := by
  rw [exec_trainingAttemptTimeout, execTrainingAttemptTimeout, when_of _ _ (beq_iff_eq.2 training)]

/-- One attempt more. -/
def LinkSt.tried (l : LinkSt) : LinkSt := { l with attempts := l.attempts + 1 }

theorem attemptFails_eq (i : Nat) (s : State) : attemptFails i s =
    if (s.link i).attempts + 1 < 3 then s.modLink i LinkSt.tried
    else if internal i then failInternal i (s.modLink i LinkSt.tried)
    else setLink i (fun l => { l with state := .down, retrain := false }) (s.modLink i LinkSt.tried) := by
  have tried : ((s.modLink i LinkSt.tried).link i).attempts = (s.link i).attempts + 1 := by
    rw [State.link_modLink]; rfl
  rw [← tried]; rfl

theorem failInternal_stops (i : Nat) (s : State) : (failInternal i s).pkg.stage = 15 ∧ (failInternal i s).pkg.cause = 3 ∧
    (failInternal i s).pkg.badLink = i ∧ (failInternal i s).host.intstat.getLsbD 3 = true :=
  ⟨rfl, rfl, rfl, raiseInt_intstat 3 _⟩

/-- The third failed attempt leaves a fabric or Pergola link DOWN and stops the device on an internal one; one before it
only counts (R22). -/
theorem attemptFails_outcomes {e : Instr} {s : State} {i : Nat} (h : exec e s = .next (attemptFails i s)) :
    let l := s.link i
    let inner := i < 12 ∨ 58 ≤ i
    (l.attempts + 1 < 3 → Answers e s (fun t => t.link i = { l with attempts := l.attempts + 1 } ∧ OthersStand i s t)) ∧
    (2 ≤ l.attempts → ¬ inner → Answers e s (fun t =>
      t.link i = { l with attempts := l.attempts + 1, state := .down, retrain := false } ∧ OthersStand i s t)) ∧
    (2 ≤ l.attempts → inner → Answers e s (fun t => t.pkg.stage = 15 ∧ t.pkg.cause = 3 ∧ t.pkg.badLink = i ∧
      t.host.intstat.getLsbD 3 = true)) := by
  rw [attemptFails_eq] at h
  refine ⟨fun few => ?_, fun many outer => ?_, fun many inner => ?_⟩
  · rw [if_pos few] at h
    exact ⟨_, h, linkBecomes_modLink i LinkSt.tried s⟩
  · rw [if_neg (by omega), if_neg (fun c => outer ((internal_iff i).1 c))] at h
    exact ⟨_, h, (linkBecomes_setLink i _ _).after_modLink⟩
  · rw [if_neg (by omega), if_pos ((internal_iff i).2 inner)] at h
    exact ⟨_, h, failInternal_stops i _⟩

/-! ### Loss of lock and RETRAIN (R22 to R25) -/

theorem exec_linkLossOfLock_carries {s : State} (outer : ¬ (s.input.link < 12 ∨ 58 ≤ s.input.link))
    (carries : (s.link s.input.link).state = .up ∨ (s.link s.input.link).state = .degraded) :
    exec .linkLossOfLock s =
      .next (loseLink s.input.link (fun l => { l with state := .down }) s.input.nats s) := by
  rw [exec_linkLossOfLock, execLinkLossOfLock, when_of]
  simp [internal, outer, carries]

theorem exec_internalLossOfLock_carries {s : State} (inner : s.input.link < 12 ∨ 58 ≤ s.input.link)
    (carries : (s.link s.input.link).state = .up ∨ (s.link s.input.link).state = .degraded) :
    exec .internalLossOfLock s = .next (startTraining s.input.link s) := by
  rw [exec_internalLossOfLock, execInternalLossOfLock, when_of]
  simp [inner, carries]

theorem exec_retrain_partner {s : State} (ready : s.pkg.stage = 7) (idle : (s.link s.input.link).state ≠ .training)
    (whole : (s.link s.input.link).state ≠ .failed) (partner : (linkPartner s s.input.link).isSome = true) :
    exec .retrain s =
      .next (startTraining s.input.link (s.modLink s.input.link (fun l => { l with retrain := true }))) := by
  rw [exec_retrain, execRetrain, when_of _ _ (beq_iff_eq.2 ready), retrain, if_neg]
  simp [idle, whole, Option.isSome_iff_ne_none.1 partner]

/-- The capture units look on. -/
theorem LinkBecomes.capture {i : Nat} {f : LinkSt → LinkSt} {s t : State} (h : LinkBecomes i f s t) (code sel v : Nat) :
    LinkBecomes i f s (capture code sel v t) := h

theorem exec_linkLevelReplay_carries {s : State}
    (carries : (s.link s.input.link).state = .up ∨ (s.link s.input.link).state = .degraded) :
    exec .linkLevelReplay s = .next (capture 8 s.input.link s.input.link
      (s.modLink s.input.link (fun l => { l with replays := satInc 255 l.replays }))) := by
  rw [exec_linkLevelReplay, execLinkLevelReplay, when_of]
  exact (LinkState.carries_iff _).2 carries

/-- Settles O37: each event changes one link's entry by `setLink`, `loseLink` or `startTraining`. -/
theorem linkEventResults : Obligations.LinkEventResults := by
  unfold Obligations.LinkEventResults
  intro s i l r inner calm rest carries fails
  refine ⟨fun w v m h => ?_, linkPeer_internal s, fun e => linkPeer_partner s, fun h => ⟨chosen_none h, fun training => ?_⟩,
    fun training => ?_, fun outer c => ?_, fun inn c => ?_, fun ready idle whole partner => ?_, fun h26 h58 c held => ?_,
    fun c => ?_⟩
  · obtain ⟨mem, enough, width, rate, best⟩ := chosen_some h
    refine ⟨mem, enough, width, rate, best, fun training => ?_⟩
    rw [← fullWidth_eq i]
    exact ⟨_, exec_linkTrainingDone_chosen training h, linkBecomes_setLink i _ s⟩
  · exact attemptFails_outcomes (exec_linkTrainingDone_fails training h)
  · exact attemptFails_outcomes (exec_trainingAttemptTimeout_fails training)
  · exact ⟨_, exec_linkLossOfLock_carries outer c, linkBecomes_loseLink i _ s⟩
  · exact ⟨_, exec_internalLossOfLock_carries inn c, linkBecomes_startTraining i s⟩
  · exact ⟨_, exec_retrain_partner ready idle whole partner, (linkBecomes_startTraining i _).after_modLink⟩
  · exact ⟨_, exec_linkLossOfLock_carries (by omega) c, plane_loseLink _ s.input.nats h26 h58 held⟩
  · exact ⟨_, exec_linkLevelReplay_carries c, (linkBecomes_modLink i _ s).capture ..⟩

end Sys2Proof.Machine
end

section
/-! SUPPORT. Bring-up: the verdict on a firmware image, what each stage leaves, and where it stops (R26 to R30). -/

/-! ### Firmware images (R28) -/

namespace Sys2Proof

/-- Every signature of an image holds. -/
def ImageReport.Signed (r : ImageReport) : Prop := r.rsaOk = true ∧ r.slhOk = true ∧ r.keysOk = true

/-- An image is accepted over the fused SVN. -/
def ImageReport.Accepted (svn : Nat) (r : ImageReport) : Prop := r.Signed ∧ svn ≤ r.svn

/-- An image is rejected with cause `n`. -/
def ImageReport.Rejected (svn : Nat) (r : ImageReport) (n : Nat) : Prop :=
  (¬ r.Signed ∧ n = 2) ∨ (r.Signed ∧ r.svn < svn ∧ n = 5)

theorem ImageReport.signed_iff (r : ImageReport) : (r.rsaOk && r.slhOk && r.keysOk) = true ↔ r.Signed := by
  simp [Signed, and_assoc]

end Sys2Proof

namespace Sys2Proof.Machine

theorem imageCause_accepted {svn : Nat} {r : ImageReport} (h : r.Accepted svn) : imageCause svn r = none := by
  unfold imageCause
  rw [r.signed_iff.2 h.1, if_neg (by decide), if_neg (Nat.not_lt.2 h.2)]

theorem imageCause_rejected {svn n : Nat} {r : ImageReport} (h : r.Rejected svn n) : imageCause svn r = some n := by
  unfold imageCause
  rcases h with ⟨unsigned, rfl⟩ | ⟨signed, low, rfl⟩
  · rw [Bool.eq_false_iff.2 (mt r.signed_iff.1 unsigned)]; rfl
  · rw [r.signed_iff.2 signed, if_neg (by decide), if_pos low]

/-! ### The links of bring-up (R26, step 4) -/

/-- A list of links changed one after another: each of them ends as its change leaves it, and the others stand. -/
theorem foldl_modLink (f : Nat → LinkSt → LinkSt) (ks : List Nat) (s : State) :
    ∃ ls, ks.foldl (fun s k => s.modLink k (f k)) s = { s with pkg := { s.pkg with links := ls } } ∧
      (∀ k ∈ ks, ∃ l, sget {} ls k = f k l) ∧ ∀ k, k ∉ ks → sget {} ls k = s.link k := by
  induction ks generalizing s with
  | nil => exact ⟨s.pkg.links, rfl, by simp, fun _ _ => rfl⟩
  | cons k ks ih =>
    obtain ⟨ls, eq, changed, kept⟩ := ih (s.modLink k (f k))
    refine ⟨ls, eq, fun j hj => ?_, fun j hj => ?_⟩
    · by_cases mem : j ∈ ks
      · exact changed j mem
      · obtain rfl : j = k := (List.mem_cons.1 hj).resolve_right mem
        exact ⟨s.link j, (kept j mem).trans (s.link_modLink ..)⟩
    · obtain ⟨ne, mem⟩ := not_or.1 (mt List.mem_cons.2 hj)
      exact (kept j mem).trans (s.link_modLink_ne _ ne)

/-- An internal link that bring-up has trained, from what the boot report says of it (R20, R26). -/
def LinkSt.booted (b : BootReport) (i : Nat) (l : LinkSt) : LinkSt :=
  let r := (b.links.find? (fun r => r.link == i)).getD ⟨i, 1, 0, 0⟩
  { l with state := .up, width := fullWidth i, rate := 3, attempts := r.attempts, preset := r.preset, margin := r.margin }

/-- A reported internal link fails and stops bring-up with LINK. -/
theorem bootLinks_failed {b : BootReport} {k : Nat} (h : b.badLink = some k) (inner : internal k = true) (s : State) :
    ∃ ls, (sget {} ls k).state = .failed ∧ bootLinks b s =
      { s with pkg := { s.pkg with links := ls, badLink := k, stage := 15, cause := 3, recover := false } } := by
  obtain ⟨ls, eq, -, -⟩ := foldl_modLink (LinkSt.booted b)
    ((List.range 62).filter (fun j => internal j && decide (j ≠ k))) s
  refine ⟨smod {} ls k (fun l => { l with state := .failed, attempts := 3 }), by rw [sget_smod_self], ?_⟩
  unfold bootLinks
  rw [h, Option.filter_some, if_pos inner]
  dsimp only
  unfold LinkSt.booted at eq
  dsimp only at eq
  rw [eq]
  rfl

/-- Without one the internal links are UP and the others stand; bring-up ends with READY or, where the memory test fails,
stops with HBM. -/
theorem bootLinks_trained {b : BootReport} (h : b.badLink = none) (s : State) :
    ∃ ls rd, (∀ k, internal k = true ∧ k < 62 → (sget {} ls k).state = .up) ∧
      (∀ k, internal k = false → sget {} ls k = s.link k) ∧
      (b.memOk = false → bootLinks b s =
        { s with pkg := { s.pkg with links := ls, stage := 15, cause := 4, recover := false } }) ∧
      (b.memOk = true → bootLinks b s =
        { s with pkg := { s.pkg with links := ls, stage := 7, cause := 0, lstatRd := rd } }) := by
  obtain ⟨ls, eq, up, kept⟩ := foldl_modLink (LinkSt.booted b) ((List.range 62).filter internal) s
  refine ⟨ls, (List.range 62).map (lstatWord { s with pkg := { s.pkg with links := ls, stage := 7, cause := 0 } }),
    fun k hk => ?_, fun k hk => kept k (by simp [hk]), fun bad => ?_, fun good => ?_⟩
  · obtain ⟨l, hl⟩ := up k (by simpa [and_comm] using hk)
    rw [hl]; rfl
  all_goals
    unfold LinkSt.booted at eq
    dsimp only at eq
    unfold bootLinks
    rw [h]
    dsimp only [Option.filter_none]
    rw [eq]
  · rw [bad]; rfl
  · rw [good]; rfl

/-! ### The stages (R26) -/

/-- Both images measured, and the identity keys derived (R26, R31). -/
def measured (b : BootReport) (s : State) : State :=
  deriveKeys { s with pkg := { s.pkg with
    lodgeDg := b.lodge.digest, fwSvn := b.lodge.svn, baseDg := b.base.digest, recover := false } }

theorem bootBase_accepted {b : BootReport} {s : State} (h : b.base.Accepted s.pkg.svn) :
    bootBase b s =
      bootLinks b (deriveKeys { s with pkg := { s.pkg with baseDg := b.base.digest, recover := false } }) := by
  rw [bootBase, imageCause_accepted h]

theorem bootLodge_rejected {b : BootReport} {s : State} {n : Nat} (h : b.lodge.Rejected s.pkg.svn n) :
    bootLodge b s = stopBoot n true s := by rw [bootLodge, imageCause_rejected h]

theorem bootLodge_base_rejected {b : BootReport} {s : State} {n : Nat} (lodge : b.lodge.Accepted s.pkg.svn)
    (h : b.base.Rejected s.pkg.svn n) : bootLodge b s =
      stopBoot n true { s with pkg := { s.pkg with lodgeDg := b.lodge.digest, fwSvn := b.lodge.svn } } := by
  rw [bootLodge, imageCause_accepted lodge]
  dsimp only
  rw [bootBase, imageCause_rejected h]

theorem bootLodge_accepted {b : BootReport} {s : State} (lodge : b.lodge.Accepted s.pkg.svn)
    (base : b.base.Accepted s.pkg.svn) : bootLodge b s = bootLinks b (measured b s) := by
  rw [bootLodge, imageCause_accepted lodge]
  exact bootBase_accepted base

/-! ### Module reset (R26) -/

/-- All of the device but HBM cells, host memory and the fused SVN is as at reset (log 40). -/
def Cleared (s t : State) : Prop :=
  t.cores = [] ∧ t.sched = State.reset.sched ∧ t.fab = State.reset.fab ∧ t.arb = State.reset.arb ∧
  t.perg = State.reset.perg ∧ t.tiles = State.reset.tiles ∧ t.dbg = State.reset.dbg ∧ t.host.chains = [] ∧
  t.mem.master = [] ∧ t.mem.hbm = s.mem.hbm ∧ t.host.mem = s.host.mem ∧ t.pkg.svn = s.pkg.svn

theorem cleared_of_pkg {s : State} {p : PkgSt} (svn : p.svn = s.pkg.svn) : Cleared s { clearDevice s with pkg := p } :=
  ⟨rfl, rfl, rfl, rfl, rfl, rfl, rfl, rfl, rfl, rfl, rfl, svn⟩

/-- READY with both images measured and the keys derived from them (R26, R31). -/
def Ready (b : BootReport) (t : State) : Prop :=
  t.pkg.stage = 7 ∧ t.pkg.cause = 0 ∧ t.pkg.baseDg = b.base.digest ∧ t.pkg.lodgeDg = b.lodge.digest ∧
  t.pkg.fwSvn = b.lodge.svn ∧ t.pkg.recover = false ∧
  t.pkg.rsaKey = Config.rsaIdentity Config.deviceSecret (BitVec.ofNat 384 b.lodge.digest) (BitVec.ofNat 384 b.base.digest) ∧
  t.pkg.slhKey = Config.slhIdentity Config.deviceSecret (BitVec.ofNat 384 b.lodge.digest) (BitVec.ofNat 384 b.base.digest)

/-- From measured images, sound links and memory, bring-up reaches READY: its package is the only part that changes. -/
theorem bootLinks_ready {b : BootReport} (s : State) (link : b.badLink = none) (mem : b.memOk = true) :
    ∃ p : PkgSt, bootLinks b (measured b s) = { s with pkg := p } ∧ p.svn = s.pkg.svn ∧ Ready b { s with pkg := p } ∧
      (∀ k, k < 12 ∨ (58 ≤ k ∧ k < 62) → (sget {} p.links k).state = .up) ∧
      ∀ k, 12 ≤ k → k < 58 → sget {} p.links k = s.link k := by
  obtain ⟨ls, rd, up, others, -, eq⟩ := bootLinks_trained link (measured b s)
  refine ⟨_, eq mem, rfl, ⟨rfl, rfl, rfl, rfl, rfl, rfl, rfl, rfl⟩, fun k hk => up k ?_, fun k lo hi => others k ?_⟩
  · rw [internal_iff]; omega
  · rw [Bool.eq_false_iff, ne_eq, internal_iff]; omega

theorem moduleReset_fuses {b : BootReport} (s : State) (h : b.fuseOk = false) :
    moduleReset b s = stopBoot 1 false (clearDevice s) := by rw [moduleReset, h]; rfl

theorem moduleReset_fused {b : BootReport} (s : State) (h : b.fuseOk = true) :
    moduleReset b s = bootLodge b (clearDevice s) := by rw [moduleReset, h]; rfl

/-- An event that resets the module ends at READY or with the cause of the first part that is not in order. -/
theorem moduleReset_outcomes {e : Instr} {s : State} (reset : exec e s = .next (moduleReset s.input.boot s)) :
    let b := s.input.boot
    let svn := s.pkg.svn
    let stopped (t : State) (n : Nat) : Prop := t.pkg.stage = 15 ∧ t.pkg.cause = n
    let inner (k : Nat) : Prop := k < 12 ∨ (58 ≤ k ∧ k < 62)
    (b.fuseOk = false → Answers e s (fun t => Cleared s t ∧ stopped t 1)) ∧
    (∀ n, b.fuseOk = true → b.lodge.Rejected svn n →
      Answers e s (fun t => Cleared s t ∧ stopped t n ∧ t.pkg.recover = true)) ∧
    (∀ n, b.fuseOk = true → b.lodge.Accepted svn → b.base.Rejected svn n →
      Answers e s (fun t => Cleared s t ∧ stopped t n ∧ t.pkg.recover = true)) ∧
    (∀ k, b.fuseOk = true → b.lodge.Accepted svn → b.base.Accepted svn → b.badLink = some k → inner k →
      Answers e s (fun t => Cleared s t ∧ stopped t 3 ∧ t.pkg.badLink = k ∧ (t.link k).state = .failed)) ∧
    (b.fuseOk = true → b.lodge.Accepted svn → b.base.Accepted svn → b.badLink = none → b.memOk = false →
      Answers e s (fun t => Cleared s t ∧ stopped t 4)) ∧
    (b.fuseOk = true → b.lodge.Accepted svn → b.base.Accepted svn → b.badLink = none → b.memOk = true →
      Answers e s (fun t => Cleared s t ∧ Ready b t ∧ (∀ k, inner k → (t.link k).state = .up) ∧
        ∀ k, 12 ≤ k → k < 58 → (t.link k).state = .down)) := by
  refine ⟨fun fuse => ?_, fun n fuse lodge => ?_, fun n fuse lodge base => ?_, fun k fuse lodge base link inner => ?_,
    fun fuse lodge base link mem => ?_, fun fuse lodge base link mem => ?_⟩
  · rw [moduleReset_fuses s fuse] at reset
    exact ⟨_, reset, cleared_of_pkg rfl, rfl, rfl⟩
  all_goals rw [moduleReset_fused s fuse] at reset
  · rw [bootLodge_rejected (s := clearDevice s) lodge] at reset
    exact ⟨_, reset, cleared_of_pkg rfl, ⟨rfl, rfl⟩, rfl⟩
  · rw [bootLodge_base_rejected (s := clearDevice s) lodge base] at reset
    exact ⟨_, reset, cleared_of_pkg rfl, ⟨rfl, rfl⟩, rfl⟩
  all_goals rw [bootLodge_accepted (s := clearDevice s) lodge base] at reset
  · obtain ⟨ls, failed, eq⟩ := bootLinks_failed link ((internal_iff k).2 (by omega)) (measured s.input.boot (clearDevice s))
    rw [eq] at reset
    exact ⟨_, reset, cleared_of_pkg rfl, ⟨rfl, rfl⟩, rfl, failed⟩
  · obtain ⟨ls, rd, -, -, eq, -⟩ := bootLinks_trained link (measured s.input.boot (clearDevice s))
    rw [eq mem] at reset
    exact ⟨_, reset, cleared_of_pkg rfl, rfl, rfl⟩
  · obtain ⟨p, eq, svn, ready, up, others⟩ := bootLinks_ready (clearDevice s) link mem
    rw [eq] at reset
    exact ⟨_, reset, cleared_of_pkg svn, ready, up, fun k lo hi => congrArg LinkSt.state (others k lo hi)⟩

/-! ### Recovery (R29) -/

theorem exec_recoveryPackage_accepted {s : State} (asked : s.pkg.recover = true) (stopped : s.pkg.stage = 15)
    (lodge : s.input.boot.lodge.Accepted s.pkg.svn) (base : s.input.boot.base.Accepted s.pkg.svn) :
    exec .recoveryPackage s = .next (bootLinks s.input.boot (measured s.input.boot
      { s with pkg := { s.pkg with cause := 0 } })) := by
  rw [exec_recoveryPackage, execRecoveryPackage]
  dsimp only
  rw [when_of _ _ (by rw [asked, stopped]; rfl), imageCause_accepted lodge, imageCause_accepted base]
  exact congrArg _ (bootBase_accepted base)

theorem exec_recoveryPackage_rejected {s : State} {n : Nat} (asked : s.pkg.recover = true) (stopped : s.pkg.stage = 15)
    (h : s.input.boot.lodge.Rejected s.pkg.svn n ∨
      (s.input.boot.lodge.Accepted s.pkg.svn ∧ s.input.boot.base.Rejected s.pkg.svn n)) :
    exec .recoveryPackage s = .next (stopBoot n true s) := by
  rw [exec_recoveryPackage, execRecoveryPackage]
  dsimp only
  rw [when_of _ _ (by rw [asked, stopped]; rfl)]
  rcases h with lodge | ⟨lodge, base⟩
  · rw [imageCause_rejected lodge]; rfl
  · rw [imageCause_accepted lodge, imageCause_rejected base]; rfl

/-- Settles O38: both resets run `moduleReset`, and a recovery package enters it at the images. -/
theorem bringUpResults : Obligations.BringUpResults := by
  unfold Obligations.BringUpResults
  intro s b signed ok cause inner cleared stopped ready m
  refine ⟨fun e he => ?_, fun asked halted => ⟨fun lodge base link mem => ?_, fun n h => ?_⟩, ?_⟩
  · refine moduleReset_outcomes ?_
    rcases List.mem_pair.1 he with rfl | rfl
    · exact exec_moduleReset s
    · exact exec_cxlReset s
  · obtain ⟨p, eq, -, ready, up, -⟩ := bootLinks_ready { s with pkg := { s.pkg with cause := 0 } } link mem
    exact ⟨_, (exec_recoveryPackage_accepted asked halted lodge base).trans (congrArg _ eq), ready, up, rfl, rfl⟩
  · exact ⟨_, exec_recoveryPackage_rejected asked halted h, ⟨rfl, rfl⟩, rfl, rfl, rfl⟩
  · exact ⟨_, exec_spdmRequest s, rfl, rfl, rfl⟩

end Sys2Proof.Machine
end

section
/-! SUPPORT. Power and temperature of the compute dies, the thermal halt, and the capture units (R33 to R40, R321). -/

namespace Sys2Proof.Machine

/-! ### Sparse data changed at many keys -/

theorem upTo_succ {α : Type} (n : Nat) (f : Nat → α → α) (a : α) : upTo (n + 1) f a = f n (upTo n f a) := by
  simp [upTo, List.range_succ]

theorem sget_upTo_smod {α : Type} (d : α) (n : Nat) (f : Nat → α → α) (m : Sparse α) (k : Nat) :
    sget d (upTo n (fun i m => smod d m i (f i)) m) k = if k < n then f k (sget d m k) else sget d m k := by
  induction n with
  | zero => rfl
  | succ n ih =>
    rw [upTo_succ]
    rcases Nat.lt_trichotomy k n with lt | rfl | gt
    · rw [sget_smod_ne _ _ _ (Nat.ne_of_lt lt), ih, if_pos lt, if_pos (by omega)]
    · rw [sget_smod_self, ih, if_neg (Nat.lt_irrefl k), if_pos (Nat.lt_succ_self k)]
    · rw [sget_smod_ne _ _ _ (Nat.ne_of_gt gt), ih, if_neg (by omega), if_neg (by omega)]

/-- Every listed value changed, where the default stands. -/
theorem sget_map {α : Type} {d : α} (g : α → α) (h : g d = d) (m : Sparse α) (k : Nat) :
    sget d (m.map (fun p => (p.1, g p.2))) k = g (sget d m k) := by
  induction m with
  | nil => exact h.symm
  | cons p m ih =>
    simp only [List.map_cons, sget]
    split
    · rfl
    · exact ih

/-! ### Capture units (R37 to R39) -/

/-- A capture unit watches an event of a source (R38, R39). -/
def CapSt.watches (u : CapSt) (code sel : Nat) : Bool :=
  u.opened && !u.freeze && decide (bits u.src 15 0 = code ∧ bits u.src 21 16 = sel)

theorem CapSt.watches_iff (u : CapSt) (code sel : Nat) : u.watches code sel = true ↔
    u.opened = true ∧ u.freeze = false ∧ u.src % 2 ^ 16 = code ∧ u.src / 2 ^ 16 % 2 ^ 6 = sel := by
  simp [watches, bits, and_assoc]

/-- An event reaches the units that watch it, and no other. -/
theorem unit_capture (code sel v : Nat) (s : State) (k : Nat) :
    sget {} (capture code sel v s).pkg.caps k =
      if (sget {} s.pkg.caps k).watches code sel then capRecord (sget {} s.pkg.caps k) v else sget {} s.pkg.caps k := by
  have units : (capture code sel v s).pkg.caps = s.pkg.caps.map (fun p =>
      (p.1, if p.2.watches code sel then capRecord p.2 v else p.2)) :=
    List.map_congr_left fun p _ => (apply_ite (Prod.mk p.1) _ _ _).symm
  rw [units]
  exact sget_map (fun u : CapSt => if u.watches code sel then capRecord u v else u) rfl ..

/-- The bin of a value by the unit's first value and bin width (R39). -/
theorem capBin_eq (hb v : Nat) : capBin hb v =
    if v < hb % 2 ^ 32 then 0 else min 15 ((v - hb % 2 ^ 32) / 2 ^ (hb / 2 ^ 32 % 2 ^ 6)) := by
  simp [capBin, bits]

theorem capRecord_hist (u : CapSt) (v j : Nat) : sget 0 (capRecord u v).hist j =
    if j = capBin u.hb v ∧ sget 0 u.hist j < 2 ^ 64 - 1 then sget 0 u.hist j + 1 else sget 0 u.hist j := by
  simp only [capRecord]
  by_cases same : j = capBin u.hb v
  · subst same
    rw [sget_smod_self, satInc]
    simp only [true_and]
  · rw [sget_smod_ne _ _ _ same, if_neg (fun h => same h.1)]

theorem unit_modCap (n : Nat) (f : CapSt → CapSt) (s : State) :
    sget {} (modCap n f s).pkg.caps n = f (sget {} s.pkg.caps n) ∧
      ∀ k, k ≠ n → sget {} (modCap n f s).pkg.caps k = sget {} s.pkg.caps k :=
  ⟨sget_smod_self .., fun _ h => sget_smod_ne _ _ _ h⟩

/-! ### A power sample (R33, R35) -/

theorem setCap_eq (v : Nat) (s : State) :
    setCap v s = { s with pkg := { s.pkg with cap := max 60 (min 120 (v % 256)) } } := by
  have low : bits v 7 0 = v % 256 := by simp [bits]
  have held : min 120 (max 60 (v % 256)) = max 60 (min 120 (v % 256)) := by omega
  rw [setCap, low, held]

/-- One sample moves a die's level by its power against its share, and neither its level in force nor its temperature. -/
theorem stepDie_results (s : State) (mw : Nat) (o : DieSt) :
    let share := (25 * s.pkg.cap - 590) * 5125 * 1000
    (stepDie s mw o).pending = (if share < mw * 24100 then min 7 (o.pending + 1)
      else if mw * 24100 * 100 < share * 95 ∧ o.below = 7 then o.pending - 1 else o.pending) ∧
    (stepDie s mw o).level = o.level ∧ (stepDie s mw o).temp = o.temp := by
  intro share
  have above : aboveShare s mw = true ↔ share < mw * 24100 := decide_eq_true_iff
  have below : belowShare s mw = true ↔ mw * 24100 * 100 < share * 95 := decide_eq_true_iff
  simp only [stepDie, above, below, Nat.reduceEqDiff]
  split_ifs <;> simp_all

theorem stepDie_of_cap {s t : State} (h : t.pkg.cap = s.pkg.cap) : stepDie t = stepDie s := by
  funext mw o
  unfold stepDie aboveShare belowShare powcap
  rw [h]

/-- The first `n` dies sampled, which the capture units look on at. -/
def sampleDies (n : Nat) (s : State) : State :=
  upTo n (fun d u => capture 4 d (s.input.nats.getD d 0)
    { u with pkg := { u.pkg with dies := smod {} u.pkg.dies d (stepDie u (s.input.nats.getD d 0)) } }) s

/-- The dies' levels after that. -/
def sampledDies (n : Nat) (s : State) : Sparse DieSt :=
  upTo n (fun d m => smod {} m d (stepDie s (s.input.nats.getD d 0))) s.pkg.dies

/-- Cores, memory, fabric and scheduler stand. -/
def PartsStand (s t : State) : Prop := t.cores = s.cores ∧ t.mem = s.mem ∧ t.fab = s.fab ∧ t.sched = s.sched

theorem PartsStand.trans {s t u : State} (h : PartsStand s t) (g : PartsStand t u) : PartsStand s u := by
  obtain ⟨cores, mem, fab, sched⟩ := h
  obtain ⟨cores', mem', fab', sched'⟩ := g
  exact ⟨cores'.trans cores, mem'.trans mem, fab'.trans fab, sched'.trans sched⟩

theorem sampleDies_results (n : Nat) (s : State) :
    let u := sampleDies n s
    u.pkg.dies = sampledDies n s ∧ u.pkg.cap = s.pkg.cap ∧ u.pkg.above = s.pkg.above ∧ PartsStand s u := by
  induction n with
  | zero => exact ⟨rfl, rfl, rfl, rfl, rfl, rfl, rfl⟩
  | succ n ih =>
    obtain ⟨dies, cap, kept⟩ := ih
    simp only [sampleDies, sampledDies, upTo_succ] at dies cap kept ⊢
    exact ⟨by rw [← dies, ← stepDie_of_cap cap]; rfl, cap, kept⟩

/-- The count of samples above the cap, up to the three that raise every level (R35). -/
def aboveCap (s : State) : Nat := if 25 * s.pkg.cap < s.input.n then min 3 (s.pkg.above + 1) else 0

/-- The module's power taken after the dies'. -/
def takePower (watts : Nat) (u : State) : State :=
  { u with pkg := { u.pkg with
    power := min 65535 watts, above := if powcap u < watts then min 3 (u.pkg.above + 1) else 0 } }

theorem takePower_dies (watts : Nat) (u : State) : (takePower watts u).pkg.dies = u.pkg.dies := rfl

theorem partsStand_takePower (watts : Nat) (u : State) : PartsStand u (takePower watts u) := ⟨rfl, rfl, rfl, rfl⟩

theorem takePower_above (s : State) : (takePower s.input.n (sampleDies 4 s)).pkg.above = aboveCap s := by
  obtain ⟨-, cap, above, -⟩ := sampleDies_results 4 s
  simp only [takePower, powcap, cap, above, aboveCap]

/-- Every level raised to 6. -/
def raisedDies (m : Sparse DieSt) : Sparse DieSt :=
  upTo 4 (fun d m => smod {} m d (fun x => { x with pending := max x.pending 6 })) m

def raiseLevels (s : State) : State := { s with pkg := { s.pkg with dies := raisedDies s.pkg.dies } }

theorem raiseLevels_dies (s : State) : (raiseLevels s).pkg.dies = raisedDies s.pkg.dies := rfl

theorem partsStand_raiseLevels (s : State) : PartsStand s (raiseLevels s) := ⟨rfl, rfl, rfl, rfl⟩

theorem exec_arbiterSample_eq (s : State) : exec .arbiterSample s =
    .next (let t := takePower s.input.n (sampleDies 4 s); if t.pkg.above = 3 then raiseLevels t else t) :=
  exec_arbiterSample s

/-- The dies after a whole sample. -/
def diesAfterSample (s : State) : Sparse DieSt :=
  if aboveCap s = 3 then raisedDies (sampledDies 4 s) else sampledDies 4 s

theorem arbiterSample_answers (s : State) : Answers .arbiterSample s (fun t => t.pkg.dies = diesAfterSample s ∧
    t.pkg.power = min 65535 s.input.n ∧ t.pkg.above = aboveCap s ∧ PartsStand s t) := by
  obtain ⟨dies, -, -, sampled⟩ := sampleDies_results 4 s
  have kept := sampled.trans (partsStand_takePower s.input.n _)
  have above := takePower_above s
  refine ⟨_, exec_arbiterSample_eq s, ?_⟩
  dsimp only
  rw [above, diesAfterSample]
  split
  · exact ⟨by rw [raiseLevels_dies, takePower_dies, dies], rfl, above, kept.trans (partsStand_raiseLevels _)⟩
  · exact ⟨by rw [takePower_dies, dies], rfl, above, kept⟩

/-- Each die is stepped by its own sample, and raised to 6 where three samples were above the cap (R35). -/
theorem sget_diesAfterSample (s : State) {d : Nat} (h : d < 4) :
    let x := sget {} (diesAfterSample s) d
    let o := stepDie s (s.input.nats.getD d 0) (sget {} s.pkg.dies d)
    x.pending = (if aboveCap s = 3 then max o.pending 6 else o.pending) ∧ x.level = o.level ∧ x.temp = o.temp := by
  have stepped : sget {} (sampledDies 4 s) d = stepDie s (s.input.nats.getD d 0) (sget {} s.pkg.dies d) :=
    (sget_upTo_smod ..).trans (if_pos h)
  unfold diesAfterSample
  split
  · rw [raisedDies, sget_upTo_smod, if_pos h, stepped]
    generalize stepDie _ _ _ = o
    exact ⟨rfl, rfl, rfl⟩
  · rw [stepped]; exact ⟨rfl, rfl, rfl⟩

/-! ### The level in force (R36) -/

/-- The level that a die's power and temperature ask for put in force, which the capture units look on at. -/
def applyLevel (s : State) : State :=
  let d := sget {} s.pkg.dies s.input.die
  capture 6 s.input.die d.inForce
    { s with pkg := { s.pkg with dies := sput s.pkg.dies s.input.die { d with level := d.inForce } } }

theorem exec_throttleLevelApply_eq (s : State) : exec .throttleLevelApply s =
    .next (if (sget {} s.pkg.dies s.input.die).level != (sget {} s.pkg.dies s.input.die).inForce then applyLevel s
      else s) := exec_throttleLevelApply s

theorem applyLevel_die (s : State) : sget {} (applyLevel s).pkg.dies s.input.die =
    { sget {} s.pkg.dies s.input.die with level := (sget {} s.pkg.dies s.input.die).inForce } := sget_sput_self ..

theorem applyLevel_others (s : State) {d : Nat} (h : d ≠ s.input.die) :
    sget {} (applyLevel s).pkg.dies d = sget {} s.pkg.dies d := sget_sput_ne _ _ _ h

/-! ### Halts (R317, R321) -/

/-- A core, and a slot, that has halted. -/
def CoreSt.halt (c : CoreSt) : CoreSt := { c with halted := true }
def SlotSt.halt (x : SlotSt) : SlotSt := { x with halted := true }

/-- `t` is `s` but that slots and cores have halted, and messages and debug notes of it have been made. -/
structure HaltsOnly (s t : State) : Prop where
  pkg     : t.pkg = s.pkg
  mem     : t.mem = s.mem
  packets : t.sched.packets = s.sched.packets
  groups  : t.sched.groups = s.sched.groups
  slot    : ∀ i, t.slot i = s.slot i ∨ t.slot i = (s.slot i).halt
  core    : ∀ c, t.core c = s.core c ∨ t.core c = (s.core c).halt

theorem HaltsOnly.refl (s : State) : HaltsOnly s s :=
  ⟨rfl, rfl, rfl, rfl, fun _ => .inl rfl, fun _ => .inl rfl⟩

theorem HaltsOnly.trans {s t u : State} (h : HaltsOnly s t) (g : HaltsOnly t u) : HaltsOnly s u where
  pkg := g.pkg.trans h.pkg
  mem := g.mem.trans h.mem
  packets := g.packets.trans h.packets
  groups := g.groups.trans h.groups
  slot i := by
    obtain e | e := g.slot i <;> obtain d | d := h.slot i <;> simp [e, d, SlotSt.halt]
  core c := by
    obtain e | e := g.core c <;> obtain d | d := h.core c <;> simp [e, d, CoreSt.halt]

theorem HaltsOnly.slot_halted {s t : State} (h : HaltsOnly s t) {i : Nat} (on : (s.slot i).halted = true) :
    (t.slot i).halted = true := by
  obtain e | e := h.slot i <;> simp [e, on, SlotSt.halt]

theorem HaltsOnly.core_halted {s t : State} (h : HaltsOnly s t) {c : Nat} (on : (s.core c).halted = true) :
    (t.core c).halted = true := by
  obtain e | e := h.core c <;> simp [e, on, CoreSt.halt]

theorem HaltsOnly.core_eq {s t : State} (h : HaltsOnly s t) (c : Nat) :
    t.core c = { s.core c with halted := (t.core c).halted } := by
  obtain e | e := h.core c <;> rw [e]
  rfl

theorem HaltsOnly.slot_packet {s t : State} (h : HaltsOnly s t) (i : Nat) : (t.slot i).packet = (s.slot i).packet := by
  obtain e | e := h.slot i <;> rw [e]
  rfl

theorem HaltsOnly.packet? {s t : State} (h : HaltsOnly s t) (id : Nat) : t.packet? id = s.packet? id := by
  rw [State.packet?, State.packet?, h.packets]

theorem HaltsOnly.group? {s t : State} (h : HaltsOnly s t) (g : Nat) : t.group? g = s.group? g := by
  rw [State.group?, State.group?, h.groups]

/-- A list of halts, one after another. -/
theorem haltsOnly_foldl {α : Type} {f : State → α → State} (step : ∀ s a, HaltsOnly s (f s a)) (l : List α) (s : State) :
    HaltsOnly s (l.foldl f s) :=
  List.foldlRecOn _ _ (.refl s) fun t h a _ => h.trans (step t a)

/-- Each of them happens after some of the others and before the rest. -/
theorem haltsOnly_foldl_mem {α : Type} {f : State → α → State} (step : ∀ s a, HaltsOnly s (f s a)) {l : List α} {a : α}
    (h : a ∈ l) (s : State) : ∃ u, HaltsOnly s u ∧ HaltsOnly (f u a) (l.foldl f s) := by
  obtain ⟨pre, post, rfl⟩ := List.append_of_mem h
  rw [List.foldl_append]
  exact ⟨_, haltsOnly_foldl step pre s, haltsOnly_foldl step post _⟩

theorem State.slot_modSlot (s : State) (i : Nat) (f : SlotSt → SlotSt) : (s.modSlot i f).slot i = f (s.slot i) :=
  sget_smod_self ..

theorem State.slot_modSlot_ne (s : State) {i k : Nat} (f : SlotSt → SlotSt) (h : k ≠ i) :
    (s.modSlot i f).slot k = s.slot k := sget_smod_ne _ _ _ h

/-- One core halts. -/
def haltCore (s : State) (c : Nat) : State := s.modCore c CoreSt.halt

theorem haltsOnly_haltCore (s : State) (c : Nat) : HaltsOnly s (haltCore s c) := by
  refine ⟨rfl, rfl, rfl, rfl, fun _ => .inl rfl, fun k => ?_⟩
  by_cases e : k = c
  · subst e; exact .inr (s.core_modCore ..)
  · exact .inl (s.core_modCore_ne _ e)

/-- The cores of one group halt. -/
def haltGroup (s : State) (g : Nat) : State :=
  match s.group? g with
  | none => s
  | some x => x.cores.foldl haltCore s

theorem haltsOnly_haltGroup (s : State) (g : Nat) : HaltsOnly s (haltGroup s g) := by
  unfold haltGroup
  split
  · exact .refl s
  · exact haltsOnly_foldl haltsOnly_haltCore ..

theorem haltGroup_core {s : State} {g c : Nat} {y : Group} (hg : s.group? g = some y) (hc : c ∈ y.cores) :
    ((haltGroup s g).core c).halted = true := by
  obtain ⟨u, -, after⟩ := haltsOnly_foldl_mem haltsOnly_haltCore hc s
  rw [haltGroup, hg]
  exact after.core_halted (by rw [haltCore, State.core_modCore]; rfl)

/-- A slot's own mark of its halt. -/
def markSlot (i : Nat) (s : State) : State := s.modSlot i SlotSt.halt

theorem haltsOnly_markSlot (i : Nat) (s : State) : HaltsOnly s (markSlot i s) := by
  refine ⟨rfl, rfl, rfl, rfl, fun k => ?_, fun _ => .inl rfl⟩
  by_cases e : k = i
  · subst e; exact .inr (s.slot_modSlot k _)
  · exact .inl (s.slot_modSlot_ne _ e)

theorem haltSlot_eq (i : Nat) (s : State) : haltSlot i true s =
    match ((markSlot i s).slot i).packet.bind (markSlot i s).packet? with
    | none => markSlot i s
    | some p => p.groups.foldl haltGroup (markSlot i s) := rfl

theorem haltsOnly_haltSlot (i : Nat) (s : State) : HaltsOnly s (haltSlot i true s) := by
  rw [haltSlot_eq]
  split
  · exact haltsOnly_markSlot i s
  · exact (haltsOnly_markSlot i s).trans (haltsOnly_foldl haltsOnly_haltGroup ..)

theorem haltSlot_slot (i : Nat) (s : State) : ((haltSlot i true s).slot i).halted = true := by
  have marked : ((markSlot i s).slot i).halted = true := congrArg SlotSt.halted (s.slot_modSlot i _)
  rw [haltSlot_eq]
  split
  · exact marked
  · exact (haltsOnly_foldl haltsOnly_haltGroup ..).slot_halted marked

/-- The cores of the groups of a slot's packet halt with it. -/
theorem haltSlot_core {i : Nat} {s : State} {p : Packet} {g c : Nat} {y : Group} (slot : (s.slot i).packet = some p.id)
    (packet : s.packet? p.id = some p) (hg : g ∈ p.groups) (group : s.group? g = some y) (hc : c ∈ y.cores) :
    ((haltSlot i true s).core c).halted = true := by
  have mark := haltsOnly_markSlot i s
  have found : ((markSlot i s).slot i).packet.bind (markSlot i s).packet? = some p := by
    rw [mark.slot_packet, slot, Option.bind_some, mark.packet?, packet]
  obtain ⟨u, before, after⟩ := haltsOnly_foldl_mem haltsOnly_haltGroup hg (markSlot i s)
  rw [haltSlot_eq, found]
  exact after.core_halted (haltGroup_core ((mark.trans before).group? g ▸ group) hc)

theorem haltsOnly_post (s : State) (m : FabMsg) : HaltsOnly s (s.post m) := by
  obtain h | ⟨r, h⟩ := s.post_cases m <;> rw [h] <;> exact ⟨rfl, rfl, rfl, rfl, fun _ => .inl rfl, fun _ => .inl rfl⟩

theorem haltsOnly_haltLaunch (root chain : Nat) (s : State) : HaltsOnly s (haltLaunch root chain s) := by
  have slots := haltsOnly_foldl (fun s p => haltsOnly_haltSlot p.slot s)
    (s.sched.packets.filter (fun p => p.ofLaunch s.self root chain)) s
  unfold haltLaunch
  dsimp only
  split
  · exact slots.trans ⟨rfl, rfl, rfl, rfl, fun _ => .inl rfl, fun _ => .inl rfl⟩
  · exact slots

theorem haltsOnly_haltFar (i : Nat) (s : State) : HaltsOnly s (haltFar i s) := by
  unfold haltFar
  split
  · split
    · exact (haltsOnly_foldl (fun s _ => haltsOnly_post s _) ..).trans (haltsOnly_haltLaunch ..)
    · exact .refl s
  · exact .refl s

/-- The halt of one slot with a running packet, here and at the other members (R317). -/
def haltEverywhere (s : State) (i : Nat) : State := haltFar i (haltSlot i true s)

theorem haltsOnly_haltEverywhere (s : State) (i : Nat) : HaltsOnly s (haltEverywhere s i) :=
  (haltsOnly_haltSlot i s).trans (haltsOnly_haltFar i _)

/-- Every slot with a running packet halted. -/
def haltBusy (s : State) : State := (busySlots s).foldl haltEverywhere s

theorem thermalHalt_eq (s : State) : thermalHalt s = raiseInt 2 { haltBusy s with dbg :=
    { (haltBusy s).dbg with state := 2, src := .thermal, hslot := 0, thermal := true } } := rfl

theorem haltsOnly_haltBusy (s : State) : HaltsOnly s (haltBusy s) := haltsOnly_foldl haltsOnly_haltEverywhere ..

theorem mem_busySlots {s : State} {i : Nat} : i ∈ busySlots s ↔ i < 256 ∧ (s.slot i).state = .busy := by
  simp [busySlots]

theorem haltBusy_slot {s : State} {i : Nat} (h : i ∈ busySlots s) : ((haltBusy s).slot i).halted = true := by
  obtain ⟨u, -, after⟩ := haltsOnly_foldl_mem haltsOnly_haltEverywhere h s
  exact after.slot_halted ((haltsOnly_haltFar i _).slot_halted (haltSlot_slot i u))

theorem haltBusy_core {s : State} {i : Nat} {p : Packet} {g c : Nat} {y : Group} (h : i ∈ busySlots s)
    (slot : (s.slot i).packet = some p.id) (packet : s.packet? p.id = some p) (hg : g ∈ p.groups)
    (group : s.group? g = some y) (hc : c ∈ y.cores) : ((haltBusy s).core c).halted = true := by
  obtain ⟨u, before, after⟩ := haltsOnly_foldl_mem haltsOnly_haltEverywhere h s
  refine after.core_halted ((haltsOnly_haltFar i _).core_halted (haltSlot_core (p := p) ?_ ?_ hg ?_ hc))
  · rw [before.slot_packet, slot]
  · rw [before.packet?, packet]
  · rw [before.group?, group]

/-! ### A junction temperature (R36, R39, R321) -/

/-- A die's temperature taken, and recorded by the capture units. -/
def tempRead (s : State) : State :=
  capture 5 s.input.die s.input.t
    { s with pkg := { s.pkg with dies := smod {} s.pkg.dies s.input.die (fun d => { d with temp := s.input.t }) } }

theorem exec_junctionTemperature_eq (s : State) : exec .junctionTemperature s =
    .next (if 11000 ≤ s.input.t ∧ s.dbg.thermal = false then thermalHalt (tempRead s) else tempRead s) := by
  have moment : (decide (11000 ≤ s.input.t) && !s.dbg.thermal) = true ↔ 11000 ≤ s.input.t ∧ s.dbg.thermal = false := by
    simp
  rw [exec_junctionTemperature]
  exact congrArg Host.Outcome.next (if_congr moment rfl rfl)

theorem tempRead_die (s : State) : (sget {} (tempRead s).pkg.dies s.input.die).temp = s.input.t ∧
    (sget {} (tempRead s).pkg.dies s.input.die).pending = (sget {} s.pkg.dies s.input.die).pending := by
  have read := sget_smod_self {} s.pkg.dies s.input.die (fun d => { d with temp := s.input.t })
  exact ⟨congrArg (fun d => d.temp) read, congrArg (fun d => d.pending) read⟩

/-- A stack's registers changed: the other stacks stand. -/
theorem stack_modStack (m : MemSt) (i : Nat) (f : StackSt → StackSt) :
    sget {} (m.modStack i f).bdies i = f (sget {} m.bdies i) ∧
      ∀ k, k ≠ i → sget {} (m.modStack i f).bdies k = sget {} m.bdies k :=
  ⟨sget_smod_self .., fun _ h => sget_smod_ne _ _ _ h⟩

/-- Settles O39: the events of power, temperature and capture, each by its equation. -/
theorem powerAndCaptureResults : Obligations.PowerAndCaptureResults := by
  unfold Obligations.PowerAndCaptureResults
  intro s x die unit same share u bin
  refine ⟨fun ready => ?_, ?_, ?_, fun cool => ?_, fun hot first => ?_, ?_, fun ready => ?_, ?_, fun lo hi => ?_⟩
  · exact ⟨_, when_of _ _ (beq_iff_eq.2 ready), congrArg (fun t => t.pkg.cap) (setCap_eq ..), rfl, rfl, rfl, rfl, rfl⟩
  · obtain ⟨t, eq, dies, power, above, kept⟩ := arbiterSample_answers s
    refine ⟨t, eq, power, above, kept, fun d hd => ?_⟩
    obtain ⟨pending, level, temp⟩ := stepDie_results s (x.nats.getD d 0) (die s d)
    obtain ⟨raised, level', temp'⟩ := sget_diesAfterSample s hd
    dsimp only [die]
    rw [dies]
    exact ⟨raised.trans (by rw [pending]; rfl), level'.trans level, temp'.trans temp⟩
  · refine ⟨_, exec_throttleLevelApply_eq s, ?_⟩
    split
    · exact ⟨congrArg (fun d => d.level) (applyLevel_die s), fun d h => applyLevel_others s h, rfl, rfl, rfl, rfl⟩
    · rename_i still
      exact ⟨not_not.1 (mt bne_iff_ne.2 still), fun _ _ => rfl, rfl, rfl, rfl, rfl⟩
  · have stays := exec_junctionTemperature_eq s
    rw [if_neg (fun h => cool.elim (Nat.not_lt.2 h.1) (by simp [h.2]))] at stays
    obtain ⟨temp, pending⟩ := tempRead_die s
    exact ⟨_, stays, temp, pending, ⟨rfl, rfl, rfl, rfl⟩, rfl⟩
  · have halts := exec_junctionTemperature_eq s
    have only := haltsOnly_haltBusy (tempRead s)
    rw [if_pos ⟨hot, first⟩, thermalHalt_eq] at halts
    refine ⟨_, halts, ?_, rfl, rfl, rfl, raiseInt_intstat 2 _, only.mem,
      fun i p g y c hi busy slot packet hg group hc => ?_, fun i hi busy => ?_, only.core_eq⟩
    · exact (congrArg (fun q : PkgSt => (sget {} q.dies x.die).temp) only.pkg).trans (tempRead_die s).1
    · have running : i ∈ busySlots (tempRead s) := mem_busySlots.2 ⟨hi, busy⟩
      exact ⟨haltBusy_slot running, haltBusy_core running slot packet hg group hc⟩
    · exact haltBusy_slot (mem_busySlots.2 ⟨hi, busy⟩)
  · exact ⟨_, exec_hbmStackTemperature s, congrArg StackSt.hot (stack_modStack s.mem x.stack _).1, rfl, rfl,
      (stack_modStack s.mem x.stack _).2⟩
  · obtain ⟨self, others⟩ := unit_modCap x.n CapSt.clear s
    exact ⟨_, when_of _ _ (beq_iff_eq.2 ready), self, others, rfl, rfl, rfl, rfl⟩
  · obtain ⟨self, others⟩ := unit_modCap x.n (fun u => { u with opened := u.openAt s.now }) s
    exact ⟨_, exec_captureWindowEdge s, self, others, rfl, rfl, rfl, rfl⟩
  · refine ⟨_, when_of _ _ (decide_eq_true ⟨lo, hi⟩), ⟨rfl, rfl, rfl, rfl⟩, fun k => ?_⟩
    dsimp only [unit]
    rw [unit_capture]
    simp only [← CapSt.watches_iff]
    refine ⟨fun no => if_neg no, fun yes => ?_⟩
    rw [if_pos yes]
    refine ⟨rfl, rfl, rfl, fun j => ?_⟩
    rw [capRecord_hist, capBin_eq]

end Sys2Proof.Machine
end

section
/-! SUPPORT. Accesses to the cells of plain pages while nothing waits at a pseudo-channel and no internal link trains or has
failed: each is performed at once (R25, R72 to R74, R76, R78). -/

namespace Sys2Proof.Machine

/-! ### The way to a cell (R17, R18, R70) -/

theorem bits_lt (x hi lo : Nat) : bits x hi lo < 2 ^ (hi + 1 - lo) := Nat.mod_lt _ (Nat.two_pow_pos _)

/-- Each scheme spreads a region over eight stacks of 64 pseudo-channels. -/
theorem interleave_lt (code : Nat) (ps7 : Bool) (a : Nat) :
    (interleave code ps7 a).1 < 8 ∧ (interleave code ps7 a).2.1 < 64 := by
  unfold interleave
  split
  case h_8 => split <;> exact ⟨bits_lt .., bits_lt ..⟩
  all_goals exact ⟨bits_lt .., bits_lt ..⟩

theorem channelOf_div_lt (s : State) (off : Nat) : channelOf s off / 64 < 8 := by
  obtain ⟨stack, channel⟩ := interleave_lt (sget 0 s.mem.irtCode (off / 2 ^ 33)) (sget false s.mem.irtPs7 (off / 2 ^ 33)) off
  unfold channelOf MemSt.cell
  dsimp only
  omega

theorem boundaries_lt {a b i : Nat} (ha : a < 4) (h : i ∈ boundaries a b) : i < 4 := by
  unfold boundaries at h
  rcases List.mem_append.1 h with h | h <;> split at h <;> simp at h <;> omega

/-- The links between a core, or the hub, and a cell lie inside the package. -/
theorem internal_of_mem_linksOf {s : State} {core off i : Nat} (h : i ∈ linksOf (channelOf s off) (directReq core off)) :
    internal i = true := by
  have stack := channelOf_div_lt s off
  rw [internal_iff]
  rcases List.mem_append.1 h with h | h
  · change i ∈ (if core < 512 then boundaries (core / 128) _ else [58 + channelOf s off / 64 / 2]) at h
    split at h
    · exact .inl (Nat.lt_of_lt_of_le (boundaries_lt (by omega) h) (by decide))
    · rw [List.mem_singleton.1 h]; omega
  · rw [List.mem_singleton.1 h]; omega

/-- The pseudo-channels changed, as the arrival of a request does. -/
def State.withPcs (s : State) (p : Sparse PcSt) : State := s.withMem { s.mem with pcs := p }

@[simp] theorem directReq_off (core off : Nat) : (directReq core off).off = off := rfl

section Quiet

variable {s : State} (quiet : s.quiet)
include quiet

theorem severed_quiet (core off : Nat) : severed s core off = false := by
  simp only [severed, cutFrom, List.any_eq_false, beq_iff_eq]
  exact fun i hi => (quiet.2 i (internal_of_mem_linksOf hi)).2

theorem heldFrom_quiet (core off : Nat) : heldFrom s (channelOf s off) (directReq core off) = false := by
  simp only [heldFrom, List.any_eq_false, beq_iff_eq]
  exact fun i hi => (quiet.2 i (internal_of_mem_linksOf hi)).1

/-! ### Arrival at a cell (R73, R78) -/

theorem reachCell_quiet (core off : Nat) : ∃ p, reachCell core off s = s.withPcs p := by
  have free : (if heldFrom s (channelOf s off) (directReq core off) then s.waitTurn else s) = s := by
    rw [heldFrom_quiet quiet]; rfl
  have alone : (s.pcSt (channelOf s off)).queue = [] := quiet.1 _
  refine ⟨_, (?_ : reachCell core off s = s.modPc (channelOf s off) fun p => { p with idleFrom := s.now, selfRef := false })⟩
  have turn : ((s.pcSt (channelOf s off)).queue.isEmpty && pcClass .other == .normal) = true := by rw [alone]; rfl
  unfold reachCell takeTurn
  dsimp only [directReq_off]
  rw [free]
  exact if_pos turn

theorem homeLoad_quiet (l : Loc) (n : Nat) (c : Ctx) : ∃ p, homeLoad l n c s = cellLoad l n c (s.withPcs p) := by
  obtain ⟨p, reached⟩ := reachCell_quiet quiet c.core l.off
  have whole : severed (s.withPcs p) c.core l.off = false := severed_quiet quiet ..
  exact ⟨p, by simp [homeLoad, reached, whole]⟩

theorem homeStore_quiet (l : Loc) (bs : List Byte) (c : Ctx) (k : WKind) :
    ∃ p, homeStore l bs c k s = cellStore l bs c k (s.withPcs p) := by
  obtain ⟨p, reached⟩ := reachCell_quiet quiet c.core l.off
  have whole : severed (s.withPcs p) c.core l.off = false := severed_quiet quiet ..
  exact ⟨p, by simp [homeStore, reached, whole]⟩

theorem homeModify_quiet (l : Loc) (n : Nat) (f : Nat → Nat) (c : Ctx) (k : WKind) :
    ∃ p, homeModify l n f c k s = cellModify l n f c k (s.withPcs p) := by
  obtain ⟨p, reached⟩ := reachCell_quiet quiet c.core l.off
  have whole : severed (s.withPcs p) c.core l.off = false := severed_quiet quiet ..
  exact ⟨p, by simp [homeModify, reached, whole]⟩

end Quiet

/-! ### Writes beside the pseudo-channels -/

theorem MemSt.putBytes_pcs (m : MemSt) (p : Sparse PcSt) (a : Nat) (bs : List Byte) :
    { m with pcs := p }.putBytes a bs = { m.putBytes a bs with pcs := p } := by
  induction bs generalizing m a with
  | nil => rfl
  | cons b bs ih => exact ih (m.setByte a b) (a + 1)

theorem MemSt.foldl_setPoison_pcs (m : MemSt) (p : Sparse PcSt) (b : Bool) (f : Nat → Nat) (l : List Nat) :
    l.foldl (fun m i => m.setPoison (f i) b) { m with pcs := p } =
      { l.foldl (fun m i => m.setPoison (f i) b) m with pcs := p } := by
  induction l generalizing m with
  | nil => rfl
  | cons i l ih => exact ih (m.setPoison (f i) b)

theorem MemSt.write_pcs (m : MemSt) (p : Sparse PcSt) (a : Nat) (bs : List Byte) :
    { m with pcs := p }.write a bs = { m.write a bs with pcs := p } := by
  unfold MemSt.write
  dsimp only
  rw [MemSt.putBytes_pcs]
  exact MemSt.foldl_setPoison_pcs _ p false (fun i => ((a + 31) / 32 + i) * 32) _

/-- Bytes written to the cells, whatever the arrival has done to the pseudo-channels. -/
theorem State.withPcs_write (s : State) (p : Sparse PcSt) (a : Nat) (bs : List Byte) :
    (s.withPcs p).withMem ((s.withPcs p).mem.write a bs) = (s.withMem (s.mem.write a bs)).withPcs p :=
  congrArg s.withMem (MemSt.write_pcs s.mem p a bs)

/-! ### Plain cells (R72, R74, R268, R323) -/

section Plain

variable {s : State} (quiet : s.quiet) (off : Nat) (c : Ctx) (k : WKind)
include quiet

theorem homeLoad_plain (n : Nat) : ∃ p, homeLoad ⟨off, none⟩ n c s =
    (s.withPcs p, if s.mem.poisoned off n then .error .poison else .ok (s.mem.bytes off n, false)) := by
  obtain ⟨p, h⟩ := homeLoad_quiet quiet ⟨off, none⟩ n c
  have kept : (s.withPcs p).mem.poisoned off n = s.mem.poisoned off n := rfl
  refine ⟨p, h.trans ?_⟩
  simp only [cellLoad, kept]
  split <;> rfl

theorem homeStore_plain (bs : List Byte) : ∃ p, homeStore ⟨off, none⟩ bs c k s =
    ((s.withMem (s.mem.write off bs)).withPcs p, .ok ()) := by
  obtain ⟨p, h⟩ := homeStore_quiet quiet ⟨off, none⟩ bs c k
  exact ⟨p, h.trans (congrArg (·, Except.ok ()) (s.withPcs_write p off bs))⟩

theorem homeModify_plain (n : Nat) (f : Nat → Nat) (clean : s.mem.poisoned off n = false) :
    let old := fromBytes (s.mem.bytes off n)
    ∃ p, homeModify ⟨off, none⟩ n f c k s = ((s.withMem (s.mem.write off (toBytes n (f old)))).withPcs p, .ok old) := by
  intro old
  obtain ⟨p, h⟩ := homeModify_quiet quiet ⟨off, none⟩ n f c k
  have kept : (s.withPcs p).mem.poisoned off n = false := clean
  refine ⟨p, h.trans ?_⟩
  simp only [cellModify, kept, Bool.false_eq_true, if_false]
  exact congrArg (·, Except.ok old) (s.withPcs_write p off (toBytes n (f old)))

theorem homeAmo_plain (op : AmoOp) (b x : Nat) (clean : s.mem.poisoned off (amoSize op) = false) :
    let old := fromBytes (s.mem.bytes off (amoSize op))
    ∃ p, homeAmo ⟨off, none⟩ op b x c s =
      ((s.withMem (s.mem.write off (toBytes (amoSize op) (amoNew op old b x)))).withPcs p, .ok old) :=
  homeModify_plain quiet off c _ (amoSize op) (fun o => amoNew op o b x) clean

theorem homeArrive_plain (clean : s.mem.poisoned off 12 = false) :
    let word := fromBytes (s.mem.bytes off 12)
    ∃ p, homeArrive ⟨off, none⟩ c k s =
      ((s.withMem (s.mem.write off (toBytes 12 (arriveWord word)))).withPcs p, .ok (bits word 95 64)) := by
  intro word
  obtain ⟨p, h⟩ := homeModify_plain quiet off c k 12 arriveWord clean
  exact ⟨p, by rw [homeArrive, h]⟩

end Plain

end Sys2Proof.Machine
end

section
/-! SUPPORT. What the route of a message depends on (R46, R47). -/

namespace Sys2Proof.Machine

/-- The links, members and settings by which a device picks routes are the same in two states. -/
structure SameRoutes (s t : State) : Prop where
  x       : t.fab.x = s.fab.x
  y       : t.fab.y = s.fab.y
  ncm1    : t.fab.ncm1 = s.fab.ncm1
  nrm1    : t.fab.nrm1 = s.fab.nrm1
  members : t.fab.members = s.fab.members
  map     : t.fab.map = s.fab.map
  detEn   : t.fab.detEn = s.fab.detEn
  thr     : t.fab.thr = s.fab.thr
  links   : t.pkg.links = s.pkg.links
  nextId  : t.nextId = s.nextId

section Routes

variable {s t : State} (same : SameRoutes s t)
include same

theorem SameRoutes.self : t.self = s.self := by rw [State.self, State.self, same.x, same.y]

theorem SameRoutes.isMember (d : Nat) : t.isMember d = s.isMember d := by
  rw [State.isMember, State.isMember, same.members]

theorem SameRoutes.ownPorts : ownPorts t = ownPorts s := by
  have link : State.link t = State.link s := funext fun i => by rw [State.link, State.link, same.links]
  rw [Machine.ownPorts, Machine.ownPorts, link]

theorem SameRoutes.portUp (d p : Nat) : portUp t d p = portUp s d p := by
  rw [Machine.portUp, Machine.portUp, same.self, same.map, same.ownPorts]

theorem SameRoutes.routeUp (d : Nat) (l : List Nat) : routeUp t d l = routeUp s d l := by
  induction l generalizing d with
  | nil => rfl
  | cons e l ih => simp only [Machine.routeUp, same.portUp, same.isMember, ih]

theorem SameRoutes.upRoutes (dst hops : Nat) : upRoutes t dst hops = upRoutes s dst hops := by
  simp only [Machine.upRoutes, candidates, same.self, same.ncm1, same.nrm1, same.routeUp]

theorem SameRoutes.pickRoute (dst hops : Nat) : pickRoute t dst hops = pickRoute s dst hops := by
  simp only [Machine.pickRoute, same.self, same.upRoutes, same.detEn, same.thr, same.nextId]

end Routes

end Sys2Proof.Machine
end

section
/-! SUPPORT. Remote requests at their home: what each leaves in the cells or in a scratchpad, and its answer (R44, R51 to R58,
R248, R268, R270, R323). -/

namespace Sys2Proof.Machine

/-! ### The answer (R47, R48) -/

/-- What has been sent once a response has left for its source, where it finds a route. -/
def State.responded (s : State) (dst id : Nat) (r : RemoteResult) : List Sent :=
  match pickRoute s dst 4 with
  | some way => s.fab.sent ++ [⟨.response dst id r, way⟩]
  | none => s.fab.sent

/-- A response leaves, where it finds a route, and shows nowhere else but at a source that is this device. -/
theorem respondTo_eq (dst id : Nat) (r : RemoteResult) (s : State) : ∃ back, respondTo dst id r s =
    { s with fab := { s.fab with sent := s.responded dst id r, back := back } } := by
  unfold respondTo State.responded
  cases pickRoute s dst 4 with
  | none => exact ⟨s.fab.back, rfl⟩
  | some way =>
    by_cases home : dst = s.self
    · exact ⟨_, if_pos home⟩
    · exact ⟨s.fab.back, if_neg home⟩

theorem SameRoutes.responded {s t : State} (same : SameRoutes s t) (sent : t.fab.sent = s.fab.sent) (dst id : Nat)
    (r : RemoteResult) : t.responded dst id r = s.responded dst id r := by
  rw [State.responded, State.responded, same.pickRoute, sent]

/-- The low bytes of an integer are those of its remainder. -/
theorem toBytes_mod (n v : Nat) : toBytes n (v % 256 ^ n) = toBytes n v := by
  induction n generalizing v with
  | zero => rfl
  | succ n ih =>
    have low : v % (256 * 256 ^ n) % 256 = v % 256 := Nat.mod_mul_right_mod ..
    have byte : BitVec.ofNat 8 (v % (256 * 256 ^ n)) = BitVec.ofNat 8 v := BitVec.eq_of_toNat_eq (by simp [low])
    rw [Nat.pow_succ, Nat.mul_comm]
    simp only [toBytes]
    rw [byte, Nat.mod_mul_right_div_self, ih]

/-- The token of an arrival is the phase of the barrier word (R268). -/
theorem toBytes_phase (w : Nat) : toBytes 4 (bits w 95 64) = toBytes 4 (w / 2 ^ 64) := toBytes_mod 4 _

/-! ### At plain cells (R51, R54, R55) -/

section Cells

variable {s : State} {q : RemoteReq} {off : Nat} (quiet : s.quiet) (plain : versionedAt s off = none)
include quiet plain

theorem homeHbm_load (kind : q.kind = .load) : ∃ p, homeHbm off q s =
    (s.withPcs p, if s.mem.poisoned off q.size then .err .poison else .data (s.mem.bytes off q.size)) := by
  obtain ⟨p, h⟩ := homeLoad_plain quiet off remoteCtx q.size
  refine ⟨p, ?_⟩
  simp only [homeHbm, kind, plain, h]
  split <;> rfl

theorem homeHbm_store {posted : Bool} (kind : q.kind = .store posted) : ∃ p, homeHbm off q s =
    ((s.withMem (s.mem.write off q.data)).withPcs p, .data []) := by
  obtain ⟨p, h⟩ := homeStore_plain quiet off remoteCtx .store q.data
  exact ⟨p, by simp only [homeHbm, kind, plain, h]; rfl⟩

theorem homeHbm_poison (kind : q.kind = .poison) : ∃ p, homeHbm off q s =
    ((s.withMem (s.mem.setPoison off true)).withPcs p, .data []) := by
  obtain ⟨p, h⟩ := reachCell_quiet quiet remoteCtx.core off
  have whole : severed (s.withPcs p) remoteCtx.core off = false := severed_quiet quiet ..
  exact ⟨p, by simp only [homeHbm, kind, plain, h, whole]; rfl⟩

theorem homeHbm_atomic {op : AmoOp} {ret : Bool} {v e : Word} (kind : q.kind = .atomic op ret v e)
    (clean : s.mem.poisoned off (amoSize op) = false) :
    let old := fromBytes (s.mem.bytes off (amoSize op))
    ∃ p, homeHbm off q s =
      ((s.withMem (s.mem.write off (toBytes (amoSize op) (amoNew op old v.toNat e.toNat)))).withPcs p,
        .data (toBytes (amoSize op) old)) := by
  intro old
  obtain ⟨p, h⟩ := homeAmo_plain quiet off remoteCtx op v.toNat e.toNat clean
  exact ⟨p, by simp only [homeHbm, kind, plain, h]; rfl⟩

theorem homeHbm_arrive (kind : q.kind = .arrive) (clean : s.mem.poisoned off 12 = false) :
    let word := fromBytes (s.mem.bytes off 12)
    ∃ p, homeHbm off q s =
      ((s.withMem (s.mem.write off (toBytes 12 (arriveWord word)))).withPcs p, .data (toBytes 4 (word / 2 ^ 64))) := by
  intro word
  obtain ⟨p, h⟩ := homeArrive_plain quiet off remoteCtx .iatomic clean
  exact ⟨p, by simp only [homeHbm, kind, plain, h, homeResult, toBytes_phase]; rfl⟩

end Cells

theorem homeHbm_versioned_store {s : State} {q : RemoteReq} {off : Nat} {posted : Bool}
    (versioned : (versionedAt s off).isSome = true) (kind : q.kind = .store posted) :
    homeHbm off q s = (s, .err .owner) := by
  simp only [homeHbm, kind, versioned, if_true]

/-! ### At a scratchpad (R58, R248, R270) -/

/-- From `s` to `t` only core `core` has changed, to `d`. -/
structure OneCore (core : Nat) (d : CoreSt) (s t : State) : Prop where
  rest   : t = { s with cores := t.cores }
  self   : t.core core = d
  others : ∀ k, k ≠ core → t.core k = s.core k

theorem OneCore.refl (core : Nat) (s : State) : OneCore core (s.core core) s s := ⟨rfl, rfl, fun _ _ => rfl⟩

theorem oneCore_modCore (core : Nat) (f : CoreSt → CoreSt) (s : State) :
    OneCore core (f (s.core core)) s (s.modCore core f) :=
  ⟨rfl, s.core_modCore core f, fun _ h => s.core_modCore_ne f h⟩

section Scratchpad

variable {s : State} {q : RemoteReq} {core off : Nat}

theorem homeSpad_load (kind : q.kind = .load) (clean : (s.core core).spadBad off q.size = none) :
    homeSpad core off q s = (s, some (.data ((s.core core).spadBytes off q.size))) := by
  simp [homeSpad, kind, clean]

theorem homeSpad_store {posted : Bool} (kind : q.kind = .store posted) :
    homeSpad core off q s = (s.modCore core (fun c => c.spadWrite off q.data), some (.data [])) := by
  simp only [homeSpad, kind]

theorem homeSpad_ldf {keep : Bool} (kind : q.kind = .ldf keep) (full : (s.core core).tagAt off = true)
    (clean : (s.core core).spadBad off 8 = none) : homeSpad core off q s =
      (if keep then s else s.modCore core (fun c => c.setTag off false),
        some (.data ((s.core core).spadBytes off 8))) := by
  simp [homeSpad, kind, full, clean]

theorem homeSpad_ste {keep : Bool} (kind : q.kind = .ste keep) (empty : (s.core core).tagAt off = false) :
    homeSpad core off q s = (s.modCore core (fun c =>
      if keep then c.spadWrite off q.data else (c.spadWrite off q.data).setTag off true), some (.data [])) := by
  simp [homeSpad, kind, empty]

/-- A tagged request whose word has the other tag waits. -/
theorem homeSpad_waits {keep : Bool} (waits : (q.kind = .ldf keep ∧ (s.core core).tagAt off = false) ∨
    (q.kind = .ste keep ∧ (s.core core).tagAt off = true)) : homeSpad core off q s = (s, none) := by
  rcases waits with ⟨kind, tag⟩ | ⟨kind, tag⟩ <;> simp [homeSpad, kind, tag]

end Scratchpad

/-! ### Where a request acts (R43, R58) -/

theorem homeRequest_hbm {q : RemoteReq} {s t : State} {r : RemoteResult} (space : q.pa / 2 ^ 54 = 1)
    (h : homeHbm (q.pa % 2 ^ 39) q s = (t, r)) : homeRequest q s = (t, some r) := by
  rw [homeRequest, if_pos space, h]

theorem homeRequest_stale {q : RemoteReq} {s : State} (space : q.pa / 2 ^ 54 ≠ 1) (gone : spadCore s q.pa = none) :
    homeRequest q s = ((dropStale q s).1, some (dropStale q s).2) := by
  rw [homeRequest, if_neg space, gone]

theorem internal_hubOf (core : Nat) : internal (hubOf core) = true :=
  (internal_iff _).2 (.inr (Nat.le_add_right ..))

theorem homeRequest_spad {q : RemoteReq} {s : State} {core : Nat} (space : q.pa / 2 ^ 54 ≠ 1) (quiet : s.quiet)
    (live : spadCore s q.pa = some core) : homeRequest q s = homeSpad core (q.pa % 2 ^ 21) q s := by
  obtain ⟨idle, whole⟩ := quiet.2 (hubOf core) (internal_hubOf core)
  have crosses : hubWait core s = s := if_neg fun h => idle h.2
  rw [homeRequest, if_neg space, live]
  dsimp only
  rw [if_neg whole, crosses]

/-! ### REMOTE_REQUEST (R44, R56) -/

/-- The state in which a request from another device has reached its port (R39). -/
def requestArrived (s : State) : State := capture 1 s.input.link (s.now - s.input.req.time) s

/-- A request has arrived for this device, which is READY, from another one (R27, R51). -/
def State.hasRequest (s : State) : Prop :=
  paDev s.input.req.pa = s.self ∧ s.input.req.src ≠ s.self ∧ s.pkg.stage = 7

theorem exec_remoteRequest_arrived {s : State} (here : s.hasRequest) : exec .remoteRequest s =
    .next (if aged s s.input.req.time then countExpired (requestArrived s)
      else performRequest s.input.req (requestArrived s)) := by
  obtain ⟨dst, src, ready⟩ := here
  rw [exec_remoteRequest, execRemoteRequest]
  dsimp only
  rw [when_of _ _ (by simp [dst, ready]), if_neg src, delivered, if_neg src]
  rfl

/-- A request that loops back alone is performed as one that arrives (R44). -/
theorem exec_remoteRequest_loop {s : State} (dst : paDev s.input.req.pa = s.self) (src : s.input.req.src = s.self)
    (ready : s.pkg.stage = 7) (alone : s.fab.loop = [s.input.req]) (young : aged s s.input.req.time = false) :
    exec .remoteRequest s =
      .next (performRequest s.input.req { s with fab := { s.fab with loop := [] } }) := by
  rw [exec_remoteRequest, execRemoteRequest]
  dsimp only
  rw [when_of _ _ (by simp [dst, ready]), if_pos src, alone]
  have first : ∀ q : RemoteReq, [q].find? (fun p => p.id == q.id) = some q := fun q => by simp
  have rest : ∀ q : RemoteReq, [q].filter (fun p => p.id != q.id) = [] := fun q => by simp
  have before : ∀ q : RemoteReq, [q].takeWhile (fun p => p.id != q.id) = [] := fun q => by simp
  rw [first]
  dsimp only
  rw [performUntil, alone, before]
  have young' : aged { s with fab := { s.fab with loop := [] } } s.input.req.time = false := young
  simp only [withEarlier, List.foldr_nil, List.nil_append, List.foldl_cons, List.foldl_nil, loopOne, alone, rest, young',
    Bool.false_eq_true, if_false]

/-! ### The outcomes of a request that arrives in time (R51 to R58) -/

section InTime

variable {s : State} (here : s.hasRequest) (young : aged s s.input.req.time = false)
include here young

theorem exec_remoteRequest_answered {t : State} {r : RemoteResult}
    (h : homeRequest s.input.req (requestArrived s) = (t, some r)) :
    exec .remoteRequest s = .next (respondTo s.input.req.src s.input.req.id r t) := by
  rw [exec_remoteRequest_arrived here, young, performRequest, h]
  rfl

theorem exec_remoteRequest_waits {t : State} (h : homeRequest s.input.req (requestArrived s) = (t, none)) :
    exec .remoteRequest s = .next { t with fab := { t.fab with tagged := t.fab.tagged ++ [s.input.req] } } := by
  rw [exec_remoteRequest_arrived here, young, performRequest, h]
  rfl

/-- A request at the stacks leaves the memory `m` and the answer `r`; its arrival shows at its pseudo-channel (R78). -/
theorem answers_cells {m : MemSt} {r : RemoteResult} (space : s.input.req.pa / 2 ^ 54 = 1)
    (h : ∃ p, homeHbm (s.input.req.pa % 2 ^ 39) s.input.req (requestArrived s) =
      (((requestArrived s).withMem m).withPcs p, r)) :
    Answers .remoteRequest s (fun t => t.mem = { m with pcs := t.mem.pcs } ∧ t.cores = s.cores ∧ t.host = s.host ∧
      t.fab.sent = s.responded s.input.req.src s.input.req.id r) := by
  obtain ⟨p, h⟩ := h
  have same : SameRoutes s (((requestArrived s).withMem m).withPcs p) := ⟨rfl, rfl, rfl, rfl, rfl, rfl, rfl, rfl, rfl, rfl⟩
  have answered := exec_remoteRequest_answered here young (homeRequest_hbm space h)
  obtain ⟨back, leaves⟩ := respondTo_eq s.input.req.src s.input.req.id r (((requestArrived s).withMem m).withPcs p)
  rw [leaves] at answered
  exact ⟨_, answered, rfl, rfl, rfl, same.responded rfl ..⟩

/-- A request at the scratchpad of a live core leaves that core as `d`, and the answer `r`. -/
theorem answers_spad {core : Nat} {t : State} {d : CoreSt} {r : RemoteResult} (space : s.input.req.pa / 2 ^ 54 ≠ 1)
    (quiet : s.quiet) (live : spadCore s s.input.req.pa = some core)
    (h : homeSpad core (s.input.req.pa % 2 ^ 21) s.input.req (requestArrived s) = (t, some r))
    (one : OneCore core d (requestArrived s) t) :
    Answers .remoteRequest s (fun t => t.mem = s.mem ∧ t.core core = d ∧ (∀ k, k ≠ core → t.core k = s.core k) ∧
      t.host = s.host ∧ t.fab.sent = s.responded s.input.req.src s.input.req.id r) := by
  have acts := (homeRequest_spad (s := requestArrived s) space quiet live).trans h
  have answered := exec_remoteRequest_answered here young acts
  obtain ⟨back, leaves⟩ := respondTo_eq s.input.req.src s.input.req.id r t
  rw [leaves] at answered
  obtain ⟨rest, self, others⟩ := one
  have same : SameRoutes s t := by rw [rest]; exact ⟨rfl, rfl, rfl, rfl, rfl, rfl, rfl, rfl, rfl, rfl⟩
  exact ⟨_, answered, by rw [rest]; rfl, self, others, by rw [rest]; rfl, same.responded (by rw [rest]; rfl) ..⟩

end InTime

/-- An arrival from outside a core's words acts as one, and its source has the token (R268). -/
theorem exec_barrierArrival_hbm {s t : State} {l : Loc} {w : Nat} (ready : s.pkg.stage = 7)
    (phys : physOf s s.input.off = some (.hbm l)) (plain : versionedAt s l.off = none)
    (h : homeArrive ⟨l.off, none⟩ remoteCtx .iatomic s = (t, .ok (bits w 95 64))) :
    exec .barrierArrival s =
      .next (respondTo s.input.dev s.input.id (.data (toBytes 4 (w / 2 ^ 64))) t) := by
  rw [exec_barrierArrival, execBarrierArrival]
  dsimp only
  rw [if_pos ready, phys]
  dsimp only
  rw [plain, h, homeResult, toBytes_phase]

/-- Settles O40: a request in time is `homeRequest` and its answer, at the cells or at a scratchpad. -/
theorem remoteRequestResults : Obligations.RemoteRequestResults := by
  unfold Obligations.RemoteRequestResults
  intro s core x q off o c mine young sent hbm spad does free
  have here (h : mine) : s.hasRequest := ⟨h.1, h.2.1, h.2.2.1⟩
  have quiet (h : mine) : (requestArrived s).quiet := h.2.2.2
  have aged_of (h : ¬ young) : aged s q.time = true := decide_eq_true (Nat.lt_of_not_le h)
  have young_of (h : young) : aged s q.time = false := decide_eq_false (Nat.not_lt.2 h)
  refine ⟨fun early => ?_, fun dst src ready alone y => exec_remoteRequest_loop dst src ready alone (young_of y),
    fun m old => ?_, fun m y space plain => ⟨fun kind clean => ?_, fun kind bad => ?_, fun p kind => ?_, fun kind => ?_,
      fun op ret v e kind clean => ?_, fun kind clean => ?_⟩, fun p m y space versioned kind => ?_,
    fun m y space gone => ?_, fun m y space live => ⟨fun kind clean => ?_, fun p kind => ?_, fun keep kind full clean => ?_,
      fun keep kind empty => ?_, fun keep waits => ?_⟩, fun l ready still phys plain clean => ?_⟩
  · rw [exec_remoteRequest, execRemoteRequest, when, if_neg (by simp [early])]
  · have done := exec_remoteRequest_arrived (here m)
    rw [aged_of old] at done
    exact ⟨_, done, rfl, rfl, rfl, rfl⟩
  · obtain ⟨p, h⟩ := homeHbm_load (quiet m) plain kind
    refine answers_cells (here m) (young_of y) space ⟨p, h.trans ?_⟩
    exact congrArg (Prod.mk _) (if_neg (Bool.eq_false_iff.1 clean))
  · obtain ⟨p, h⟩ := homeHbm_load (quiet m) plain kind
    refine answers_cells (here m) (young_of y) space ⟨p, h.trans ?_⟩
    exact congrArg (Prod.mk _) (if_pos (Bool.of_not_eq_false bad))
  · exact answers_cells (here m) (young_of y) space (homeHbm_store (quiet m) plain kind)
  · exact answers_cells (here m) (young_of y) space (homeHbm_poison (quiet m) plain kind)
  · exact answers_cells (here m) (young_of y) space (homeHbm_atomic (quiet m) plain kind clean)
  · exact answers_cells (here m) (young_of y) space (homeHbm_arrive (quiet m) plain kind clean)
  · exact answers_cells (here m) (young_of y) space ⟨s.mem.pcs, homeHbm_versioned_store versioned kind⟩
  · have dropped := exec_remoteRequest_answered (here m) (young_of y) (homeRequest_stale (s := requestArrived s) space gone)
    have same : SameRoutes s (dropStale q (requestArrived s)).1 := ⟨rfl, rfl, rfl, rfl, rfl, rfl, rfl, rfl, rfl, rfl⟩
    obtain ⟨back, leaves⟩ := respondTo_eq q.src q.id (dropStale q (requestArrived s)).2 (dropStale q (requestArrived s)).1
    exact ⟨_, dropped.trans (congrArg _ leaves), rfl, rfl, rfl, same.responded rfl ..⟩
  · exact answers_spad (here m) (young_of y) space (quiet m) live (homeSpad_load kind clean) (.refl core (requestArrived s))
  · exact answers_spad (here m) (young_of y) space (quiet m) live (homeSpad_store kind)
      (oneCore_modCore core (fun c => c.spadWrite o q.data) (requestArrived s))
  · refine answers_spad (here m) (young_of y) space (quiet m) live (homeSpad_ldf kind full clean) ?_
    cases keep
    · exact oneCore_modCore core (fun c => c.setTag o false) (requestArrived s)
    · exact .refl core (requestArrived s)
  · exact answers_spad (here m) (young_of y) space (quiet m) live (homeSpad_ste kind empty)
      (oneCore_modCore core (fun c => if keep then c.spadWrite o q.data else (c.spadWrite o q.data).setTag o true)
        (requestArrived s))
  · have held := (homeRequest_spad (s := requestArrived s) space (quiet m) live).trans (homeSpad_waits waits)
    exact ⟨_, exec_remoteRequest_waits (here m) (young_of y) held, rfl, rfl, rfl, rfl⟩
  · obtain ⟨p, h⟩ := homeArrive_plain still l.off remoteCtx .iatomic clean
    let word := fromBytes (s.mem.bytes l.off 12)
    let after := (s.withMem (s.mem.write l.off (toBytes 12 (arriveWord word)))).withPcs p
    have answered := exec_barrierArrival_hbm ready phys plain h
    obtain ⟨back, leaves⟩ := respondTo_eq x.dev x.id (.data (toBytes 4 (word / 2 ^ 64))) after
    have same : SameRoutes s after := ⟨rfl, rfl, rfl, rfl, rfl, rfl, rfl, rfl, rfl, rfl⟩
    exact ⟨_, answered.trans (congrArg _ leaves), rfl, rfl, same.responded rfl ..⟩

end Sys2Proof.Machine
end

section
/-! SUPPORT. Requests of this device as they complete: what an acknowledgement, a response or a timeout changes (R44, R53, R55,
R56, R317, R379). -/

namespace Sys2Proof.Machine

/-! ### Records in the scratchpad (R313, R314) -/

theorem CoreSt.foldl_setSpad_eq (l : List (Byte × Nat)) (c : CoreSt) : ∃ spad kept,
    l.foldl (fun c p => c.setSpad p.2 p.1) c = { c with spad := spad, kept := kept } := by
  induction l generalizing c with
  | nil => exact ⟨c.spad, c.kept, rfl⟩
  | cons p l ih =>
    obtain ⟨spad, kept, h⟩ := ih (c.setSpad p.2 p.1)
    exact ⟨spad, kept, h⟩

/-- A write to the scratchpad changes its bytes, what it holds of the staging reserve, and its poison. -/
theorem CoreSt.spadWrite_eq (c : CoreSt) (off : Nat) (bs : List Byte) : ∃ spad kept pois,
    c.spadWrite off bs = { c with spad := spad, kept := kept, spadPois := pois } := by
  obtain ⟨spad, kept, h⟩ := CoreSt.foldl_setSpad_eq (bs.zipIdx off) c
  unfold CoreSt.spadWrite
  dsimp only
  rw [h]
  exact ⟨spad, kept, _, rfl⟩

theorem CoreSt.record_eq (c : CoreSt) (n : Nat) (r : Rec) : ∃ spad kept pois,
    c.record n r = { c with spad := spad, kept := kept, spadPois := pois } := by
  unfold CoreSt.record
  split
  · dsimp only
    split
    · exact c.spadWrite_eq ..
    · exact c.spadWrite_eq ..
  · exact ⟨c.spad, c.kept, c.spadPois, rfl⟩

/-! ### A timeline's number passes (R53, R267, R314) -/

theorem raiseTag_eq (t : Nat) (f : BitVec 16) (s : State) : ∃ arb, raiseTag t f s = { s with arb := arb } := by
  unfold raiseTag
  split
  · exact ⟨s.arb, rfl⟩
  · exact ⟨_, rfl⟩

/-- `d` is the core `c` once operation `num` of timeline `n` has completed, with an error where `bad`: its streams stand, and
so does its scratchpad unless a record is written. -/
structure TlPassed (n num : Nat) (bad : Bool) (c d : CoreSt) : Prop where
  tl   : d.tl n = (c.tl n).complete num bad
  a    : d.a = c.a
  x    : d.x = c.x
  spad : bad = false → d.spad = c.spad

theorem tlPassed_setTl (n num : Nat) (bad : Bool) (c : CoreSt) :
    TlPassed n num bad c (c.setTl n ((c.tl n).complete num bad)) :=
  ⟨sget_sput_self .., rfl, rfl, fun _ => rfl⟩

/-- A completion changes its own core, and the hardware flags where it failed. -/
theorem completeTl_eq (core n num tag : Nat) (err : Option Rec) (s : State) : ∃ d arb,
    completeTl core n num tag err s = { s.setCore core d with arb := arb } ∧
      TlPassed n num err.isSome (s.core core) d ∧ (err = none → arb = s.arb) := by
  have passed := tlPassed_setTl n num err.isSome (s.core core)
  cases err with
  | none => exact ⟨_, s.arb, rfl, passed, fun _ => rfl⟩
  | some r =>
    obtain ⟨spad, kept, pois, written⟩ :=
      ((s.core core).setTl n (((s.core core).tl n).complete num true)).record_eq n r
    obtain ⟨arb, raised⟩ := raiseTag_eq tag (if isPoison r.cause r.sub then flFAULT ||| flCORR else flFAULT)
      (s.setCore core (((s.core core).setTl n (((s.core core).tl n).complete num true)).record n r))
    refine ⟨_, arb, raised, ⟨?_, ?_, ?_, nofun⟩, nofun⟩
    · rw [written]; exact passed.tl
    · rw [written]; exact passed.a
    · rw [written]; exact passed.x

/-! ### A flight completes (R53, R55) -/

/-- The requests in flight without those of one identifier. -/
def State.without (s : State) (id : Nat) : State :=
  { s with fab := { s.fab with flights := s.fab.flights.filter (fun g => g.req.id != id) } }

/-- The error that a result carries. -/
def resultError : RemoteResult → Option RemoteErr
  | .err e => some e
  | _ => none

theorem completeFlight_tl2 {f : Flight} {core num tag : Nat} {e : Option RemoteErr} (user : f.user = .tl2 core num tag e)
    (r : RemoteResult) (s : State) : completeFlight f r s =
      passTl2 core num tag (e.orElse fun _ => resultError r) f.va.toNat (s.without f.req.id) := by
  unfold completeFlight
  rw [user]
  cases r <;> rfl

/-- The last request of a tl2 number passes it. -/
theorem passTl2_last {core num : Nat} {s : State} (last : s.fab.flights.any (fun f => f.ofNum core num) = false)
    (tag : Nat) (err : Option RemoteErr) (va : Nat) : ∃ d arb,
    passTl2 core num tag err va s = { s.setCore core d with arb := arb } ∧
      TlPassed 2 num err.isSome (s.core core) d ∧ (err = none → arb = s.arb) := by
  obtain ⟨d, arb, eq, passed, calm⟩ :=
    completeTl_eq core 2 num tag (err.map (fun e => tlRec num (.remote e) va s)) s
  rw [Option.isSome_map] at passed
  refine ⟨d, arb, ?_, passed, fun none => calm (by rw [none]; rfl)⟩
  unfold passTl2
  rw [if_neg (Bool.eq_false_iff.1 last), eq]

/-- One that is not the last, and did not fail, only leaves. -/
theorem passTl2_more {core num : Nat} {s : State} (more : s.fab.flights.any (fun f => f.ofNum core num) = true)
    (tag va : Nat) : passTl2 core num tag none va s = s := by
  rw [passTl2, if_pos more]

/-- A fetch, and a stream, with the result of the request for which it waits. -/
def Fetch.answered (id : Nat) (r : RemoteResult) (w : Fetch) : Fetch :=
  if w.id = some id then
    match answerOf r with
    | .ok bs => { w with id := none, code := w.code ++ bs }
    | .error e => { w with id := none, err := some e }
  else w

def StreamSt.answered (id : Nat) (r : RemoteResult) (x : StreamSt) : StreamSt :=
  let y := { x with fetch := x.fetch.answered id r }
  match x.wait with
  | some w => if w.id = id then { y with wait := some ⟨w.id, some r⟩ } else y
  | none => y

theorem StreamSt.answered_waits {id : Nat} {x : StreamSt} (waits : x.wait = some ⟨id, none⟩) (r : RemoteResult) :
    x.answered id r = { x with fetch := x.fetch.answered id r, wait := some ⟨id, some r⟩ } := by
  unfold StreamSt.answered
  rw [waits]
  exact if_pos rfl

theorem completeFlight_stream {f : Flight} {core : Nat} {k : StreamKind} (user : f.user = .stream core k) (scalar : k ≠ .m)
    (r : RemoteResult) (s : State) : completeFlight f r s =
      (s.without f.req.id).modCore core (fun c => c.setStream k ((c.stream k).answered f.req.id r)) := by
  unfold completeFlight
  rw [user]
  cases k with
  | a => rfl
  | x => rfl
  | m => exact absurd rfl scalar

/-- The word that waits for a request has its result, and its stream stays at it (R55). -/
theorem completeFlight_resumes {f : Flight} {core id : Nat} {k : StreamKind} {s : State} (user : f.user = .stream core k)
    (scalar : k ≠ .m) (asked : f.req.id = id) (waits : ((s.core core).stream k).wait = some ⟨id, none⟩)
    (r : RemoteResult) :
    let t := completeFlight f r s
    ((t.core core).stream k).wait = some ⟨id, some r⟩ ∧ ((t.core core).stream k).pc = ((s.core core).stream k).pc ∧
      ((t.core core).stream k).regs = ((s.core core).stream k).regs ∧ (∀ d, d ≠ core → t.core d = s.core d) ∧
      t.mem = s.mem ∧ t.fab.flights = s.fab.flights.filter (fun g => g.req.id != f.req.id) := by
  subst asked
  have self : (((completeFlight f r s).core core).stream k) = ((s.core core).stream k).answered f.req.id r := by
    rw [completeFlight_stream user scalar, State.core_modCore, CoreSt.stream_setStream]; rfl
  dsimp only
  rw [self, StreamSt.answered_waits waits, completeFlight_stream user scalar]
  exact ⟨rfl, rfl, rfl, fun _ h => State.core_modCore_ne _ _ h, rfl, rfl⟩

/-- The last request of a tl2 number passes it, with the error of any of them (R53). -/
theorem completeFlight_passes {f : Flight} {core num tag : Nat} {e : Option RemoteErr} {s : State}
    (user : f.user = .tl2 core num tag e)
    (last : (s.fab.flights.filter (fun g => g.req.id != f.req.id)).any (fun g => g.ofNum core num) = false)
    (r : RemoteResult) :
    let t := completeFlight f r s
    let bad := (e.orElse fun _ => resultError r).isSome
    TlPassed 2 num bad (s.core core) (t.core core) ∧ (bad = false → t.arb = s.arb) ∧
      (∀ d, d ≠ core → t.core d = s.core d) ∧ t.mem = s.mem ∧
      t.fab.flights = s.fab.flights.filter (fun g => g.req.id != f.req.id) := by
  obtain ⟨d, arb, passes, passed, calm⟩ :=
    passTl2_last (s := s.without f.req.id) last tag (e.orElse fun _ => resultError r) f.va.toNat
  dsimp only
  rw [completeFlight_tl2 user, passes]
  refine ⟨?_, fun good => calm ?_, fun _ h => State.core_setCore_ne _ _ h, rfl, rfl⟩
  · change TlPassed 2 num _ _ (((s.without f.req.id).setCore core d).core core)
    rw [State.core_setCore]
    exact passed
  · rwa [Option.isSome_eq_false_iff, Option.isNone_iff_eq_none] at good

theorem passTl2_fab (core num tag : Nat) (err : Option RemoteErr) (va : Nat) (s : State) :
    (passTl2 core num tag err va s).fab = { s.fab with flights := (passTl2 core num tag err va s).fab.flights } := by
  cases more : s.fab.flights.any (fun f => f.ofNum core num) with
  | false =>
    obtain ⟨d, arb, eq, -⟩ := passTl2_last more tag err va
    rw [eq]; rfl
  | true =>
    unfold passTl2
    rw [if_pos more]
    cases err <;> rfl

/-- Of the fabric only the requests in flight change. -/
theorem completeFlight_fab (f : Flight) (r : RemoteResult) (s : State) :
    (completeFlight f r s).fab = { s.fab with flights := (completeFlight f r s).fab.flights } := by
  cases user : f.user with
  | stream core k => unfold completeFlight; rw [user]; rfl
  | tl2 core num tag e =>
    rw [completeFlight_tl2 user]
    exact passTl2_fab ..
  | ack core => unfold completeFlight; rw [user]

/-! ### What arrives (R44, R50, R317) -/

theorem releaseHeld_of_none {s : State} (none : s.fab.held = []) : releaseHeld s = s := by
  unfold releaseHeld
  rw [none, List.foldl_nil, ← none]

/-- Where nothing waits here, a flight that ends only completes. -/
theorem endFlight_of {s : State} {id : Nat} {f : Flight} (flight : s.flight? id = some f) (none : s.fab.held = [])
    (r : RemoteResult) : endFlight id r s = completeFlight f r s := by
  have still : (completeFlight f r s).fab.held = [] := by rw [completeFlight_fab]; exact none
  rw [endFlight, flight]
  exact releaseHeld_of_none still

theorem State.flight?_id {s : State} {id : Nat} {f : Flight} (flight : s.flight? id = some f) : f.req.id = id :=
  beq_iff_eq.1 (List.find?_some (p := fun f : Flight => f.req.id == id) flight)

/-- What a flight receives when `r` arrives for it: the answer of this device's own home where the request looped back. -/
def State.received (s : State) (f : Flight) (id : Nat) (r : RemoteResult) : Option RemoteResult :=
  if paDev f.req.pa = s.self then (s.fab.back.find? (fun p => p.1 == id)).map (fun p => p.2) else some r

/-- The responses that loop back changed. -/
def State.withBack (s : State) (back : List (Nat × RemoteResult)) : State := { s with fab := { s.fab with back := back } }

section Arrives

variable {s : State} {id : Nat} {f : Flight} {r r' : RemoteResult} (flight : s.flight? id = some f)
  (fresh : collected s id = false) (received : s.received f id r = some r')
include flight fresh received

theorem arriveResult_of : ∃ back, arriveResult id r s =
    if (s.core f.core).halted then
      { s with fab := { s.fab with back := back, late := s.fab.late ++ [(id, r')] } }
    else endFlight id r' (s.withBack back) := by
  unfold arriveResult
  rw [flight]
  dsimp only
  rw [fresh, if_neg Bool.false_ne_true]
  unfold State.received at received
  by_cases own : paDev f.req.pa = s.self
  · rw [if_pos own] at received ⊢
    obtain ⟨p, found, rfl⟩ := Option.map_eq_some_iff.1 received
    rw [found]
    exact ⟨_, rfl⟩
  · rw [if_neg own] at received ⊢
    obtain rfl := Option.some.inj received
    exact ⟨s.fab.back, rfl⟩

theorem arriveResult_halted (halted : (s.core f.core).halted = true) : ∃ back, arriveResult id r s =
    { s with fab := { s.fab with back := back, late := s.fab.late ++ [(id, r')] } } := by
  obtain ⟨back, arrives⟩ := arriveResult_of flight fresh received
  exact ⟨back, arrives.trans (if_pos halted)⟩

theorem arriveResult_running (runs : (s.core f.core).halted = false) (none : s.fab.held = []) :
    ∃ back, arriveResult id r s = completeFlight f r' (s.withBack back) := by
  obtain ⟨back, arrives⟩ := arriveResult_of flight fresh received
  rw [if_neg (Bool.eq_false_iff.1 runs), endFlight_of (s := s.withBack back) flight none] at arrives
  exact ⟨back, arrives⟩

end Arrives

/-! ### The events (R53, R55, R56, R379) -/

/-- The outcome that an acknowledgement brings. -/
def ackResult (x : Input) : RemoteResult := match x.err with | some e => .err e | none => .data []

theorem exec_remoteAck_acked {s : State} {f : Flight} (flight : s.flight? s.input.id = some f) (acked : f.acked = true) :
    exec .remoteAck s = .next (arriveResult s.input.id (ackResult s.input) s) :=
  when_of _ _ (by rw [flight]; exact acked)

theorem exec_remoteResponse_returns {s : State} {f : Flight} (flight : s.flight? s.input.id = some f)
    (returns : f.acked = false) : exec .remoteResponse s = .next (arriveResult s.input.id s.input.result s) :=
  when_of _ _ (by rw [flight, Option.any_some, returns]; rfl)

/-- The waiting requests of other devices that a REQUEST_EXPIRY names and whose age exceeds FABTMO. -/
def State.expires (s : State) (q : RemoteReq) : Bool := q.src == s.input.dev && q.id == s.input.id && aged s q.time

/-- The two parts of a REQUEST_EXPIRY: the requests that wait here, and a flight of this device. -/
def dropExpired (s : State) : State :=
  if s.fab.tagged.any s.expires then
    countExpired { s with fab := { s.fab with tagged := s.fab.tagged.filter (fun q => !s.expires q) } }
  else s

def FabMsg.isRequest (id : Nat) (m : FabMsg) : Bool := match m with | .request q => q.id == id | _ => false

def expireFlight (x : Input) (s : State) : State :=
  if x.dev = s.self ∧ collected s x.id = false ∧ (s.flight? x.id).any (fun f => aged s f.req.time) = true then
    endFlight x.id (.err .timeout) { s with fab := { s.fab with held := s.fab.held.filter (fun m => !m.isRequest x.id) } }
  else s

theorem exec_requestExpiry_eq (s : State) : exec .requestExpiry s = .next (expireFlight s.input (dropExpired s)) := rfl

theorem exec_requestExpiry_tagged {s : State} (other : s.input.dev ≠ s.self) (waits : s.fab.tagged.any s.expires = true) :
    exec .requestExpiry s =
      .next (countExpired { s with fab := { s.fab with tagged := s.fab.tagged.filter (fun q => !s.expires q) } }) := by
  rw [exec_requestExpiry_eq, dropExpired, if_pos waits, expireFlight, if_neg]
  exact fun h => other h.1

/-- A flight too old completes with TIMEOUT at its source. -/
theorem exec_requestExpiry_flight {s : State} {f : Flight} (own : s.input.dev = s.self)
    (flight : s.flight? s.input.id = some f) (fresh : collected s s.input.id = false) (old : aged s f.req.time = true)
    (keeps : s.fab.tagged.any s.expires = false) (none : s.fab.held = []) :
    exec .requestExpiry s = .next (completeFlight f (.err .timeout) s) := by
  rw [exec_requestExpiry_eq, dropExpired, if_neg (Bool.eq_false_iff.1 keeps), expireFlight,
    if_pos ⟨own, fresh, by rw [flight]; exact old⟩, none, List.filter_nil, ← none]
  exact congrArg _ (endFlight_of flight none _)

/-- Settles O41: what arrives for a flight, or its timeout, completes it by `completeFlight`. -/
theorem remoteCompletionResults : Obligations.RemoteCompletionResults := by
  unfold Obligations.RemoteCompletionResults
  intro s f core x gone c old result ack failed calm resumed
  have bad_eq (e : Option RemoteErr) (r : RemoteResult) :
      (e.orElse fun _ => resultError r).isSome = (e.isSome || failed r) := by cases e <;> cases r <;> rfl
  refine ⟨fun num tag e r ⟨still, fresh⟩ flight user runs given => ?_,
    fun k ⟨still, fresh⟩ flight scalar user waits => ?_, fun waits other => ?_⟩
  · have owner : f.core = core := by rw [Flight.core, user]
    have acked : f.acked = true := by rw [Flight.acked, user]
    obtain ⟨back, arrives⟩ := arriveResult_running flight fresh given (owner ▸ runs) still
    have acks := (exec_remoteAck_acked flight acked).trans (congrArg _ arrives)
    refine ⟨fun last => ⟨_, acks, ?_⟩, fun more clean good => ⟨_, acks, ?_⟩⟩
    · obtain ⟨⟨tl, a, x', spad⟩, arb, others, mem, flights⟩ := completeFlight_passes (s := s.withBack back) user last r
      rw [bad_eq] at tl spad arb
      exact ⟨tl, a, x', fun good => ⟨spad good, arb good⟩, others, mem, flights⟩
    · have calm : (e.orElse fun _ => resultError r) = Option.none := by
        rw [← Option.not_isSome_iff_eq_none, bad_eq, clean, good]; decide
      rw [completeFlight_tl2 user, calm, passTl2_more (s := (s.withBack back).without f.req.id) more]
      exact ⟨rfl, rfl, rfl⟩
  · have owner : f.core = core := by rw [Flight.core, user]
    have returns : f.acked = false := by rw [Flight.acked, user]
    have asked : f.req.id = x.id := State.flight?_id flight
    refine ⟨fun r given => ⟨fun runs => ?_, fun halted => ?_⟩, fun own late keeps => ?_⟩
    · obtain ⟨back, arrives⟩ := arriveResult_running flight fresh given (owner ▸ runs) still
      exact ⟨_, (exec_remoteResponse_returns flight returns).trans (congrArg _ arrives),
        completeFlight_resumes (s := s.withBack back) user scalar asked waits r⟩
    · obtain ⟨back, collects⟩ := arriveResult_halted flight fresh given (owner ▸ halted)
      exact ⟨_, (exec_remoteResponse_returns flight returns).trans (congrArg _ collects), rfl, rfl, rfl, rfl⟩
    · exact ⟨_, exec_requestExpiry_flight own flight fresh (decide_eq_true late) keeps still,
        completeFlight_resumes user scalar asked waits (.err .timeout)⟩
  · exact ⟨_, exec_requestExpiry_tagged other waits, rfl, rfl, rfl, rfl, rfl⟩

end Sys2Proof.Machine
end

section
/-! SUPPORT. Packets on their way, the link map, domain time, the domain's digest and INV messages (R46 to R48, R56, R64, R66,
R160, R390). -/

namespace Sys2Proof.Machine

theorem when_not {c : Bool} (f : State → State) (s : State) (h : c = false) : when c f s = .next s := by
  rw [when, if_neg (Bool.eq_false_iff.1 h)]

/-! ### Packets for another device (R46 to R48, R56) -/

/-- The header's route can be kept: its next link is UP, and it makes at most four hops in all. -/
def keepsRoute (p : FabPacket) (s : State) : Prop :=
  p.route ≠ [] ∧ portUp s s.self (firstPort s.self p.route) = true ∧ p.hop + p.route.length ≤ 4


/-- The route on which a packet goes on: its header's, else one that this device picks. -/
def onward (p : FabPacket) (s : State) : Option (List Nat) :=
  match p.route with
  | d :: _ =>
    if portUp s s.self (portTo s.self d) ∧ p.hop + p.route.length ≤ 4 then some p.route else pickRoute s p.dst (4 - p.hop)
  | [] => pickRoute s p.dst (4 - p.hop)

theorem onward_kept {s : State} {p : FabPacket} (way : keepsRoute p s) : onward p s = some p.route := by
  obtain ⟨named, up, hops⟩ := way
  obtain ⟨d, l, route⟩ := List.exists_cons_of_ne_nil named
  rw [route] at up hops
  rw [onward, route]
  exact if_pos ⟨up, hops⟩

theorem onward_picked {s : State} {p : FabPacket} (lost : ¬ keepsRoute p s) :
    onward p s = pickRoute s p.dst (4 - p.hop) := by
  cases route : p.route with
  | nil => rw [onward, route]
  | cons d l =>
    rw [onward, route]
    refine if_neg fun h => lost ⟨by simp [route], ?_, ?_⟩
    · rw [route]; exact h.1
    · rw [route]; exact h.2

theorem SameRoutes.onward {s t : State} (same : SameRoutes s t) (p : FabPacket) : onward p t = onward p s := by
  simp only [Machine.onward, same.self, same.portUp, same.pickRoute]

/-- What becomes of a packet that has reached this device on its way. -/
def routePacket (p : FabPacket) (s : State) : State :=
  if p.cls = .request ∧ aged s p.time = true then countExpired s
  else if s.waiting (FabMsg.forwarded p).vc p.dst then unroutable p s
  else
    match p.route with
    | d :: _ =>
      if portUp s s.self (portTo s.self d) ∧ p.hop + p.route.length ≤ 4 then forwardOn p p.route s
      else
        match pickRoute s p.dst (4 - p.hop) with
        | some r => forwardOn p r s
        | none => unroutable p s
    | [] =>
      match pickRoute s p.dst (4 - p.hop) with
      | some r => forwardOn p r s
      | none => unroutable p s

/-- The capture units look on as the packet arrives (R39). -/
theorem exec_fabricForward_routes {s : State} (ready : s.pkg.stage = 7) (away : s.input.pkt.dst ≠ s.self) : ∃ caps,
    exec .fabricForward s = .next (routePacket s.input.pkt { s with pkg := { s.pkg with caps := caps } }) := by
  obtain ⟨caps, looks⟩ : ∃ caps, delivered s.input s.input.pkt.src s.input.pkt.time s =
      { s with pkg := { s.pkg with caps := caps } } := by
    unfold delivered
    split
    · exact ⟨s.pkg.caps, rfl⟩
    · exact ⟨_, rfl⟩
  refine ⟨caps, ?_⟩
  rw [exec_fabricForward, execFabricForward]
  dsimp only
  rw [when_of _ _ (by simp [ready, away]), looks]
  rfl

section Routed

variable {s : State} {p : FabPacket} (young : p.cls = .request → s.now ≤ p.time + s.fab.tmo * 1000)
include young

theorem not_aged : ¬ (p.cls = .request ∧ aged s p.time = true) := by
  rintro ⟨request, old⟩
  exact absurd (young request) (Nat.not_le.2 (of_decide_eq_true old))

theorem routePacket_free (free : s.waiting (FabMsg.forwarded p).vc p.dst = false) : routePacket p s =
    match onward p s with | some r => forwardOn p r s | none => unroutable p s := by
  rw [routePacket, if_neg (not_aged young), if_neg (Bool.eq_false_iff.1 free), onward]
  cases p.route with
  | nil => rfl
  | cons d l => dsimp only; split_ifs <;> rfl

theorem routePacket_waits (waits : s.waiting (FabMsg.forwarded p).vc p.dst = true) : routePacket p s = unroutable p s := by
  rw [routePacket, if_neg (not_aged young), if_pos waits]

end Routed

theorem unroutable_message {p : FabPacket} (cls : p.cls = .management ∨ p.cls = .arbour) (s : State) :
    unroutable p s = s.hold (.forwarded p) := by
  rcases cls with cls | cls <;> rw [unroutable, cls]

theorem unroutable_response {p : FabPacket} (cls : p.cls = .response ∨ p.cls = .noroute) (s : State) :
    unroutable p s = s := by
  rcases cls with cls | cls <;> rw [unroutable, cls]

/-- What has been sent once a request without a route is answered, where its source can be reached. -/
def State.refused (s : State) (p : FabPacket) : List Sent :=
  match pickRoute s p.src 4 with
  | some r => s.fab.sent ++ [⟨.noroute p.src p.id, r⟩]
  | none => s.fab.sent

theorem SameRoutes.refused {s t : State} (same : SameRoutes s t) (sent : t.fab.sent = s.fab.sent) (p : FabPacket) :
    t.refused p = s.refused p := by
  rw [State.refused, State.refused, same.pickRoute, sent]

theorem unroutable_request {p : FabPacket} (cls : p.cls = .request) (s : State) :
    unroutable p s = { s with fab := { s.fab with sent := s.refused p } } := by
  rw [unroutable, cls, State.refused]
  cases pickRoute s p.src 4 <;> rfl

/-- Whatever its class, nothing but the fabric changes. -/
theorem unroutable_fab (p : FabPacket) (s : State) : ∃ fab, unroutable p s = { s with fab := fab } := by
  cases cls : p.cls with
  | request => exact ⟨_, unroutable_request cls s⟩
  | response => exact ⟨s.fab, unroutable_response (.inl cls) s⟩
  | noroute => exact ⟨s.fab, unroutable_response (.inr cls) s⟩
  | management => exact ⟨_, unroutable_message (.inl cls) s⟩
  | arbour => exact ⟨_, unroutable_message (.inr cls) s⟩

/-- A request that waits here and finds no route completes at once. -/
theorem releaseOne_unroutable {s : State} {q : RemoteReq} {g : Flight} (keep : List FabMsg)
    (flight : s.fab.flights.find? (fun g => g.req.id == q.id) = some g) (runs : (s.core g.core).halted = false)
    (lost : requestRoute s g.core q = none) :
    releaseOne keep (.request q) s = (keep, completeFlight g (.err .noroute) s) := by
  simp only [releaseOne, flight, runs, lost, Bool.false_eq_true, if_false]

/-! ### The link map (R48, R50) -/

@[simp] theorem completeFlight_map (f : Flight) (r : RemoteResult) (s : State) :
    (completeFlight f r s).fab.map = s.fab.map := by rw [completeFlight_fab]

@[simp] theorem sendAlong_map (q : RemoteReq) (r : List Nat) (s : State) : (sendAlong q r s).fab.map = s.fab.map := by
  have detour : (keepDetour q r s).fab.map = s.fab.map := by unfold keepDetour; split <;> rfl
  unfold sendAlong
  dsimp only
  split <;> exact detour

@[simp] theorem releaseOne_map (keep : List FabMsg) (m : FabMsg) (s : State) :
    (releaseOne keep m s).2.fab.map = s.fab.map := by
  unfold releaseOne
  split
  · split
    · split
      · rfl
      · split
        · split
          · rfl
          · dsimp only; exact sendAlong_map ..
        · dsimp only; exact completeFlight_map ..
    · rfl
  · split
    · rfl
    · split
      · rfl
      · split <;> rfl

@[simp] theorem releaseHeld_map (s : State) : (releaseHeld s).fab.map = s.fab.map :=
  List.foldlRecOn (motive := fun a : List FabMsg × State => a.2.fab.map = s.fab.map) s.fab.held _ rfl
    fun _ h _ _ => (releaseOne_map ..).trans h

theorem mapChanged_map (s : State) : (mapChanged s).fab.map = s.fab.map := releaseHeld_map _

/-- A link map that differs is taken; one that does not changes nothing. -/
theorem exec_linkMapUpdate_eq {s : State} (ready : s.pkg.stage = 7) (other : s.input.dev ≠ s.self) :
    exec .linkMapUpdate s = .next (if sget 0 s.fab.map s.input.dev = s.input.v.setWidth 14 then s
      else mapChanged { s with fab := { s.fab with map := sput s.fab.map s.input.dev (s.input.v.setWidth 14) } }) := by
  rw [exec_linkMapUpdate, execLinkMapUpdate]
  by_cases known : sget 0 s.fab.map s.input.dev = s.input.v.setWidth 14
  · rw [if_pos known]; exact when_not _ _ (by rw [decide_eq_false (fun h => h.2 known), Bool.and_false])
  · rw [if_neg known]; exact when_of _ _ (by rw [decide_eq_true ⟨other, known⟩, ready]; rfl)

/-! ### Messages posted (R48, R64) -/

theorem posted_post (s : State) (m : FabMsg) : Posted (s.post m) m := by
  obtain h | ⟨r, h⟩ := s.post_cases m <;> rw [h]
  · exact .inr (List.mem_append_right _ (List.mem_singleton_self m))
  · exact .inl (by simp [State.send])

theorem Posted.post {s : State} {m : FabMsg} (h : Posted s m) (n : FabMsg) : Posted (s.post n) m := by
  obtain e | ⟨r, e⟩ := s.post_cases n <;> rw [e]
  · exact h.imp id (List.mem_append_left _)
  · exact h.imp (fun sent => by simpa [State.send] using .inl (by simpa using sent)) id

theorem post_dtime (s : State) (m : FabMsg) : (s.post m).fab.dtime = s.fab.dtime := by
  obtain h | ⟨r, h⟩ := s.post_cases m <;> rw [h] <;> rfl

/-- The time goes to each device of a list. -/
theorem foldl_post_time (l : List Nat) (s : State) :
    let t := l.foldl (fun s d => s.post (.time d s.fab.dtime)) s
    MessagesOnly s t ∧ t.fab.dtime = s.fab.dtime ∧ (∀ m, Posted s m → Posted t m) ∧
      ∀ d ∈ l, Posted t (.time d s.fab.dtime) := by
  induction l generalizing s with
  | nil => exact ⟨.refl s, rfl, fun _ h => h, by simp⟩
  | cons d l ih =>
    obtain ⟨only, time, kept, all⟩ := ih (s.post (.time d s.fab.dtime))
    rw [post_dtime] at time all
    refine ⟨(messagesOnly_post ..).trans only, time, fun m h => kept m (h.post _), fun e he => ?_⟩
    rcases List.mem_cons.1 he with rfl | he
    · exact kept _ (posted_post ..)
    · exact all e he

/-! ### Domain time (R64, R66) -/

/-- The OFFSET register holds a difference saturated to 16 bits. -/
theorem offset16_toInt (d : Int) : (BitVec.ofNat 16 (offset16 d)).toInt = max (-32768) (min 32767 d) := by
  rw [offset16, BitVec.ofNat_toNat, BitVec.setWidth_eq, BitVec.toInt_ofInt, Int.bmod_eq_of_le] <;> omega

/-- DTIME once a time message with the estimate `est` is taken: a member that joins makes its one step forward. -/
def joinTime (f : FabSt) (est : Nat) : Word := if f.joined then f.dtime else BitVec.ofNat 64 (max f.dtime.toNat est)

theorem takeTime_fab (v : Word) (rtt : Nat) (s : State) :
    let est := v.toNat + rtt / 2
    let now := joinTime s.fab est
    (takeTime v rtt s).fab = { s.fab with
      joined := true, dtime := now, offset := offset16 ((now.toNat : Int) - est), slew := (est : Int) - now.toNat,
      exch := satInc 2 s.fab.exch, lock := decide (1 ≤ s.fab.exch) } := by
  unfold takeTime joinTime
  cases joined : s.fab.joined <;> simp [refreshWindows, joined]

theorem one_le_satInc (n : Nat) : 1 ≤ satInc 2 n := by unfold satInc; split <;> omega

/-! ### The digest (R160) and FABTMO (R66) -/

theorem settleValid_iff (s : State) (d : BitVec 6 × Word) (other : s.self ≠ 0) :
    (settleValid { s with arb := { s.arb with digest := some d } }).arb.valid = true ↔
      s.arb.want = true ∧ d = ownDigest s := by
  have away : ({ s with arb := { s.arb with digest := some d } } : State).self ≠ 0 := other
  simp only [settleValid, Bool.and_eq_true, Bool.or_eq_true, beq_iff_eq, Option.some.injEq, away, false_or]
  rfl

theorem digest_eq_iff (s : State) (n : Nat) (v : Word) : (BitVec.ofNat 6 n, v) = ownDigest s ↔
    n % 2 ^ 6 = (s.fab.ncm1 + 8 * s.fab.nrm1) % 2 ^ 6 ∧ v = s.fab.members := by
  rw [ownDigest, Prod.mk.injEq, ← BitVec.toNat_inj, BitVec.toNat_ofNat, BitVec.toNat_ofNat]

theorem setTmo_fab (v : Nat) (s : State) :
    (setTmo v s).fab = { s.fab with tmo := max 10 (min 10000 (v % 2 ^ 32)) } := by
  have clamp : min 10000 (max 10 (bits v 31 0)) = max 10 (min 10000 (v % 2 ^ 32)) := by
    simp only [bits, Nat.pow_zero, Nat.div_one]
    omega
  rw [setTmo, clamp]

/-! ### INV messages (R390) -/

/-- A core whose TLB has lost the entries of an INV. -/
def CoreSt.invalidated (root va : Nat) (all : Bool) (c : CoreSt) : CoreSt :=
  { c with tlb := c.tlb.filter (fun e => !e.hit root va all) }

theorem dropTlbs_everywhere (root va : Nat) (all : Bool) (s : State) :
    let t := dropTlbs root va all (fun _ => true) (fun _ => true) s
    (∀ c, t.core c = (s.core c).invalidated root va all) ∧
      (∀ q, sget [] t.mem.l2tlb q = (sget [] s.mem.l2tlb q).filter (fun e => !e.hit root va all)) ∧
      t.mem.hbm = s.mem.hbm ∧ t.host = s.host :=
  ⟨fun c => sget_map (d := ({} : CoreSt)) (CoreSt.invalidated root va all) rfl s.cores c,
    fun q => sget_map (d := ([] : List TlbEntry)) (List.filter (fun e => !e.hit root va all)) rfl s.mem.l2tlb q, rfl, rfl⟩

/-! ### The events -/

theorem exec_timeMessageSend_master {s : State} (master : s.fab.master = true) : exec .timeMessageSend s =
    .next ((s.members.filter (fun d => d != s.self)).foldl (fun s d => s.post (.time d s.fab.dtime)) s) := by
  rw [exec_timeMessageSend, execTimeMessageSend]
  exact when_of _ _ master

theorem exec_timeMessage_member {s : State} (ready : s.pkg.stage = 7) (master : s.fab.master = false)
    (member : s.isMember s.self = true) : exec .timeMessage s = .next (takeTime s.input.v s.input.t s) :=
  when_of _ _ (by rw [ready, master, member]; rfl)

theorem exec_domainDigest_decides {s : State} (ready : s.pkg.stage = 7) (dev : s.input.dev = 0) (self : s.self ≠ 0) :
    exec .domainDigest s =
      .next (settleValid { s with arb := { s.arb with digest := some (BitVec.ofNat 6 s.input.n, s.input.v) } }) := by
  rw [exec_domainDigest, execDomainDigest]
  exact when_of _ _ (by rw [ready, dev, bne_iff_ne.2 self]; rfl)

theorem exec_invVc8Message_ready {s : State} (ready : s.pkg.stage = 7) : exec .invVc8Message s =
    .next ((dropTlbs (s.chain s.input.chain).pt s.input.v.toNat s.input.flag (fun _ => true) (fun _ => true) s).post
      (.invAck s.input.dev)) := by
  rw [exec_invVc8Message, execInvVc8Message]
  exact when_of _ _ (beq_iff_eq.2 ready)

/-- Settles O42: each event of the fabric by its equation. -/
theorem fabricEventResults : Obligations.FabricEventResults := by
  unfold Obligations.FabricEventResults
  intro s x p f same young goes way picked est now other
  refine ⟨fun early e he => ?_, fun keep g q flight runs lost => ?_, fun ready away time free => ?_,
    fun ready away time waits cls => ?_, fun ready away cls old => ?_, fun ready far => ?_, fun master => ?_,
    fun ready master member => ?_, fun ready => ?_, fun ready dev self => ?_, fun ready => ?_⟩
  · simp only [List.mem_cons, List.not_mem_nil, or_false] at he
    rcases he with rfl | rfl | rfl | rfl | rfl <;>
      simp [execFabricForward, execLinkMapUpdate, execTimeMessage, execDomainDigest, execInvVc8Message, when, early]
  · exact releaseOne_unroutable keep flight runs lost
  · obtain ⟨caps, routes⟩ := exec_fabricForward_routes ready away
    let u := { s with pkg := { s.pkg with caps := caps } }
    have alike : SameRoutes s u := ⟨rfl, rfl, rfl, rfl, rfl, rfl, rfl, rfl, rfl, rfl⟩
    rw [routePacket_free (s := u) time free, alike.onward] at routes
    refine ⟨fun kept => ?_, fun r lost found => ?_, fun lost none => ?_⟩
    · rw [onward_kept kept] at routes
      exact ⟨_, routes, ⟨rfl, rfl, rfl, rfl⟩, rfl, rfl⟩
    · rw [(onward_picked lost).trans found] at routes
      exact ⟨_, routes, ⟨rfl, rfl, rfl, rfl⟩, rfl, rfl⟩
    · rw [(onward_picked lost).trans none] at routes
      obtain ⟨fab, stands⟩ := unroutable_fab p u
      refine ⟨_, routes, by dsimp only [same]; rw [stands]; exact ⟨rfl, rfl, rfl, rfl⟩, fun request => ?_,
        fun response => ?_, fun message => ?_⟩
      · dsimp only
        rw [unroutable_request request]
        exact ⟨rfl, alike.refused rfl p⟩
      · dsimp only
        rw [unroutable_response response]
        exact ⟨rfl, rfl⟩
      · dsimp only
        rw [unroutable_message message]
        exact ⟨rfl, rfl⟩
  · obtain ⟨caps, routes⟩ := exec_fabricForward_routes ready away
    rw [routePacket_waits (s := { s with pkg := { s.pkg with caps := caps } }) time waits, unroutable_message cls] at routes
    exact ⟨_, routes, ⟨rfl, rfl, rfl, rfl⟩, rfl, rfl⟩
  · obtain ⟨caps, routes⟩ := exec_fabricForward_routes ready away
    rw [routePacket, if_pos ⟨cls, decide_eq_true (Nat.lt_of_not_le old)⟩] at routes
    exact ⟨_, routes, ⟨rfl, rfl, rfl, rfl⟩, rfl, rfl⟩
  · refine ⟨_, exec_linkMapUpdate_eq ready far, ?_⟩
    split
    · rename_i known
      refine ⟨fun _ => ⟨rfl, rfl, rfl, rfl⟩, fun d => ?_⟩
      split
      · rename_i e; rw [e]; exact known
      · rfl
    · refine ⟨fun still => ?_, fun d => ?_⟩
      · obtain ⟨cores, mem, host, sched, -⟩ := (messagesOnly_mapChanged
          (s := { s with fab := { s.fab with map := sput s.fab.map x.dev (x.v.setWidth 14) } })
          (by rw [still]; exact fun _ h => absurd h List.not_mem_nil)).kept
        exact ⟨cores, mem, host, sched⟩
      · rw [mapChanged_map]
        split
        · rename_i e; rw [e]; exact sget_sput_self ..
        · rename_i e; exact sget_sput_ne _ _ _ e
  · obtain ⟨only, time, -, all⟩ := foldl_post_time (s.members.filter (fun d => d != s.self)) s
    obtain ⟨cores, mem, host, sched, -⟩ := only.kept
    exact ⟨_, exec_timeMessageSend_master master, ⟨cores, mem, host, sched⟩, time,
      fun d hd away => all d (List.mem_filter.2 ⟨hd, bne_iff_ne.2 away⟩)⟩
  · refine ⟨_, exec_timeMessage_member ready master member, ⟨rfl, rfl, rfl, rfl⟩, ?_⟩
    rw [takeTime_fab]
    exact ⟨rfl, rfl, rfl, one_le_satInc _, rfl, offset16_toInt _⟩
  · exact ⟨_, when_of _ _ (beq_iff_eq.2 ready), ⟨rfl, rfl, rfl, rfl⟩, setTmo_fab ..⟩
  · refine ⟨_, exec_domainDigest_decides ready dev self, ⟨rfl, rfl, rfl, rfl⟩, ?_⟩
    rw [settleValid_iff s _ self, digest_eq_iff]
  · obtain ⟨cores, quads, hbm, host⟩ := dropTlbs_everywhere (s.chain x.chain).pt x.v.toNat x.flag s
    let u := dropTlbs (s.chain x.chain).pt x.v.toNat x.flag (fun _ => true) (fun _ => true) s
    obtain ⟨cores', mem, host', -⟩ := (messagesOnly_post u (.invAck x.dev)).kept
    have core (c : Nat) : (u.post (.invAck x.dev)).core c = (s.core c).invalidated (s.chain x.chain).pt x.v.toNat x.flag := by
      rw [State.core, cores']; exact cores c
    refine ⟨_, exec_invVc8Message_ready ready, fun c => ?_, fun q => ?_, fun c => ?_, ?_, ?_, posted_post u _⟩
    · rw [core c]; rfl
    · rw [mem]; exact quads q
    · rw [core c]; exact ⟨rfl, rfl, rfl⟩
    · rw [mem]; exact hbm
    · exact host'.trans host

end Sys2Proof.Machine
end

section
/-! SUPPORT. What an access to memory can change: of a stream in execution, of the transactions' books and of the debug
block nothing, whatever the pseudo-channels perform before it and whatever records a failed request leaves (R49, R53, R55,
R73, R76, R130, R314); and the stacks stay in canonical form (log 3). -/

namespace Sys2Proof.Machine

/-! ### The stacks -/

/-- The stacks `n` are `m` but for cells, poison, caches, pseudo-channels and the dies' registers. -/
structure MemSt.Accessed (m n : MemSt) : Prop where
  master  : n.master = m.master
  writes  : n.writes = m.writes
  waiting : n.waiting = m.waiting
  given   : n.given = m.given
  vm      : n.vm = m.vm
  irtCode : n.irtCode = m.irtCode
  irtPs7  : n.irtPs7 = m.irtPs7
  wf      : m.wf = true → n.wf = true

namespace MemSt.Accessed

theorem refl (m : MemSt) : MemSt.Accessed m m := ⟨rfl, rfl, rfl, rfl, rfl, rfl, rfl, id⟩

theorem trans {l m n : MemSt} (h : MemSt.Accessed l m) (g : MemSt.Accessed m n) : MemSt.Accessed l n where
  master := g.master.trans h.master
  writes := g.writes.trans h.writes
  waiting := g.waiting.trans h.waiting
  given := g.given.trans h.given
  vm := g.vm.trans h.vm
  irtCode := g.irtCode.trans h.irtCode
  irtPs7 := g.irtPs7.trans h.irtPs7
  wf w := g.wf (h.wf w)

end MemSt.Accessed

theorem MemSt.accessed_setPoison (m : MemSt) (a : Nat) (p : Bool) : MemSt.Accessed m (m.setPoison a p) :=
  ⟨rfl, rfl, rfl, rfl, rfl, rfl, rfl, MemSt.wf_setPoison a p⟩

theorem MemSt.accessed_putMeta (m : MemSt) (a : Nat) (md : Meta) : MemSt.Accessed m (m.putMeta a md) :=
  ⟨rfl, rfl, rfl, rfl, rfl, rfl, rfl, MemSt.wf_putMeta a md⟩

theorem MemSt.accessed_modStack (m : MemSt) (d : Nat) (f : StackSt → StackSt) : MemSt.Accessed m (m.modStack d f) :=
  ⟨rfl, rfl, rfl, rfl, rfl, rfl, rfl, id⟩

theorem MemSt.accessed_putBytes (m : MemSt) (a : Nat) (bs : List Byte) : MemSt.Accessed m (m.putBytes a bs) := by
  induction bs generalizing m a with
  | nil => exact .refl m
  | cons b bs ih =>
    have byte : MemSt.Accessed m (m.setByte a b) := ⟨rfl, rfl, rfl, rfl, rfl, rfl, rfl, MemSt.wf_setByte a b⟩
    exact byte.trans (ih (m.setByte a b) (a + 1))

theorem MemSt.accessed_write (m : MemSt) (a : Nat) (bs : List Byte) : MemSt.Accessed m (m.write a bs) :=
  (m.accessed_putBytes a bs).trans
    (List.foldlRecOn _ _ (.refl _) fun _ h _ _ => h.trans (accessed_setPoison ..))

/-! ### The package -/

/-- `t` is `s` but for what accesses to memory change: cells, caches, pseudo-channels, messages, records and scratchpads;
the stream in execution, the transactions and the debug block stand. -/
structure Accessed (s t : State) : Prop where
  core     : t.focus.core = s.focus.core
  kind     : t.focus.kind = s.focus.kind
  dbg      : t.dbg = s.dbg
  sched    : t.sched = s.sched
  host     : t.host = s.host
  tiles    : t.tiles = s.tiles
  attempts : t.arb.attempts = s.arb.attempts
  mem      : MemSt.Accessed s.mem t.mem
  txst     : ∀ c, (t.core c).txst = (s.core c).txst

namespace Accessed

theorem refl (s : State) : Accessed s s := ⟨rfl, rfl, rfl, rfl, rfl, rfl, rfl, .refl _, fun _ => rfl⟩

theorem trans {s t u : State} (h : Accessed s t) (g : Accessed t u) : Accessed s u where
  core := g.core.trans h.core
  kind := g.kind.trans h.kind
  dbg := g.dbg.trans h.dbg
  sched := g.sched.trans h.sched
  host := g.host.trans h.host
  tiles := g.tiles.trans h.tiles
  attempts := g.attempts.trans h.attempts
  mem := h.mem.trans g.mem
  txst c := (g.txst c).trans (h.txst c)

/-- A list of accesses, one after another. -/
theorem foldl {α : Type} {f : State → α → State} (step : ∀ s a, Accessed s (f s a)) (l : List α) (s : State) :
    Accessed s (l.foldl f s) :=
  List.foldlRecOn _ _ (.refl s) fun t h a _ => h.trans (step t a)

end Accessed

/-! #### Single parts changed -/

theorem accessed_withMem {s : State} {m : MemSt} (h : MemSt.Accessed s.mem m) : Accessed s (s.withMem m) :=
  ⟨rfl, rfl, rfl, rfl, rfl, rfl, rfl, h, fun _ => rfl⟩

theorem accessed_fab (s : State) (fab : FabSt) : Accessed s { s with fab := fab } :=
  ⟨rfl, rfl, rfl, rfl, rfl, rfl, rfl, .refl _, fun _ => rfl⟩

theorem accessed_setCore (s : State) (k : Nat) (c : CoreSt) (h : c.txst = (s.core k).txst) :
    Accessed s (s.setCore k c) := by
  refine ⟨rfl, rfl, rfl, rfl, rfl, rfl, rfl, .refl _, fun j => ?_⟩
  by_cases e : j = k
  · subst e; rw [State.core_setCore, h]
  · rw [State.core_setCore_ne _ _ e]

theorem accessed_modCore (s : State) (k : Nat) (f : CoreSt → CoreSt) (h : (f (s.core k)).txst = (s.core k).txst) :
    Accessed s (s.modCore k f) := accessed_setCore s k _ h

theorem accessed_raiseTag (t : Nat) (f : BitVec 16) (s : State) : Accessed s (raiseTag t f s) := by
  unfold raiseTag
  split
  · exact .refl s
  · exact ⟨rfl, rfl, rfl, rfl, rfl, rfl, rfl, .refl _, fun _ => rfl⟩

theorem accessed_fresh (s : State) : Accessed s s.fresh.2 :=
  ⟨rfl, rfl, rfl, rfl, rfl, rfl, rfl, .refl _, fun _ => rfl⟩

theorem accessed_waitTurn (s : State) : Accessed s s.waitTurn :=
  ⟨rfl, rfl, rfl, rfl, rfl, rfl, rfl, .refl _, fun _ => rfl⟩

theorem accessed_modPc (s : State) (pc : Nat) (f : PcSt → PcSt) : Accessed s (s.modPc pc f) :=
  accessed_withMem ⟨rfl, rfl, rfl, rfl, rfl, rfl, rfl, id⟩

theorem accessed_modL2 (core : Nat) (f : Sparse Line → Sparse Line) (s : State) : Accessed s (modL2 core f s) :=
  accessed_withMem ⟨rfl, rfl, rfl, rfl, rfl, rfl, rfl, id⟩

theorem accessed_modL1 (core : Nat) (f : Sparse Line → Sparse Line) (s : State) : Accessed s (modL1 core f s) :=
  accessed_modCore s core _ rfl

/-! #### Versioned memory (R86, R87, R91) -/

theorem accessed_raiseLive (l : List Nat) (s : State) : Accessed s (l.foldl (fun s t => raiseTag t flCORR s) s) :=
  .foldl (fun s t => accessed_raiseTag t flCORR s) l s

theorem accessed_metaError (a : Nat) (s : State) : Accessed s (metaError a s) :=
  (accessed_withMem (MemSt.accessed_putMeta ..)).trans (accessed_raiseLive ..)

theorem accessed_checkMeta (a : Nat) (s : State) : Accessed s (checkMeta a s).1 := by
  unfold checkMeta
  split
  · exact accessed_metaError a s
  · exact .refl s

theorem accessed_poisonBlock (a : Nat) (s : State) : Accessed s (poisonBlock a s) :=
  accessed_withMem (MemSt.accessed_putMeta ..)

theorem accessed_versionedLoad (l p n : Nat) (c : Ctx) (s : State) : Accessed s (versionedLoad l p n c s).1 := by
  have checked := accessed_checkMeta l s
  unfold versionedLoad
  dsimp only
  split
  · exact checked
  · split
    · dsimp only
      split
      · exact checked
      · exact checked.trans (accessed_poisonBlock ..)
    · exact checked

theorem accessed_versionedSlot (l p : Nat) (c : Ctx) (k : WKind) (s : State) :
    Accessed s (versionedSlot l p c k s).1 := by
  have checked := accessed_checkMeta l s
  have put (md : Meta) : Accessed s ((checkMeta l s).1.withMem ((checkMeta l s).1.mem.putMeta l md)) :=
    checked.trans (accessed_withMem (MemSt.accessed_putMeta ..))
  unfold versionedSlot
  dsimp only
  split_ifs
  · exact checked
  · exact checked
  · exact checked
  · exact checked
  · exact put _
  · exact checked.trans (accessed_withMem (MemSt.accessed_modStack ..))
  · exact checked
  · exact checked
  · exact checked
  · exact put _
  · exact checked.trans (accessed_withMem ((MemSt.accessed_write ..).trans (MemSt.accessed_putMeta ..)))

/-! #### Cells and their pseudo-channels (R72 to R76) -/

theorem accessed_cellLoad (l : Loc) (n : Nat) (c : Ctx) (s : State) : Accessed s (cellLoad l n c s).1 := by
  unfold cellLoad
  split
  · exact accessed_versionedLoad ..
  · split
    · exact .refl s
    · exact .refl s

theorem accessed_cellStore (l : Loc) (bs : List Byte) (c : Ctx) (k : WKind) (s : State) :
    Accessed s (cellStore l bs c k s).1 := by
  unfold cellStore
  split
  · rename_i p _
    have slot := accessed_versionedSlot l.off p c k s
    split
    · rename_i h
      rw [h] at slot
      exact slot.trans (accessed_withMem (MemSt.accessed_write ..))
    · rename_i h
      rw [h] at slot
      exact slot
  · exact accessed_withMem (MemSt.accessed_write ..)

/-- The read-modify-write of a cell, as every kind of page makes it. -/
theorem accessed_cellModify (l : Loc) (n : Nat) (f : Nat → Nat) (c : Ctx) (k : WKind) (s : State) :
    Accessed s (cellModify l n f c k s).1 := by
  unfold cellModify
  dsimp only
  split
  · rename_i p _
    have slot := accessed_versionedSlot l.off p c k s
    split
    · rename_i s' a h
      rw [h] at slot
      split
      · rename_i h'
        split at h'
        · cases h'
        · cases h'
          exact slot.trans (accessed_withMem (MemSt.accessed_write ..))
      · split
        · exact .refl s
        · exact accessed_poisonBlock ..
    · rename_i h
      rw [h] at slot
      exact slot
  · split
    · exact .refl s
    · exact accessed_withMem (MemSt.accessed_write ..)

theorem accessed_sweepWord (key : Nat) (s : State) : Accessed s (sweepWord key s) := by
  have put (md : Meta) :
      Accessed s (s.withMem { s.mem with hbm := swrite memDefault s.mem.hbm key (toBytes 4 md.word) }) := by
    refine accessed_withMem ⟨rfl, rfl, rfl, rfl, rfl, rfl, rfl, fun h => ?_⟩
    rw [MemSt.wf_iff] at h ⊢
    exact ⟨scanonical_swrite _ _ h.1, h.2⟩
  unfold sweepWord
  dsimp only
  split
  · exact (put _).trans (accessed_raiseLive ..)
  · split
    · exact put _
    · exact .refl s

theorem accessed_performPc (q : PcReq) (s : State) : Accessed s (performPc q s).1 := by
  unfold performPc
  split
  · exact accessed_cellLoad ..
  · exact accessed_cellStore ..
  · exact accessed_cellModify ..
  · exact accessed_cellModify ..
  · exact accessed_sweepWord ..

theorem CoreSt.record_txst (c : CoreSt) (n : Nat) (r : Rec) : (c.record n r).txst = c.txst := by
  obtain ⟨spad, kept, pois, h⟩ := c.record_eq n r
  rw [h]

theorem accessed_completeTl (core n num tag : Nat) (err : Option Rec) (s : State) :
    Accessed s (completeTl core n num tag err s) := by
  unfold completeTl
  cases err with
  | none => exact accessed_setCore s core _ rfl
  | some r =>
    have passed := accessed_modCore s core
      (fun c => (c.setTl n ((c.tl n).complete num true)).record n r) (CoreSt.record_txst ..)
    exact passed.trans (accessed_raiseTag ..)

theorem accessed_passRequest (q : PcReq) (err : Option MemErr) (s : State) : Accessed s (passRequest q err s) := by
  unfold passRequest
  dsimp only
  split
  · exact .refl s
  · exact accessed_completeTl ..

theorem accessed_takePc (pc : Nat) (w : PcWaiting) (s : State) : Accessed s (takePc pc w s) := by
  unfold takePc
  extract_lets u late
  have left : Accessed s u := accessed_modPc ..
  cases late
  · exact left
  · exact left.trans (accessed_withMem (MemSt.accessed_modStack ..))

theorem accessed_finishPc (pc : Nat) (w : PcWaiting) (s : State) : Accessed s (finishPc pc w s).1 :=
  ((accessed_takePc pc w s).trans (accessed_performPc ..)).trans (accessed_passRequest ..)

theorem accessed_keepResult (pc : Nat) (w : PcWaiting) (r : PcResult) (s : State) : Accessed s (keepResult pc w r s) :=
  accessed_modPc ..

theorem accessed_turnUntil (pc arr n : Nat) (s : State) : Accessed s (turnUntil pc arr n s) := by
  induction n generalizing s with
  | zero => exact .refl s
  | succ n ih =>
    have named := accessed_fresh s
    unfold turnUntil
    dsimp only
    split
    · exact named.trans (accessed_modPc ..)
    · split
      · exact named.trans (accessed_takePc ..)
      · exact ((named.trans (accessed_finishPc ..)).trans (accessed_keepResult ..)).trans (ih _)

theorem accessed_takeTurn (q : PcReq) (s : State) : Accessed s (takeTurn q s) := by
  unfold takeTurn
  extract_lets pc u p
  have held : Accessed s u := by
    unfold u
    split
    · exact accessed_waitTurn s
    · exact .refl s
  split
  · exact held.trans (accessed_modPc ..)
  · exact (held.trans (accessed_modPc ..)).trans (accessed_turnUntil ..)

/-! #### Accesses in their turn (R25, R72 to R76) -/

theorem accessed_reachCell (core off : Nat) (s : State) : Accessed s (reachCell core off s) := accessed_takeTurn ..

theorem accessed_reachRange (core off n : Nat) (s : State) : Accessed s (reachRange core off n s) := by
  unfold reachRange
  refine .foldl (fun s p => ?_) _ s
  exact accessed_reachCell core p.1 s

theorem accessed_homeLoad (l : Loc) (n : Nat) (c : Ctx) (s : State) : Accessed s (homeLoad l n c s).1 := by
  have reached := accessed_reachCell c.core l.off s
  unfold homeLoad
  dsimp only
  split
  · exact reached
  · exact reached.trans (accessed_cellLoad ..)

theorem accessed_homeStore (l : Loc) (bs : List Byte) (c : Ctx) (k : WKind) (s : State) :
    Accessed s (homeStore l bs c k s).1 := by
  have reached := accessed_reachCell c.core l.off s
  unfold homeStore
  dsimp only
  split
  · exact reached
  · exact reached.trans (accessed_cellStore ..)

theorem accessed_homeModify (l : Loc) (n : Nat) (f : Nat → Nat) (c : Ctx) (k : WKind) (s : State) :
    Accessed s (homeModify l n f c k s).1 := by
  have reached := accessed_reachCell c.core l.off s
  unfold homeModify
  dsimp only
  split
  · exact reached
  · exact reached.trans (accessed_cellModify ..)

theorem accessed_homeAmo (l : Loc) (op : AmoOp) (b x : Nat) (c : Ctx) (s : State) :
    Accessed s (homeAmo l op b x c s).1 := accessed_homeModify ..

theorem accessed_plainRead (core off n : Nat) (s : State) : Accessed s (plainRead core off n s).1 :=
  accessed_reachRange ..

theorem accessed_plainWrite (core off : Nat) (bs : List Byte) (s : State) : Accessed s (plainWrite core off bs s) := by
  have reached := accessed_reachRange core off bs.length s
  unfold plainWrite
  dsimp only
  split
  · exact reached
  · exact reached.trans (accessed_withMem (MemSt.accessed_write ..))

end Sys2Proof.Machine
end

section
/-! SUPPORT. The canonical form of memory (log 3): each operation on the stacks is an access, and host memory is written as
sparse data. -/

namespace Sys2Proof.Machine

theorem Memory.wf_iff (s : State) :
    Memory.wf s = true ↔ s.mem.wf = true ∧ scanonical memDefault s.host.mem = true := by
  simp [Memory.wf, MemSt.wf]

theorem Accessed.wf {s t : State} (h : Accessed s t) (wf : Memory.wf s = true) : Memory.wf t = true := by
  rw [Memory.wf_iff] at wf ⊢
  obtain ⟨cells, host⟩ := wf
  exact ⟨h.mem.wf cells, h.host ▸ host⟩

theorem Memory.wf_hostWrite {s : State} (a : Nat) (bs : List Byte) (wf : Memory.wf s = true) :
    Memory.wf (hostWrite a bs s) = true := by
  rw [Memory.wf_iff] at wf ⊢
  exact ⟨wf.1, scanonical_hostWrite a bs wf.2⟩

/-- Settles O16: every operation on the stacks is an access, which keeps the canonical form. -/
theorem memoryOperationsKeepCanonicalForm : Obligations.MemoryOperationsKeepCanonicalForm := by
  unfold Obligations.MemoryOperationsKeepCanonicalForm
  refine ⟨rfl, fun s a bs md f wf => ⟨?_, ?_, ?_, ?_, ?_, fun l c k => ?_, fun l op x y c => ?_⟩⟩
  · exact (accessed_withMem (MemSt.accessed_write ..)).wf wf
  · exact (accessed_withMem (MemSt.accessed_setPoison ..)).wf wf
  · exact (accessed_withMem (MemSt.accessed_putMeta ..)).wf wf
  · exact Memory.wf_hostWrite a bs wf
  · exact (accessed_metaError ..).wf wf
  · exact (accessed_homeStore ..).wf wf
  · exact (accessed_homeAmo ..).wf wf

end Sys2Proof.Machine
end

section
/-! SUPPORT. A scratchpad write outside the scratchpad (R246, R323): the staging reserve has one list of places for the
scratchpad and the tiles (R217), so that an offset past the scratchpad's end counts as a tile byte's place. -/

namespace Sys2Proof.Machine

/-- The offset past the scratchpad at which the places of the staging reserve in the tiles begin (R217). -/
def tileReserve : Nat := 2 ^ 21 + 32 * 32768

/-- A core whose first tile byte of the reserve is still what the tile unit left there, which differs from the byte that
the tile held before. -/
def stagedCore : CoreSt :=
  { staged := 1, tile := [(32 * 32768, Config.stagedByte 1 tileReserve + 1)] }

theorem stagedCore_tileByte : stagedCore.tileByte (32 * 32768) = Config.stagedByte 1 tileReserve := rfl

/-- A write at that place of the scratchpad takes the tile byte out of the reserve. -/
theorem stagedCore_spadWrite_tileByte : (stagedCore.spadWrite tileReserve [0]).tileByte (32 * 32768) =
    Config.stagedByte 1 tileReserve + 1 := rfl

/-- Refutes O14: the offset of a scratchpad write is not bounded by the scratchpad's size, and a write of one byte at
0x300000, the place of a tile byte in the staging reserve, changes what that tile byte reads. -/
theorem not_memoryReadAfterWrite : ¬ Obligations.MemoryReadAfterWrite := by
  unfold Obligations.MemoryReadAfterWrite
  rintro ⟨-, -, scratchpad⟩
  obtain ⟨-, -, tile, -⟩ := scratchpad stagedCore tileReserve [0]
  have same := tile (32 * 32768)
  rw [stagedCore_spadWrite_tileByte, stagedCore_tileByte, add_eq_left] at same
  exact absurd same (by decide)

end Sys2Proof.Machine
end

section
/-! SUPPORT. The geometry of the stacks: how the scheme codes place the offsets of HBM at cells, 256-byte blocks whole, and
where the metadata words of the blocks stand (R67, R69, R70, R79, R81). -/

namespace Sys2Proof.Machine

/-- A block's offsets lie in one pseudo-channel, in their order, from a local address that is a multiple of 256 on. -/
theorem interleave_block (code : Nat) (ps7 : Bool) (a : Nat) :
    let c := interleave code ps7 a
    let b := interleave code ps7 (a / 256 * 256)
    c = (b.1, b.2.1, b.2.2 + a % 256) ∧ b.2.2 % 256 = 0 := by
  rcases code with _ | _ | _ | _ | _ | _ | _ | code
  case succ.succ.succ.succ.succ.succ.succ =>
    cases ps7 <;> simp only [interleave, bits, Prod.mk.injEq, Bool.false_eq_true, if_true, if_false] <;> omega
  all_goals
    simp only [interleave, bits, Prod.mk.injEq]
    omega

/-- The local address of a cell has the region in its bits 29 to 24. -/
theorem interleave_region (code : Nat) (ps7 : Bool) (a : Nat) :
    (interleave code ps7 a).2.2 / 2 ^ 24 = bits a 38 33 := by
  rcases code with _ | _ | _ | _ | _ | _ | _ | code
  case succ.succ.succ.succ.succ.succ.succ =>
    cases ps7 <;> simp only [interleave, bits, Bool.false_eq_true, if_true, if_false] <;> omega
  all_goals
    simp only [interleave, bits]
    omega

/-! #### Offsets by their bit fields -/

/-- Equal fields, one from bit `k` on and one up to bit `j` below it, join to equal fields. -/
theorem bits_eq_join {x y hi lo : Nat} (k j : Nat) (high : bits x hi k = bits y hi k) (low : bits x j lo = bits y j lo)
    (next : k = j + 1 := by decide) (hlo : lo ≤ j := by decide) (hhi : j ≤ hi := by decide) :
    bits x hi lo = bits y hi lo := by
  subst next
  have cut (z : Nat) : bits z hi lo = bits z j lo + 2 ^ (j + 1 - lo) * bits z hi (j + 1) := by
    have width : hi + 1 - lo = j + 1 - lo + (hi + 1 - (j + 1)) := by omega
    have place : lo + (j + 1 - lo) = j + 1 := by omega
    simp only [bits]
    rw [width, Nat.pow_add, Nat.mod_mul, Nat.div_div_eq_div_mul, ← Nat.pow_add, place]
  rw [cut x, cut y, high, low]

/-- One scheme code places different offsets of the stacks at different cells. -/
theorem interleave_inj {code : Nat} {ps7 : Bool} {a b : Nat} (ha : a < 2 ^ 39) (hb : b < 2 ^ 39)
    (h : interleave code ps7 a = interleave code ps7 b) : a = b := by
  have whole (x : Nat) (hx : x < 2 ^ 39) : bits x 38 0 = x := by
    rw [bits, Nat.pow_zero, Nat.div_one]; exact Nat.mod_eq_of_lt hx
  rw [← whole a ha, ← whole b hb]
  clear ha hb whole
  have lt (hi lo : Nat) : bits a hi lo < 2 ^ (hi + 1 - lo) ∧ bits b hi lo < 2 ^ (hi + 1 - lo) := ⟨bits_lt .., bits_lt ..⟩
  rcases code with _ | _ | _ | _ | _ | _ | _ | code
  case succ.succ.succ.succ.succ.succ.succ =>
    cases ps7 <;> simp only [interleave, Prod.mk.injEq, Bool.false_eq_true, if_true, if_false] at h <;>
      obtain ⟨stack, channel, cell⟩ := h
    · have := lt 32 21; have := lt 17 14; have := lt 7 0
      exact bits_eq_join 33 32 (by omega) (bits_eq_join 21 20 (by omega) (bits_eq_join 18 17 stack
        (bits_eq_join 14 13 (by omega) (bits_eq_join 8 7 channel (by omega)))))
    · have := lt 32 30; have := lt 26 14; have := lt 7 0
      exact bits_eq_join 33 32 (by omega) (bits_eq_join 30 29 (by omega) (bits_eq_join 27 26 stack
        (bits_eq_join 14 13 (by omega) (bits_eq_join 8 7 channel (by omega)))))
  all_goals
    simp only [interleave, Prod.mk.injEq] at h
    obtain ⟨stack, channel, cell⟩ := h
  · have := lt 32 17; have := lt 7 0
    exact bits_eq_join 33 32 (by omega) (bits_eq_join 17 16 (by omega) (bits_eq_join 11 10 channel
      (bits_eq_join 8 7 stack (by omega))))
  · have := lt 32 19; have := lt 9 0
    exact bits_eq_join 33 32 (by omega) (bits_eq_join 19 18 (by omega) (bits_eq_join 13 12 channel
      (bits_eq_join 10 9 stack (by omega))))
  · have := lt 32 21; have := lt 11 0
    exact bits_eq_join 33 32 (by omega) (bits_eq_join 21 20 (by omega) (bits_eq_join 15 14 channel
      (bits_eq_join 12 11 stack (by omega))))
  · have := lt 32 19; have := lt 15 14; have := lt 7 0
    exact bits_eq_join 33 32 (by omega) (bits_eq_join 19 18 (by omega) (bits_eq_join 16 15 stack
      (bits_eq_join 14 13 (by omega) (bits_eq_join 8 7 channel (by omega)))))
  · have := lt 29 14; have := lt 7 0
    exact bits_eq_join 33 32 (by omega) (bits_eq_join 30 29 stack (bits_eq_join 14 13 (by omega)
      (bits_eq_join 8 7 channel (by omega))))
  · have := lt 29 18; have := lt 11 0
    exact bits_eq_join 33 32 (by omega) (bits_eq_join 30 29 stack (bits_eq_join 18 17 (by omega)
      (bits_eq_join 12 11 channel (by omega))))
  · have := lt 23 0
    exact bits_eq_join 33 32 (by omega) (bits_eq_join 30 29 stack (bits_eq_join 24 23 channel (by omega)))

/-! #### Cells of the region table's schemes -/

theorem MemSt.cell_lt (m : MemSt) (a : Nat) : (m.cell a).1 < 8 ∧ (m.cell a).2.1 < 64 ∧ (m.cell a).2.2 < 2 ^ 30 := by
  obtain ⟨stack, channel⟩ :=
    interleave_lt (sget 0 m.irtCode (a / 2 ^ 33)) (sget false m.irtPs7 (a / 2 ^ 33)) a
  have region := interleave_region (sget 0 m.irtCode (a / 2 ^ 33)) (sget false m.irtPs7 (a / 2 ^ 33)) a
  have := bits_lt a 38 33
  exact ⟨stack, channel, by unfold MemSt.cell; dsimp only; omega⟩

/-- A cell's key tells its stack and pseudo-channel, and its local address. -/
theorem MemSt.cellKey_cell (m : MemSt) (a : Nat) : cellKey (m.cell a) / 2 ^ 30 = (m.cell a).1 * 64 + (m.cell a).2.1 ∧
    cellKey (m.cell a) % 2 ^ 30 = (m.cell a).2.2 := by
  have := (m.cell_lt a).2.2
  unfold cellKey
  omega

/-- Different offsets of the stacks, in one region or in two, are different cells. -/
theorem MemSt.cellKey_inj {m : MemSt} {a b : Nat} (ha : a < 2 ^ 39) (hb : b < 2 ^ 39)
    (h : cellKey (m.cell a) = cellKey (m.cell b)) : a = b := by
  obtain ⟨high, low⟩ := m.cellKey_cell a
  obtain ⟨high', low'⟩ := m.cellKey_cell b
  obtain ⟨-, channel, -⟩ := m.cell_lt a
  obtain ⟨-, channel', -⟩ := m.cell_lt b
  have same : m.cell a = m.cell b := by
    rw [h] at high low
    exact Prod.ext (by omega) (Prod.ext (by omega) (low.symm.trans low'))
  have region (x : Nat) (hx : x < 2 ^ 39) : (m.cell x).2.2 / 2 ^ 24 = x / 2 ^ 33 := by
    refine (interleave_region ..).trans ?_
    simp only [bits]
    omega
  have regions : a / 2 ^ 33 = b / 2 ^ 33 := by rw [← region a ha, ← region b hb, same]
  unfold MemSt.cell at same
  rw [regions] at same
  exact interleave_inj ha hb same

/-- The keys of a block's cells follow one another from a multiple of 256 on. -/
theorem MemSt.cellKey_block (m : MemSt) (a : Nat) :
    cellKey (m.cell a) = cellKey (m.cell (a / 256 * 256)) + a % 256 ∧ cellKey (m.cell (a / 256 * 256)) % 256 = 0 := by
  have regions : a / 256 * 256 / 2 ^ 33 = a / 2 ^ 33 := by omega
  obtain ⟨cell, aligned⟩ := interleave_block (sget 0 m.irtCode (a / 2 ^ 33)) (sget false m.irtPs7 (a / 2 ^ 33)) a
  unfold MemSt.cell
  rw [regions, cell]
  dsimp only [cellKey]
  omega

theorem MemSt.cellKey_block_inj {m : MemSt} {a b : Nat} (ha : a < 2 ^ 39) (hb : b < 2 ^ 39)
    (h : cellKey (m.cell a) / 256 = cellKey (m.cell b) / 256) : a / 256 = b / 256 := by
  obtain ⟨key, aligned⟩ := m.cellKey_block a
  obtain ⟨key', aligned'⟩ := m.cellKey_block b
  have := MemSt.cellKey_inj (m := m) (a := a / 256 * 256) (b := b / 256 * 256) (by omega) (by omega) (by omega)
  omega

/-- The offsets of one granule share its poison. -/
theorem MemSt.cellKey_granule (m : MemSt) {a b : Nat} (h : a / 32 = b / 32) :
    cellKey (m.cell a) / 32 = cellKey (m.cell b) / 32 := by
  obtain ⟨key, aligned⟩ := m.cellKey_block a
  obtain ⟨key', -⟩ := m.cellKey_block b
  have block : a / 256 = b / 256 := by omega
  rw [block] at key aligned
  omega

/-! #### Metadata words (R81) -/

/-- A metadata word stands in region 63 of its block's stack, by the block's place there. -/
theorem MemSt.metaKey_eq (m : MemSt) (a : Nat) : m.metaKey a =
    cellKey (m.cell a) / 2 ^ 30 * 2 ^ 30 + (63 * 2 ^ 24 + 4 * (cellKey (m.cell a) % 2 ^ 30 / 256)) := by
  obtain ⟨high, low⟩ := m.cellKey_cell a
  rw [high, low]
  rfl

theorem MemSt.metaKey_mod (m : MemSt) (a : Nat) : m.metaKey a % 4 = 0 := by
  rw [MemSt.metaKey_eq]
  omega

/-- Different blocks have different metadata words. -/
theorem MemSt.metaKey_inj {m : MemSt} {a b : Nat} (ha : a < 2 ^ 39) (hb : b < 2 ^ 39) (h : m.metaKey a = m.metaKey b) :
    a / 256 = b / 256 := by
  rw [MemSt.metaKey_eq, MemSt.metaKey_eq] at h
  exact MemSt.cellKey_block_inj (m := m) ha hb (by omega)

end Sys2Proof.Machine
end

section
/-! SUPPORT. What the stacks read after a write: bytes, poison and metadata words (R72, R81, R82, R87, R91, R323). -/

namespace Sys2Proof.Machine

/-! ### Runs of sparse data -/

theorem sget_swrite_outside {α : Type} [DecidableEq α] (d : α) {m : Sparse α} {k j : Nat} {vs : List α}
    (h : j < k ∨ k + vs.length ≤ j) : sget d (swrite d m k vs) j = sget d m j := by
  induction vs generalizing m k with
  | nil => rfl
  | cons v vs ih =>
    rw [List.length_cons] at h
    rw [swrite, ih (by omega), sget_sset, if_neg (by omega)]

theorem sread_congr {α : Type} {d : α} {m n : Sparse α} {k len : Nat}
    (h : ∀ j, k ≤ j → j < k + len → sget d m j = sget d n j) : sread d m k len = sread d n k len := by
  induction len generalizing k with
  | zero => rfl
  | succ len ih => rw [sread, sread, h k (by omega) (by omega), ih fun j hj hl => h j (by omega) (by omega)]

/-- What was written reads back. -/
theorem sread_swrite {α : Type} [DecidableEq α] (d : α) (m : Sparse α) (k : Nat) (vs : List α) :
    sread d (swrite d m k vs) k vs.length = vs := by
  induction vs generalizing m k with
  | nil => rfl
  | cons v vs ih =>
    rw [List.length_cons, sread, swrite, ih, sget_swrite_outside d (.inl (Nat.lt_succ_self k)), sget_sset, if_pos rfl]

theorem sread_swrite_outside {α : Type} [DecidableEq α] (d : α) {m : Sparse α} {k j len : Nat} {vs : List α}
    (h : j + len ≤ k ∨ k + vs.length ≤ j) : sread d (swrite d m k vs) j len = sread d m j len :=
  sread_congr fun i hi hl => sget_swrite_outside d (by omega)

theorem length_sread {α : Type} (d : α) (m : Sparse α) (k n : Nat) : (sread d m k n).length = n := by
  induction n generalizing k with
  | zero => rfl
  | succ n ih => rw [sread, List.length_cons, ih]

theorem fromBytes_lt (bs : List Byte) : fromBytes bs < 256 ^ bs.length := by
  induction bs with
  | nil => exact Nat.one_pos
  | cons b bs ih =>
    have := b.isLt
    rw [fromBytes, List.length_cons, Nat.pow_succ]
    omega

/-! ### The geometry stands -/

theorem MemSt.Accessed.cell {m n : MemSt} (h : MemSt.Accessed m n) (a : Nat) : n.cell a = m.cell a := by
  simp only [MemSt.cell, h.irtCode, h.irtPs7]

theorem MemSt.Accessed.stackOf {m n : MemSt} (h : MemSt.Accessed m n) (a : Nat) : n.stackOf a = m.stackOf a := by
  rw [MemSt.stackOf, MemSt.stackOf, h.cell]

theorem MemSt.Accessed.metaKey {m n : MemSt} (h : MemSt.Accessed m n) (a : Nat) : n.metaKey a = m.metaKey a := by
  rw [MemSt.metaKey, MemSt.metaKey, h.cell]

theorem MemSt.Accessed.byte {m n : MemSt} (h : MemSt.Accessed m n) (hbm : n.hbm = m.hbm) (o : Nat) :
    n.byte o = m.byte o := by
  rw [MemSt.byte, MemSt.byte, h.cell, hbm]

theorem MemSt.Accessed.metaAt {m n : MemSt} (h : MemSt.Accessed m n) (hbm : n.hbm = m.hbm) (a : Nat) :
    n.metaAt a = m.metaAt a := by
  rw [MemSt.metaAt, MemSt.metaAt, h.metaKey, hbm]

/-! ### Bytes (R72) -/

theorem MemSt.byte_setByte {m : MemSt} {a o : Nat} (ha : a < 2 ^ 39) (ho : o < 2 ^ 39) (b : Byte) :
    (m.setByte a b).byte o = if o = a then b else m.byte o := by
  have key : cellKey (m.cell o) = cellKey (m.cell a) ↔ o = a := ⟨MemSt.cellKey_inj ho ha, fun e => by rw [e]⟩
  exact (sget_sset memDefault m.hbm (cellKey (m.cell a)) (cellKey (m.cell o)) b).trans (if_congr key rfl rfl)

/-- Bytes written at offsets of the stacks read back, and every other offset keeps its byte. -/
theorem MemSt.byte_putBytes {m : MemSt} {a o : Nat} {bs : List Byte} (fits : a + bs.length ≤ 2 ^ 39) (ho : o < 2 ^ 39) :
    (m.putBytes a bs).byte o = if a ≤ o then (bs[o - a]?).getD (m.byte o) else m.byte o := by
  induction bs generalizing m a with
  | nil => simp [MemSt.putBytes]
  | cons b bs ih =>
    rw [List.length_cons] at fits
    rw [MemSt.putBytes, ih (by omega), MemSt.byte_setByte (by omega) ho]
    rcases Nat.lt_trichotomy o a with lt | rfl | gt
    · rw [if_neg (by omega), if_neg (by omega), if_neg (by omega)]
    · simp
    · obtain ⟨k, rfl⟩ : ∃ k, o = a + 1 + k := ⟨o - a - 1, by omega⟩
      have here : a + 1 + k - a = k + 1 := by omega
      have next : a + 1 + k - (a + 1) = k := by omega
      rw [if_pos (by omega), if_neg (by omega), if_pos (by omega), here, next, List.getElem?_cons_succ]

/-- The poison that a write clears changes no byte. -/
theorem MemSt.write_hbm (m : MemSt) (a : Nat) (bs : List Byte) : (m.write a bs).hbm = (m.putBytes a bs).hbm :=
  List.foldlRecOn (motive := fun n : MemSt => n.hbm = (m.putBytes a bs).hbm) _ _ rfl fun _ h _ _ => h

theorem MemSt.byte_write {m : MemSt} {a o : Nat} {bs : List Byte} (fits : a + bs.length ≤ 2 ^ 39) (ho : o < 2 ^ 39) :
    (m.write a bs).byte o = if a ≤ o then (bs[o - a]?).getD (m.byte o) else m.byte o := by
  rw [← MemSt.byte_putBytes fits ho, MemSt.byte, MemSt.byte, (m.accessed_write a bs).cell,
    (m.accessed_putBytes a bs).cell, MemSt.write_hbm]

/-! ### Poison (R323) -/

/-- A granule poisoned: every byte of it reads as poisoned. -/
theorem MemSt.poisoned_setPoison (m : MemSt) {a b : Nat} (granule : b / 32 = a / 32) :
    (m.setPoison a true).poisoned b 1 = true := by
  have key : cellKey (m.cell b) / 32 = cellKey (m.cell a) / 32 := m.cellKey_granule granule
  have read : sget false (m.setPoison a true).poison (cellKey (m.cell b) / 32) = true := by
    rw [MemSt.setPoison, sget_sset, if_pos key]
  exact List.any_eq_true.2 ⟨0, List.mem_range.2 Nat.one_pos, read⟩

/-- Poison that is set leaves what was poisoned so. -/
theorem MemSt.poisoned_setPoison_mono {m : MemSt} {b n : Nat} (h : m.poisoned b n = true) (a : Nat) :
    (m.setPoison a true).poisoned b n = true := by
  rw [MemSt.poisoned, List.any_eq_true] at h ⊢
  obtain ⟨i, hi, on⟩ := h
  refine ⟨i, hi, ?_⟩
  have read : sget false (m.setPoison a true).poison (cellKey (m.cell (b + i)) / 32) = true := by
    rw [MemSt.setPoison, sget_sset]
    split
    · rfl
    · exact on
  exact read

/-! ### Metadata words (R81, R82) -/

/-- The fields of a metadata word lie in their widths (R82). -/
structure Meta.Fits (md : Meta) : Prop where
  cur   : md.cur < 2
  tag   : md.tag < 64
  owner : md.owner < 512
  rsv   : md.rsv < 2 ^ 14

theorem metaOf_fits (w : Nat) : (metaOf w).Fits := ⟨bits_lt .., bits_lt .., bits_lt .., bits_lt ..⟩

theorem MemSt.metaAt_fits (m : MemSt) (a : Nat) : (m.metaAt a).Fits := metaOf_fits _

theorem Meta.Fits.word_lt {md : Meta} (h : md.Fits) : md.word < 2 ^ 32 := by
  obtain ⟨cur, tag, owner, rsv⟩ := h
  have := md.acc.toNat_le
  have := md.poison.toNat_le
  unfold Meta.word
  omega

theorem Meta.Fits.metaOf_word {md : Meta} (h : md.Fits) : metaOf md.word = md := by
  obtain ⟨cur, tag, owner, acc, poison, rsv⟩ := md
  obtain ⟨cur_lt, tag_lt, owner_lt, rsv_lt⟩ := h
  simp only at cur_lt tag_lt owner_lt rsv_lt
  simp only [metaOf, Meta.word, bits, bit, Meta.mk.injEq]
  refine ⟨?_, ?_, ?_, ?_, ?_, ?_⟩
  case refine_4 => cases acc <;> cases poison <;> simp only [Bool.toNat_true, Bool.toNat_false, beq_iff_eq, beq_eq_false_iff_ne] <;> omega
  case refine_5 => cases acc <;> cases poison <;> simp only [Bool.toNat_true, Bool.toNat_false, beq_iff_eq, beq_eq_false_iff_ne] <;> omega
  all_goals
    have := acc.toNat_le
    have := poison.toNat_le
    omega

/-- A metadata word of 32 bits reads as it was written. -/
theorem Meta.Fits.fromBytes_word {md : Meta} (h : md.Fits) : fromBytes (toBytes 4 md.word) = md.word := by
  rw [fromBytes_toBytes]
  exact Nat.mod_eq_of_lt h.word_lt

theorem MemSt.putMeta_hbm (m : MemSt) (a : Nat) (md : Meta) :
    (m.putMeta a md).hbm = swrite memDefault m.hbm (m.metaKey a) (toBytes 4 md.word) := rfl

theorem MemSt.metaAt_putMeta {m : MemSt} {md : Meta} (fits : md.Fits) (a : Nat) : (m.putMeta a md).metaAt a = md := by
  have read := sread_swrite memDefault m.hbm (m.metaKey a) (toBytes 4 md.word)
  rw [length_toBytes, ← MemSt.putMeta_hbm] at read
  rw [MemSt.metaAt, (m.accessed_putMeta a md).metaKey, read, fits.fromBytes_word, fits.metaOf_word]

theorem MemSt.metaAt_putMeta_ne {m : MemSt} {a b : Nat} (ha : a < 2 ^ 39) (hb : b < 2 ^ 39) (block : b / 256 ≠ a / 256)
    (md : Meta) : (m.putMeta a md).metaAt b = m.metaAt b := by
  have apart : m.metaKey b ≠ m.metaKey a := fun e => block (MemSt.metaKey_inj hb ha e)
  have := m.metaKey_mod a
  have := m.metaKey_mod b
  rw [MemSt.metaAt, (m.accessed_putMeta a md).metaKey, MemSt.putMeta_hbm,
    sread_swrite_outside memDefault (by rw [length_toBytes]; omega), MemSt.metaAt]

/-! ### The check of R91 -/

/-- A metadata word as the check of R91 leaves it. -/
def Meta.checked (md : Meta) : Meta := if md.rsv ≠ 0 then ⟨0, 0, 0, md.acc, true, 0⟩ else md

theorem Meta.Fits.checked {md : Meta} (h : md.Fits) : md.checked.Fits := by
  unfold Meta.checked
  split
  · exact ⟨Nat.two_pos, Nat.succ_pos _, Nat.succ_pos _, Nat.two_pow_pos _⟩
  · exact h

theorem normalise_fits {md : Meta} (h : md.Fits) (m : MemSt) (d : Nat) : (normalise m d md).Fits := by
  obtain ⟨cur, tag, owner, rsv⟩ := h
  unfold normalise
  split
  · exact ⟨by dsimp only; split <;> omega, Nat.succ_pos _, owner, rsv⟩
  · exact ⟨cur, tag, owner, rsv⟩

/-- Tags with a hardware flag more: only the flags change. -/
theorem raiseLive_eq (l : List Nat) (s : State) :
    ∃ flags, l.foldl (fun s t => raiseTag t flCORR s) s = { s with arb := { s.arb with hwFlags := flags } } := by
  induction l generalizing s with
  | nil => exact ⟨s.arb.hwFlags, rfl⟩
  | cons t l ih =>
    have one : ∃ flags, raiseTag t flCORR s = { s with arb := { s.arb with hwFlags := flags } } := by
      unfold raiseTag
      split
      · exact ⟨s.arb.hwFlags, rfl⟩
      · exact ⟨_, rfl⟩
    obtain ⟨flags, h⟩ := one
    obtain ⟨flags', h'⟩ := ih (raiseTag t flCORR s)
    rw [h] at h'
    exact ⟨flags', by rw [List.foldl_cons, h, h']⟩

theorem raiseLive_withMem (l : List Nat) (s : State) (m : MemSt) :
    ∃ flags, l.foldl (fun s t => raiseTag t flCORR s) (s.withMem m) =
      { s with mem := m, arb := { s.arb with hwFlags := flags } } := raiseLive_eq l _

theorem metaError_eq (a : Nat) (s : State) : ∃ flags, metaError a s =
    { s with mem := s.mem.putMeta a ⟨0, 0, 0, (s.mem.metaAt a).acc, true, 0⟩, arb := { s.arb with hwFlags := flags } } := by
  unfold metaError
  exact raiseLive_withMem ..

/-- The check changes the word of its own block, and hardware flags. -/
theorem checkMeta_eq (a : Nat) (s : State) : ∃ flags, (checkMeta a s).1 =
    { s with mem := if (s.mem.metaAt a).rsv ≠ 0 then s.mem.putMeta a (s.mem.metaAt a).checked else s.mem,
             arb := { s.arb with hwFlags := flags } } := by
  unfold checkMeta
  by_cases bad : (s.mem.metaAt a).rsv ≠ 0
  · obtain ⟨flags, h⟩ := metaError_eq a s
    exact ⟨flags, by rw [if_pos bad, if_pos bad, h, Meta.checked, if_pos bad]⟩
  · exact ⟨s.arb.hwFlags, by rw [if_neg bad, if_neg bad]⟩

end Sys2Proof.Machine
end

section
/-! SUPPORT. Maintenance commands (R95): they rewrite the metadata words of their blocks one after another, and nothing else
of the stacks. -/

namespace Sys2Proof.Machine

/-! ### Metadata words rewritten -/

/-- `t` is `s` but for metadata words and hardware flags. -/
structure MetaOnly (s t : State) : Prop where
  rest : t = { s with mem := { s.mem with hbm := t.mem.hbm }, arb := { s.arb with hwFlags := t.arb.hwFlags } }

namespace MetaOnly

theorem refl (s : State) : MetaOnly s s := ⟨rfl⟩

theorem trans {s t u : State} (h : MetaOnly s t) (g : MetaOnly t u) : MetaOnly s u := ⟨by rw [g.rest, h.rest]⟩

variable {s t : State} (h : MetaOnly s t)
include h

theorem cell (a : Nat) : t.mem.cell a = s.mem.cell a := by rw [h.rest]; rfl

theorem stackOf (a : Nat) : t.mem.stackOf a = s.mem.stackOf a := by rw [MemSt.stackOf, h.cell, MemSt.stackOf]

theorem status (d g : Nat) : t.mem.status d g = s.mem.status d g := by rw [h.rest]; rfl

theorem normalise (d : Nat) (md : Meta) : normalise t.mem d md = normalise s.mem d md := by
  simp only [Machine.normalise, h.status]

theorem kept : t.mem.vm = s.mem.vm ∧ t.mem.poison = s.mem.poison ∧ t.cores = s.cores ∧ t.host = s.host := by
  refine ⟨?_, ?_, ?_, ?_⟩ <;> rw [h.rest]

end MetaOnly

/-- From `s` to `t` the metadata words of `blocks` are rewritten by `f`; every other block's stands. -/
structure Rewrites (f : Nat → Meta → Meta) (blocks : List Nat) (s t : State) : Prop where
  only   : MetaOnly s t
  here   : ∀ a ∈ blocks, t.mem.metaAt a = f a (s.mem.metaAt a)
  others : ∀ b, b < 2 ^ 39 → (∀ a ∈ blocks, b / 256 ≠ a / 256) → t.mem.metaAt b = s.mem.metaAt b

theorem metaOnly_hbm (s : State) (hbm : Sparse Byte) : MetaOnly s (s.withMem { s.mem with hbm := hbm }) := ⟨rfl⟩

theorem metaOnly_putMeta (s : State) (a : Nat) (md : Meta) : MetaOnly s (s.withMem (s.mem.putMeta a md)) :=
  metaOnly_hbm s _

/-- One word put at a block. -/
theorem rewrites_putMeta {f : Nat → Meta → Meta} {a : Nat} {s t : State} {md : Meta} (ha : a < 2 ^ 39) (fits : md.Fits)
    (is : md = f a (s.mem.metaAt a)) (only : MetaOnly s t) (hbm : t.mem.hbm = (s.mem.putMeta a md).hbm) :
    Rewrites f [a] s t := by
  have same (b : Nat) : t.mem.metaAt b = (s.mem.putMeta a md).metaAt b := by
    rw [MemSt.metaAt, MemSt.metaAt, hbm, (s.mem.accessed_putMeta a md).metaKey, MemSt.metaKey, only.cell, MemSt.metaKey]
  refine ⟨only, fun b hb => ?_, fun b hb away => ?_⟩
  · rw [List.mem_singleton.1 hb, same, MemSt.metaAt_putMeta fits, is]
  · rw [same, MemSt.metaAt_putMeta_ne ha hb (away a (List.mem_singleton_self a))]

theorem rewrites_withMem {f : Nat → Meta → Meta} {a : Nat} {s : State} {md : Meta} (ha : a < 2 ^ 39) (fits : md.Fits)
    (is : md = f a (s.mem.metaAt a)) : Rewrites f [a] s (s.withMem (s.mem.putMeta a md)) :=
  rewrites_putMeta ha fits is (metaOnly_putMeta s a md) rfl

/-- Different blocks one after another, each by the same rewriting. -/
theorem rewrites_foldl {f : Nat → Meta → Meta} {step : State → Nat → State} {s : State}
    (one : ∀ u, MetaOnly s u → ∀ a, a < 2 ^ 39 → Rewrites f [a] u (step u a)) {blocks : List Nat}
    (offsets : ∀ a ∈ blocks, a < 2 ^ 39) (apart : blocks.Pairwise (fun a b => a / 256 ≠ b / 256)) :
    Rewrites f blocks s (blocks.foldl step s) := by
  induction blocks generalizing s with
  | nil => exact ⟨.refl s, fun _ h => absurd h List.not_mem_nil, fun _ _ _ => rfl⟩
  | cons a blocks ih =>
    obtain ⟨apart, rest⟩ := List.pairwise_cons.1 apart
    have first := one s (.refl s) a (offsets a List.mem_cons_self)
    have after := ih (s := step s a) (fun u only => one u (first.only.trans only))
      (fun b hb => offsets b (List.mem_cons_of_mem a hb)) rest
    refine ⟨first.only.trans after.only, fun b hb => ?_, fun b hb away => ?_⟩
    · rcases List.mem_cons.1 hb with rfl | hb'
      · exact (after.others b (offsets b hb) apart).trans (first.here b (List.mem_singleton_self b))
      · rw [List.foldl_cons, after.here b hb', first.others b (offsets b hb)
          (fun c hc => by rw [List.mem_singleton.1 hc]; exact (apart b hb').symm)]
    · rw [List.foldl_cons, after.others b hb (fun c hc => away c (List.mem_cons_of_mem a hc)),
        first.others b hb (fun c hc => by rw [List.mem_singleton.1 hc]; exact away a List.mem_cons_self)]

/-- Two rewritings of the same blocks, one after the other. -/
theorem Rewrites.then {f g : Nat → Meta → Meta} {blocks : List Nat} {s t u : State} (h : Rewrites f blocks s t)
    (k : Rewrites g blocks t u) : Rewrites (fun a md => g a (f a md)) blocks s u :=
  ⟨h.only.trans k.only, fun a ha => by rw [k.here a ha, h.here a ha],
    fun b hb away => (k.others b hb away).trans (h.others b hb away)⟩

/-- The check of R91 over blocks rewrites each word as the check leaves it. -/
theorem rewrites_checkMeta {a : Nat} (ha : a < 2 ^ 39) (s : State) :
    Rewrites (fun _ => Meta.checked) [a] s (checkMeta a s).1 := by
  obtain ⟨flags, h⟩ := checkMeta_eq a s
  rw [h]
  by_cases bad : (s.mem.metaAt a).rsv ≠ 0
  · rw [if_pos bad]
    exact rewrites_putMeta ha (s.mem.metaAt_fits a).checked rfl ⟨rfl⟩ rfl
  · rw [if_neg bad]
    refine ⟨⟨rfl⟩, fun b hb => ?_, fun _ _ _ => rfl⟩
    rw [List.mem_singleton.1 hb, Meta.checked, if_neg bad]

/-! ### The blocks of a command (R95) -/

section Command

variable {s : State} (quiet : s.quiet)
include quiet

theorem settleBlock_quiet (off : Nat) : settleBlock off s = s := by
  simp only [settleBlock, quiet.1, List.filter_nil, List.foldl_nil]

theorem settleBlocks_quiet (blocks : List Nat) : blocks.foldl (fun s a => settleBlock a s) s = s := by
  induction blocks with
  | nil => rfl
  | cons a blocks ih => rw [List.foldl_cons, settleBlock_quiet quiet, ih]

end Command

/-- The blocks of the command that the registers hold. -/
def vmBlocks (m : MemSt) : List Nat := (List.range m.vm.count).map (vmBlock m)

theorem mem_vmBlocks {m : MemSt} {a : Nat} : a ∈ vmBlocks m ↔ ∃ i, i < m.vm.count ∧ vmBlock m i = a := by
  simp [vmBlocks]

theorem vmBlock_div (m : MemSt) (i : Nat) : vmBlock m i / 256 = m.vm.addr / 256 + i := by
  unfold vmBlock
  omega

theorem vmBlocks_apart (m : MemSt) : (vmBlocks m).Pairwise (fun a b => a / 256 ≠ b / 256) := by
  refine List.pairwise_map.2 (List.Pairwise.imp (fun h => ?_) List.pairwise_lt_range)
  rw [vmBlock_div, vmBlock_div]
  omega

/-- Every block of the command lies in slot 0 of a versioned page (R95). -/
def VmInside (s : State) : Prop := ∀ i, i < s.mem.vm.count → vmBlock s.mem i < 2 ^ 39 ∧
  ∃ p ∈ versionedPages s, p.1 ≤ vmBlock s.mem i ∧ vmBlock s.mem i < p.1 + p.2

theorem vmInside_iff (s : State) : (vmBlocks s.mem).all (vmInside (versionedPages s)) = true ↔ VmInside s := by
  simp only [List.all_eq_true, mem_vmBlocks, forall_exists_index, and_imp, forall_apply_eq_imp_iff₂, vmInside, pageWith,
    Bool.and_eq_true, decide_eq_true_eq, List.find?_isSome, VmInside]

theorem VmInside.offsets {s : State} (h : VmInside s) : ∀ a ∈ vmBlocks s.mem, a < 2 ^ 39 := by
  intro a ha
  obtain ⟨i, hi, rfl⟩ := mem_vmBlocks.1 ha
  exact (h i hi).1

/-- The words of the command's blocks once the check of R91 is made on each. -/
theorem rewrites_checks {s : State} (inside : VmInside s) : Rewrites (fun _ => Meta.checked) (vmBlocks s.mem) s
    ((vmBlocks s.mem).foldl (fun s a => (checkMeta a s).1) s) :=
  rewrites_foldl (fun u _ _ ha => rewrites_checkMeta ha u) inside.offsets (vmBlocks_apart _)

/-! ### The command's end (R95) -/

/-- A command has run with result `n` and left `f i` in the metadata word of its block `i`; every other block's word
stands, and all else but the hardware flags. -/
def VmRan (s : State) (n : Nat) (f : Nat → Meta) (t : State) : Prop :=
  t.mem.vm = { s.mem.vm with ran := true, result := n } ∧
  (∀ i, i < s.mem.vm.count → t.mem.metaAt (vmBlock s.mem i) = f i) ∧
  t.mem.poison = s.mem.poison ∧ t.cores = s.cores ∧ t.host = s.host ∧
  ∀ a, a < 2 ^ 39 → (∀ i, i < s.mem.vm.count → a / 256 ≠ vmBlock s.mem i / 256) → t.mem.metaAt a = s.mem.metaAt a

theorem vmEnd_metaAt (n : Nat) (s : State) (a : Nat) : (vmEnd n s).mem.metaAt a = s.mem.metaAt a := rfl

theorem Rewrites.vmRan {f : Nat → Meta → Meta} {s t : State} (h : Rewrites f (vmBlocks s.mem) s t) (n : Nat) :
    VmRan s n (fun i => f (vmBlock s.mem i) (s.mem.metaAt (vmBlock s.mem i))) (vmEnd n t) := by
  obtain ⟨vm, poison, cores, host⟩ := h.only.kept
  refine ⟨congrArg (fun v : VmSt => { v with ran := true, result := n }) vm, fun i hi => ?_, poison, cores, host,
    fun a ha away => ?_⟩
  · exact (vmEnd_metaAt ..).trans (h.here _ (mem_vmBlocks.2 ⟨i, hi, rfl⟩))
  · refine (vmEnd_metaAt ..).trans (h.others a ha fun b hb => ?_)
    obtain ⟨i, hi, rfl⟩ := mem_vmBlocks.1 hb
    exact away i hi

/-- A command that only ends changes no word. -/
theorem vmRan_vmEnd (s : State) (n : Nat) : VmRan s n (fun i => s.mem.metaAt (vmBlock s.mem i)) (vmEnd n s) :=
  ⟨rfl, fun _ _ => rfl, rfl, rfl, rfl, fun _ _ _ => rfl⟩

/-! ### How a command runs -/

/-- A command with operation `op` waits. -/
def VmWaits (s : State) (op : Nat) : Prop := s.mem.vm.go = true ∧ s.mem.vm.ran = false ∧ s.mem.vm.op = op

/-- A block has an ACTIVE tag, by its word `md`. -/
def VmActive (s : State) (a : Nat) (md : Meta) : Prop := md.tag ≠ 0 ∧ s.mem.status (s.mem.stackOf a) md.tag = .active

theorem vmActive_iff (s : State) (a : Nat) : vmActive s.mem a = true ↔ VmActive s a (s.mem.metaAt a) := by
  simp [vmActive, VmActive]

section Runs

variable {s : State} {op : Nat} {f : MemSt → Meta → Meta}

theorem vmRun_idle (h : ¬ VmWaits s op) : vmRun op f s = .next s := by
  rw [vmRun, when, if_neg]
  simpa [VmWaits, and_assoc] using h

/-- The command that waits, over its blocks. -/
theorem vmRun_waits (quiet : s.quiet) (waits : VmWaits s op) : vmRun op f s = .next (
    if (vmBlocks s.mem).all (vmInside (versionedPages s)) = false then vmEnd 3 s
    else
      let u := if op = 1 then s else (vmBlocks s.mem).foldl (fun s a => (checkMeta a s).1) s
      if (decide (op ≠ 1) && (vmBlocks s.mem).any (vmActive u.mem)) = true then vmEnd 1 u
      else vmEnd 0 ((vmBlocks s.mem).foldl (fun s a =>
        let md := s.mem.metaAt a
        let md := if op = 1 then md else normalise s.mem (s.mem.stackOf a) md
        s.withMem (s.mem.putMeta a (f s.mem md))) u)) := by
  obtain ⟨go, ran, is⟩ := waits
  rw [vmRun, when, if_pos (by simp [go, ran, is])]
  dsimp only
  rw [settleBlocks_quiet quiet]
  simp only [Bool.not_eq_true']
  rfl

theorem vmRun_outside (quiet : s.quiet) (waits : VmWaits s op) (outside : ¬ VmInside s) :
    vmRun op f s = .next (vmEnd 3 s) := by
  rw [vmRun_waits quiet waits, if_pos]
  rwa [← Bool.not_eq_true, vmInside_iff]

/-- INIT writes every word whole. -/
theorem vmRun_init (quiet : s.quiet) (waits : VmWaits s 1) (inside : VmInside s) {md : Bool → Meta}
    (fits : ∀ b, (md b).Fits) : ∃ t, vmRun 1 (fun m _ => md m.vm.acc) s = .next t ∧
      VmRan s 0 (fun _ => md s.mem.vm.acc) t := by
  have runs := vmRun_waits (f := fun m _ => md m.vm.acc) quiet waits
  rw [if_neg (by rw [(vmInside_iff s).2 inside]; decide)] at runs
  refine ⟨_, runs, Rewrites.vmRan (f := fun _ _ => md s.mem.vm.acc) (rewrites_foldl (fun u only a ha => ?_) inside.offsets
    (vmBlocks_apart _)) 0⟩
  exact rewrites_withMem ha (fits u.mem.vm.acc) (by rw [only.kept.1])

/-- The state in which SETACC, CLRACC and CLRPOISON have checked every block. -/
def vmChecked (s : State) : State := (vmBlocks s.mem).foldl (fun s a => (checkMeta a s).1) s

theorem vmActive_vmChecked (inside : VmInside s) : (vmBlocks s.mem).any (vmActive (vmChecked s).mem) = true ↔
    ∃ i, i < s.mem.vm.count ∧ VmActive s (vmBlock s.mem i) (s.mem.metaAt (vmBlock s.mem i)).checked := by
  have checks := rewrites_checks inside
  simp only [List.any_eq_true, mem_vmBlocks]
  have one (i : Nat) (hi : i < s.mem.vm.count) : vmActive (vmChecked s).mem (vmBlock s.mem i) = true ↔
      VmActive s (vmBlock s.mem i) (s.mem.metaAt (vmBlock s.mem i)).checked := by
    rw [vmActive_iff, VmActive, VmActive, vmChecked, checks.only.stackOf, checks.only.status,
      checks.here _ (mem_vmBlocks.2 ⟨i, hi, rfl⟩)]
  constructor
  · rintro ⟨_, ⟨i, hi, rfl⟩, on⟩
    exact ⟨i, hi, (one i hi).1 on⟩
  · rintro ⟨i, hi, on⟩
    exact ⟨_, ⟨i, hi, rfl⟩, (one i hi).2 on⟩

/-- SETACC, CLRACC and CLRPOISON over blocks of which none has an ACTIVE tag normalise each and change its word. -/
theorem rewrites_normalised (inside : VmInside s) {g : Meta → Meta} (fits : ∀ md : Meta, md.Fits → (g md).Fits) :
    Rewrites (fun a md => g (normalise s.mem (s.mem.stackOf a) md.checked)) (vmBlocks s.mem) s
      ((vmBlocks s.mem).foldl (fun s a => s.withMem (s.mem.putMeta a
        (g (normalise s.mem (s.mem.stackOf a) (s.mem.metaAt a))))) (vmChecked s)) := by
  have checks := rewrites_checks inside
  have puts : Rewrites (fun a md => g (normalise s.mem (s.mem.stackOf a) md)) (vmBlocks s.mem) (vmChecked s)
      ((vmBlocks s.mem).foldl (fun s a => s.withMem (s.mem.putMeta a
        (g (normalise s.mem (s.mem.stackOf a) (s.mem.metaAt a))))) (vmChecked s)) := by
    refine rewrites_foldl (fun u only a ha => ?_) inside.offsets (vmBlocks_apart _)
    have all := checks.only.trans only
    refine rewrites_withMem ha (fits _ (normalise_fits (u.mem.metaAt_fits a) ..)) ?_
    rw [all.normalise, all.stackOf]
  exact checks.then puts

section Checks

variable (quiet : s.quiet) (waits : VmWaits s op) (other : op ≠ 1) (inside : VmInside s)
include quiet waits other inside

theorem vmRun_active (active : ∃ i, i < s.mem.vm.count ∧
    VmActive s (vmBlock s.mem i) (s.mem.metaAt (vmBlock s.mem i)).checked) :
    ∃ t, vmRun op f s = .next t ∧ VmRan s 1 (fun i => (s.mem.metaAt (vmBlock s.mem i)).checked) t := by
  have runs := vmRun_waits (f := f) quiet waits
  rw [if_neg (by rw [(vmInside_iff s).2 inside]; decide), if_neg other] at runs
  refine ⟨_, runs.trans (congrArg _ (if_pos ?_)), (rewrites_checks inside).vmRan 1⟩
  rw [decide_eq_true other, Bool.true_and]
  exact (vmActive_vmChecked inside).2 active

theorem vmRun_changes {g : Meta → Meta} (fits : ∀ md : Meta, md.Fits → (g md).Fits)
    (free : ∀ i, i < s.mem.vm.count → ¬ VmActive s (vmBlock s.mem i) (s.mem.metaAt (vmBlock s.mem i)).checked) :
    ∃ t, vmRun op (fun _ => g) s = .next t ∧ VmRan s 0 (fun i => g (normalise s.mem (s.mem.stackOf (vmBlock s.mem i))
      (s.mem.metaAt (vmBlock s.mem i)).checked)) t := by
  have runs := vmRun_waits (f := fun _ => g) quiet waits
  rw [if_neg (by rw [(vmInside_iff s).2 inside]; decide), if_neg other] at runs
  simp only [if_neg other] at runs
  refine ⟨_, runs.trans (congrArg _ (if_neg ?_)), (rewrites_normalised inside fits).vmRan 0⟩
  rw [decide_eq_true other, Bool.true_and]
  exact fun on => absurd ((vmActive_vmChecked inside).1 on) (by rintro ⟨i, hi, active⟩; exact free i hi active)

end Checks

end Runs

/-! ### The events -/

theorem exec_vmcmdIllegal_eq (s : State) : exec .vmcmdIllegal s =
    .next (if s.mem.vm.go = true ∧ s.mem.vm.ran = false ∧ 5 ≤ s.mem.vm.op then vmEnd 2 s else s) := by
  rw [exec_vmcmdIllegal, execVmcmdIllegal]
  exact congrArg Host.Outcome.next (if_congr (by simp [and_assoc]) rfl rfl)

theorem exec_vmcmdComplete_eq (s : State) : exec .vmcmdComplete s = .next (
    if s.mem.vm.go = true ∧ (s.mem.vm.ran = true ∨ s.mem.vm.op = 0) then
      s.withMem { s.mem with vm :=
        { s.mem.vm with go := false, ran := false, result := if s.mem.vm.op = 0 then 0 else s.mem.vm.result } }
    else s) := by
  rw [exec_vmcmdComplete, execVmcmdComplete]
  refine congrArg Host.Outcome.next (if_congr (by simp) ?_ rfl)
  dsimp only
  split <;> rfl

/-- What SETACC, CLRACC and CLRPOISON answer, by the state of their command. -/
theorem checkedCommand {e : Instr} {op : Nat} {g : Meta → Meta} {s : State} (quiet : s.quiet) (other : op ≠ 1)
    (runs : exec e s = vmRun op (fun _ => g) s) (fits : ∀ md : Meta, md.Fits → (g md).Fits) :
    (¬ VmWaits s op → exec e s = .next s) ∧
    (VmWaits s op → ¬ VmInside s → Answers e s (VmRan s 3 fun i => s.mem.metaAt (vmBlock s.mem i))) ∧
    (VmWaits s op → VmInside s → (∃ i, i < s.mem.vm.count ∧
      VmActive s (vmBlock s.mem i) (s.mem.metaAt (vmBlock s.mem i)).checked) →
      Answers e s (VmRan s 1 fun i => (s.mem.metaAt (vmBlock s.mem i)).checked)) ∧
    (VmWaits s op → VmInside s → (∀ i, i < s.mem.vm.count →
      ¬ VmActive s (vmBlock s.mem i) (s.mem.metaAt (vmBlock s.mem i)).checked) →
      Answers e s (VmRan s 0 fun i => g (normalise s.mem (s.mem.stackOf (vmBlock s.mem i))
        (s.mem.metaAt (vmBlock s.mem i)).checked))) := by
  unfold Answers
  rw [runs]
  exact ⟨vmRun_idle, fun waits outside => ⟨_, vmRun_outside quiet waits outside, vmRan_vmEnd s 3⟩,
    fun waits inside => vmRun_active quiet waits other inside,
    fun waits inside => vmRun_changes quiet waits other inside fits⟩

/-- Settles O46: each command is `vmRun`, which rewrites the words of its blocks. -/
theorem maintenanceResults : Obligations.MaintenanceResults := by
  unfold Obligations.MaintenanceResults
  intro s quiet v pages at' inside md checked active waits ends word done
  have initFits (b : Bool) : (⟨0, 0, 0, b, false, 0⟩ : Meta).Fits :=
    ⟨Nat.two_pos, Nat.succ_pos _, Nat.succ_pos _, Nat.two_pow_pos _⟩
  refine ⟨fun w => ?_, fun w outside => ?_, fun w inside => ?_, ?_, ?_, ?_, fun go ran op => ?_, fun no => ?_, fun go ended => ?_,
    fun no => ?_⟩
  · exact (exec_init s).trans (vmRun_idle w)
  · exact ⟨_, (exec_init s).trans (vmRun_outside quiet w outside), vmRan_vmEnd s 3⟩
  · obtain ⟨t, runs, ran⟩ := vmRun_init quiet w inside initFits
    exact ⟨t, (exec_init s).trans runs, ran⟩
  · exact checkedCommand quiet (by decide) (exec_setacc s) fun _ h => ⟨h.cur, h.tag, h.owner, h.rsv⟩
  · exact checkedCommand quiet (by decide) (exec_clracc s) fun _ h => ⟨h.cur, h.tag, h.owner, h.rsv⟩
  · exact checkedCommand quiet (by decide) (exec_clrpoison s) fun _ h => ⟨h.cur, h.tag, h.owner, h.rsv⟩
  · have ill := exec_vmcmdIllegal_eq s
    rw [if_pos ⟨go, ran, op⟩] at ill
    exact ⟨_, ill, vmRan_vmEnd s 2⟩
  · have ill := exec_vmcmdIllegal_eq s
    rwa [if_neg] at ill
    rintro ⟨go, ran, op⟩
    rcases no with no | no | no
    · exact absurd (go.symm.trans no) (by decide)
    · exact absurd (ran.symm.trans no) (by decide)
    · exact Nat.not_lt.2 op no
  · have ends := exec_vmcmdComplete_eq s
    rw [if_pos ⟨go, ended⟩] at ends
    exact ⟨_, ends, rfl, rfl, rfl⟩
  · have ends := exec_vmcmdComplete_eq s
    rwa [if_neg] at ends
    rintro ⟨go, ended⟩
    exact no.elim (fun off => absurd (go.symm.trans off) (by decide)) (fun not => not ended)

end Sys2Proof.Machine
end

section
/-! SUPPORT. Requests that leave a core, and the write-backs of its caches, are accesses too (R47 to R50, R53, R55, R257,
R258, R262). -/

namespace Sys2Proof.Machine

/-! ### Requests in flight (R47 to R50, R53, R55) -/

theorem accessed_hubWait (core : Nat) (s : State) : Accessed s (hubWait core s) := by
  unfold hubWait
  split
  · exact accessed_waitTurn s
  · exact .refl s

theorem accessed_passTl2 (core num tag : Nat) (err : Option RemoteErr) (va : Nat) (s : State) :
    Accessed s (passTl2 core num tag err va s) := by
  unfold passTl2
  split
  · cases err
    · exact .refl s
    · exact accessed_fab ..
  · exact accessed_completeTl ..

theorem accessed_completeFlight (f : Flight) (r : RemoteResult) (s : State) : Accessed s (completeFlight f r s) := by
  unfold completeFlight
  extract_lets fab u
  have left : Accessed s u := accessed_fab ..
  split
  · rename_i core k _
    refine left.trans (accessed_modCore u core _ ?_)
    cases k <;> rfl
  · exact left.trans (accessed_passTl2 ..)
  · exact left

theorem accessed_sendAlong (q : RemoteReq) (r : List Nat) (s : State) : Accessed s (sendAlong q r s) := by
  have detour : Accessed s (keepDetour q r s) := by
    unfold keepDetour
    split
    · exact accessed_fab ..
    · exact .refl s
  unfold sendAlong
  extract_lets u v
  have sent : Accessed s v := detour.trans (accessed_fab ..)
  split
  · exact sent.trans (accessed_fab ..)
  · exact sent

theorem accessed_sendRequest (core : Nat) (user : ReqUser) (va : Word) (q : RemoteReq) (s : State) :
    Accessed s (sendRequest core user va q s) := by
  unfold sendRequest
  extract_lets u fab flight
  have waits : Accessed s u := accessed_hubWait core s
  have kept (w : Way) : Accessed s (flight w) := waits.trans (accessed_fab ..)
  split
  · split
    · exact kept _
    · exact (kept _).trans (accessed_completeFlight ..)
  · split
    · exact (kept _).trans (accessed_fab ..)
    · exact (kept _).trans (accessed_sendAlong ..)

/-! ### Lines written back (R57, R257, R258, R262) -/

theorem accessed_writeHome (core pa : Nat) (bs : List Byte) (s : State) : Accessed s (writeHome core pa bs s) := by
  unfold writeHome
  split
  · exact accessed_plainWrite ..
  · refine .foldl (fun s p => ?_) _ s
    exact (accessed_fresh s).trans (accessed_sendRequest ..)

theorem accessed_backL2 (core key : Nat) (s : State) : Accessed s (backL2 core key s) := by
  have written : Accessed s (((sget Line.empty (l2Of s core) key).runs).foldl
      (fun s r => writeHome core (key * 128 + r.1) r.2 s) s) :=
    .foldl (fun s (r : Nat × List Byte) => accessed_writeHome core (key * 128 + r.1) r.2 s) _ s
  exact written.trans (accessed_modL2 ..)

theorem accessed_victimOf {α : Type} (l : List α) (s : State) : Accessed s (victimOf l s).1 := accessed_fresh s

theorem accessed_roomL2 (core key : Nat) (s : State) : Accessed s (roomL2 core key s) := by
  unfold roomL2
  extract_lets m
  split
  · exact .refl s
  · have victim := accessed_victimOf m s
    split
    · rename_i h
      rw [h] at victim
      exact (victim.trans (accessed_backL2 ..)).trans (accessed_modL2 ..)
    · rename_i h
      rw [h] at victim
      exact victim

theorem accessed_backL1 (core key : Nat) (s : State) : Accessed s (backL1 core key s) := by
  unfold backL1
  extract_lets l u v
  have room : Accessed s u := by
    unfold u
    split
    · exact .refl s
    · exact accessed_roomL2 ..
  exact (room.trans (accessed_modL2 ..)).trans (accessed_modL1 ..)

theorem accessed_releaseLines (core scope : Nat) (s : State) : Accessed s (releaseLines core scope s) := by
  unfold releaseLines
  split
  · exact .refl s
  · extract_lets u
    have lines : Accessed s u := .foldl (fun s k => accessed_backL1 core k s) _ s
    split
    · exact lines
    · exact lines.trans (.foldl (fun s k => accessed_backL2 core k s) _ u)

theorem accessed_release (core scope : Nat) (s : State) : Accessed s (release core scope s).1 :=
  accessed_releaseLines ..

end Sys2Proof.Machine
end

section
/-! SUPPORT. The status table: state writes that leave the Pavilion, the tags given to those that wait, and held SPAWN packets
(R83 to R85, R94, R147). -/

namespace Sys2Proof.Machine

/-! ### State writes (R84, R85) -/

/-- A pairing that R84 lists is written in the master and leaves for all eight mirrors. -/
theorem statusWrite_listed {t : Nat} {st : TagState} {s : State} (h : tagMove (sget .free s.mem.master t) st = true)
    (u : TagUser) : statusWrite t st u s = s.withMem { s.mem with
      master := sput s.mem.master t st, writes := s.mem.writes ++ [⟨t, st, List.range 8, u⟩] } := by
  rw [statusWrite, if_pos h]

/-- The state that a decision gives a tag. -/
def settledState (commit : Bool) : TagState := if commit then .committed else .aborted

/-- An ACTIVE tag is settled as decided. -/
theorem statusWrite_settles {t : Nat} {s : State} (active : sget .free s.mem.master t = .active) (commit : Bool)
    (u : TagUser) : statusWrite t (settledState commit) u s = s.withMem { s.mem with
      master := sput s.mem.master t (settledState commit),
      writes := s.mem.writes ++ [⟨t, settledState commit, List.range 8, u⟩] } := by
  refine statusWrite_listed ?_ u
  rw [active]
  cases commit <;> rfl

theorem mem_freeTags {s : State} {t : Nat} (h : t ∈ freeTags s) : t ≠ 0 ∧ sget .free s.mem.master t = .free := by
  simp only [freeTags, List.mem_filter, Bool.and_eq_true, decide_eq_true_eq] at h
  exact h.2.1

/-! ### Allocation (R94) -/

/-- The tag `t` given to `u`: its hardware flags start clear, and its ACTIVE write leaves. -/
def giveTag (t : Nat) (u : TagUser) (rest : List TagUser) (s : State) : State :=
  { s with mem := { s.mem with waiting := rest, master := sput s.mem.master t .active,
                               writes := s.mem.writes ++ [⟨t, .active, List.range 8, u⟩] },
           arb := { s.arb with hwFlags := sput s.arb.hwFlags t 0 } }

/-- The first that waits takes the lowest free tag. -/
theorem allocate_gives {s : State} {u : TagUser} {rest : List TagUser} {t : Nat} {more : List Nat}
    (waits : waitingUsers s = u :: rest) (free : freeTags s = t :: more) : allocate s = giveTag t u rest s := by
  have is : sget .free s.mem.master t = .free := (mem_freeTags (free ▸ List.mem_cons_self)).2
  rw [allocate, waits, free]
  refine statusWrite_listed (s := clearFlags t (s.withMem { s.mem with waiting := rest })) ?_ u
  change tagMove (sget .free s.mem.master t) .active = true
  rw [is]
  rfl

theorem allocate_idle {s : State} (h : waitingUsers s = [] ∨ freeTags s = []) : allocate s = s := by
  unfold allocate
  rcases h with h | h
  · rw [h]
  · rw [h]
    cases waitingUsers s <;> rfl

/-! ### Held SPAWN packets (R147) -/

theorem appendSpawn_eq (c : Nat) (ws : List Word) (s : State) : ∃ host, appendSpawn c ws s = { s with host := host } :=
  ⟨_, rfl⟩

/-- The packets held under a tag leave; only a COMMIT hands any to its chain. -/
theorem settleSpawns_eq (t : Nat) (commit : Bool) (s : State) : ∃ host, settleSpawns t commit s =
    { s with arb := { s.arb with heldSp := s.arb.heldSp.filter (fun p => p.1 != t) }, host := host } ∧
      (commit = false → host = s.host) := by
  cases commit with
  | false => exact ⟨s.host, rfl, fun _ => rfl⟩
  | true =>
    have handed (l : List (Nat × Nat × List Word)) (u : State) : ∃ host,
        l.foldl (fun s p => if (s.chain p.2.1).accepts then appendSpawn p.2.1 p.2.2 s else s) u =
          { u with host := host } := by
      refine List.foldlRecOn (motive := fun t : State => ∃ host, t = { u with host := host }) _ _ ⟨u.host, rfl⟩ ?_
      rintro _ ⟨host, rfl⟩ p -
      split
      · exact ⟨_, rfl⟩
      · exact ⟨host, rfl⟩
    obtain ⟨host, h⟩ := handed (s.arb.heldSp.filter (fun p => p.1 == t))
      { s with arb := { s.arb with heldSp := s.arb.heldSp.filter (fun p => p.1 != t) } }
    exact ⟨host, h, nofun⟩

end Sys2Proof.Machine
end

section
/-! SUPPORT. The transaction words of the A-stream (R126, R131, R148, R394 to R396). -/

namespace Sys2Proof.Machine

/-! ### The end of a word leaves the core's books -/

theorem CoreSt.putPlace_eq (c : CoreSt) (b : VByte) : ∃ vec tile kept,
    c.putPlace b = { c with vec := vec, tile := tile, kept := kept } := by
  unfold CoreSt.putPlace
  split
  · exact ⟨_, c.tile, c.kept, rfl⟩
  · exact ⟨c.vec, _, _, rfl⟩

theorem CoreSt.land_eq (c : CoreSt) (bs : List VByte) : ∃ vec tile kept vecPois tilePois pending,
    c.land bs = { c with vec := vec, tile := tile, kept := kept, vecPois := vecPois, tilePois := tilePois,
                         pending := pending } := by
  have put : ∃ vec tile kept, bs.foldl CoreSt.putPlace c = { c with vec := vec, tile := tile, kept := kept } := by
    refine List.foldlRecOn (motive := fun d : CoreSt => ∃ vec tile kept,
      d = { c with vec := vec, tile := tile, kept := kept }) _ _ ⟨c.vec, c.tile, c.kept, rfl⟩ ?_
    rintro _ ⟨vec, tile, kept, rfl⟩ b -
    obtain ⟨vec', tile', kept', h⟩ := CoreSt.putPlace_eq { c with vec := vec, tile := tile, kept := kept } b
    exact ⟨vec', tile', kept', h⟩
  obtain ⟨vec, tile, kept, h⟩ := put
  refine ⟨vec, tile, kept, unpoison 0 c.vecPois bs, unpoison (2 ^ 15) c.tilePois bs, strikeAll bs c.pending, ?_⟩
  unfold CoreSt.land CoreSt.putPlaces
  rw [h]

/-- The exposure moves on in vector and tile bytes alone (R239). -/
theorem CoreSt.age_eq (c : CoreSt) : ∃ vec tile kept vecPois tilePois pending,
    c.age = { c with vec := vec, tile := tile, kept := kept, vecPois := vecPois, tilePois := tilePois,
                     pending := pending } := by
  have going (n : Nat) (ws : List PendingWrite) (d : CoreSt) : ∃ vec tile kept vecPois tilePois pending,
      CoreSt.age.go n ws d = { d with vec := vec, tile := tile, kept := kept, vecPois := vecPois, tilePois := tilePois,
                                      pending := pending } := by
    induction n generalizing ws d with
    | zero => exact ⟨_, _, _, _, _, _, rfl⟩
    | succ n ih =>
      cases ws with
      | nil => exact ⟨_, _, _, _, _, _, rfl⟩
      | cons w ws =>
        simp only [CoreSt.age.go]
        split
        · obtain ⟨v, t, k, vp, tp, p, h⟩ := ih ws { d with pending := d.pending ++ [w] }
          exact ⟨v, t, k, vp, tp, p, h⟩
        · split
          · obtain ⟨v, t, k, vp, tp, p, h⟩ := ih ws { d with pending := strikeAll w.bytes d.pending }
            exact ⟨v, t, k, vp, tp, p, h⟩
          · obtain ⟨_, _, _, _, _, _, landed⟩ := d.land_eq (seenUnder w.bytes ws).1
            rw [landed]
            obtain ⟨v, t, k, vp, tp, p, h⟩ := ih (seenUnder w.bytes ws).2 _
            exact ⟨v, t, k, vp, tp, p, h⟩
  obtain ⟨v, t, k, vp, tp, p, h⟩ :=
    going (c.pending.map (fun w => { w with left := w.left - 1 })).length _ { c with pending := [] }
  exact ⟨v, t, k, vp, tp, p, h⟩

@[simp] theorem CoreSt.aged_txst (c : CoreSt) (k : StreamKind) : (c.aged k).txst = c.txst := by
  obtain ⟨_, _, _, _, _, _, h⟩ := c.age_eq
  unfold CoreSt.aged
  split
  · rw [h]
  · rfl

@[simp] theorem CoreSt.aged_l1 (c : CoreSt) (k : StreamKind) : (c.aged k).l1 = c.l1 := by
  obtain ⟨_, _, _, _, _, _, h⟩ := c.age_eq
  unfold CoreSt.aged
  split
  · rw [h]
  · rfl

@[simp] theorem CoreSt.setStream_txst (c : CoreSt) (k : StreamKind) (x : StreamSt) : (c.setStream k x).txst = c.txst := by
  cases k <;> rfl

@[simp] theorem CoreSt.setStream_l1 (c : CoreSt) (k : StreamKind) (x : StreamSt) : (c.setStream k x).l1 = c.l1 := by
  cases k <;> rfl

end Sys2Proof.Machine
end

section
/-! SUPPORT. The transaction words of the A-stream complete, wait or trap as R126, R131, R148 and R394 to R396 say (O27). -/

namespace Sys2Proof.Machine

/-! ### What a word leaves of its core -/

@[simp] theorem leaving_cur (s : State) (c : CoreSt) (x : StreamSt) :
    (s.leaving c x).cur = (c.aged s.focus.kind).setStream s.focus.kind x := State.core_setCore ..

@[simp] theorem leaving_strm (s : State) (c : CoreSt) (x : StreamSt) : (s.leaving c x).strm = x := by
  change ((s.leaving c x).cur).stream s.focus.kind = x
  simp

theorem leaving_core_ne (s : State) (c : CoreSt) (x : StreamSt) {j : Nat} (h : j ≠ s.focus.core) :
    (s.leaving c x).core j = s.core j := State.core_setCore_ne s _ h

/-- A word that changed its core beside the streams ends with one result. -/
theorem finish_wr (d : Nat) (v : Word) (s : State) :
    finish (s.wr d v) = s.leaving s.cur ((s.strm.setReg d v).advance 4) := finish_modStrm s _

/-- A word ends that changed its core, the streams apart. -/
theorem finish_modCur (s : State) (f : CoreSt → CoreSt) (ha : (f s.cur).a = s.cur.a) (hx : (f s.cur).x = s.cur.x) :
    finish (s.modCur f) = s.leaving (f s.cur) (s.strm.advance 4) := by
  have kept : (f s.cur).stream s.focus.kind = s.strm := by
    have h := State.strm_modCur_kept s f ha hx
    unfold State.strm at h
    rwa [State.cur_modCur] at h
  rw [State.modCur_def, finish_leaving, kept]

@[simp] theorem strm_modTx (s : State) (f : TxSt → TxSt) : (s.modCur (fun c => c.modTx f)).strm = s.strm :=
  State.strm_modCur_kept _ _ rfl rfl

/-! ### A word that waits for its transaction -/

/-- A stream whose word waits for its transaction (R224, R316). -/
def StreamSt.waitsTx (x : StreamSt) : StreamSt :=
  { x with stall := some .txn, stallCnt := if x.stall.isSome then x.stallCnt else 0 }

theorem block_txn (s : State) : block .txn s = s.modStrm StreamSt.waitsTx := rfl

theorem beginWaits_block {s : State} (running : s.strm.run = .running) (kind : s.focus.kind = .a) :
    beginWaits (block .txn s) s.focus.core = true := by
  have a : ((block .txn s).core s.focus.core).a = s.strm.waitsTx := by
    have h : (block .txn s).strm = s.strm.waitsTx := State.strm_modStrm s _
    rw [← h]
    unfold State.strm
    rw [show (block .txn s).focus.kind = .a from kind]
    rfl
  unfold beginWaits
  rw [a]
  simp [StreamSt.waitsTx, running]

/-! ### TXBEGIN (R85, R94, R148, R395) -/

/-- The transaction that TXBEGIN opens with the tag handed to it. -/
def TxSt.opened (t : Nat) (x : TxSt) : TxSt := { x with tag := t, kind := 2, att := 0, gflags := 0, outcome := none }

/-- The core in execution takes the tag handed to it and opens its transaction. -/
def State.begun (t : Nat) (s : State) : State :=
  (s.withMem { s.mem with given := s.mem.given.filter (fun p => p.1 != s.focus.core) }).modCur
    (fun c => c.modTx (TxSt.opened t))

theorem begun_core_ne (t : Nat) (s : State) {j : Nat} (h : j ≠ s.focus.core) : (s.begun t).core j = s.core j :=
  State.core_modCore_ne (s.withMem _) _ h

section
variable {s : State} (outside : s.cur.txst.kind = 0)
include outside

theorem txbegin_given (d : Nat) {e : Nat × Nat} (given : s.mem.given.find? (fun p => p.1 == s.focus.core) = some e) :
    exec (.txbegin d) s = .next ((s.begun e.2).leaving (s.begun e.2).cur
      ((s.strm.setReg d (BitVec.ofNat 64 e.2)).advance 4)) := by
  rw [exec_txbegin]
  unfold execTxbegin
  rw [if_neg (by simp [outside]), given]
  have stands : (s.begun e.2).strm = s.strm := strm_modTx ..
  rw [← stands]
  exact congrArg Host.Outcome.next (finish_wr d (BitVec.ofNat 64 e.2) (s.begun e.2))

theorem txbegin_asks (d : Nat) (given : s.mem.given.find? (fun p => p.1 == s.focus.core) = none) :
    exec (.txbegin d) s = .next (allocate (block .txn (if asked s.focus.core s then s
      else s.withMem { s.mem with waiting := s.mem.waiting ++ [.core s.focus.core] }))) := by
  rw [exec_txbegin]
  unfold execTxbegin
  rw [if_neg (by simp [outside]), given]

end

/-- The first to ask takes the lowest free tag at once. -/
theorem allocate_asks {s : State} (running : s.strm.run = .running) (kind : s.focus.kind = .a)
    (none : s.mem.waiting = []) {t : Nat} {rest : List Nat} (free : freeTags s = t :: rest) :
    allocate (block .txn (s.withMem { s.mem with waiting := s.mem.waiting ++ [.core s.focus.core] })) =
      giveTag t (.core s.focus.core) []
        (block .txn (s.withMem { s.mem with waiting := s.mem.waiting ++ [.core s.focus.core] })) := by
  refine allocate_gives ?_ free
  have waits := beginWaits_block (s := s.withMem { s.mem with waiting := s.mem.waiting ++ [.core s.focus.core] })
    running kind
  unfold waitingUsers
  change List.filter _ (s.mem.waiting ++ [.core s.focus.core]) = _
  rw [none]
  exact List.filter_cons_of_pos waits

/-! ### TXWAIT and TXABORT (R148, R396) -/

section
variable {s : State} (within : s.cur.txst.kind = 2)
include within

theorem txwait_settling (d : Nat) {commit : Bool} (decided : s.cur.txst.outcome = some commit)
    (on : settling s = true) : exec (.txwait d) s = .next (block .txn s) := by
  rw [exec_txwait]
  unfold execTxwait
  rw [if_neg (by simp [within]), decided]
  exact if_pos on

theorem txabort_settling {commit : Bool} (decided : s.cur.txst.outcome = some commit)
    (on : settling s = true) : exec .txabort s = .next (block .txn s) := by
  rw [exec_txabort]
  unfold execTxabort
  rw [if_neg (by simp [within]), decided]
  exact if_pos on

theorem txwait_settled (d : Nat) {commit : Bool} (decided : s.cur.txst.outcome = some commit)
    (done : settling s = false) : exec (.txwait d) s = .next
      ((s.modCur (fun c => (dropVersioned c).endTx)).leaving (dropVersioned s.cur).endTx
        ((s.strm.setReg d (if commit then 0 else 1)).advance 4)) := by
  rw [exec_txwait]
  unfold execTxwait
  rw [if_neg (by simp [within]), decided]
  refine (if_neg (by simp [done])).trans (congrArg Host.Outcome.next ((finish_wr ..).trans ?_))
  have stands : (s.modCur (fun c => (dropVersioned c).endTx)).strm = s.strm :=
    State.strm_modCur_kept s (fun c => (dropVersioned c).endTx) rfl rfl
  rw [State.cur_modCur, stands]

theorem txabort_settled {commit : Bool} (decided : s.cur.txst.outcome = some commit)
    (done : settling s = false) : exec .txabort s = .next (s.leaving s.cur.endTx (s.strm.advance 4)) := by
  rw [exec_txabort]
  unfold execTxabort
  rw [if_neg (by simp [within]), decided]
  refine (if_neg (by simp [done])).trans (congrArg Host.Outcome.next (finish_modCur s _ rfl rfl))

end

/-- The outcome of a local transaction, written down before its word waits. -/
theorem settleLocal_settles {s : State} (active : sget .free s.mem.master s.cur.txst.tag = .active) (commit : Bool) :
    ∃ host, (commit = false → host = s.host) ∧ settleLocal commit s = block .txn (State.modCur
      { s with
        mem := { s.mem with
          master := sput s.mem.master s.cur.txst.tag (settledState commit),
          writes := s.mem.writes ++ [⟨s.cur.txst.tag, settledState commit, List.range 8, .core s.focus.core⟩] }
        arb := { s.arb with heldSp := s.arb.heldSp.filter (fun p => p.1 != s.cur.txst.tag) }
        host := host } (fun c => c.modTx (fun x => { x with outcome := some commit }))) := by
  have written := statusWrite_settles active commit (.core s.focus.core)
  obtain ⟨host, packets, stays⟩ := settleSpawns_eq s.cur.txst.tag commit (s.withMem { s.mem with
    master := sput s.mem.master s.cur.txst.tag (settledState commit),
    writes := s.mem.writes ++ [⟨s.cur.txst.tag, settledState commit, List.range 8, .core s.focus.core⟩] })
  refine ⟨host, stays, ?_⟩
  unfold settleLocal
  extract_lets t u
  have same : u = _ := (congrArg (settleSpawns t commit) written).trans packets
  rw [same]
  rfl

section
variable {s : State} (within : s.cur.txst.kind = 2) (undecided : s.cur.txst.outcome = none)
include within undecided

theorem txwait_waits (d : Nat) (on : (release s.focus.core 4 s).2 = false ∨
      tagWorkDone s.focus.core s.cur.txst.tag (release s.focus.core 4 s).1 = false) :
    exec (.txwait d) s = .next (block .txn (release s.focus.core 4 s).1) := by
  have kept : (release s.focus.core 4 s).1.cur.txst = s.cur.txst := by
    have r := accessed_release s.focus.core 4 s
    unfold State.cur
    rw [r.core, r.txst]
  rw [exec_txwait]
  unfold execTxwait
  rw [if_neg (by simp [within]), undecided]
  refine if_pos (c := (!(release s.focus.core 4 s).2 || !tagWorkDone s.focus.core
    (release s.focus.core 4 s).1.cur.txst.tag (release s.focus.core 4 s).1) = true) ?_
  rw [kept]
  rcases on with h | h <;> simp [h]

theorem txwait_decides (d : Nat) (released : (release s.focus.core 4 s).2 = true)
    (done : tagWorkDone s.focus.core s.cur.txst.tag (release s.focus.core 4 s).1 = true) :
    let r := (release s.focus.core 4 s).1
    exec (.txwait d) s = .next (settleLocal (decide
      ((r.cur.txst.gflags ||| sget 0 r.arb.hwFlags s.cur.txst.tag) &&& 0x1FFF = 0)) r) := by
  intro r
  have kept : r.cur.txst = s.cur.txst := by
    have h := accessed_release s.focus.core 4 s
    unfold State.cur
    rw [h.core, h.txst]
  rw [exec_txwait]
  unfold execTxwait
  rw [if_neg (by simp [within]), undecided]
  refine (if_neg ?_).trans ?_
  · change ¬ (!(release s.focus.core 4 s).2 || !tagWorkDone s.focus.core r.cur.txst.tag r) = true
    rw [kept, released, done]
    simp
  · change Host.Outcome.next (settleLocal (decide
      ((r.cur.txst.gflags ||| sget 0 r.arb.hwFlags r.cur.txst.tag) &&& vetoMask = 0)) r) = _
    rw [kept]
    rfl

theorem txabort_decides : exec .txabort s = .next (settleLocal false s) := by
  rw [exec_txabort]
  unfold execTxabort
  rw [if_neg (by simp [within]), undecided]

end

/-! ### TXVOTE (R131, R394) -/

/-- A core with the flags `f` voted. -/
def CoreSt.voted (f : BitVec 16) (c : CoreSt) : CoreSt := { c with txst := { c.txst with gflags := c.txst.gflags ||| f } }

/-- The flags that TXVOTE takes from its operand. -/
def wordFlags (s : State) (a : Nat) : BitVec 16 := (s.rd a).setWidth 16 &&& 0xE0FF

theorem voted_leaves (f : BitVec 16) (s : State) :
    finish (s.modCur (CoreSt.voted f)) = s.leaving (s.cur.voted f) (s.strm.advance 4) :=
  finish_modCur s _ rfl rfl

theorem txvote_own {s : State} (a : Nat) (alone : 2 ≤ s.cur.txst.kind ∨ (s.cur.txst.kind = 1 ∧
      ∀ pl, s.cur.place = some pl → s.group? pl.gid = none)) :
    exec (.txvote a) s = .next (s.leaving (s.cur.voted (wordFlags s a)) (s.strm.advance 4)) := by
  rw [exec_txvote, ← voted_leaves]
  unfold execTxvote
  rcases alone with h | ⟨h, g⟩
  · split
    · omega
    · omega
    · rfl
  · rw [h]
    cases placed : s.cur.place with
    | none => rfl
    | some pl =>
      simp only [g pl placed]
      rfl

theorem txvote_group {s : State} (a : Nat) (launch : s.cur.txst.kind = 1) {pl : Placement} {g : Group}
    (placed : s.cur.place = some pl) (group : s.group? pl.gid = some g) :
    exec (.txvote a) s = .next (finish (g.cores.foldl (fun t c => t.modCore c (CoreSt.voted (wordFlags s a))) s)) := by
  rw [exec_txvote]
  unfold execTxvote
  rw [launch]
  simp only [placed, group]
  rfl

/-! ### Outside its transaction a word traps; TXREAD (R394) -/

theorem txbegin_denied {s : State} (d : Nat) (h : s.cur.txst.kind ≠ 0) : exec (.txbegin d) s = .next (trap 0x0B 0 0 s) := by
  rw [exec_txbegin]
  exact if_pos h

theorem txvote_denied {s : State} (a : Nat) (h : s.cur.txst.kind = 0) : exec (.txvote a) s = .next (trap 0x0B 0 0 s) := by
  rw [exec_txvote]
  unfold execTxvote
  rw [h]
  rfl

theorem txwait_denied {s : State} (d : Nat) (h : s.cur.txst.kind ≠ 2) : exec (.txwait d) s = .next (trap 0x0B 0 0 s) := by
  rw [exec_txwait]
  exact if_pos h

theorem txabort_denied {s : State} (h : s.cur.txst.kind ≠ 2) : exec .txabort s = .next (trap 0x0B 0 0 s) := by
  rw [exec_txabort]
  exact if_pos h

theorem txread_sets (d a sel : Nat) (s : State) : Sets (.txread d a sel) s d (if sel = 0 then s.cur.txst.word
    else if (s.rd a).toNat % 64 = 0 then 0 else
      BitVec.ofNat 64 (sget .free s.mem.master ((s.rd a).toNat % 64)).code) :=
  result_leaves d _ s

/-- Settles O27, word by word: what each transaction word does where the core is outside a transaction, in a launch
transaction, and in a local one before and after its outcome. -/
theorem transactionWordResults : Obligations.TransactionWordResults := by
  unfold Obligations.TransactionWordResults
  intro s d a core kind tag f vote denied
  refine ⟨txbegin_denied d, txvote_denied a, fun h => ⟨txwait_denied d h, txabort_denied h⟩, ?_, ?_,
    fun h => txvote_own a (.inl h), ?_, ?_, ?_, ?_, ?_, ?_, ?_, txread_sets d a 0 s, ?_⟩
  · intro outside e given
    refine ⟨_, txbegin_given outside d given, ?_, ?_, ?_, ?_, ?_, rfl, leaving_strm .., rfl, fun c ne => ?_⟩
    iterate 5 (rw [leaving_cur, CoreSt.setStream_txst, CoreSt.aged_txst, State.begun, State.cur_modCur]; rfl)
    exact (leaving_core_ne (s.begun e.2) _ _ ne).trans (begun_core_ne _ s ne)
  · intro outside none w
    refine ⟨txbegin_asks outside d none, fun running kind alone unasked t rest free => ?_⟩
    have asks : w = s.withMem { s.mem with waiting := s.mem.waiting ++ [.core core] } := if_neg (by simp [unasked])
    rw [asks, allocate_asks running kind alone free]
    exact ⟨rfl, rfl⟩
  · intro launch unplaced
    exact txvote_own a (.inr ⟨launch, by simp [unplaced]⟩)
  · intro pl launch placed gone
    exact txvote_own a (.inr ⟨launch, by simpa [placed] using gone⟩)
  · intro g pl launch placed group
    exact txvote_group a launch placed group
  · intro commit within decided on
    exact ⟨txwait_settling within d decided on, txabort_settling within decided on⟩
  · intro commit within decided done
    refine ⟨⟨_, txwait_settled within d decided done, ?_, ?_, ?_, leaving_strm .., ?_, rfl, rfl⟩,
      ⟨_, txabort_settled within decided done, ?_, ?_, ?_, leaving_strm .., rfl, rfl⟩⟩
    case refine_4 => rw [leaving_cur, CoreSt.setStream_l1, CoreSt.aged_l1]; rfl
    all_goals rw [leaving_cur, CoreSt.setStream_txst, CoreSt.aged_txst]; rfl
  · intro within undecided
    exact ⟨txwait_waits within undecided d, txwait_decides within undecided d, txabort_decides within undecided⟩
  · intro commit active u
    obtain ⟨host, stays, h⟩ := settleLocal_settles active commit
    have hu : u = _ := h
    rw [block_txn] at hu
    rw [hu]
    refine ⟨sget_sput_self .., rfl, ?_, ?_, ?_, ?_, rfl, stays, ?_⟩
    · rw [State.cur_modStrm, CoreSt.setStream_txst, State.cur_modCur]
      rfl
    iterate 3 (rw [State.strm_modStrm, strm_modTx]; rfl)
    intro p hp
    simpa using (List.mem_filter.mp hp).2
  · convert txread_sets d a 1 s using 1
    simp only [one_ne_zero, if_false]
    split
    · rfl
    · cases sget .free s.mem.master ((s.rd a).toNat % 64) <;> rfl

end Sys2Proof.Machine
end

section
/-! SUPPORT. A remote request performed at home, and the memory read for a kernel header, are accesses too (R51 to R58,
R227); what starting an attempt's work keeps of the transactions' books (R85, R179, R184). -/

namespace Sys2Proof.Machine

/-! ### Requests performed at their home (R51 to R58) -/

theorem accessed_reachFrom (core va lvl table : Nat) (s : State) : Accessed s (reachFrom core va lvl table s) := by
  induction lvl generalizing table s with
  | zero => exact .refl s
  | succ lvl ih =>
    have reached := accessed_reachCell core (table + 8 * tableIndex lvl va) s
    unfold reachFrom
    dsimp only
    split
    · exact .refl s
    · split
      · exact reached
      · exact reached.trans (ih _ _)

theorem accessed_reachWalk (core root va : Nat) (s : State) : Accessed s (reachWalk core root va s) := by
  unfold reachWalk
  split
  · exact accessed_reachFrom ..
  · exact .refl s

theorem accessed_xlatAt (core root va : Nat) (write : Bool) (s : State) : Accessed s (xlatAt core root va write s).1 :=
  accessed_reachWalk ..

theorem accessed_replaceAt (l : Loc) (op : AmoOp) (x e : Nat) (s : State) : Accessed s (replaceAt l op x e s) := by
  unfold replaceAt
  extract_lets n act
  have acted (a : Nat) (t : State) : Accessed t (act a t) := accessed_withMem (MemSt.accessed_write ..)
  split
  · exact acted ..
  · rename_i p _
    have slot := accessed_versionedSlot l.off p remoteCtx (if amoFloat op then .fatomic else .iatomic) s
    split
    · rename_i h
      rw [h] at slot
      exact slot.trans (acted ..)
    · rename_i h
      rw [h] at slot
      exact slot

theorem accessed_homeResult {α : Type} (f : α → List Byte) {s : State} {r : State × Except MemErr α}
    (h : Accessed s r.1) : Accessed s (homeResult f r).1 := by
  unfold homeResult
  split <;> exact h

theorem accessed_homeArrive (l : Loc) (c : Ctx) (k : WKind) (s : State) : Accessed s (homeArrive l c k s).1 := by
  have modified := accessed_homeModify l 12 arriveWord c k s
  unfold homeArrive
  split
  all_goals
    rename_i h
    rw [h] at modified
    exact modified

theorem accessed_homeHbm (off : Nat) (q : RemoteReq) (s : State) : Accessed s (homeHbm off q s).1 := by
  unfold homeHbm
  extract_lets l
  cases q.kind with
  | load => exact accessed_homeResult _ (accessed_homeLoad ..)
  | store _ =>
    dsimp only
    split
    · exact .refl s
    · exact accessed_homeResult _ (accessed_homeStore ..)
  | atomic op ret x e =>
    have amo := accessed_homeAmo l op x.toNat e.toNat remoteCtx s
    dsimp only
    split
    · rename_i h
      rw [h] at amo
      split
      · exact amo
      · exact amo.trans (accessed_replaceAt ..)
    · exact accessed_homeResult _ amo
  | arrive => exact accessed_homeResult _ (accessed_homeArrive ..)
  | poison =>
    have reached := accessed_reachCell remoteCtx.core off s
    dsimp only
    split
    · exact .refl s
    · split
      · exact reached
      · exact reached.trans (accessed_withMem (MemSt.accessed_setPoison ..))
  | ldf _ => exact .refl s
  | ste _ => exact .refl s

theorem CoreSt.spadWrite_txst (c : CoreSt) (off : Nat) (bs : List Byte) : (c.spadWrite off bs).txst = c.txst := by
  obtain ⟨spad, kept, pois, h⟩ := c.spadWrite_eq off bs
  rw [h]

theorem accessed_spadWrite (core off : Nat) (bs : List Byte) (s : State) :
    Accessed s (s.modCore core (fun c => c.spadWrite off bs)) :=
  accessed_modCore s core (fun c => c.spadWrite off bs) (CoreSt.spadWrite_txst ..)

theorem accessed_setTag (core off : Nat) (b : Bool) (s : State) :
    Accessed s (s.modCore core (fun c => c.setTag off b)) :=
  accessed_modCore s core (fun c => c.setTag off b) rfl

theorem accessed_replaceSpad (core off n : Nat) (f : Nat → Nat) (s : State) :
    Accessed s (replaceSpad core off n f s) := accessed_modCore s core _ (CoreSt.spadWrite_txst ..)

theorem accessed_windowAtomic (core off : Nat) (op : AmoOp) (b x : Nat) (s : State) :
    Accessed s (windowAtomic core off op b x s).1 := by
  unfold windowAtomic
  dsimp only
  split
  · exact .refl s
  · exact accessed_setCore s core _ (CoreSt.spadWrite_txst ..)

theorem accessed_homeSpad (core off : Nat) (q : RemoteReq) (s : State) : Accessed s (homeSpad core off q s).1 := by
  unfold homeSpad
  extract_lets c bad
  cases q.kind with
  | load => exact .refl s
  | store _ => exact accessed_spadWrite ..
  | atomic op ret x e =>
    have amo := accessed_windowAtomic core off op x.toNat e.toNat s
    dsimp only
    split
    · rename_i h
      rw [h] at amo
      exact amo
    · rename_i h
      rw [h] at amo
      split
      · exact amo
      · exact amo.trans (accessed_replaceSpad core off (amoSize op) (fun o => amoNew op o x.toNat e.toNat) _)
  | arrive =>
    dsimp only
    split
    · exact .refl s
    · exact accessed_replaceSpad ..
  | poison => exact .refl s
  | ldf keep =>
    dsimp only
    split_ifs
    · exact .refl s
    · exact .refl s
    · exact .refl s
    · exact accessed_setTag ..
  | ste keep =>
    dsimp only
    split
    · exact .refl s
    · refine accessed_modCore s core (fun c => if keep then c.spadWrite off q.data
        else (c.spadWrite off q.data).setTag off true) ?_
      cases keep
      · exact CoreSt.spadWrite_txst (s.core core) off q.data
      · exact CoreSt.spadWrite_txst (s.core core) off q.data

theorem accessed_capture (code sel v : Nat) (s : State) : Accessed s (capture code sel v s) :=
  ⟨rfl, rfl, rfl, rfl, rfl, rfl, rfl, .refl _, fun _ => rfl⟩

theorem accessed_dropStale (q : RemoteReq) (s : State) : Accessed s (dropStale q s).1 :=
  (accessed_fab s _).trans (accessed_capture ..)

theorem accessed_homeRequest (q : RemoteReq) (s : State) : Accessed s (homeRequest q s).1 := by
  unfold homeRequest
  split
  · exact accessed_homeHbm ..
  · split
    · exact accessed_dropStale q s
    · split
      · exact .refl s
      · exact (accessed_hubWait ..).trans (accessed_homeSpad ..)

theorem accessed_respondTo (src id : Nat) (r : RemoteResult) (s : State) : Accessed s (respondTo src id r s) := by
  unfold respondTo
  split
  · exact .refl s
  · extract_lets u
    split
    · exact accessed_fab ..
    · exact accessed_fab ..

theorem accessed_performRequest (q : RemoteReq) (s : State) : Accessed s (performRequest q s) := by
  have performed := accessed_homeRequest q s
  unfold performRequest
  split
  · rename_i h
    rw [h] at performed
    exact performed.trans (accessed_respondTo ..)
  · rename_i h
    rw [h] at performed
    exact performed.trans (accessed_fab ..)

theorem accessed_loopOne (s : State) (q : RemoteReq) : Accessed s (loopOne s q) := by
  unfold loopOne
  extract_lets fab u
  have taken : Accessed s u := accessed_fab ..
  split
  · exact taken.trans (accessed_fab ..)
  · exact taken.trans (accessed_performRequest ..)

theorem accessed_performLoop (pa : Nat) (s : State) : Accessed s (performLoop pa s) :=
  .foldl accessed_loopOne _ s

theorem accessed_takeResult (s : State) : Accessed s (takeResult s).1 := by
  unfold takeResult
  split
  · exact .refl s
  · exact ⟨rfl, rfl, rfl, rfl, rfl, rfl, rfl, .refl _, fun _ => rfl⟩

theorem accessed_unitRequest (way : Option (List Nat)) (wait : Bool) (kind : ReqKind) (pa n : Nat) (data : List Byte)
    (s : State) : Accessed s (unitRequest way wait kind pa n data s).1 := by
  have named := accessed_fresh s
  unfold unitRequest
  split
  · exact .refl s
  · dsimp only
    split
    · have home {q : RemoteReq} {r : State × Option RemoteResult}
          (h : homeRequest q (performLoop pa s.fresh.2) = r) : Accessed s r.1 :=
        h ▸ (named.trans (accessed_performLoop pa s.fresh.2)).trans (accessed_homeRequest q _)
      split
      · rename_i h
        exact home h
      · rename_i h
        exact home h
    · split
      · exact named.trans (accessed_waitTurn ..)
      · exact (named.trans (accessed_fab ..)).trans (accessed_takeResult ..)

theorem accessed_engineRequest (core : Nat) (kind : ReqKind) (pa n : Nat) (data : List Byte) (s : State) :
    Accessed s (engineRequest core kind pa n data s).1 := by
  have asked : Accessed s (coreRequest core kind pa n data s).1 :=
    (accessed_hubWait ..).trans (accessed_unitRequest ..)
  unfold engineRequest
  split
  all_goals
    rename_i h
    rw [h] at asked
    exact asked

theorem accessed_readPieces {read : Nat → Nat → State → State × Except MemErr (List Byte)}
    (step : ∀ a n s, Accessed s (read a n s).1) (a n : Nat) (s : State) : Accessed s (readPieces read a n s).1 := by
  unfold readPieces
  refine List.foldlRecOn (motive := fun r : State × Except MemErr (List Byte) => Accessed s r.1) _ _ (.refl s) ?_
  rintro ⟨t, r⟩ h p -
  cases r with
  | error e => exact h
  | ok bs =>
    have more := h.trans (step p.1 p.2 t)
    dsimp only
    split
    · rename_i e
      rw [e] at more
      exact more
    · exact more

theorem accessed_readHeader (l : Launch) (core : Nat) (s : State) : Accessed s (readHeader l core s).1 := by
  have walked := accessed_xlatAt core l.root (pkCode l.words) false s
  unfold readHeader
  split
  · rename_i h
    rw [h] at walked
    exact walked
  · rename_i u x h
    rw [h] at walked
    split
    · rename_i loc _
      split
      · exact walked.trans (accessed_plainRead ..)
      · have loaded := walked.trans (accessed_homeLoad loc 64 ⟨core, l.txst.tag⟩ u)
        split
        · rename_i g
          rw [g] at loaded
          exact loaded
        · rename_i g
          rw [g] at loaded
          exact loaded
    · exact walked
    · exact walked
    · exact walked.trans (accessed_readPieces (fun a n s => accessed_engineRequest core .load a n [] s) x.pa 64 u)

end Sys2Proof.Machine
end

section
/-! SUPPORT. What starting an attempt's work keeps of the transactions' books, and the tile word it issues (R85, R179, R184). -/

namespace Sys2Proof.Machine

/-- `t` holds the attempts, the status table and the state writes of `s`. -/
structure KeepsTx (s t : State) : Prop where
  attempts : t.arb.attempts = s.arb.attempts
  master   : t.mem.master = s.mem.master
  writes   : t.mem.writes = s.mem.writes

namespace KeepsTx

theorem refl (s : State) : KeepsTx s s := ⟨rfl, rfl, rfl⟩

theorem trans {s t u : State} (h : KeepsTx s t) (g : KeepsTx t u) : KeepsTx s u :=
  ⟨g.attempts.trans h.attempts, g.master.trans h.master, g.writes.trans h.writes⟩

theorem foldl {α : Type} {f : State → α → State} (step : ∀ s a, KeepsTx s (f s a)) (l : List α) (s : State) :
    KeepsTx s (l.foldl f s) :=
  List.foldlRecOn _ _ (.refl s) fun t h a _ => h.trans (step t a)

end KeepsTx

theorem Accessed.keepsTx {s t : State} (h : Accessed s t) : KeepsTx s t :=
  ⟨h.attempts, h.mem.master, h.mem.writes⟩

theorem keepsTx_placeGroup (l : Launch) (level first num : Nat) (s : State) :
    KeepsTx s (placeGroup l level first num s) := by
  unfold placeGroup
  extract_lets n cores
  split
  · exact .refl s
  · rename_i gid _
    extract_lets u inc grpid code
    have header := accessed_readHeader l first u
    generalize readHeader l first u = r at header
    obtain ⟨t, hdr⟩ := r
    have read : KeepsTx s t := ((accessed_fab s _).trans header).keepsTx
    refine read.trans (KeepsTx.trans ?_ (KeepsTx.foldl (fun v c => ?_) _ _))
    · exact ⟨rfl, rfl, rfl⟩
    · exact ⟨rfl, rfl, rfl⟩

theorem keepsTx_placeGroups (l : Launch) (level first count num : Nat) (s : State) :
    KeepsTx s (placeGroups l level first count num s) :=
  .foldl (fun s i => keepsTx_placeGroup l level (first + i * unitCores level) (num + i) s) _ s

theorem keepsTx_startWork (id : Nat) (s : State) : KeepsTx s (startWork id s) := by
  unfold startWork
  split
  · exact .refl s
  · extract_lets ws tx first l n u
    have placed : KeepsTx s u := keepsTx_placeGroups ..
    split
    · exact ⟨rfl, rfl, rfl⟩
    · split
      · split
        · split
          · exact placed.trans ⟨rfl, rfl, rfl⟩
          · exact placed
        · split
          · exact .refl s
          · exact keepsTx_placeGroups ..
      · split
        · exact ⟨rfl, rfl, rfl⟩
        · exact ⟨rfl, rfl, rfl⟩

/-- A launch whose work is a tile word issues it under its attempt's tag (R179). -/
theorem startWork_tile {s : State} {p : Packet} {a : Attempt} (found : s.packet? p.id = some p)
    (opened : p.dtid.bind s.attempt? = some a) (own : p.share = false) (tile : pkType p.head.words = 1)
    (kern : pkKern p.head.words = false) :
    ∃ j, (startWork p.id s).tiles.jobs = s.tiles.jobs ++ [j] ∧ j.word = BitVec.ofNat 256 (pkTile p.head.words) ∧
      j.tag = a.tag ∧ j.packet = some p.id ∧ j.accepted = false := by
  unfold startWork
  rw [found]
  dsimp only
  rw [if_neg (by omega), kern, own, opened]
  exact ⟨_, rfl, rfl, rfl, rfl, rfl⟩

end Sys2Proof.Machine
end

section
/-! SUPPORT. The status table's events (R84, R85, R94): a mirror applies a state write, tags are given to those that wait, and
a completed write hands its tag over. -/

namespace Sys2Proof.Machine

/-! ### The records of attempts -/

theorem find?_updateFirst {α : Type} {p : α → Bool} {f : α → α} (kept : ∀ a, p a = true → p (f a) = true) (l : List α) :
    (updateFirst p f l).find? p = (l.find? p).map f := by
  induction l with
  | nil => rfl
  | cons a l ih =>
    by_cases h : p a = true
    · simp [updateFirst, h, kept a h]
    · simp [updateFirst, h, ih]

theorem State.attempt?_dtid {s : State} {d : Nat} {a : Attempt} (h : s.attempt? d = some a) : a.dtid = d := by
  simpa using List.find?_some h

theorem State.attempt?_modAttempt (s : State) (d : Nat) {f : Attempt → Attempt} (kept : ∀ a, (f a).dtid = a.dtid) :
    (s.modAttempt d f).attempt? d = (s.attempt? d).map f :=
  find?_updateFirst (fun a h => by rw [kept]; exact h) _

theorem State.attempt?_modAttempt_some {s : State} {d : Nat} {a : Attempt} (found : s.attempt? d = some a)
    {f : Attempt → Attempt} (kept : ∀ a, (f a).dtid = a.dtid) : (s.modAttempt d f).attempt? d = some (f a) := by
  rw [State.attempt?_modAttempt s d kept, found]
  rfl

/-! ### A state write applied (R84, R85) -/

/-- Versioned lines leave every L1. -/
def dropAllVersioned (s : State) : State := { s with cores := s.cores.map (fun p => (p.1, dropVersioned p.2)) }

theorem dropAllVersioned_l1 (s : State) (c : Nat) :
    ((dropAllVersioned s).core c).l1 = (s.core c).l1.filter (fun p => !p.2.ver) := by
  have h : (dropAllVersioned s).core c = dropVersioned (s.core c) := sget_map dropVersioned rfl s.cores c
  rw [h]
  rfl

/-- Mirror `die` has applied the state writes of tag `t`. -/
def acknowledge (die t : Nat) (ws : List StatusWrite) : List StatusWrite :=
  ws.map (fun x => if x.tag = t then { x with left := x.left.filter (fun i => i != die) } else x)

theorem statusWriteApply_none {s : State}
    (h : s.mem.writes.find? (fun w => w.tag == s.input.tag && w.left.contains s.input.stack) = none) :
    exec .statusWriteApply s = .next s := by
  rw [exec_statusWriteApply]
  unfold execStatusWriteApply
  extract_lets d t
  rw [show s.mem.writes.find? (fun w => w.tag == t && w.left.contains d) = none from h]

/-- The state once the mirror that the event names has applied the write `w`. -/
def applied (w : StatusWrite) (s : State) : State :=
  s.withMem { s.mem.applyMirror s.input.stack s.input.tag w.state with
    writes := acknowledge s.input.stack s.input.tag s.mem.writes }

theorem statusWriteApply_some {s : State} {w : StatusWrite}
    (h : s.mem.writes.find? (fun w => w.tag == s.input.tag && w.left.contains s.input.stack) = some w) :
    exec .statusWriteApply s = .next
      (if w.state = .committed ∨ w.state = .aborted then dropAllVersioned (applied w s) else applied w s) := by
  rw [exec_statusWriteApply]
  unfold execStatusWriteApply
  extract_lets d t
  rw [show s.mem.writes.find? (fun w => w.tag == t && w.left.contains d) = some w from h]
  rfl

theorem mirror_applyMirror (m : MemSt) (die t : Nat) (st : TagState) : (m.applyMirror die t st).mirror die t =
    ⟨st, if st = .committed ∨ st = .aborted then (sget {} m.bdies die).started else (m.mirror die t).epoch⟩ := by
  unfold MemSt.mirror MemSt.applyMirror
  rw [(stack_modStack m die _).1]
  exact sget_sput_self ..

theorem mirror_applyMirror_ne (m : MemSt) (die t : Nat) (st : TagState) {k g : Nat} (h : k ≠ die ∨ g ≠ t) :
    (m.applyMirror die t st).mirror k g = m.mirror k g := by
  unfold MemSt.mirror MemSt.applyMirror
  by_cases e : k = die
  · subst e
    rw [(stack_modStack m k _).1]
    exact sget_sput_ne _ _ _ (h.resolve_left (· rfl))
  · rw [(stack_modStack m die _).2 k e]

/-! ### Tags given and taken back (R94) -/

theorem reclaim_held {s : State} (held : ∀ p ∈ s.mem.given, beginWaits s p.1 = true) : reclaim s = s := by
  have none : s.mem.given.filter (fun p => !beginWaits s p.1) = [] :=
    List.filter_eq_nil_iff.mpr fun p hp => by simp [held p hp]
  have all : s.mem.given.filter (fun p => beginWaits s p.1) = s.mem.given := List.filter_eq_self.mpr held
  unfold reclaim
  rw [none, all]
  rfl

/-- `t` is `s` but for the status table and what waits on it. -/
structure TableOnly (s t : State) : Prop where
  cores  : t.cores = s.cores
  host   : t.host = s.host
  hbm    : t.mem.hbm = s.mem.hbm
  poison : t.mem.poison = s.mem.poison
  given  : t.mem.given = s.mem.given

namespace TableOnly

theorem refl (s : State) : TableOnly s s := ⟨rfl, rfl, rfl, rfl, rfl⟩

theorem trans {s t u : State} (h : TableOnly s t) (g : TableOnly t u) : TableOnly s u :=
  ⟨g.cores.trans h.cores, g.host.trans h.host, g.hbm.trans h.hbm, g.poison.trans h.poison, g.given.trans h.given⟩

end TableOnly

/-- A pairing that R84 does not list leaves the master and the writes as they are, counted on the dies. -/
theorem upTo_txbad (n : Nat) (m : MemSt) : ∃ bdies,
    upTo n (fun i m => m.modStack i (fun x => { x with txbad := satInc 65535 x.txbad })) m = { m with bdies := bdies } := by
  induction n with
  | zero => exact ⟨m.bdies, rfl⟩
  | succ n ih =>
    obtain ⟨b, h⟩ := ih
    rw [upTo_succ, h]
    exact ⟨_, rfl⟩

theorem statusWrite_unlisted {t : Nat} {st : TagState} {s : State} (h : tagMove (sget .free s.mem.master t) st = false)
    (u : TagUser) : ∃ bdies, statusWrite t st u s = s.withMem { s.mem with bdies := bdies } := by
  obtain ⟨b, e⟩ := upTo_txbad 8 s.mem
  rw [statusWrite, if_neg (by simp [h]), e]
  exact ⟨b, rfl⟩

theorem tableOnly_statusWrite (t : Nat) (st : TagState) (u : TagUser) (s : State) :
    TableOnly s (statusWrite t st u s) := by
  cases h : tagMove (sget .free s.mem.master t) st with
  | true =>
    rw [statusWrite_listed h]
    exact ⟨rfl, rfl, rfl, rfl, rfl⟩
  | false =>
    obtain ⟨b, e⟩ := statusWrite_unlisted h u
    rw [e]
    exact ⟨rfl, rfl, rfl, rfl, rfl⟩

/-- A tag that is ACTIVE is aborted; one that is aborted stays so, whichever tag is aborted. -/
theorem master_statusWrite_aborted (t g : Nat) (u : TagUser) (s : State)
    (h : sget .free s.mem.master g = .aborted ∨ (t = g ∧ sget .free s.mem.master g = .active)) :
    sget .free (statusWrite t .aborted u s).mem.master g = .aborted := by
  cases m : tagMove (sget .free s.mem.master t) .aborted with
  | true =>
    rw [statusWrite_listed m]
    by_cases e : g = t
    · rw [e]
      exact sget_sput_self ..
    · exact (sget_sput_ne _ _ _ e).trans (h.resolve_right fun r => e r.1.symm)
  | false =>
    obtain ⟨b, e⟩ := statusWrite_unlisted m u
    rw [e]
    refine h.resolve_right fun r => ?_
    rw [r.1, r.2] at m
    cases m

/-- Tags taken back one after another: those among them that are ACTIVE are aborted, and nothing else is done. -/
theorem reclaim_foldl (l : List (Nat × Nat)) (s : State) :
    TableOnly s (l.foldl (fun s p => statusWrite p.2 .aborted .nobody s) s) ∧
    ∀ g, sget .free s.mem.master g = .aborted ∨ ((∃ p ∈ l, p.2 = g) ∧ sget .free s.mem.master g = .active) →
      sget .free (l.foldl (fun s p => statusWrite p.2 .aborted .nobody s) s).mem.master g = .aborted := by
  induction l generalizing s with
  | nil =>
    refine ⟨.refl s, fun g h => h.resolve_right ?_⟩
    rintro ⟨⟨p, hp, -⟩, -⟩
    cases hp
  | cons q l ih =>
    obtain ⟨only, aborts⟩ := ih (statusWrite q.2 .aborted .nobody s)
    refine ⟨(tableOnly_statusWrite ..).trans only, fun g h => aborts g ?_⟩
    by_cases e : q.2 = g
    · refine .inl (master_statusWrite_aborted _ _ _ _ ?_)
      rcases h with h | ⟨-, h⟩
      · exact .inl h
      · exact .inr ⟨e, h⟩
    · rcases h with h | ⟨⟨p, hp, hg⟩, h⟩
      · exact .inl (master_statusWrite_aborted _ _ _ _ (.inl h))
      · refine .inr ⟨⟨p, (List.mem_cons.mp hp).resolve_left fun k => e (k ▸ hg), hg⟩, ?_⟩
        cases m : tagMove (sget .free s.mem.master q.2) .aborted with
        | true =>
          rw [statusWrite_listed m]
          exact (sget_sput_ne _ _ _ (Ne.symm e)).trans h
        | false =>
          obtain ⟨b, k⟩ := statusWrite_unlisted m .nobody
          rw [k]
          exact h

theorem reclaim_gone {s : State} {c g : Nat} (gave : (c, g) ∈ s.mem.given) (gone : beginWaits s c = false)
    (active : sget .free s.mem.master g = .active) : sget .free (reclaim s).mem.master g = .aborted ∧
      (reclaim s).cores = s.cores ∧ (reclaim s).host = s.host ∧ (reclaim s).mem.hbm = s.mem.hbm ∧
      (reclaim s).mem.poison = s.mem.poison ∧ ∀ p ∈ (reclaim s).mem.given, beginWaits s p.1 = true := by
  obtain ⟨only, aborts⟩ := reclaim_foldl (s.mem.given.filter (fun p => !beginWaits s p.1))
    (s.withMem { s.mem with given := s.mem.given.filter (fun p => beginWaits s p.1) })
  obtain ⟨cores, host, hbm, poison, given⟩ := only
  refine ⟨aborts g (.inr ⟨⟨(c, g), List.mem_filter.mpr ⟨gave, by simp [gone]⟩, rfl⟩, active⟩), cores, host, hbm, poison,
    fun p hp => ?_⟩
  have kept : p ∈ s.mem.given.filter (fun p => beginWaits s p.1) := by
    rw [show (reclaim s).mem.given = _ from given] at hp
    exact hp
  exact (List.mem_filter.mp kept).2

/-- Who waits gets a free tag, or nothing is given; what is in use stays as it is. -/
theorem allocate_cases (s : State) : (allocate s = s) ∨ ∃ u rest t, waitingUsers s = u :: rest ∧
    sget .free s.mem.master t = .free ∧ allocate s = giveTag t u rest s := by
  cases w : waitingUsers s with
  | nil => exact .inl (allocate_idle (.inl w))
  | cons u rest =>
    cases f : freeTags s with
    | nil => exact .inl (allocate_idle (.inr f))
    | cons t more => exact .inr ⟨u, rest, t, rfl, (mem_freeTags (f ▸ List.mem_cons_self)).2, allocate_gives w f⟩

/-! ### A completed state write (R85) -/

theorem statusWriteComplete_none {s : State}
    (h : s.mem.writes.find? (fun y => y.tag == s.input.tag && y.left.isEmpty) = none) :
    exec .statusWriteComplete s = .next s := by
  rw [exec_statusWriteComplete]
  unfold execStatusWriteComplete
  extract_lets t
  rw [show s.mem.writes.find? (fun w => w.tag == t && w.left.isEmpty) = none from h]

/-- The state without the writes of the tag that the event names. -/
def written (s : State) : State :=
  s.withMem { s.mem with writes := s.mem.writes.filter (fun x => x.tag != s.input.tag) }

section
variable {s : State} {w : StatusWrite}
  (found : s.mem.writes.find? (fun y => y.tag == s.input.tag && y.left.isEmpty) = some w)
include found

theorem statusWriteComplete_waits (h : mayHand s w = false) : exec .statusWriteComplete s = .next s := by
  rw [exec_statusWriteComplete]
  unfold execStatusWriteComplete
  extract_lets t
  rw [show s.mem.writes.find? (fun w => w.tag == t && w.left.isEmpty) = some w from found]
  exact congrArg Host.Outcome.next (if_neg (by simp [h]))

variable (may : mayHand s w = true)
include may

theorem statusWriteComplete_done : exec .statusWriteComplete s = .next (match w.user, w.state with
    | u, .active => handOver s.input.tag u (written s)
    | .attempt d, _ => (written s).modAttempt d (fun a => { a with settled := true })
    | _, _ => written s) := by
  rw [exec_statusWriteComplete]
  unfold execStatusWriteComplete
  extract_lets t
  rw [show s.mem.writes.find? (fun w => w.tag == t && w.left.isEmpty) = some w from found]
  exact when_of _ s may

theorem statusWriteComplete_active (active : w.state = .active) :
    exec .statusWriteComplete s = .next (handOver s.input.tag w.user (written s)) := by
  rw [statusWriteComplete_done found may, active]

theorem statusWriteComplete_settles {d : Nat} (user : w.user = .attempt d) (settled : w.state ≠ .active) :
    exec .statusWriteComplete s = .next ((written s).modAttempt d (fun a => { a with settled := true })) := by
  rw [statusWriteComplete_done found may, user]
  cases h : w.state with
  | active => exact absurd h settled
  | free => rfl
  | committed => rfl
  | aborted => rfl

theorem statusWriteComplete_other (other : ∀ d, w.user ≠ .attempt d) (idle : w.user = .nobody ∨ w.state ≠ .active) :
    exec .statusWriteComplete s = .next (written s) := by
  rw [statusWriteComplete_done found may]
  cases u : w.user with
  | attempt d => exact absurd u (other d)
  | core c =>
    have settled : w.state ≠ .active := idle.resolve_left (by simp [u])
    cases h : w.state with
    | active => exact absurd h settled
    | free => rfl
    | committed => rfl
    | aborted => rfl
  | nobody => cases w.state <;> rfl

end

/-- A tag for which nobody waits any more is aborted. -/
theorem handOver_aborts {s : State} {t : Nat} (u : TagUser) (active : sget .free s.mem.master t = .active)
    (nobody : (∃ d, u = .attempt d ∧ (s.attempt? d).any (fun a => a.state == .opening) = false) ∨
      (∃ c, u = .core c ∧ beginWaits s c = false)) :
    handOver t u s = s.withMem { s.mem with
      master := sput s.mem.master t .aborted, writes := s.mem.writes ++ [⟨t, .aborted, List.range 8, .nobody⟩] } := by
  have h : handOver t u s = statusWrite t .aborted .nobody s := by
    rcases nobody with ⟨d, rfl, no⟩ | ⟨c, rfl, no⟩
    · exact if_neg (by simp [no])
    · exact if_neg (by simp [no])
  rw [h]
  exact statusWrite_settles active false .nobody

/-- The tag goes to an attempt that opens: it runs, and its work starts. -/
theorem handOver_opening {s : State} {t d : Nat} {a : Attempt} (found : s.attempt? d = some a) (opening : a.state = .opening) :
    handOver t (.attempt d) s = (launchPackets s a).foldl (fun s p => startWork p.id s)
      ((withdraw d s).modAttempt d (fun a => { a with state := .running, tag := t })) := by
  have h : handOver t (.attempt d) s = attemptRunning d t (withdraw d s) := if_pos (by simp [found, opening])
  rw [h]
  unfold attemptRunning
  rw [show (withdraw d s).attempt? d = some a from found]
  exact if_pos opening

/-! ### The status table's clauses -/

/-- An attempt that opens runs with the tag handed to it, and a launch of one tile word issues it. -/
theorem handOver_runs {s : State} {t d : Nat} {a : Attempt} (found : s.attempt? d = some a) (opening : a.state = .opening) :
    ((handOver t (.attempt d) s).attempt? d = some { a with state := .running, tag := t }) ∧
    (handOver t (.attempt d) s).mem.writes = s.mem.writes ∧ (handOver t (.attempt d) s).mem.master = s.mem.master ∧
    ∀ p, launchPackets s a = [p] → p.dtid = some d → p.share = false → pkType p.head.words = 1 →
      pkKern p.head.words = false → s.packet? p.id = some p → ∃ j,
        (handOver t (.attempt d) s).tiles.jobs = s.tiles.jobs ++ [j] ∧ j.word = BitVec.ofNat 256 (pkTile p.head.words) ∧
        j.tag = t ∧ j.packet = some p.id ∧ j.accepted = false := by
  have runs : ((withdraw d s).modAttempt d (fun a => { a with state := .running, tag := t })).attempt? d =
      some { a with state := .running, tag := t } :=
    State.attempt?_modAttempt_some (s := withdraw d s) found fun _ => rfl
  rw [handOver_opening found opening]
  have kept := KeepsTx.foldl (fun s (p : Packet) => keepsTx_startWork p.id s) (launchPackets s a)
    ((withdraw d s).modAttempt d (fun a => { a with state := .running, tag := t }))
  obtain ⟨attempts, master, writes⟩ := kept
  refine ⟨?_, writes, master, fun p one dtid own tile kern packet => ?_⟩
  · rw [← runs]
    exact congrArg (List.find? (fun a : Attempt => a.dtid == d)) attempts
  · rw [one]
    exact startWork_tile (s := (withdraw d s).modAttempt d (fun a => { a with state := .running, tag := t }))
      packet (by rw [dtid]; exact runs) own tile kern

theorem statusWrites : Claim.StatusWrites := by
  unfold Claim.StatusWrites
  intro s w a d x t master cells final old others
  refine ⟨statusWriteApply_none, fun found => ?_, ?_⟩
  · have step := statusWriteApply_some found
    by_cases h : w.state = .committed ∨ w.state = .aborted
    · rw [if_pos h] at step
      exact ⟨_, step, mirror_applyMirror .., fun k g ne => mirror_applyMirror_ne _ _ _ _ ne, rfl, rfl,
        fun _ c => dropAllVersioned_l1 (applied w s) c, fun no => absurd h no, rfl, rfl, rfl⟩
    · rw [if_neg h] at step
      exact ⟨_, step, mirror_applyMirror .., fun k g ne => mirror_applyMirror_ne _ _ _ _ ne, rfl, rfl,
        fun yes => absurd yes h, fun _ => rfl, rfl, rfl, rfl⟩
  intro held
  refine ⟨fun v rest g more hold waits free => ?_, fun hold idle => ?_, fun c g gave gone active => ?_,
    statusWriteComplete_none, statusWriteComplete_waits, fun found may => ?_⟩
  · refine ⟨_, (exec_tagAllocation s).trans (congrArg (fun s => Host.Outcome.next (allocate s)) (reclaim_held hold)), ?_⟩
    rw [allocate_gives waits free]
    exact ⟨sget_sput_self .., fun k ne => sget_sput_ne _ _ _ ne, rfl, rfl, sget_sput_self .., rfl, rfl, rfl, rfl⟩
  · rw [exec_tagAllocation, execTagAllocation, reclaim_held hold, allocate_idle idle]
  · obtain ⟨aborted, cores, host, hbm, poison, given⟩ := reclaim_gone gave gone active
    refine ⟨_, exec_tagAllocation s, ?_⟩
    rcases allocate_cases (reclaim s) with h | ⟨u, rest, k, -, free, h⟩
    · rw [h]
      exact ⟨aborted, given, cores, hbm, poison, host⟩
    · rw [h]
      refine ⟨(sget_sput_ne _ _ _ fun e => ?_).trans aborted, given, cores, hbm, poison, host⟩
      rw [← e, aborted] at free
      cases free
  have tag : ∀ y : StatusWrite, y.tag ≠ t → y.tag != s.input.tag := fun y h => by simpa using h
  refine ⟨fun user active known opening => ?_, fun user active live unknown => ?_, fun user settled known => ?_,
    fun c user active begins => ?_, fun c user active gone live => ?_, fun other idle =>
      statusWriteComplete_other found may other idle⟩
  · obtain ⟨runs, writes, kept, job⟩ := handOver_runs (s := written s) (t := t) known opening
    refine ⟨_, statusWriteComplete_active found may active, ?_⟩
    rw [user]
    exact ⟨⟨_, runs, rfl, rfl, rfl, rfl⟩, writes, kept, job⟩
  · refine ⟨_, statusWriteComplete_active found may active, ?_⟩
    rw [handOver_aborts (s := written s) w.user live (.inl ⟨d, user, ?_⟩)]
    · exact ⟨sget_sput_self .., rfl, rfl, rfl⟩
    · change (s.attempt? d).any (fun a => a.state == .opening) = false
      rcases unknown with h | ⟨h, no⟩
      · rw [h]; rfl
      · simp [h, no]
  · exact ⟨_, statusWriteComplete_settles found may user settled,
      State.attempt?_modAttempt_some (s := written s) known fun _ => rfl, rfl, rfl⟩
  · rw [statusWriteComplete_active found may active, user]
    exact congrArg Host.Outcome.next (if_pos begins)
  · refine ⟨_, statusWriteComplete_active found may active, ?_⟩
    rw [handOver_aborts (s := written s) w.user live (.inr ⟨c, user, gone⟩)]
    exact ⟨sget_sput_self .., rfl, rfl, rfl⟩

end Sys2Proof.Machine
end

section
/-! SUPPORT. Attempts: their votes, the decisions they receive, their deadlines and what is left of them (R130 to R133, R138
to R141). -/

namespace Sys2Proof.Machine

/-! ### Messages that leave (R45, R47, R48) -/

/-- A message posted in a state with the fabric and the routes of `s` is the one that leaves `s`. -/
theorem sends_post {s t : State} {m : FabMsg} (fab : t.fab = s.fab) (route : m.route t = m.route s) :
    Sends s (t.post m) m := by
  have waits : t.waiting m.vc m.dst = s.waiting m.vc m.dst := by unfold State.waiting; rw [fab]
  refine ⟨fun r free found => ?_, fun free none => ?_, fun held => ?_⟩
  · rw [State.post, if_neg (by simp [waits, free]), route, found, ← fab]
    rfl
  · rw [State.post, if_neg (by simp [waits, free]), route, none, ← fab]
    rfl
  · rw [State.post, if_pos (by simpa [waits] using held), ← fab]
    rfl

/-- A vote takes the ordered route, which depends on the fabric and the links alone (R50). -/
theorem route_vote {s t : State} (fab : t.fab = s.fab) (pkg : t.pkg = s.pkg) (id : t.nextId = s.nextId) (dev node : Nat)
    (m : ArbMsg) : (FabMsg.vote dev node m).route t = (FabMsg.vote dev node m).route s := by
  have same : SameRoutes s t := by
    refine ⟨?_, ?_, ?_, ?_, ?_, ?_, ?_, ?_, congrArg _ pkg, id⟩ <;> rw [fab]
  have ordered (u : State) : (FabMsg.vote dev node m).route u = pickOrdered u dev (FabMsg.vote dev node m).hops := rfl
  rw [ordered, ordered]
  unfold pickOrdered
  simp only [same.self, same.upRoutes, same.routeUp, fab]

/-! ### A decision received (R84, R139) -/

/-- What a decision for a voted attempt with an ACTIVE tag leaves. -/
structure Decided (d : Nat) (dec : Decision) (a : Attempt) (s t : State) : Prop where
  master  : t.mem.master = sput s.mem.master a.tag (settledState !dec.abort)
  writes  : t.mem.writes = s.mem.writes ++ [⟨a.tag, settledState !dec.abort, List.range 8, .attempt d⟩]
  cores   : t.cores = s.cores
  held    : ∀ p ∈ t.arb.heldSp, p.1 ≠ a.tag
  host    : dec.abort = true → t.host = s.host
  attempt : t.attempt? d = some { a with dec := some dec, state := .settling, settled := false }
  aborts  : t.arb.aborts = s.arb.aborts
  commits : t.arb.commits = s.arb.commits

/-- The attempt `d` has its decision and waits for the write of it. -/
def settlesBy (d : Nat) (dec : Decision) (s : State) : State :=
  (s.modAttempt d (fun a => { a with dec := some dec })).modAttempt d
    (fun a => { a with state := .settling, settled := decide (a.tag = 0) })

theorem attempt?_settlesBy {d : Nat} (dec : Decision) {a : Attempt} {s : State} (found : s.attempt? d = some a)
    (tagged : a.tag ≠ 0) :
    (settlesBy d dec s).attempt? d = some { a with dec := some dec, state := .settling, settled := false } := by
  have first := State.attempt?_modAttempt_some (f := fun a => { a with dec := some dec }) found fun _ => rfl
  have second := State.attempt?_modAttempt_some
    (f := fun a => { a with state := .settling, settled := decide (a.tag = 0) }) first fun _ => rfl
  rw [settlesBy, second]
  simp [tagged]

theorem decideAttempt_writes {d : Nat} (dec : Decision) {a : Attempt} {s : State} (found : s.attempt? d = some a)
    (voted : a.state = .voted) (tagged : a.tag ≠ 0) : decideAttempt d dec s =
      statusWrite a.tag (settledState !dec.abort) (.attempt d) (settleSpawns a.tag (!dec.abort) (settlesBy d dec s)) := by
  unfold decideAttempt
  rw [found]
  dsimp only
  rw [voted]
  cases dec.abort
  · simp only [if_neg tagged, settledState, beq_self_eq_true]
    rfl
  · simp only [if_neg tagged, settledState, show (TagState.aborted == TagState.committed) = false by decide]
    rfl

theorem decideAttempt_voted {d : Nat} (dec : Decision) {a : Attempt} {s : State} (found : s.attempt? d = some a)
    (voted : a.state = .voted) (tagged : a.tag ≠ 0) (active : sget .free s.mem.master a.tag = .active) :
    Decided d dec a s (decideAttempt d dec s) := by
  have known := attempt?_settlesBy dec found tagged
  obtain ⟨host, packets, stays⟩ := settleSpawns_eq a.tag (!dec.abort) (settlesBy d dec s)
  have live : sget .free (settleSpawns a.tag (!dec.abort) (settlesBy d dec s)).mem.master a.tag = .active := by
    rw [packets]
    exact active
  rw [decideAttempt_writes dec found voted tagged, statusWrite_settles live, packets]
  exact ⟨rfl, rfl, rfl, fun p hp => by simpa using (List.mem_filter.mp hp).2, fun h => stays (by simp [h]), known, rfl, rfl⟩

/-- A decision that comes again is counted on every die, and nothing else is done (R84). -/
theorem decideAttempt_settling {d : Nat} (dec : Decision) {a : Attempt} {s : State} (found : s.attempt? d = some a)
    (settling : a.state = .settling) (tagged : a.tag ≠ 0) : decideAttempt d dec s = countBad s := by
  unfold decideAttempt
  rw [found]
  dsimp only
  rw [settling]
  exact if_neg tagged

/-! ### Decisions counted (R141, R152) -/

/-- The word that ARBLAST holds of a decision. -/
def lastWord (m : ArbMsg) : Nat :=
  bits m.w0.toNat 31 16 + bits m.w0.toNat 35 32 * 2 ^ 16 + (bit m.w0.toNat 36).toNat * 2 ^ 20 + bits m.w1.toNat 6 0 * 2 ^ 21 +
    bits m.w0.toNat 63 48 * 2 ^ 32

theorem keepLast_eq (m : ArbMsg) (s : State) :
    keepLast m s = { s with arb := { s.arb with last := BitVec.ofNat 64 (lastWord m) } } := rfl

/-- A decision counted in ARBSTAT. -/
def countOutcome (abort : Bool) (s : State) : State := { s with arb := { s.arb with
  commits := if abort then s.arb.commits else satInc 65535 s.arb.commits,
  aborts := if abort then satInc 65535 s.arb.aborts else s.arb.aborts } }

theorem capture_eq (code sel v : Nat) (s : State) : ∃ pkg, capture code sel v s = { s with pkg := pkg } := ⟨_, rfl⟩

theorem countDecision_eq (m : ArbMsg) (s : State) : ∃ pkg last, countDecision m s =
    countOutcome (bit m.w0.toNat 36) { s with pkg := pkg, arb := { s.arb with last := last } } := by
  obtain ⟨pkg, h⟩ := capture_eq 9 0 (bit m.w0.toNat 36).toNat (countOutcome (bit m.w0.toNat 36) (keepLast m s))
  have counted : countDecision m s = capture 9 0 (bit m.w0.toNat 36).toNat
    (countOutcome (bit m.w0.toNat 36) (keepLast m s)) := rfl
  rw [counted, h, keepLast_eq]
  exact ⟨pkg, _, rfl⟩

/-! ### Votes (R132) -/

theorem vote_arbour {s : State} {d : Nat} {a : Attempt} (found : s.attempt? d = some a) (far : arbourLaunch s a = true) :
    vote d s = (s.modAttempt d (fun a => { a with state := .voted })).post
      (.vote s.arb.vdev s.arb.vnode (voteMsg s.self 0 0 d a.att false (voteFlags s a) 1 0 a.td)) := by
  unfold vote
  rw [found]
  exact if_pos far

/-- The decision that a device takes as its own root. -/
def ownDecision (s : State) (a : Attempt) : Decision := ⟨decide (voteFlags s a &&& vetoMask ≠ 0), voteFlags s a, s.now⟩

theorem vote_own {s : State} {d : Nat} {a : Attempt} (found : s.attempt? d = some a) (own : arbourLaunch s a = false) :
    ∃ m, vote d s = decideAttempt d (ownDecision s a) (countDecision m (s.modAttempt d (fun a => { a with state := .voted }))) := by
  unfold vote
  rw [found]
  exact ⟨_, if_neg (by simp [own])⟩

theorem voteMsg_own (self d att td : Nat) (fl : BitVec 16) : voteMsg self 0 0 d att false fl 1 0 td =
    ⟨BitVec.ofNat 64 (4 * self + 2 ^ 16 * d + 2 ^ 32 * att + 2 ^ 48 * fl.toNat), 1, BitVec.ofNat 64 td⟩ := by
  have word : self * 4 + 0 * 2 ^ 8 + 0 * 2 ^ 9 + d * 2 ^ 16 + att * 2 ^ 32 + false.toNat * 2 ^ 37 + fl.toNat * 2 ^ 48 =
      4 * self + 2 ^ 16 * d + 2 ^ 32 * att + 2 ^ 48 * fl.toNat := by
    rw [Bool.toNat_false]
    omega
  unfold voteMsg
  rw [word]
  generalize 4 * self + 2 ^ 16 * d + 2 ^ 32 * att + 2 ^ 48 * fl.toNat = w
  rfl

/-- The attempt that a device decides for itself closes with its tag written and its packets settled. -/
theorem vote_own_decides {s : State} {d : Nat} {a : Attempt} (found : s.attempt? d = some a)
    (own : arbourLaunch s a = false) (tagged : a.tag ≠ 0) (active : sget .free s.mem.master a.tag = .active) :
    ∃ t : State, Decided d (ownDecision s a) { a with state := .voted } t (vote d s) ∧ t.mem = s.mem ∧ t.cores = s.cores ∧
      t.host = s.host := by
  obtain ⟨m, h⟩ := vote_own found own
  obtain ⟨pkg, last, counted⟩ := countDecision_eq m (s.modAttempt d (fun a => { a with state := .voted }))
  rw [h, counted]
  refine ⟨_, decideAttempt_voted _ ?_ rfl tagged active, rfl, rfl, rfl⟩
  exact State.attempt?_modAttempt_some found fun _ => rfl

/-! ### Deadlines (R132, R143) -/

@[simp] theorem StreamSt.halt_run (x : StreamSt) (r : RunState) : (x.halt r).run = if x.run = .running then r else x.run := by
  unfold StreamSt.halt
  split <;> rfl

/-- A core none of whose streams runs. -/
def CoreSt.still (c : CoreSt) : Prop := c.a.run ≠ .running ∧ c.x.run ≠ .running ∧ c.m.run = false

theorem CoreSt.still_stop (c : CoreSt) : (c.stop .stopped).still := by
  have stops (x : StreamSt) : (x.halt .stopped).run ≠ .running := by
    rw [StreamSt.halt_run]
    split
    · simp
    · assumption
  exact ⟨stops _, stops _, rfl⟩

theorem still_modStop {s : State} {c : Nat} (k : Nat) (h : (s.core c).still) :
    ((s.modCore k (fun x => x.stop .stopped)).core c).still := by
  by_cases e : c = k
  · subst e
    rw [State.core_modCore]
    exact CoreSt.still_stop _
  · rw [State.core_modCore_ne _ _ e]
    exact h

/-- The cores of a list stop, and those that were still stay so; the groups, packets and attempts stand. -/
theorem stopCores (l : List Nat) (s : State) :
    let t := l.foldl (fun s c => dropUnitJobs c (s.modCore c (fun x => x.stop .stopped))) s
    (∀ c, c ∈ l ∨ (s.core c).still → (t.core c).still) ∧ t.sched = s.sched ∧ t.arb = s.arb ∧ t.mem = s.mem := by
  induction l generalizing s with
  | nil => exact ⟨fun c h => h.resolve_left (by simp), rfl, rfl, rfl⟩
  | cons k l ih =>
    obtain ⟨still, sched, arb, mem⟩ := ih (dropUnitJobs k (s.modCore k (fun x => x.stop .stopped)))
    refine ⟨fun c h => still c ?_, sched, arb, mem⟩
    rcases h with h | h
    · rcases List.mem_cons.mp h with rfl | h
      · refine .inr ?_
        change ((s.modCore c (fun x => x.stop .stopped)).core c).still
        rw [State.core_modCore]
        exact CoreSt.still_stop _
      · exact .inl h
    · exact .inr (still_modStop k h)

/-- A group that is stopped and drains, with none of its cores running. -/
def GroupStopped (t : State) (g : Nat) (cores : List Nat) : Prop :=
  (∃ z, t.group? g = some z ∧ z.state = .draining ∧ z.stopped = true) ∧ ∀ c ∈ cores, (t.core c).still

/-- What stopping groups keeps: memory, an attempt's state and flags, and what is stopped already. -/
structure Stops (s t : State) : Prop where
  mem     : t.mem = s.mem
  attempt : ∀ d a, s.attempt? d = some a → ∃ b, t.attempt? d = some b ∧ b.state = a.state ∧ b.hw = a.hw
  running : ∀ g y, s.group? g = some y → t.group? g = some y ∨ GroupStopped t g y.cores
  stopped : ∀ g l, GroupStopped s g l → GroupStopped t g l

namespace Stops

theorem refl (s : State) : Stops s s :=
  ⟨rfl, fun _ a h => ⟨a, h, rfl, rfl⟩, fun _ _ h => .inl h, fun _ _ h => h⟩

theorem trans {s t u : State} (h : Stops s t) (g : Stops t u) : Stops s u where
  mem := g.mem.trans h.mem
  attempt d a found := by
    obtain ⟨b, hb, state, hw⟩ := h.attempt d a found
    obtain ⟨c, hc, state', hw'⟩ := g.attempt d b hb
    exact ⟨c, hc, state'.trans state, hw'.trans hw⟩
  running i y found := (h.running i y found).elim (g.running i y) fun st => .inr (g.stopped i _ st)
  stopped i l st := g.stopped i l (h.stopped i l st)

end Stops

theorem State.group?_modGroup_self {s : State} {g : Nat} {y : Group} (found : s.group? g = some y) {f : Group → Group}
    (kept : ∀ y, (f y).gid = y.gid) : (s.modGroup g f).group? g = some (f y) := by
  have h : (s.modGroup g f).group? g = (s.group? g).map f := find?_updateFirst (fun a h => by rw [kept]; exact h) _
  rw [h, found]
  rfl

theorem find?_updateFirst_other {α : Type} {p q : α → Bool} {f : α → α} (apart : ∀ a, p a = true → q a = false)
    (kept : ∀ a, p a = true → q (f a) = false) (l : List α) : (updateFirst p f l).find? q = l.find? q := by
  induction l with
  | nil => rfl
  | cons a l ih =>
    by_cases h : p a = true
    · simp [updateFirst, h, apart a h, kept a h]
    · simp [updateFirst, h, List.find?_cons, ih]

theorem State.group?_modGroup_other (s : State) {g j : Nat} (ne : j ≠ g) {f : Group → Group}
    (kept : ∀ y, (f y).gid = y.gid) : (s.modGroup g f).group? j = s.group? j := by
  refine find?_updateFirst_other (fun a h => ?_) (fun a h => ?_) _
  · have e : a.gid = g := by simpa using h
    simp [e, Ne.symm ne]
  · have e : a.gid = g := by simpa using h
    simp [kept, e, Ne.symm ne]

/-- A running group is stopped, with its cores. -/
theorem stopGroup_stops (g : Nat) (s : State) : Stops s (stopGroup g s) ∧
    ∀ y, s.group? g = some y → y.state = .running → GroupStopped (stopGroup g s) g y.cores := by
  unfold stopGroup
  split
  · rename_i none
    exact ⟨.refl s, fun y h => by rw [none] at h; cases h⟩
  · rename_i y found
    split
    case isFalse idle =>
      exact ⟨.refl s, fun z h run => by rw [found] at h; cases h; exact absurd run idle⟩
    extract_lets t fl u
    obtain ⟨still, sched, arb, mem⟩ := stopCores y.cores s
    have groups (j : Nat) : t.group? j = s.group? j := congrArg (fun x : SchedSt => x.groups.find? _) sched
    have self : u.group? g = some { y with state := .draining, stopped := true } :=
      State.group?_modGroup_self ((groups g).trans found) fun _ => rfl
    have other (j : Nat) (ne : j ≠ g) : u.group? j = s.group? j := by
      rw [← groups j]
      exact State.group?_modGroup_other t ne fun _ => rfl
    have stopped : GroupStopped u g y.cores := ⟨⟨_, self, rfl, rfl⟩, fun c hc => still c (.inl hc)⟩
    have stops : Stops s u := by
      refine ⟨mem, fun d a h => ⟨a, ?_, rfl, rfl⟩, fun j z h => ?_, fun j l h => ?_⟩
      · rw [← h]
        exact congrArg (fun x : ArbSt => x.attempts.find? _) arb
      · by_cases e : j = g
        · subst e
          rw [found] at h
          cases h
          exact .inr stopped
        · exact .inl ((other j e).trans h)
      · obtain ⟨⟨z, hz, state, stop⟩, cores⟩ := h
        refine ⟨?_, fun c hc => still c (.inr (cores c hc))⟩
        by_cases e : j = g
        · subst e
          exact ⟨_, self, rfl, rfl⟩
        · exact ⟨z, (other j e).trans hz, state, stop⟩
    have flagged (d : Nat) : Stops u (u.modAttempt d (fun a => { a with gflags := a.gflags ||| fl })) := by
      refine ⟨rfl, fun k a h => ?_, fun _ _ h => .inl h, fun _ _ h => h⟩
      by_cases e : k = d
      · subst e
        exact ⟨_, State.attempt?_modAttempt_some h fun _ => rfl, rfl, rfl⟩
      · refine ⟨a, Eq.trans ?_ h, rfl, rfl⟩
        refine find?_updateFirst_other (fun b hb => ?_) (fun b hb => ?_) _
        · have same : b.dtid = d := by simpa using hb
          simp [same, Ne.symm e]
        · have same : b.dtid = d := by simpa using hb
          simp [same, Ne.symm e]
    have only (z : Group) (h : s.group? g = some z) : z = y := Option.some.inj (h.symm.trans found)
    split
    · refine ⟨stops.trans (flagged _), fun z h _ => ?_⟩
      rw [only z h]
      exact (flagged _).stopped g _ stopped
    · refine ⟨stops, fun z h _ => ?_⟩
      rw [only z h]
      exact stopped

theorem stopGroup_foldl (l : List Nat) (s : State) : Stops s (l.foldl (fun s g => stopGroup g s) s) ∧
    ∀ g ∈ l, ∀ y, s.group? g = some y → y.state = .running →
      GroupStopped (l.foldl (fun s g => stopGroup g s) s) g y.cores := by
  induction l generalizing s with
  | nil => exact ⟨.refl s, by simp⟩
  | cons k l ih =>
    obtain ⟨stops, stopped⟩ := ih (stopGroup k s)
    obtain ⟨first, own⟩ := stopGroup_stops k s
    refine ⟨first.trans stops, fun g hg y found run => ?_⟩
    rcases List.mem_cons.mp hg with rfl | hg
    · exact stops.stopped g _ (own y found run)
    · rcases first.running g y found with h | h
      · exact stopped g hg y h run
      · exact stops.stopped g _ h

theorem stopGroups_stops (id : Nat) (s : State) : Stops s (stopGroups id s) ∧
    ∀ p g y, s.packet? id = some p → g ∈ p.groups → s.group? g = some y → y.state = .running →
      GroupStopped (stopGroups id s) g y.cores := by
  unfold stopGroups
  split
  · rename_i none
    exact ⟨.refl s, fun p g y h => by rw [none] at h; cases h⟩
  · rename_i p found
    extract_lets t
    obtain ⟨stops, stopped⟩ := stopGroup_foldl p.groups t
    have jobs : Stops s t := ⟨rfl, fun _ a h => ⟨a, h, rfl, rfl⟩, fun _ _ h => .inl h, fun _ _ h => h⟩
    refine ⟨jobs.trans stops, fun q g y h hg hy run => ?_⟩
    obtain rfl : q = p := Option.some.inj (h.symm.trans found)
    exact stopped g hg y hy run

end Sys2Proof.Machine
end

section
/-! SUPPORT. The end of an attempt (R138 to R141): its launch ends, its packets return to selection, or a new attempt opens. -/

namespace Sys2Proof.Machine

/-! ### Packets of an attempt that is over -/

theorem State.packet?_id {s : State} {i : Nat} {p : Packet} (h : s.packet? i = some p) : p.id = i := by
  simpa using List.find?_some h

theorem State.packet?_modPacket_self {s : State} {i : Nat} {p : Packet} (found : s.packet? i = some p)
    {f : Packet → Packet} (kept : ∀ p, (f p).id = p.id) : (s.modPacket i f).packet? i = some (f p) := by
  have h : (s.modPacket i f).packet? i = (s.packet? i).map f := find?_updateFirst (fun a h => by rw [kept]; exact h) _
  rw [h, found]
  rfl

theorem State.packet?_modPacket_other (s : State) {i j : Nat} (ne : j ≠ i) {f : Packet → Packet}
    (kept : ∀ p, (f p).id = p.id) : (s.modPacket i f).packet? j = s.packet? j := by
  refine find?_updateFirst_other (fun a h => ?_) (fun a h => ?_) _
  · have e : a.id = i := by simpa using h
    simp [e, Ne.symm ne]
  · have e : a.id = i := by simpa using h
    simp [kept, e, Ne.symm ne]

/-- A change that every packet of a list undergoes reaches a packet that the list names. -/
theorem packet?_foldl {P : Packet → Prop} {f : State → Packet → State} {i : Nat}
    (changes : ∀ s p q, p.id = i → s.packet? i = some q → ∃ r, (f s p).packet? i = some r ∧ P r)
    (others : ∀ s p, p.id ≠ i → (f s p).packet? i = s.packet? i) (l : List Packet) (s : State) {q : Packet}
    (found : s.packet? i = some q) (h : (∃ p ∈ l, p.id = i) ∨ P q) :
    ∃ r, (l.foldl f s).packet? i = some r ∧ P r := by
  induction l generalizing s q with
  | nil => exact ⟨q, found, h.resolve_left (by simp)⟩
  | cons p l ih =>
    by_cases e : p.id = i
    · obtain ⟨r, hr, ok⟩ := changes s p q e found
      exact ih (f s p) hr (.inr ok)
    · refine ih (f s p) ((others s p e).trans found) (h.imp_left ?_)
      rintro ⟨x, hx, hi⟩
      exact ⟨x, (List.mem_cons.mp hx).resolve_left fun k => e (k ▸ hi), hi⟩

theorem mem_launchPackets {s : State} {a : Attempt} {p : Packet} (found : s.packet? a.packet = some p) :
    p ∈ launchPackets s a :=
  List.mem_filter.mpr ⟨List.mem_of_find?_eq_some found, by simp [State.packet?_id found]⟩

/-! ### The launch ends (R140) -/

/-- `t` is `s` but for packets and their groups and words. -/
structure PacketsOnly (s t : State) : Prop where
  arb   : t.arb = s.arb
  mem   : t.mem = s.mem
  cores : t.cores = s.cores
  host  : t.host = s.host

namespace PacketsOnly

theorem refl (s : State) : PacketsOnly s s := ⟨rfl, rfl, rfl, rfl⟩

theorem trans {s t u : State} (h : PacketsOnly s t) (g : PacketsOnly t u) : PacketsOnly s u :=
  ⟨g.arb.trans h.arb, g.mem.trans h.mem, g.cores.trans h.cores, g.host.trans h.host⟩

theorem foldl {α : Type} {f : State → α → State} (step : ∀ s a, PacketsOnly s (f s a)) (l : List α) (s : State) :
    PacketsOnly s (l.foldl f s) :=
  List.foldlRecOn _ _ (.refl s) fun t h a _ => h.trans (step t a)

end PacketsOnly

theorem packetsOnly_endLaunch (a : Attempt) (e : Bool) (s : State) : PacketsOnly s (endLaunch a e s) := by
  unfold endLaunch
  refine .foldl (fun s p => ?_) _ s
  exact ⟨rfl, rfl, rfl, rfl⟩

theorem endLaunch_packet {s : State} {a : Attempt} {p : Packet} (found : s.packet? a.packet = some p) (e : Bool) :
    ∃ y, (endLaunch a e s).packet? p.id = some y ∧ y.done = true ∧ y.settled = true ∧ y.e = e := by
  have own : s.packet? p.id = some p := by rw [State.packet?_id found]; exact found
  unfold endLaunch
  refine packet?_foldl (P := fun y => y.done = true ∧ y.settled = true ∧ y.e = e) (fun s q r id h => ?_)
    (fun s q ne => ?_) _ s own (.inl ⟨p, mem_launchPackets found, rfl⟩)
  · rw [id]
    exact ⟨_, State.packet?_modPacket_self h fun _ => rfl, rfl, rfl, rfl⟩
  · exact State.packet?_modPacket_other s (Ne.symm ne) fun _ => rfl

/-! ### The groups of a packet forgotten (R140) -/

theorem packetsOnly_forgetGroups (i : Nat) (s : State) : PacketsOnly s (forgetGroups i s) := ⟨rfl, rfl, rfl, rfl⟩

theorem forgetGroups_foldl {s : State} {p : Packet} (l : List Packet) (found : s.packet? p.id = some p) (named : p ∈ l) :
    PacketsOnly s (l.foldl (fun s p => forgetGroups p.id s) s) ∧
    ∃ y, (l.foldl (fun s p => forgetGroups p.id s) s).packet? p.id = some y ∧ y.groups = [] ∧ y.e = false ∧
      y.faults = [] := by
  refine ⟨.foldl (fun s q => packetsOnly_forgetGroups q.id s) l s, ?_⟩
  refine packet?_foldl (P := fun y => y.groups = [] ∧ y.e = false ∧ y.faults = []) (fun s q r id h => ?_)
    (fun s q ne => ?_) l s found (.inl ⟨p, named, rfl⟩)
  · rw [id]
    exact ⟨_, State.packet?_modPacket_self (s := { s with
        sched := { s.sched with groups := s.sched.groups.filter (fun g => g.packet != p.id) },
        tiles := { s.tiles with jobs := s.tiles.jobs.filter (fun j => j.packet != some p.id) } }) h fun _ => rfl,
      rfl, rfl, rfl⟩
  · exact State.packet?_modPacket_other { s with
        sched := { s.sched with groups := s.sched.groups.filter (fun g => g.packet != q.id) },
        tiles := { s.tiles with jobs := s.tiles.jobs.filter (fun j => j.packet != some q.id) } } (Ne.symm ne) fun _ => rfl

/-! ### A packet returns to selection (R140) -/

/-- The head with which a pre-empted launch is selected again. -/
def Attempt.again (a : Attempt) (flags : BitVec 16) (p : Packet) : Head :=
  { p.head with att := a.att + 1, dtid := some a.dtid, pflags := flags }

theorem freeSlot_slot (i : Nat) (s : State) : ((freeSlot i s).slot i).packet = none := by
  unfold freeSlot State.slot State.modSlot
  rw [sget_smod_self]
  dsimp only
  split <;> rfl

theorem returnPacket_eq {a : Attempt} {flags : BitVec 16} {p : Packet} {s : State} (own : p.share = false) :
    returnPacket a flags p s = (dropPacket p (forgetGroups p.id s)).modChain p.chain
      (fun ch => { ch with hds := a.again flags p :: ch.hds }) := by
  unfold returnPacket
  rw [own]
  rfl

theorem returnPacket_returns {a : Attempt} {flags : BitVec 16} {p : Packet} {s : State} (own : p.share = false) :
    ((returnPacket a flags p s).chain p.chain).hds = a.again flags p :: (s.chain p.chain).hds ∧
    ((returnPacket a flags p s).slot p.slot).packet = none ∧ (returnPacket a flags p s).mem = s.mem ∧
    (returnPacket a flags p s).arb = s.arb := by
  rw [returnPacket_eq own]
  refine ⟨?_, freeSlot_slot .., rfl, rfl⟩
  unfold State.chain State.modChain
  rw [sget_smod_self]
  rfl

/-! ### A new attempt opens (R127, R132, R135) -/

/-- What an opened attempt leaves: it is the last of the attempts, and waits last for a tag; packets and cells stand. -/
structure Opened (a : Attempt) (s t : State) : Prop where
  attempts : t.arb.attempts = s.arb.attempts ++ [a]
  mem      : t.mem = { s.mem with waiting := s.mem.waiting ++ [.attempt a.dtid] }
  sched    : t.sched = s.sched

theorem openAttempt_opened (a : Attempt) (arb : Bool) (s : State) : Opened a s (openAttempt a arb s) := by
  unfold openAttempt
  extract_lets arb' u mem' v
  have base : Opened a s v := ⟨rfl, rfl, rfl⟩
  split
  · refine List.foldlRecOn (motive := fun t => Opened a s t) _ _ base fun t h n _ => ?_
    dsimp only
    split
    · exact ⟨h.attempts, h.mem, h.sched⟩
    · exact h
  · exact base

/-! ### The flags of a decision -/

theorem and_bit_ne_zero {x m : BitVec 16} {i : Nat} (mask : m = BitVec.twoPow 16 i) (lt : i < 16) :
    x &&& m ≠ 0 ↔ x.getLsbD i = true := by
  rw [mask, BitVec.and_twoPow]
  cases x.getLsbD i with
  | false => simp
  | true =>
    simp only [if_true, iff_true]
    intro h
    have bit := congrArg (fun y : BitVec 16 => y.getLsbD i) h
    simp [lt] at bit

theorem mismatch_iff (x : BitVec 16) : x &&& flMISMATCH ≠ 0 ↔ x.getLsbD 12 = true :=
  and_bit_ne_zero (by decide) (by decide)

theorem preempt_iff (x : BitVec 16) : x &&& flPREEMPT ≠ 0 ↔ x.getLsbD 10 = true :=
  and_bit_ne_zero (by decide) (by decide)

/-! ### The attempt reaches ENDING (R139, R140) -/

/-- The attempts of `d` are no longer held. -/
def forgetAttempt (d : Nat) (s : State) : State :=
  { s with arb := { s.arb with attempts := s.arb.attempts.filter (fun x => x.dtid != d) } }

theorem attempt?_forgetAttempt (d : Nat) (s : State) : (forgetAttempt d s).attempt? d = none := by
  refine List.find?_eq_none.mpr fun a h => ?_
  simpa using (List.mem_filter.mp h).2

/-- The attempt that R140 opens after an abort. -/
def Attempt.next (a : Attempt) (dec : Decision) (p : Packet) : Attempt :=
  { a with
    att := a.att + 1, state := .opening, tag := 0, hw := 0, gflags := 0,
    td := dec.time + pkTxLimit p.head.words * 1000, pflags := dec.flags, dec := none, settled := false }

section
variable {s : State} {a : Attempt} (found : s.attempt? s.input.dtid = some a)
include found

theorem attemptVote_idle (h : ¬ ((a.state = .running ∨ a.state = .stopping) ∧ attemptDone s a = true)) :
    exec .attemptVote s = .next s := by
  rw [exec_attemptVote, execAttemptVote, found]
  refine congrArg Host.Outcome.next (if_neg fun c => h ?_)
  simpa [Bool.and_eq_true, or_comm] using c

theorem attemptVote_votes (h : (a.state = .running ∨ a.state = .stopping) ∧ attemptDone s a = true) :
    exec .attemptVote s = .next (vote s.input.dtid s) := by
  rw [exec_attemptVote, execAttemptVote, found, ← State.attempt?_dtid found]
  exact when_of _ _ (by simpa [Bool.and_eq_true, or_comm] using h)

theorem attemptDeadline_idle (h : ¬ (a.state = .running ∧ a.td ≤ s.now)) : exec .attemptDeadline s = .next s := by
  rw [exec_attemptDeadline, execAttemptDeadline, found]
  refine congrArg Host.Outcome.next (if_neg fun c => h ?_)
  simpa using c

theorem attemptDeadline_stops (h : a.state = .running ∧ a.td ≤ s.now) : exec .attemptDeadline s =
    .next (stopGroups a.packet (s.modAttempt s.input.dtid (fun a =>
      { a with state := .stopping, hw := a.hw ||| flTIMEOUT, kill := a.kill || false }))) := by
  obtain ⟨run, late⟩ := h
  rw [exec_attemptDeadline, execAttemptDeadline, found]
  refine (when_of _ _ (by simp [run, late])).trans (congrArg Host.Outcome.next ?_)
  unfold stopAttempt
  rw [State.attempt?_dtid found, found]
  dsimp only
  rw [run]

variable {p : Packet} {dec : Decision} (packet : s.packet? a.packet = some p) (decided : a.dec = some dec)
  (settling : a.state = .settling) (settled : a.settled = true) (idle : drained s p = true)
include packet decided settling settled idle

theorem attemptSettled_eq : exec .attemptSettled s = .next
    (let u := forgetAttempt s.input.dtid s
     if dec.abort = false then endLaunch a false u
     else if dec.flags.getLsbD 12 = true then endLaunch a true u
     else if dec.flags.getLsbD 10 = true then
       if a.kill = true ∨ 15 ≤ a.att then endLaunch a true u
       else (launchPackets s a).foldl (fun s p => returnPacket a dec.flags p s) u
     else if a.att + 1 ≤ pkRetry p.head.words then
       openAttempt (a.next dec p)
         (arbourLaunch ((launchPackets s a).foldl (fun s p => forgetGroups p.id s) u) a)
         ((launchPackets s a).foldl (fun s p => forgetGroups p.id s) u)
     else endLaunch a true u) := by
  rw [exec_attemptSettled, execAttemptSettled, found]
  dsimp only
  rw [packet, decided]
  dsimp only
  rw [if_pos ⟨settling, settled, idle⟩, ← State.attempt?_dtid found]
  simp only [mismatch_iff, preempt_iff, Bool.not_eq_true']
  split_ifs <;> rfl

end

/-- The launch ends where the decision leaves no further attempt. -/
theorem attemptSettled_ends {s : State} {a : Attempt} {p : Packet} (packet : s.packet? a.packet = some p) (e : Bool)
    (ends : exec .attemptSettled s = .next (endLaunch a e (forgetAttempt s.input.dtid s))) :
    Answers .attemptSettled s (fun u => u.attempt? s.input.dtid = none ∧
      (∃ y, u.packet? p.id = some y ∧ y.done = true ∧ y.settled = true ∧ y.e = e) ∧ u.mem = s.mem ∧ u.cores = s.cores) := by
  have only := packetsOnly_endLaunch a e (forgetAttempt s.input.dtid s)
  refine ⟨_, ends, ?_, endLaunch_packet (s := forgetAttempt s.input.dtid s) packet e, only.mem, only.cores⟩
  rw [← attempt?_forgetAttempt s.input.dtid s]
  exact congrArg (fun x : ArbSt => x.attempts.find? _) only.arb

/-- Attempts vote, stop at their deadline and end as R130 to R133 and R138 to R141 say. -/
theorem attemptEvents : Claim.AttemptEvents := by
  unfold Claim.AttemptEvents
  intro s a x master found over' fl veto late
  have named : a.dtid = x.dtid := State.attempt?_dtid found
  refine ⟨attemptVote_idle found, fun ready far => ?_, fun ready own tagged active => ?_, attemptDeadline_idle found,
    fun h => ?_, fun p dec packet decided settling settled idle => ?_⟩
  · refine ⟨_, attemptVote_votes found ready, ?_⟩
    have msg : voteMsg s.self 0 0 x.dtid a.att false (voteFlags s a) 1 0 a.td = ⟨BitVec.ofNat 64
        (4 * s.self + 2 ^ 16 * a.dtid + 2 ^ 32 * a.att + 2 ^ 48 * (voteFlags s a).toNat), 1, BitVec.ofNat 64 a.td⟩ := by
      rw [voteMsg_own, named]
    rw [vote_arbour found far, msg]
    obtain ⟨cores, mem, -⟩ := (messagesOnly_post (s.modAttempt x.dtid (fun a => { a with state := .voted })) _).kept
    refine ⟨?_, mem, cores, sends_post rfl ?_⟩
    · rw [← State.attempt?_modAttempt_some (f := fun a => { a with state := .voted }) found fun _ => rfl]
      unfold State.attempt?
      rw [(messagesOnly_post _ _).rest]
    · refine route_vote ?_ ?_ ?_ _ _ _ <;> rfl
  · obtain ⟨t, after, mem, cores, host⟩ := vote_own_decides found own tagged active
    intro closes
    have step := attemptVote_votes found ready
    have closed : closes (settledState !(ownDecision s a).abort) (vote x.dtid s) := by
      refine ⟨?_, after.cores.trans cores, ?_, after.held, _, after.attempt, rfl, rfl⟩
      · change sget .free (vote x.dtid s).mem.master a.tag = _
        rw [after.master]
        exact sget_sput_self ..
      · rw [after.writes, mem, named]
    refine ⟨fun h => ⟨_, step, ?_⟩, fun h => ⟨_, step, ?_⟩⟩
    · have aborts : (ownDecision s a).abort = true := decide_eq_true h
      rw [aborts] at closed
      exact ⟨closed, (after.host aborts).trans host⟩
    · have commits : (ownDecision s a).abort = false := decide_eq_false h
      rw [commits] at closed
      exact closed
  · refine ⟨_, attemptDeadline_stops found h, ?_⟩
    obtain ⟨stops, stopped⟩ := stopGroups_stops a.packet (s.modAttempt x.dtid (fun a =>
      { a with state := .stopping, hw := a.hw ||| flTIMEOUT, kill := a.kill || false }))
    obtain ⟨b, known, state, hw⟩ := stops.attempt x.dtid _ (State.attempt?_modAttempt_some found fun _ => rfl)
    exact ⟨⟨b, known, state, hw⟩, stops.mem, fun p g y hp hg hy run => stopped p g y hp hg hy run⟩
  · have step := attemptSettled_eq found packet decided settling settled idle
    have ends := attemptSettled_ends packet
    dsimp only at step
    intro endsWith mismatch preempt
    refine ⟨fun commit => ends false ?_, fun abort mm => ends true ?_, fun abort mm pre last => ends true ?_,
      fun abort mm pre alive few one own => ?_, fun abort mm pre left => ?_, fun abort mm pre spent => ends true ?_⟩
    · rw [step, if_pos commit]
    · rw [step, if_neg (by simp [abort]), if_pos mm]
    · rw [step, if_neg (by simp [abort]), if_neg mm, if_pos pre, if_pos last]
    · rw [if_neg (by simp [abort]), if_neg mm, if_pos pre, if_neg (by simp [alive]; omega), one] at step
      obtain ⟨head, slot, mem, arb⟩ := returnPacket_returns (a := a) (flags := dec.flags) (p := p)
        (s := forgetAttempt x.dtid s) own
      refine ⟨_, step, ?_, head, slot, mem⟩
      rw [← attempt?_forgetAttempt x.dtid s]
      exact congrArg (fun x : ArbSt => x.attempts.find? _) arb
    · rw [if_neg (by simp [abort]), if_neg mm, if_neg pre, if_pos left] at step
      have own : (forgetAttempt x.dtid s).packet? p.id = some p := by rw [State.packet?_id packet]; exact packet
      obtain ⟨only, y, hy, fresh⟩ := forgetGroups_foldl (launchPackets s a) own (mem_launchPackets packet)
      generalize (launchPackets s a).foldl (fun s p => forgetGroups p.id s) (forgetAttempt x.dtid s) = u at step only hy
      have opened := openAttempt_opened (a.next dec p) (arbourLaunch u a) u
      refine ⟨_, step, ⟨a.next dec p, ?_, rfl, rfl, rfl, rfl, rfl, ?_⟩, ⟨y, ?_, fresh⟩, ?_, ?_⟩
      · have none := attempt?_forgetAttempt x.dtid s
        unfold State.attempt? at none ⊢
        rw [opened.attempts, only.arb, List.find?_append, none]
        simp [Attempt.next, named]
      · change dec.time + pkTxLimit p.head.words * 1000 = _
        rw [Nat.mul_comm]
      · rw [← hy]
        exact congrArg (fun x : SchedSt => x.packets.find? _) opened.sched
      · rw [opened.mem, only.mem]
        rfl
      · rw [opened.mem, only.mem]
        rfl
    · rw [step, if_neg (by simp [abort]), if_neg mm, if_neg pre, if_neg (by omega)]

end Sys2Proof.Machine
end

section
/-! SUPPORT. The Arbour's nodes (R134 to R137): votes collected, outputs sent, decisions passed down, and what is late or
malformed counted. -/

namespace Sys2Proof.Machine

/-! ### Fields of messages (R137) -/

theorem bit_eq_testBit (x i : Nat) : bit x i = x.testBit i := by
  rw [Nat.testBit_eq_decide_div_mod_eq]
  rfl

theorem ofNat_bits_63_48 (w : Nat) : BitVec.ofNat 16 (bits w 63 48) = BitVec.ofNat 16 (w / 2 ^ 48) := by
  refine BitVec.eq_of_toNat_eq ?_
  rw [BitVec.toNat_ofNat, BitVec.toNat_ofNat]
  exact Nat.mod_mod _ _

/-- A message of a type with no reserved bit set. -/
theorem msgOk_iff (m : ArbMsg) (type : Nat) : msgOk m type = true ↔ m.w0.toNat % 4 = type ∧
    m.w0.toNat / 2 ^ 10 % 2 ^ 6 = 0 ∧ m.w0.toNat / 2 ^ 38 % 2 ^ 10 = 0 ∧ m.w1.toNat < 2 ^ 14 := by
  have low : bits m.w0.toNat 1 0 = m.w0.toNat % 4 := congrArg (· % 4) (Nat.div_one _)
  have top : bits m.w1.toNat 63 14 = 0 ↔ m.w1.toNat < 2 ^ 14 := by
    have lt := m.w1.isLt
    change m.w1.toNat / 2 ^ 14 % 2 ^ 50 = 0 ↔ _
    omega
  unfold msgOk
  rw [decide_eq_true_iff, low, top]
  rfl

/-- The first word of a decision message. -/
def decisionWord (self n d att : Nat) (ab early : Bool) (fl : BitVec 16) : Nat :=
  1 + self * 4 + 2 ^ 8 + n * 2 ^ 9 + d * 2 ^ 16 + att * 2 ^ 32 + ab.toNat * 2 ^ 36 + early.toNat * 2 ^ 37 + fl.toNat * 2 ^ 48

section
variable {self n d att : Nat} (ab early : Bool) (fl : BitVec 16) (hself : self < 64) (hn : n < 2) (hd : d < 2 ^ 16)
  (hatt : att < 16)
include hself hn hd hatt

/-- The fields of a decision's first word stand apart. -/
theorem decisionWord_fields : let w := decisionWord self n d att ab early fl
    w < 2 ^ 64 ∧ bits w 31 16 = d ∧ bits w 35 32 = att ∧ w / 2 ^ 36 % 2 = ab.toNat ∧ w / 2 ^ 37 % 2 = early.toNat ∧
      w / 2 ^ 48 = fl.toNat := by
  intro w
  have hab := Bool.toNat_lt ab
  have hearly := Bool.toNat_lt early
  have hfl := fl.isLt
  unfold w decisionWord bits
  generalize ab.toNat = p at *
  generalize early.toNat = q at *
  generalize fl.toNat = f at *
  refine ⟨?_, ?_, ?_, ?_, ?_, ?_⟩ <;> omega

variable (count miss time : Nat)

theorem decisionMsg_w0 : (decisionMsg self n d att ab early fl count miss time).w0.toNat =
    decisionWord self n d att ab early fl := by
  obtain ⟨lt, -⟩ := decisionWord_fields ab early fl hself hn hd hatt
  exact (BitVec.toNat_ofNat ..).trans (Nat.mod_eq_of_lt lt)

theorem decisionMsg_fields : let w := (decisionMsg self n d att ab early fl count miss time).w0.toNat
    bits w 31 16 = d ∧ bits w 35 32 = att ∧ bit w 36 = ab ∧ bit w 37 = early ∧ w / 2 ^ 48 = fl.toNat := by
  intro w
  obtain ⟨-, fd, fatt, fab, fearly, ffl⟩ := decisionWord_fields ab early fl hself hn hd hatt
  have word : w = decisionWord self n d att ab early fl := decisionMsg_w0 ab early fl hself hn hd hatt ..
  rw [word]
  refine ⟨fd, fatt, ?_, ?_, ffl⟩
  · unfold bit
    rw [fab]
    cases ab <;> rfl
  · unfold bit
    rw [fearly]
    cases early <;> rfl

end

theorem getLsbD_of_bit {w : Word} {i : Nat} : w.getLsbD i = bit w.toNat i := (bit_eq_testBit ..).symm

/-! ### Messages posted to many (R136) -/

/-- Messages leave one after another, and nothing else changes. -/
theorem post_foldl {α : Type} (f : α → FabMsg) (l : List α) (s : State) :
    let t := l.foldl (fun s i => s.post (f i)) s
    MessagesOnly s t ∧ (∀ m, Posted s m → Posted t m) ∧ ∀ i ∈ l, Posted t (f i) := by
  induction l generalizing s with
  | nil => exact ⟨.refl s, fun _ h => h, by simp⟩
  | cons a l ih =>
    obtain ⟨only, kept, all⟩ := ih (s.post (f a))
    refine ⟨(messagesOnly_post ..).trans only, fun m h => kept m (h.post _), fun i hi => ?_⟩
    rcases List.mem_cons.1 hi with rfl | hi
    · exact kept _ (posted_post ..)
    · exact all i hi

/-! ### A decision passed down (R136) -/

/-- The decision that a node sends to its inputs. -/
def passedDown (self n : Nat) (m : ArbMsg) : ArbMsg :=
  decisionMsg self n (bits m.w0.toNat 31 16) (bits m.w0.toNat 35 32) (bit m.w0.toNat 36) (bit m.w0.toNat 37)
    (BitVec.ofNat 16 (bits m.w0.toNat 63 48)) (bits m.w1.toNat 6 0) (bits m.w1.toNat 13 7) m.w2.toNat

/-- A decision message to an input of a node. -/
def toInput (out : ArbMsg) (i : Nat × Bool × Nat) : FabMsg := .decision i.1 (if i.2.1 then some i.2.2 else none) out

/-- What passing a decision down leaves at node `n`, for the attempt `d`, `att` of the decision. -/
structure PassedOn (n d att : Nat) (out : ArbMsg) (s t : State) : Prop where
  mem     : t.mem = s.mem
  cores   : t.cores = s.cores
  sched   : t.sched = s.sched
  arb     : t.arb = { s.arb with nodes := t.arb.nodes }
  entries : (t.node n).entries = (s.node n).entries.filter (fun e => !(e.dtid == d && e.att == att))
  known   : ∀ y ∈ (s.node n).entries, (y.dtid == d && y.att == att) = true → (d, att, y.td) ∈ (t.node n).passed
  unknown : (s.node n).entries.any (fun y => y.dtid == d && y.att == att) = false → (d, att, 0) ∈ (t.node n).passed
  tells   : ∀ i ∈ nodeInputs s n d att, Posted t (toInput out i)

/-- A node once the attempt `d`, `att` has passed: its entries and inputs of it are gone. -/
def NodeSt.retire (d att : Nat) (nd : NodeSt) : NodeSt := { nd with
  entries := nd.entries.filter (fun e => !(e.dtid == d && e.att == att)),
  inputs := nd.inputs.filter (fun i => !(i.1 == d && i.2.1 == att)),
  passed :=
    (match nd.entries.filter (fun e => e.dtid == d && e.att == att) with
     | [] => [(d, att, 0)]
     | l => l.map (fun e => (d, att, e.td))) ++ nd.passed }

theorem NodeSt.retire_known {d att : Nat} {nd : NodeSt} {y : NodeEntry} (hy : y ∈ nd.entries)
    (mine : (y.dtid == d && y.att == att) = true) : (d, att, y.td) ∈ (nd.retire d att).passed := by
  have there : y ∈ nd.entries.filter (fun e => e.dtid == d && e.att == att) := List.mem_filter.mpr ⟨hy, mine⟩
  refine List.mem_append_left _ ?_
  cases l : nd.entries.filter (fun e => e.dtid == d && e.att == att) with
  | nil => rw [l] at there; cases there
  | cons a l' => exact List.mem_map.mpr ⟨y, l ▸ there, rfl⟩

theorem NodeSt.retire_unknown {d att : Nat} {nd : NodeSt}
    (none : nd.entries.any (fun y => y.dtid == d && y.att == att) = false) : (d, att, 0) ∈ (nd.retire d att).passed := by
  have empty : nd.entries.filter (fun e => e.dtid == d && e.att == att) = [] :=
    List.filter_eq_nil_iff.mpr fun y hy => by simpa using (List.any_eq_false.mp none) y hy
  unfold NodeSt.retire
  rw [empty]
  exact List.mem_cons_self

theorem State.node_modNode (s : State) (n : Nat) (f : NodeSt → NodeSt) : (s.modNode n f).node n = f (s.node n) :=
  sget_smod_self ..

theorem forwardDecision_eq (n : Nat) (m : ArbMsg) (s : State) : forwardDecision n m s =
    ((nodeInputs s n (bits m.w0.toNat 31 16) (bits m.w0.toNat 35 32)).foldl
      (fun t i => t.post (toInput (passedDown s.self n m) i)) s).modNode n
      (NodeSt.retire (bits m.w0.toNat 31 16) (bits m.w0.toNat 35 32)) := rfl

theorem forwardDecision_passes (n : Nat) (m : ArbMsg) (s : State) :
    PassedOn n (bits m.w0.toNat 31 16) (bits m.w0.toNat 35 32) (passedDown s.self n m) s (forwardDecision n m s) := by
  rw [forwardDecision_eq]
  generalize bits m.w0.toNat 31 16 = d
  generalize bits m.w0.toNat 35 32 = att
  obtain ⟨only, -, all⟩ := post_foldl (toInput (passedDown s.self n m)) (nodeInputs s n d att) s
  generalize (nodeInputs s n d att).foldl (fun u i => u.post (toInput (passedDown s.self n m) i)) s = t at only all
  obtain ⟨cores, mem, -, sched, -⟩ := only.kept
  have arb : t.arb = s.arb := by rw [only.rest]
  have node : (t.modNode n (NodeSt.retire d att)).node n = (s.node n).retire d att := by
    rw [State.node_modNode]
    exact congrArg (fun x : ArbSt => NodeSt.retire d att (sget {} x.nodes n)) arb
  refine ⟨mem, cores, sched, ?_, congrArg NodeSt.entries node, fun y hy mine => ?_, fun none => ?_, all⟩
  · unfold State.modNode
    rw [arb]
  · rw [node]
    exact NodeSt.retire_known hy mine
  · rw [node]
    exact NodeSt.retire_unknown none

/-- A node's inputs hold the sources of the votes it has seen, and those aimed at it. -/
theorem mem_nodeInputs_seen {s : State} {n d att : Nat} {i : Nat × Nat × Bool × Nat × Bool} (h : i ∈ (s.node n).inputs)
    (hd : i.1 = d) (hatt : i.2.1 = att) : (i.2.2.2.1, i.2.2.1, i.2.2.2.2.toNat) ∈ nodeInputs s n d att :=
  List.mem_append_left _ (List.mem_map.mpr ⟨i, List.mem_filter.mpr ⟨h, by simp [hd, hatt]⟩, rfl⟩)

theorem mem_nodeInputs_aimed {s : State} {n d att : Nat} {i : Nat × Bool × Nat} (h : i ∈ (s.node n).aimed) :
    i ∈ nodeInputs s n d att := by
  unfold nodeInputs
  extract_lets seen
  by_cases k : i ∈ seen
  · exact List.mem_append_left _ k
  · exact List.mem_append_right _ (List.mem_filter.mpr ⟨h, by simpa using k⟩)

/-! ### A node's output (R135 to R137) -/

/-- A node has sent the output of an entry. -/
def NodeSt.sentOf (e : NodeEntry) (nd : NodeSt) : NodeSt :=
  { nd with entries := nd.entries.map (fun x => if x.dtid = e.dtid ∧ x.att = e.att then { e with sent := true } else x) }

theorem nodeOutput_up {n : Nat} {e : NodeEntry} {early : Bool} {s : State} (inner : (s.node n).root = false) :
    nodeOutput n e early s = (s.modNode n (NodeSt.sentOf e)).post (.vote (s.node n).pdev (s.node n).pnode
      (voteMsg s.self 1 n e.dtid e.att early e.flags e.count e.miss e.td)) := by
  unfold nodeOutput
  exact if_neg (by simp [inner])

/-- The decision of a root. -/
def rootDecision (n : Nat) (e : NodeEntry) (early : Bool) (s : State) : ArbMsg :=
  decisionMsg s.self n e.dtid e.att (decide (e.flags &&& vetoMask ≠ 0)) early e.flags e.count e.miss s.now

theorem nodeOutput_root {n : Nat} {e : NodeEntry} {early : Bool} {s : State} (root : (s.node n).root = true) :
    nodeOutput n e early s = forwardDecision n (rootDecision n e early s)
      (keepLast (rootDecision n e early s) (s.modNode n (NodeSt.sentOf e))) := by
  unfold nodeOutput
  exact if_pos root

/-- What a root's decision `m` on an entry leaves, and `last` in ARBLAST. -/
structure RootDecided (n : Nat) (e : NodeEntry) (m : ArbMsg) (last : Word) (s t : State) : Prop where
  mem      : t.mem = s.mem
  cores    : t.cores = s.cores
  sched    : t.sched = s.sched
  timeouts : t.arb.timeouts = s.arb.timeouts
  gone     : (t.node n).entries.any (fun y => y.dtid == e.dtid && y.att == e.att) = false
  passed   : (e.dtid, e.att, e.td) ∈ (t.node n).passed
  kept     : t.arb.last = last
  tells    : ∀ i ∈ nodeInputs s n e.dtid e.att, Posted t (toInput (passedDown s.self n m) i)

/-- The state in which the output of an entry is sent and a decision is in ARBLAST. -/
def outputSent (n : Nat) (e : NodeEntry) (last : Word) (s : State) : State :=
  { s.modNode n (NodeSt.sentOf e) with arb := { (s.modNode n (NodeSt.sentOf e)).arb with last := last } }

theorem node_outputSent (n : Nat) (e : NodeEntry) (last : Word) (s : State) :
    (outputSent n e last s).node n = (s.node n).sentOf e := State.node_modNode s n (NodeSt.sentOf e)

theorem nodeInputs_outputSent (n : Nat) (e : NodeEntry) (last : Word) (s : State) (d att : Nat) :
    nodeInputs (outputSent n e last s) n d att = nodeInputs s n d att := by
  unfold nodeInputs
  rw [node_outputSent]
  rfl

theorem PassedOn.rootDecided {n : Nat} {e : NodeEntry} {m : ArbMsg} {last : Word} {s t : State}
    (passes : PassedOn n e.dtid e.att (passedDown s.self n m) (outputSent n e last s) t)
    (held : ∃ y ∈ (s.node n).entries, y.dtid = e.dtid ∧ y.att = e.att) : RootDecided n e m last s t := by
  obtain ⟨mem, cores, sched, arb, entries, known, -, tells⟩ := passes
  rw [node_outputSent] at entries known
  rw [nodeInputs_outputSent] at tells
  obtain ⟨y, hy, same⟩ := held
  refine ⟨mem, cores, sched, by rw [arb]; rfl, ?_, ?_, by rw [arb]; rfl, tells⟩
  · rw [entries, List.any_eq_false]
    intro x hx
    have apart := (List.mem_filter.mp hx).2
    rw [Bool.not_eq_true'] at apart
    simp [apart]
  · exact known { e with sent := true } (List.mem_map.mpr ⟨y, hy, if_pos same⟩) (by simp)

theorem nodeOutput_decides {n : Nat} {e : NodeEntry} {early : Bool} {s : State} (root : (s.node n).root = true)
    (held : ∃ y ∈ (s.node n).entries, y.dtid = e.dtid ∧ y.att = e.att) (hself : s.self < 64) (hn : n < 2)
    (hd : e.dtid < 2 ^ 16) (hatt : e.att < 16) : RootDecided n e (rootDecision n e early s)
      (BitVec.ofNat 64 (lastWord (rootDecision n e early s))) s (nodeOutput n e early s) := by
  obtain ⟨fd, fatt, -⟩ := decisionMsg_fields (decide (e.flags &&& vetoMask ≠ 0)) early e.flags hself hn hd hatt
    e.count e.miss s.now
  change bits (rootDecision n e early s).w0.toNat 31 16 = _ at fd
  change bits (rootDecision n e early s).w0.toNat 35 32 = _ at fatt
  rw [nodeOutput_root root, keepLast_eq]
  generalize rootDecision n e early s = m at *
  generalize BitVec.ofNat 64 (lastWord m) = last
  have passes := forwardDecision_passes n m (outputSent n e last s)
  rw [fd, fatt] at passes
  exact passes.rootDecided held

/-- What a root tells of its decision, and keeps of it in ARBLAST. -/
theorem rootDecision_tells {n : Nat} {e : NodeEntry} (early : Bool) {s : State} (hself : s.self < 64) (hn : n < 2)
    (hd : e.dtid < 2 ^ 16) (hatt : e.att < 16) :
    let out := passedDown s.self n (rootDecision n e early s)
    let last := BitVec.ofNat 64 (lastWord (rootDecision n e early s))
    out.w0.getLsbD 36 = decide (e.flags &&& vetoMask ≠ 0) ∧ out.w0.getLsbD 37 = early ∧
      out.w0.toNat / 2 ^ 48 = e.flags.toNat ∧ out.w2 = BitVec.ofNat 64 s.now ∧
      last.toNat % 2 ^ 16 = e.dtid ∧ last.getLsbD 20 = decide (e.flags &&& vetoMask ≠ 0) ∧
      last.toNat / 2 ^ 32 = e.flags.toNat := by
  intro out last
  obtain ⟨fd, fatt, fab, fearly, ffl⟩ := decisionMsg_fields (decide (e.flags &&& vetoMask ≠ 0)) early e.flags hself hn hd
    hatt e.count e.miss s.now
  change bits (rootDecision n e early s).w0.toNat 31 16 = _ at fd
  change bits (rootDecision n e early s).w0.toNat 35 32 = _ at fatt
  change bit (rootDecision n e early s).w0.toNat 36 = _ at fab
  change bit (rootDecision n e early s).w0.toNat 37 = _ at fearly
  change (rootDecision n e early s).w0.toNat / 2 ^ 48 = _ at ffl
  have flags : bits (rootDecision n e early s).w0.toNat 63 48 = e.flags.toNat := by
    change (rootDecision n e early s).w0.toNat / 2 ^ 48 % 2 ^ 16 = _
    rw [ffl, Nat.mod_eq_of_lt e.flags.isLt]
  have word : out = decisionMsg s.self n e.dtid e.att (decide (e.flags &&& vetoMask ≠ 0)) early e.flags
      (bits (rootDecision n e early s).w1.toNat 6 0) (bits (rootDecision n e early s).w1.toNat 13 7)
      (rootDecision n e early s).w2.toNat := by
    unfold out passedDown
    rw [fd, fatt, fab, fearly, flags, BitVec.ofNat_toNat, BitVec.setWidth_eq]
  obtain ⟨-, -, oab, oearly, ofl⟩ := decisionMsg_fields (decide (e.flags &&& vetoMask ≠ 0)) early e.flags hself hn hd hatt
    (bits (rootDecision n e early s).w1.toNat 6 0) (bits (rootDecision n e early s).w1.toNat 13 7)
    (rootDecision n e early s).w2.toNat
  rw [← word] at oab oearly ofl
  have hab := Bool.toNat_lt (decide (e.flags &&& vetoMask ≠ 0))
  have hfl := e.flags.isLt
  have hcount := bits_lt (rootDecision n e early s).w1.toNat 6 0
  have lword : lastWord (rootDecision n e early s) = e.dtid + e.att * 2 ^ 16 +
      (decide (e.flags &&& vetoMask ≠ 0)).toNat * 2 ^ 20 + bits (rootDecision n e early s).w1.toNat 6 0 * 2 ^ 21 +
      e.flags.toNat * 2 ^ 32 := by
    unfold lastWord
    rw [fd, fatt, fab, flags]
  have lnat : last.toNat = e.dtid + e.att * 2 ^ 16 +
      (decide (e.flags &&& vetoMask ≠ 0)).toNat * 2 ^ 20 + bits (rootDecision n e early s).w1.toNat 6 0 * 2 ^ 21 +
      e.flags.toNat * 2 ^ 32 := by
    unfold last
    rw [BitVec.toNat_ofNat, lword]
    generalize bits (rootDecision n e early s).w1.toNat 6 0 = c at *
    generalize (decide (e.flags &&& vetoMask ≠ 0)).toNat = b at *
    omega
  refine ⟨by rw [getLsbD_of_bit, oab], by rw [getLsbD_of_bit, oearly], ofl, ?_, ?_, ?_, ?_⟩
  · rw [word]
    exact (BitVec.ofNat_toNat ..).trans (BitVec.setWidth_eq _)
  · rw [lnat]
    omega
  · rw [getLsbD_of_bit, lnat]
    unfold bit
    generalize bits (rootDecision n e early s).w1.toNat 6 0 = c at *
    cases decide (e.flags &&& vetoMask ≠ 0)
    · rw [beq_eq_false_iff_ne, Bool.toNat_false]
      omega
    · rw [beq_iff_eq, Bool.toNat_true]
      omega
  · rw [lnat]
    generalize bits (rootDecision n e early s).w1.toNat 6 0 = c at *
    generalize (decide (e.flags &&& vetoMask ≠ 0)).toNat = b at *
    omega

end Sys2Proof.Machine
end

section
/-! SUPPORT. Votes, timers and decisions at the Arbour's nodes and at the device (R132, R134 to R137), and the transactions'
events together (O47). -/

namespace Sys2Proof.Machine

/-! ### A vote reaches a node (R135) -/

/-- The attempt that a message names. -/
def dtidOf (m : ArbMsg) : Nat := bits m.w0.toNat 31 16

/-- The number of the attempt that a message names. -/
def attOf (m : ArbMsg) : Nat := bits m.w0.toNat 35 32

/-- The entry of a node once it has taken a vote. -/
def NodeSt.counted (m : ArbMsg) (nd : NodeSt) : NodeEntry :=
  let e := (nd.entries.find? (fun e => e.dtid == dtidOf m && e.att == attOf m)).getD
    ⟨dtidOf m, attOf m, m.w2.toNat, 0, 0, 0, 0, false⟩
  { e with flags := e.flags ||| BitVec.ofNat 16 (bits m.w0.toNat 63 48),
           count := e.count + bits m.w1.toNat 6 0, miss := e.miss + bits m.w1.toNat 13 7, n := e.n + 1 }

theorem NodeSt.counted_names (m : ArbMsg) (nd : NodeSt) : (nd.counted m).dtid = dtidOf m ∧ (nd.counted m).att = attOf m := by
  unfold NodeSt.counted
  cases h : nd.entries.find? (fun e => e.dtid == dtidOf m && e.att == attOf m) with
  | none => exact ⟨rfl, rfl⟩
  | some e => simpa using List.find?_some h

/-- A node takes a vote into the entry `e` and its inputs. -/
def NodeSt.take (m : ArbMsg) (e : NodeEntry) (nd : NodeSt) : NodeSt := { nd with
  entries := nd.entries.filter (fun x => !(x.dtid == dtidOf m && x.att == attOf m)) ++ [e],
  inputs := nd.inputs ++ [(dtidOf m, attOf m, bit m.w0.toNat 8, bits m.w0.toNat 7 2, bit m.w0.toNat 9)] }

section
variable {s : State}

theorem arbourVote_stale (h : msgOk s.input.msg 0 = false ∨ (s.node s.input.node).on = false ∨
      (s.node s.input.node).passed.contains (dtidOf s.input.msg, attOf s.input.msg, s.input.msg.w2.toNat) = true ∨
      (s.node s.input.node).passed.contains (dtidOf s.input.msg, attOf s.input.msg, 0) = true) :
    exec .arbourVote s = .next (countStale s) := by
  rw [exec_arbourVote]
  unfold execArbourVote
  refine if_pos ?_
  simp only [Bool.or_eq_true, Bool.not_eq_true']
  rcases h with h | h | h | h
  · exact .inl (.inl (.inl h))
  · exact .inl (.inl (.inr h))
  · exact .inl (.inr h)
  · exact .inr h

/-- The entry of the node that the event names, once it has taken the event's vote. -/
def votedEntry (s : State) : NodeEntry := (s.node s.input.node).counted s.input.msg

/-- The node that the event names has taken the event's vote. -/
def voteTaken (s : State) : State := s.modNode s.input.node (NodeSt.take s.input.msg (votedEntry s))

theorem arbourVote_taken (ok : msgOk s.input.msg 0 = true) (on : (s.node s.input.node).on = true)
    (new : (s.node s.input.node).passed.contains (dtidOf s.input.msg, attOf s.input.msg, s.input.msg.w2.toNat) = false)
    (late : (s.node s.input.node).passed.contains (dtidOf s.input.msg, attOf s.input.msg, 0) = false) :
    exec .arbourVote s =
      if (votedEntry s).sent = true then .next (voteTaken s)
      else if (votedEntry s).flags &&& vetoMask ≠ 0 ∨ (votedEntry s).n = (s.node s.input.node).expect then
        .next (nodeOutput s.input.node (votedEntry s) (decide ((votedEntry s).n < (s.node s.input.node).expect)) (voteTaken s))
      else .next (voteTaken s) := by
  rw [exec_arbourVote]
  unfold execArbourVote
  refine (if_neg ?_).trans rfl
  simp only [Bool.or_eq_true, Bool.not_eq_true', not_or, Bool.not_eq_false, Bool.not_eq_true]
  exact ⟨⟨⟨ok, on⟩, new⟩, late⟩

/-! ### A node's time is up (R135) -/

theorem arbourNodeTimer_none (h : (s.node s.input.node).entries.find?
      (fun e => e.dtid == s.input.dtid && e.att == s.input.att && !e.sent) = none) :
    exec .arbourNodeTimer s = .next s := by
  rw [exec_arbourNodeTimer]
  unfold execArbourNodeTimer
  dsimp only
  rw [h]

/-- An entry whose node waits no longer. -/
def NodeEntry.expired (expect : Nat) (y : NodeEntry) : NodeEntry :=
  { y with flags := y.flags ||| flTIMEOUT, miss := y.miss + (expect - y.n) }

/-- A timeout counted in ARBSTAT. -/
def countTimeout (s : State) : State := { s with arb := { s.arb with timeouts := satInc 65535 s.arb.timeouts } }

theorem arbourNodeTimer_some {y : NodeEntry} (h : (s.node s.input.node).entries.find?
      (fun e => e.dtid == s.input.dtid && e.att == s.input.att && !e.sent) = some y) :
    exec .arbourNodeTimer s = .next (if s.now < y.td + 2000 * (max 1 (s.node s.input.node).height - 1) then s
      else nodeOutput s.input.node (y.expired (s.node s.input.node).expect) false (countTimeout s)) := by
  rw [exec_arbourNodeTimer]
  unfold execArbourNodeTimer
  dsimp only
  rw [h]
  dsimp only
  split_ifs <;> rfl

/-! ### A decision arrives (R132, R136) -/

theorem arbourDecision_malformed (h : msgOk s.input.msg 1 = false) : exec .arbourDecision s = .next (countStale s) := by
  rw [exec_arbourDecision]
  unfold execArbourDecision
  exact if_pos (by simp [h])

section
variable (ok : msgOk s.input.msg 1 = true)
include ok

theorem arbourDecision_node (node : s.input.flag = true) : exec .arbourDecision s =
    if (s.node s.input.node).passed.contains (dtidOf s.input.msg, attOf s.input.msg, 0) = true then .next (countStale s)
    else .next (forwardDecision s.input.node s.input.msg s) := by
  rw [exec_arbourDecision]
  unfold execArbourDecision
  exact (if_neg (by simp [ok])).trans (if_pos node)

theorem arbourDecision_stale (own : s.input.flag = false)
    (h : ∀ a, s.attempt? (dtidOf s.input.msg) = some a → a.att ≠ attOf s.input.msg) :
    exec .arbourDecision s = .next (countStale s) := by
  rw [exec_arbourDecision]
  unfold execArbourDecision
  refine (if_neg (by simp [ok])).trans ((if_neg (by simp [own])).trans ?_)
  cases found : s.attempt? (dtidOf s.input.msg) with
  | none =>
    unfold dtidOf at found
    rw [found]
  | some a =>
    have other := h a found
    unfold dtidOf at found
    rw [found]
    exact if_neg other

/-- The decision that a message carries. -/
def decisionOf (m : ArbMsg) : Decision :=
  ⟨bit m.w0.toNat 36, BitVec.ofNat 16 (bits m.w0.toNat 63 48), m.w2.toNat⟩

theorem arbourDecision_device (own : s.input.flag = false) {a : Attempt}
    (found : s.attempt? (dtidOf s.input.msg) = some a) (same : a.att = attOf s.input.msg) : exec .arbourDecision s = .next
      (decideAttempt (dtidOf s.input.msg) (decisionOf s.input.msg) (countDecision s.input.msg s)) := by
  rw [exec_arbourDecision]
  unfold execArbourDecision
  refine (if_neg (by simp [ok])).trans ((if_neg (by simp [own])).trans ?_)
  unfold dtidOf at found
  rw [found]
  exact if_pos same

end
end

/-! ### The Arbour's clauses -/

theorem bits_6_0 (w : Nat) : bits w 6 0 = w % 2 ^ 7 := congrArg (· % 2 ^ 7) (Nat.div_one w)

/-- The entry with a vote counted, written out in the fields of the message. -/
theorem NodeSt.counted_eq (m : ArbMsg) (nd : NodeSt) (e0 : NodeEntry)
    (found : e0 = (nd.entries.find? (fun e => e.dtid == dtidOf m && e.att == attOf m)).getD
      ⟨dtidOf m, attOf m, m.w2.toNat, 0, 0, 0, 0, false⟩) : nd.counted m =
    { e0 with flags := e0.flags ||| BitVec.ofNat 16 (m.w0.toNat / 2 ^ 48), count := e0.count + m.w1.toNat % 2 ^ 7,
              miss := e0.miss + m.w1.toNat / 2 ^ 7 % 2 ^ 7, n := e0.n + 1 } := by
  unfold NodeSt.counted
  rw [← found, ofNat_bits_63_48, bits_6_0]
  rfl

theorem NodeSt.take_pdev (m : ArbMsg) (e : NodeEntry) (nd : NodeSt) : (nd.take m e).pdev = nd.pdev := rfl

theorem NodeSt.take_pnode (m : ArbMsg) (e : NodeEntry) (nd : NodeSt) : (nd.take m e).pnode = nd.pnode := rfl

theorem self_voteTaken (s : State) : (voteTaken s).self = s.self := by
  have kept (f : NodeSt → NodeSt) : (s.modNode s.input.node f).self = s.self := rfl
  exact kept _

theorem NodeSt.on_iff (nd : NodeSt) : nd.on = true ↔ nd.en = true ∧ 1 ≤ nd.expect ∧ nd.expect ≤ 8 := by
  simp [NodeSt.on]

/-- A vote leaves a state with the fabric and links of `s`, and nothing else changes. -/
theorem post_vote {s t : State} (fab : t.fab = s.fab) (pkg : t.pkg = s.pkg) (id : t.nextId = s.nextId) (dev node : Nat)
    (m : ArbMsg) : Sends s (t.post (.vote dev node m)) (.vote dev node m) ∧ (t.post (.vote dev node m)).mem = t.mem ∧
      (t.post (.vote dev node m)).cores = t.cores ∧ (t.post (.vote dev node m)).sched = t.sched ∧
      (t.post (.vote dev node m)).arb = t.arb := by
  have only := messagesOnly_post t (.vote dev node m)
  obtain ⟨cores, mem, -, sched, -⟩ := only.kept
  exact ⟨sends_post fab (route_vote fab pkg id dev node m), mem, cores, sched, by rw [only.rest]⟩

/-- A node of the tree sends an output upward: the entry stays, sent. -/
theorem nodeOutput_sends {n : Nat} {e : NodeEntry} {early : Bool} {s t : State} (inner : (t.node n).root = false)
    (fab : t.fab = s.fab) (pkg : t.pkg = s.pkg) (id : t.nextId = s.nextId) :
    Sends s (nodeOutput n e early t) (.vote (t.node n).pdev (t.node n).pnode
      (voteMsg t.self 1 n e.dtid e.att early e.flags e.count e.miss e.td)) ∧
    (nodeOutput n e early t).mem = t.mem ∧ (nodeOutput n e early t).cores = t.cores ∧
    (nodeOutput n e early t).sched = t.sched ∧ (nodeOutput n e early t).arb.timeouts = t.arb.timeouts ∧
    ((nodeOutput n e early t).node n).entries =
      (t.node n).entries.map (fun x => if x.dtid = e.dtid ∧ x.att = e.att then { e with sent := true } else x) := by
  rw [nodeOutput_up inner]
  generalize voteMsg t.self 1 n e.dtid e.att early e.flags e.count e.miss e.td = m
  obtain ⟨sends, mem, cores, sched, arb⟩ :=
    post_vote (t := t.modNode n (NodeSt.sentOf e)) fab pkg id (t.node n).pdev (t.node n).pnode m
  have timeouts := congrArg ArbSt.timeouts arb
  have node := congrArg (fun a : ArbSt => sget {} a.nodes n) arb
  exact ⟨sends, mem, cores, sched, timeouts,
    congrArg NodeSt.entries (node.trans (State.node_modNode t n (NodeSt.sentOf e)))⟩

/-- A root decides: the entry has passed, ARBLAST holds the decision, and every input of the node is told it. -/
structure RootTold (n : Nat) (e : NodeEntry) (early : Bool) (s t : State) : Prop where
  mem      : t.mem = s.mem
  cores    : t.cores = s.cores
  sched    : t.sched = s.sched
  timeouts : t.arb.timeouts = s.arb.timeouts
  gone     : (t.node n).entries.any (fun y => y.dtid == e.dtid && y.att == e.att) = false
  passed   : (e.dtid, e.att, e.td) ∈ (t.node n).passed
  dtid     : t.arb.last.toNat % 2 ^ 16 = e.dtid
  abort    : t.arb.last.getLsbD 20 = decide (e.flags &&& vetoMask ≠ 0)
  flags    : t.arb.last.toNat / 2 ^ 32 = e.flags.toNat
  tells    : ∃ out : ArbMsg, (∀ i ∈ nodeInputs s n e.dtid e.att, Posted t (toInput out i)) ∧
    out.w0.getLsbD 36 = decide (e.flags &&& vetoMask ≠ 0) ∧ out.w0.getLsbD 37 = early ∧
    out.w0.toNat / 2 ^ 48 = e.flags.toNat ∧ out.w2 = BitVec.ofNat 64 s.now

theorem nodeOutput_tells {n : Nat} {e : NodeEntry} (early : Bool) {s : State} (root : (s.node n).root = true)
    (held : ∃ y ∈ (s.node n).entries, y.dtid = e.dtid ∧ y.att = e.att) (hself : s.self < 64) (hn : n < 2)
    (hd : e.dtid < 2 ^ 16) (hatt : e.att < 16) : RootTold n e early s (nodeOutput n e early s) := by
  obtain ⟨mem, cores, sched, timeouts, gone, passed, kept, tells⟩ :=
    nodeOutput_decides (early := early) root held hself hn hd hatt
  obtain ⟨oab, oearly, ofl, otime, ld, lab, lfl⟩ := rootDecision_tells (e := e) early hself hn hd hatt
  rw [← kept] at ld lab lfl
  exact ⟨mem, cores, sched, timeouts, gone, passed, ld, lab, lfl, _, tells, oab, oearly, ofl, otime⟩

/-- Counting a decision touches ARBSTAT, ARBLAST and the capture units alone (R141, R152). -/
theorem countDecision_counts (m : ArbMsg) (s : State) : (countDecision m s).mem = s.mem ∧
    (countDecision m s).cores = s.cores ∧ (∀ d, (countDecision m s).attempt? d = s.attempt? d) ∧
    (countDecision m s).arb.aborts = (if bit m.w0.toNat 36 then satInc 65535 s.arb.aborts else s.arb.aborts) ∧
    (countDecision m s).arb.commits = (if bit m.w0.toNat 36 then s.arb.commits else satInc 65535 s.arb.commits) := by
  obtain ⟨pkg, last, counted⟩ := countDecision_eq m s
  rw [counted]
  exact ⟨rfl, rfl, fun _ => rfl, rfl, rfl⟩

/-- A tag's second settlement is counted on every die, and changes nothing else (R84). -/
theorem countBad_counts (s : State) : (countBad s).cores = s.cores ∧ (countBad s).mem.master = s.mem.master ∧
    (countBad s).mem.writes = s.mem.writes ∧ ∀ i, i < 8 → (sget {} (countBad s).mem.bdies i).txbad =
      satInc 65535 (sget {} s.mem.bdies i).txbad := by
  have dies (n : Nat) : (upTo n (fun i m => m.modStack i (fun x => { x with txbad := satInc 65535 x.txbad })) s.mem).bdies =
      upTo n (fun i b => smod {} b i (fun x => { x with txbad := satInc 65535 x.txbad })) s.mem.bdies := by
    induction n with
    | zero => rfl
    | succ n ih =>
      rw [upTo_succ, upTo_succ, ← ih]
      rfl
  obtain ⟨b, h⟩ := upTo_txbad 8 s.mem
  have counted : countBad s = s.withMem { s.mem with bdies := b } := congrArg s.withMem h
  have bdies := (congrArg MemSt.bdies h).symm
  rw [counted]
  refine ⟨rfl, rfl, rfl, fun i hi => ?_⟩
  change (sget {} b i).txbad = _
  rw [show b = _ from bdies, dies, sget_upTo_smod, if_pos hi]

/-- A time that is up is a veto (R135). -/
theorem timeout_vetoes (f : BitVec 16) : decide ((f ||| flTIMEOUT) &&& vetoMask ≠ 0) = true := by
  refine decide_eq_true fun h => ?_
  have bit := congrArg (fun x : BitVec 16 => x.getLsbD 11) h
  simp [flTIMEOUT, vetoMask] at bit

theorem arbourEvents : Claim.ArbourEvents := by
  unfold Claim.ArbourEvents
  intro s x m w d att n nd ok up stale mine e0 e veto src same on tells early
  have okIff (type : Nat) : ok type ↔ msgOk m type = true := (msgOk_iff m type).symm
  have onIff : on ↔ nd.on = true := (NodeSt.on_iff nd).symm
  have hd : d < 2 ^ 16 := Nat.mod_lt _ (by decide)
  have hatt : att < 16 := Nat.mod_lt _ (by decide)
  have contains (k : Nat) : nd.passed.contains (d, att, k) = true ↔ (d, att, k) ∈ nd.passed := List.contains_iff_mem
  have entry : votedEntry s = e := NodeSt.counted_eq m nd e0 rfl
  have named : e.dtid = d ∧ e.att = att := by rw [← entry]; exact NodeSt.counted_names m nd
  have taken : (voteTaken s).node n = nd.take m e := by
    rw [← entry]
    exact State.node_modNode s n (NodeSt.take m (votedEntry s))
  refine ⟨fun h => ?_, fun hok hon new late => ?_, fun y found => ?_, fun none => ?_, fun bad => ?_, fun hok node h => ?_,
    fun hok node h => ?_, fun hok own h => ?_, fun a hok own found same settling tagged => ?_,
    fun a hok own found same voted tagged active => ?_⟩
  · refine arbourVote_stale ?_
    rcases h with h | h | h | h
    · exact .inl (by simpa using mt (okIff 0).mpr h)
    · exact .inr (.inl (by simpa using mt onIff.mpr h))
    · exact .inr (.inr (.inl ((contains _).mpr h)))
    · exact .inr (.inr (.inr ((contains _).mpr h)))
  · have step := arbourVote_taken ((okIff 0).mp hok) (onIff.mp hon) 
      (Bool.eq_false_iff.mpr (mt (contains _).mp new)) (Bool.eq_false_iff.mpr (mt (contains _).mp late))
    rw [entry] at step
    have input : (d, att, bit w 8, src, bit w 9) ∈ ((voteTaken s).node n).inputs := by
      rw [taken]
      exact List.mem_append_right _ (List.mem_singleton_self _)
    have held : ∃ y ∈ ((voteTaken s).node n).entries, y.dtid = e.dtid ∧ y.att = e.att := by
      rw [taken]
      exact ⟨e, List.mem_append_right _ (List.mem_singleton_self _), rfl, rfl⟩
    refine ⟨fun h => ⟨voteTaken s, ?_, ⟨rfl, rfl, rfl⟩, rfl, ?_, ?_⟩, fun unsent out root hself hn => ?_,
      fun unsent out inner => ?_⟩
    · rw [step]
      rcases h with h | ⟨calm, few⟩
      · exact if_pos h
      · split
        · rfl
        · exact if_neg fun k => k.elim calm few
    · rw [taken]
      rfl
    · rw [taken, ← bit_eq_testBit, ← bit_eq_testBit]
      rfl
    · have step := step.trans ((if_neg (by simp [unsent])).trans (if_pos out))
      obtain ⟨mem, cores, sched, -, gone, passed, ld, lab, lfl, out, told, oab, oearly, ofl, otime⟩ :=
        nodeOutput_tells (e := e) (decide (e.n < nd.expect)) (s := voteTaken s) (by rw [taken]; exact root) held hself hn
          (named.1 ▸ hd) (named.2 ▸ hatt)
      rw [named.1, named.2] at gone passed told
      rw [named.1] at ld
      refine ⟨_, step, ⟨mem, cores, sched⟩, gone, passed, ld, lab, lfl, out, ?_, fun i hi => ?_, oab, oearly, ofl, otime⟩
      · have own := told _ (mem_nodeInputs_seen input rfl rfl)
        rw [bit_eq_testBit, bit_eq_testBit] at own
        exact own
      · refine told i (mem_nodeInputs_aimed ?_)
        rw [taken]
        exact hi
    · have step := step.trans ((if_neg (by simp [unsent])).trans (if_pos out))
      obtain ⟨sends, mem, cores, sched, -, entries⟩ := nodeOutput_sends (n := n) (e := e)
        (early := decide (e.n < nd.expect)) (s := s) (t := voteTaken s) (by rw [taken]; exact inner) rfl rfl rfl
      have before : decide (e.n < nd.expect) = decide (veto ∧ e.n < nd.expect) :=
        decide_eq_decide.mpr ⟨fun lt => ⟨out.resolve_right (Nat.ne_of_lt lt), lt⟩, And.right⟩
      refine ⟨_, step, ⟨mem, cores, sched⟩, ?_, { e with sent := true }, ?_, ?_, rfl, rfl⟩
      · rw [taken, self_voteTaken, named.1, named.2] at sends
        rw [NodeSt.take_pdev, NodeSt.take_pnode] at sends
        rw [← before]
        exact sends
      · rw [entries, taken]
        exact List.mem_map.mpr ⟨e, List.mem_append_right _ (List.mem_singleton_self _), if_pos ⟨rfl, rfl⟩⟩
      · simp [mine, named]
  · have step := arbourNodeTimer_some found
    have match' := List.find?_some found
    simp only [Bool.and_eq_true, beq_iff_eq] at match'
    obtain ⟨⟨hyd, hyatt⟩, -⟩ := match'
    refine ⟨fun soon => step.trans (congrArg Host.Outcome.next (if_pos soon)), fun due inner => ?_,
      fun due root hself hn hxd hxatt => ?_⟩
    · rw [if_neg (Nat.not_lt.mpr due)] at step
      obtain ⟨sends, mem, cores, sched, timeouts, -⟩ := nodeOutput_sends (n := n) (e := y.expired nd.expect)
        (early := false) (s := s) (t := countTimeout s) inner rfl rfl rfl
      refine ⟨_, step, ⟨mem, cores, sched⟩, timeouts, ?_⟩
      rw [show (y.expired nd.expect).dtid = x.dtid from hyd, show (y.expired nd.expect).att = x.att from hyatt] at sends
      exact sends
    · rw [if_neg (Nat.not_lt.mpr due)] at step
      have told := nodeOutput_tells (n := n) (e := y.expired nd.expect) false (s := countTimeout s) root
        ⟨y, List.mem_of_find?_eq_some found, rfl, rfl⟩ hself hn (lt_of_eq_of_lt hyd hxd) (lt_of_eq_of_lt hyatt hxatt)
      obtain ⟨mem, cores, sched, timeouts, -, passed, -, -, -, out, told, oab, oearly, ofl, otime⟩ := told
      rw [show (y.expired nd.expect).dtid = x.dtid from hyd, show (y.expired nd.expect).att = x.att from hyatt] at passed told
      exact ⟨_, step, ⟨mem, cores, sched⟩, timeouts, passed, out, fun i hi => told i (mem_nodeInputs_aimed hi),
        oab.trans (timeout_vetoes y.flags), oearly, ofl, otime⟩
  · exact arbourNodeTimer_none none
  · exact arbourDecision_malformed (by simpa using mt (okIff 1).mpr bad)
  · exact (arbourDecision_node ((okIff 1).mp hok) node).trans (if_pos ((contains 0).mpr h))
  · have step := (arbourDecision_node ((okIff 1).mp hok) node).trans (if_neg (mt (contains 0).mp h))
    obtain ⟨mem, cores, sched, -, entries, known, unknown, told⟩ := forwardDecision_passes n m s
    have word : passedDown s.self n m = decisionMsg s.self n d att (w.testBit 36) (w.testBit 37)
        (BitVec.ofNat 16 (w / 2 ^ 48)) (m.w1.toNat % 2 ^ 7) (m.w1.toNat / 2 ^ 7 % 2 ^ 7) m.w2.toNat := by
      unfold passedDown
      rw [bit_eq_testBit, bit_eq_testBit, ofNat_bits_63_48, bits_6_0]
      rfl
    rw [word] at told
    refine ⟨_, step, ⟨mem, cores, sched⟩, ?_, known, unknown, fun i hi named numbered => ?_, fun i hi => ?_⟩
    · rw [entries, List.any_eq_false]
      intro y hy
      have apart := (List.mem_filter.mp hy).2
      rw [Bool.not_eq_true'] at apart
      exact Bool.eq_false_iff.mp apart
    · exact told _ (mem_nodeInputs_seen hi named numbered)
    · exact told _ (mem_nodeInputs_aimed hi)
  · exact arbourDecision_stale ((okIff 1).mp hok) own h
  · obtain ⟨mem, cores, known, -, -⟩ := countDecision_counts m s
    have step := arbourDecision_device ((okIff 1).mp hok) own found same
    have bad := decideAttempt_settling (decisionOf m) ((known d).trans found) settling tagged
    obtain ⟨cores', master, writes, dies⟩ := countBad_counts (countDecision m s)
    rw [mem] at master writes dies
    rw [← bad] at cores' master writes dies
    exact ⟨_, step, cores'.trans cores, master, writes, dies⟩
  · obtain ⟨mem, cores, known, aborts, commits⟩ := countDecision_counts m s
    have step := arbourDecision_device ((okIff 1).mp hok) own found same
    have after := decideAttempt_voted (decisionOf m) ((known d).trans found) voted tagged (by rw [mem]; exact active)
    have abort : (decisionOf m).abort = w.testBit 36 := bit_eq_testBit w 36
    refine ⟨_, step, after.cores.trans cores, ?_, after.aborts.trans ?_, after.commits.trans ?_, _, after.attempt, rfl, ?_⟩
    · refine (congrArg (fun x => sget .free x a.tag) after.master).trans ((sget_sput_self ..).trans ?_)
      rw [abort]
      cases w.testBit 36 <;> rfl
    · rw [aborts, bit_eq_testBit]
      rfl
    · rw [commits, bit_eq_testBit]
      rfl
    · change some (decisionOf m) = _
      rw [← bit_eq_testBit, ← ofNat_bits_63_48]
      rfl

/-- Settles O47: the status table, the attempts and the Arbour's nodes, each by the equations of its events. -/
theorem transactionEventResults : Obligations.TransactionEventResults := ⟨statusWrites, attemptEvents, arbourEvents⟩

end Sys2Proof.Machine
end

section
/-! SUPPORT. The pseudo-channels (R73 to R78): which request is picked, what a request performed leaves, and refreshes. -/

namespace Sys2Proof.Machine

/-! ### The entry of least weight -/

theorem leastBy_eq_none {α : Type} {w : α → Nat} {l : List α} : leastBy w l = none ↔ l = [] := by
  cases l with
  | nil => simp [leastBy]
  | cons a l =>
    simp only [leastBy]
    cases leastBy w l with
    | none => simp
    | some b =>
      dsimp only
      split <;> simp

theorem leastBy_some {α : Type} {w : α → Nat} {l : List α} {a : α} (h : leastBy w l = some a) :
    a ∈ l ∧ ∀ b ∈ l, w a ≤ w b := by
  induction l generalizing a with
  | nil => cases h
  | cons x l ih =>
    simp only [leastBy] at h
    cases least : leastBy w l with
    | none =>
      rw [least] at h
      cases h
      rw [leastBy_eq_none.mp least]
      simp
    | some b =>
      obtain ⟨hb, min⟩ := ih least
      rw [least] at h
      dsimp only at h
      split at h
      · rename_i le
        cases h
        exact ⟨List.mem_cons_self, by simpa using fun c hc => le.trans (min c hc)⟩
      · rename_i lt
        cases h
        exact ⟨List.mem_cons_of_mem _ hb, by simpa using ⟨(Nat.le_of_not_le lt), min⟩⟩

/-! ### The request that is picked (R76) -/

/-- Whether a request may be served next and its time has come. -/
def PcWaiting.late (m : MemSt) (l : List PcWaiting) (bound : Nat) (v : PcWaiting) : Prop :=
  v.first m l = true ∧ ∃ t, v.td = some t ∧ t ≤ bound

section
variable {m : MemSt} {now slack : Nat} {hit : Nat → Bool} {low : Bool} {l : List PcWaiting} {w : PcWaiting}

theorem mem_late {v : PcWaiting} : v ∈ (l.filter (PcWaiting.first m l)).filter (fun w => match w.td with
      | some t => decide (t ≤ now + slack) | none => false) ↔ v ∈ l ∧ v.late m l (now + slack) := by
  rw [List.mem_filter, List.mem_filter]
  unfold PcWaiting.late
  cases v.td with
  | none => simp
  | some t => simp [and_assoc]

/-- The pick is one of those that have no earlier request to their block, by the order of R76: one whose time has come,
else a sweep that is short of its share or alone, else the earliest that hits an open row, else the earliest. -/
theorem pickRequest_cases (picked : pickRequest m now slack hit low l = some w) :
    w ∈ l ∧ w.first m l = true ∧ (w.late m l (now + slack) ∨ (∀ v ∈ l, ¬ v.late m l (now + slack)) ∧
      ((low = true ∨ l.all PcWaiting.isSweep = true) ∨ w.isSweep = false ∧ (hit w.req.id = false →
        ∀ v ∈ l, v.first m l = true → v.isSweep = false → hit v.req.id = false ∧ w.arr ≤ v.arr))) := by
  unfold pickRequest at picked
  extract_lets c late plain sweeps at picked
  split at picked
  · rename_i v least
    cases picked
    obtain ⟨here, time⟩ := mem_late.mp (leastBy_some least).1
    exact ⟨here, time.1, .inl time⟩
  · rename_i none
    have early : ∀ v ∈ l, ¬ v.late m l (now + slack) := fun v hv time => by
      have there : v ∈ late := mem_late.mpr ⟨hv, time⟩
      rw [leastBy_eq_none.mp none] at there
      cases there
    have inC {v : PcWaiting} (h : v ∈ c) : v ∈ l ∧ v.first m l = true := List.mem_filter.mp h
    split at picked
    · rename_i v least
      cases picked
      split at least
      · rename_i short
        obtain ⟨here, first⟩ := inC (List.mem_filter.mp (leastBy_some least).1).1
        exact ⟨here, first, .inr ⟨early, .inl short⟩⟩
      · cases least
    · split at picked
      · rename_i v least
        cases picked
        obtain ⟨inPlain, hits⟩ := List.mem_filter.mp (leastBy_some least).1
        obtain ⟨inList, own⟩ := List.mem_filter.mp inPlain
        obtain ⟨here, first⟩ := inC inList
        refine ⟨here, first, .inr ⟨early, .inr ⟨by simpa using own, fun miss => ?_⟩⟩⟩
        rw [hits] at miss
        cases miss
      · rename_i noHit
        obtain ⟨inPlain, min⟩ := leastBy_some picked
        obtain ⟨inList, own⟩ := List.mem_filter.mp inPlain
        obtain ⟨here, first⟩ := inC inList
        refine ⟨here, first, .inr ⟨early, .inr ⟨by simpa using own, fun _ v hv fv sv => ?_⟩⟩⟩
        have there : v ∈ plain := List.mem_filter.mpr ⟨List.mem_filter.mpr ⟨hv, fv⟩, by simp [sv]⟩
        refine ⟨?_, min v there⟩
        by_contra hits
        have hv' : v ∈ plain.filter (fun w => hit w.req.id) := List.mem_filter.mpr ⟨there, by simpa using hits⟩
        rw [leastBy_eq_none.mp noHit] at hv'
        cases hv'

theorem PcWaiting.first_least {v : PcWaiting} (first : w.first m l = true) (here : v ∈ l)
    (block : pcBlock m v.req = pcBlock m w.req) : w.arr ≤ v.arr := by
  have h := (List.all_eq_true.mp first) v here
  simpa [block] using h

end

/-! ### Cells read and written by their place alone -/

/-- The stacks `n` hold the cells of `m`, poison and places of addresses included. -/
structure MemSt.SameCells (m n : MemSt) : Prop where
  hbm     : n.hbm = m.hbm
  poison  : n.poison = m.poison
  irtCode : n.irtCode = m.irtCode
  irtPs7  : n.irtPs7 = m.irtPs7

namespace MemSt.SameCells

variable {m n : MemSt} (h : MemSt.SameCells m n)
include h

theorem cell (a : Nat) : n.cell a = m.cell a := by
  unfold MemSt.cell
  rw [h.irtCode, h.irtPs7]

theorem bytes (a k : Nat) : n.bytes a k = m.bytes a k := by
  unfold MemSt.bytes MemSt.byte
  simp only [h.cell, h.hbm]

theorem poisoned (a k : Nat) : n.poisoned a k = m.poisoned a k := by
  unfold MemSt.poisoned
  simp only [h.cell, h.poison]

theorem setPoison (a : Nat) (b : Bool) : MemSt.SameCells (m.setPoison a b) (n.setPoison a b) := by
  refine ⟨h.hbm, ?_, h.irtCode, h.irtPs7⟩
  unfold MemSt.setPoison
  rw [h.cell, h.poison]

theorem putBytes (a : Nat) (bs : List Byte) : MemSt.SameCells (m.putBytes a bs) (n.putBytes a bs) := by
  induction bs generalizing m n a with
  | nil => exact h
  | cons b bs ih =>
    refine ih (m := m.setByte a b) (n := n.setByte a b) ⟨?_, h.poison, h.irtCode, h.irtPs7⟩ (a + 1)
    unfold MemSt.setByte
    rw [h.cell, h.hbm]

theorem write (a : Nat) (bs : List Byte) : MemSt.SameCells (m.write a bs) (n.write a bs) := by
  unfold MemSt.write
  extract_lets m' lo hi n'
  have clear (l : List Nat) : MemSt.SameCells (l.foldl (fun m i => m.setPoison ((lo + i) * 32) false) m')
      (l.foldl (fun m i => m.setPoison ((lo + i) * 32) false) n') := by
    have base : MemSt.SameCells m' n' := h.putBytes a bs
    generalize m' = p, n' = q at base
    induction l generalizing p q with
    | nil => exact base
    | cons i l ih => exact ih _ _ (base.setPoison _ _)
  exact clear _

end MemSt.SameCells

/-- `n` is `m` but for cells and poison. -/
def MemSt.CellsOnly (m n : MemSt) : Prop := n = { m with hbm := n.hbm, poison := n.poison }

theorem MemSt.cellsOnly_putBytes (m : MemSt) (a : Nat) (bs : List Byte) : MemSt.CellsOnly m (m.putBytes a bs) := by
  induction bs generalizing m a with
  | nil => rfl
  | cons b bs ih => exact ih (m.setByte a b) (a + 1)

theorem MemSt.cellsOnly_write (m : MemSt) (a : Nat) (bs : List Byte) : MemSt.CellsOnly m (m.write a bs) :=
  List.foldlRecOn (motive := fun n => MemSt.CellsOnly m n) _ _ (m.cellsOnly_putBytes a bs) fun n h i _ => by
    unfold MemSt.CellsOnly at h ⊢
    rw [h]
    rfl

/-! ### Requests arrive (R73, R78) -/

theorem pcSt_modPc (s : State) (pc : Nat) (f : PcSt → PcSt) : (s.modPc pc f).pcSt pc = f (s.pcSt pc) := sget_smod_self ..

theorem pcSt_modPc_ne (s : State) {pc k : Nat} (f : PcSt → PcSt) (h : k ≠ pc) : (s.modPc pc f).pcSt k = s.pcSt k :=
  sget_smod_ne _ _ _ h

/-- `t` is `s` but for what waits at one pseudo-channel. -/
def ChannelOnly (pc : Nat) (s t : State) : Prop :=
  (∃ pcs, t = s.withPcs pcs) ∧ ∀ k, k ≠ pc → t.pcSt k = s.pcSt k

theorem ChannelOnly.refl (pc : Nat) (s : State) : ChannelOnly pc s s := ⟨⟨s.mem.pcs, rfl⟩, fun _ _ => rfl⟩

theorem ChannelOnly.modPc {pc : Nat} {s t : State} (h : ChannelOnly pc s t) (f : PcSt → PcSt) :
    ChannelOnly pc s (t.modPc pc f) := by
  obtain ⟨⟨pcs, rfl⟩, others⟩ := h
  exact ⟨⟨_, rfl⟩, fun k ne => (pcSt_modPc_ne _ f ne).trans (others k ne)⟩

theorem arrivePc_arrives (pc : Nat) (l : List PcReq) (s : State) : ChannelOnly pc s (arrivePc pc l s) ∧
    ((arrivePc pc l s).pcSt pc).queue.map PcWaiting.req = (s.pcSt pc).queue.map PcWaiting.req ++
      l.filter (fun q => (s.mem.cell q.off).1 * 64 + (s.mem.cell q.off).2.1 == pc) := by
  unfold arrivePc
  generalize l.filter (fun q => (s.mem.cell q.off).1 * 64 + (s.mem.cell q.off).2.1 == pc) = here
  have going (here : List PcReq) (t : State) (h : ChannelOnly pc s t) :
      ChannelOnly pc s (here.foldl (fun s q => s.modPc pc (fun p => p.arrive s.now q)) t) ∧
      ((here.foldl (fun s q => s.modPc pc (fun p => p.arrive s.now q)) t).pcSt pc).queue.map PcWaiting.req =
        (t.pcSt pc).queue.map PcWaiting.req ++ here := by
    induction here generalizing t with
    | nil => exact ⟨h, (List.append_nil _).symm⟩
    | cons q here ih =>
      obtain ⟨only, queue⟩ := ih (t.modPc pc (fun p => p.arrive t.now q)) (h.modPc _)
      refine ⟨only, queue.trans ?_⟩
      rw [pcSt_modPc]
      simp [PcSt.arrive]
  exact going here s (.refl pc s)

/-! ### A request performed (R74, R76) -/

/-- A queue that a request has left. -/
def PcSt.left (now arr : Nat) (p : PcSt) : PcSt :=
  { p with queue := p.queue.filter (fun v => v.arr != arr), idleFrom := now }

/-- The count of requests served late, once one of class `c` is served at `now`. -/
def lateCount (now n : Nat) : PcClass → Nat
  | .deadline d => if d < now ∧ n < 2 ^ 24 - 1 then n + 1 else n
  | _ => n

/-- A waiting request leaves its queue, and is counted where it is late. -/
theorem takePc_taken (pc : Nat) (w : PcWaiting) (s : State) : ∃ pcs bdies,
    takePc pc w s = s.withMem { s.mem with pcs := pcs, bdies := bdies } ∧
    sget {} pcs pc = (s.pcSt pc).left s.now w.arr ∧
    (sget {} bdies (pc / 64)).dlmiss = lateCount s.now (sget {} s.mem.bdies (pc / 64)).dlmiss (pcClass w.req.src) := by
  have queue : sget {} (smod {} s.mem.pcs pc (PcSt.left s.now w.arr)) pc = (s.pcSt pc).left s.now w.arr :=
    sget_smod_self ..
  have onTime (h : (match w.td with | some t => decide (t < s.now) | none => false) = false) :
      takePc pc w s = s.modPc pc (PcSt.left s.now w.arr) := by
    unfold takePc
    exact if_neg (Bool.eq_false_iff.mp h)
  have late (h : (match w.td with | some t => decide (t < s.now) | none => false) = true) :
      takePc pc w s = (s.modPc pc (PcSt.left s.now w.arr)).withMem ((s.modPc pc (PcSt.left s.now w.arr)).mem.modStack
        (pc / 64) (fun x => { x with dlmiss := satInc (2 ^ 24 - 1) x.dlmiss })) := by
    unfold takePc
    exact if_pos h
  unfold PcWaiting.td at onTime late
  cases c : pcClass w.req.src with
  | normal => exact ⟨_, s.mem.bdies, onTime (by rw [c]), queue, rfl⟩
  | sweep => exact ⟨_, s.mem.bdies, onTime (by rw [c]), queue, rfl⟩
  | deadline d =>
    by_cases h : d < s.now
    · refine ⟨_, _, late (by rw [c]; exact decide_eq_true h), queue, ?_⟩
      rw [sget_smod_self]
      simp only [lateCount, satInc, h, true_and]
      rfl
    · exact ⟨_, s.mem.bdies, onTime (by rw [c]; exact decide_eq_false h), queue, by simp [lateCount, h]⟩

/-- A request of unversioned memory that passes no number leaves its result, and the cells `m`. -/
structure Served (pc : Nat) (w : PcWaiting) (m : MemSt) (r : PcResult) (s t : State) : Prop where
  hbm     : t.mem.hbm = m.hbm
  poison  : t.mem.poison = m.poison
  cores   : t.cores = s.cores
  host    : t.host = s.host
  fab     : t.fab = s.fab
  sched   : t.sched = s.sched
  channel : t.pcSt pc = { (s.pcSt pc).left s.now w.arr with results := (s.pcSt pc).results ++ [(w.req.id, r)] }
  dlmiss  : (sget {} t.mem.bdies (pc / 64)).dlmiss =
    lateCount s.now (sget {} s.mem.bdies (pc / 64)).dlmiss (pcClass w.req.src)

/-- What a request of unversioned memory returns, and the cells it leaves (R74). -/
inductive Performs (s : State) (q : PcReq) : MemSt → PcResult → Prop
  | read {n : Nat} (h : q.act = .read n) (clean : s.mem.poisoned q.off n = false) :
      Performs s q s.mem (.data (s.mem.bytes q.off n))
  | poison {n : Nat} (h : q.act = .read n) (bad : s.mem.poisoned q.off n = true) : Performs s q s.mem .poison
  | write {bs : List Byte} (h : q.act = .write bs) : Performs s q (s.mem.write q.off bs) .done
  | atomic {op : AmoOp} {v u : Word} (h : q.act = .atomic op v u) (clean : s.mem.poisoned q.off (amoSize op) = false) :
      Performs s q (s.mem.write q.off (toBytes (amoSize op)
          (amoNew op (fromBytes (s.mem.bytes q.off (amoSize op))) v.toNat u.toNat)))
        (.data (toBytes (amoSize op) (fromBytes (s.mem.bytes q.off (amoSize op)))))
  | arrive (h : q.act = .arrive) (clean : s.mem.poisoned q.off 12 = false) :
      Performs s q (s.mem.write q.off (toBytes 12 (arriveWord (fromBytes (s.mem.bytes q.off 12)))))
        (.data (toBytes 4 (fromBytes (s.mem.bytes q.off 12) / 2 ^ 64 % 2 ^ 32)))

theorem performPc_performs {s : State} {q : PcReq} {m : MemSt} {r : PcResult} (plain : q.ver = none)
    (h : Performs s q m r) : performPc q s = (s.withMem m, r) := by
  cases h with
  | read act clean => simp [performPc, act, plain, cellLoad, clean, pcResult, State.withMem]
  | poison act bad => simp [performPc, act, plain, cellLoad, bad, pcResult, State.withMem]
  | write act => simp [performPc, act, plain, cellStore, pcResult]
  | atomic act clean => simp [performPc, act, plain, cellModify, clean, pcResult]
  | arrive act clean =>
    simp only [performPc, act, plain, cellModify, clean, pcResult]
    rfl

theorem Performs.cellsOnly {s : State} {q : PcReq} {m : MemSt} {r : PcResult} (h : Performs s q m r) :
    MemSt.CellsOnly s.mem m := by
  cases h with
  | read | poison => rfl
  | write | atomic | arrive => exact MemSt.cellsOnly_write ..

/-- What a request does depends on the cells alone. -/
theorem Performs.sameCells {s t : State} {q : PcReq} {m : MemSt} {r : PcResult} (h : Performs s q m r)
    (same : MemSt.SameCells s.mem t.mem) : ∃ n, Performs t q n r ∧ n.hbm = m.hbm ∧ n.poison = m.poison := by
  cases h with
  | read act clean =>
    refine ⟨t.mem, ?_, same.hbm, same.poison⟩
    rw [← same.bytes]
    exact .read act (by rw [same.poisoned, clean])
  | poison act bad => exact ⟨t.mem, .poison act (by rw [same.poisoned, bad]), same.hbm, same.poison⟩
  | write act => exact ⟨_, .write act, (same.write ..).hbm, (same.write ..).poison⟩
  | atomic act clean =>
    have after := same.write q.off
    rw [← same.bytes]
    exact ⟨_, .atomic act (by rw [same.poisoned, clean]), (after _).hbm, (after _).poison⟩
  | arrive act clean =>
    have after := same.write q.off
    rw [← same.bytes]
    exact ⟨_, .arrive act (by rw [same.poisoned, clean]), (after _).hbm, (after _).poison⟩

theorem passRequest_none {q : PcReq} (h : q.num = 0 ∨ 512 ≤ q.core) (err : Option MemErr) (s : State) :
    passRequest q err s = s := by
  unfold passRequest
  exact if_pos (h.elim .inl fun k => .inr (.inl k))

theorem serve_idle {pc : Nat} {hit : Nat → Bool} {low : Bool} {s : State}
    (h : pickRequest s.mem s.now (sget {} s.mem.bdies (pc / 64)).slack hit low ((s.pcSt pc).queue.filter (reaches s pc)) =
      none) : serve pc hit low s = s := by
  unfold serve
  dsimp only
  rw [h]

/-- The pick is performed, and its result kept for its source. -/
theorem serve_serves {pc : Nat} {hit : Nat → Bool} {low : Bool} {s : State} {w : PcWaiting} {m : MemSt} {r : PcResult}
    (picked : pickRequest s.mem s.now (sget {} s.mem.bdies (pc / 64)).slack hit low
      ((s.pcSt pc).queue.filter (reaches s pc)) = some w)
    (plain : w.req.ver = none) (num : w.req.num = 0 ∨ 512 ≤ w.req.core) (performs : Performs s w.req m r) :
    Served pc w m r s (serve pc hit low s) := by
  obtain ⟨pcs, bdies, taken, channel, dlmiss⟩ := takePc_taken pc w s
  have same : MemSt.SameCells s.mem (takePc pc w s).mem := by
    rw [taken]
    exact ⟨rfl, rfl, rfl, rfl⟩
  obtain ⟨n, there, hbm, poison⟩ := performs.sameCells same
  have only := there.cellsOnly
  have step : serve pc hit low s = keepResult pc w r ((takePc pc w s).withMem n) := by
    unfold serve finishPc
    dsimp only
    rw [picked]
    dsimp only
    rw [performPc_performs plain there]
    exact congrArg (keepResult pc w r) (passRequest_none num _ _)
  rw [step]
  rw [taken] at only ⊢
  have pcs' : n.pcs = pcs := congrArg MemSt.pcs only
  have bdies' : n.bdies = bdies := congrArg MemSt.bdies only
  refine ⟨hbm, poison, rfl, rfl, rfl, rfl, ?_, ?_⟩
  · refine (pcSt_modPc _ _ _).trans ?_
    have books : ((s.withMem { s.mem with pcs := pcs, bdies := bdies }).withMem n).pcSt pc = (s.pcSt pc).left s.now w.arr := by
      change sget ({} : PcSt) n.pcs pc = _
      rw [pcs', channel]
    rw [books]
    rfl
  · change (sget {} n.bdies (pc / 64)).dlmiss = _
    rw [bdies', dlmiss]

/-! ### The events of a pseudo-channel (R76 to R78) -/

/-- The state once the event's requests have arrived at its pseudo-channel. -/
def arrivedPc (s : State) : State := arrivePc s.input.pc s.input.arr s

theorem arrivedPc_frame (s : State) : ∃ pcs, arrivedPc s = s.withPcs pcs := (arrivePc_arrives s.input.pc s.input.arr s).1.1

theorem arrivedPc_ne (s : State) {k : Nat} (h : k ≠ s.input.pc) : (arrivedPc s).pcSt k = s.pcSt k :=
  (arrivePc_arrives s.input.pc s.input.arr s).1.2 k h

/-- The event's pseudo-channel picks and performs a request. -/
def servedPc (s b : State) : State := serve s.input.pc (fun i => s.input.nats.contains i) s.input.flag b

theorem exec_pcSelect_eq (s : State) : exec .pcSelect s =
    .next (if ((arrivedPc s).pcSt s.input.pc).selfRef then arrivedPc s else servedPc s (arrivedPc s)) := exec_pcSelect s

theorem exec_selfRefreshEntry_eq (s : State) : exec .selfRefreshEntry s =
    if ((arrivedPc s).pcSt s.input.pc).queue.isEmpty then
      when ((sget {} (arrivedPc s).mem.bdies (s.input.pc / 64)).srcEn &&
          decide (((arrivedPc s).pcSt s.input.pc).idleFrom +
            1000 * max 1 (sget {} (arrivedPc s).mem.bdies (s.input.pc / 64)).srcIdle ≤ (arrivedPc s).now))
        (fun s' => s'.modPc s.input.pc (fun p => { p with selfRef := true })) (arrivedPc s)
    else .next (servedPc s (arrivedPc s)) := exec_selfRefreshEntry s

theorem exec_selfRefreshExit_eq (s : State) : exec .selfRefreshExit s =
    when (((arrivedPc s).pcSt s.input.pc).selfRef && !((arrivedPc s).pcSt s.input.pc).queue.isEmpty)
      (fun s' => servedPc s (s'.modPc s.input.pc (fun p => { p with selfRef := false }))) (arrivedPc s) :=
  exec_selfRefreshExit s

end Sys2Proof.Machine
end

section
/-! SUPPORT. The events of pseudo-channels as SPEC's rules state them (R73 to R78): what is served, self-refresh, refreshes. -/

namespace Sys2Proof.Machine

/-! ### What an event serves (R74, R76) -/

/-- The request that the event's pseudo-channel picks in state `b`. -/
def pickedPc (s b : State) : Option PcWaiting :=
  pickRequest b.mem b.now (sget ({} : StackSt) b.mem.bdies (s.input.pc / 64)).slack (fun i => s.input.nats.contains i)
    s.input.flag ((b.pcSt s.input.pc).queue.filter (reaches b s.input.pc))

/-- Cores, host, fabric and scheduler stand. -/
def RestStands (s t : State) : Prop := t.cores = s.cores ∧ t.host = s.host ∧ t.fab = s.fab ∧ t.sched = s.sched

/-- The event `e` of state `s` serves the request `w` of `b`'s queue: the cells become those of `m`, and `r` is kept. -/
def ServesAs (e : Instr) (s b : State) (w : PcWaiting) (m : MemSt) (r : PcResult) : Prop :=
  Answers e s (fun t => t.mem.hbm = m.hbm ∧ t.mem.poison = m.poison ∧ RestStands s t ∧
    (t.pcSt s.input.pc).queue = (b.pcSt s.input.pc).queue.filter (fun v => v.arr != w.arr) ∧
    (t.pcSt s.input.pc).idleFrom = s.now ∧
    (t.pcSt s.input.pc).results = (b.pcSt s.input.pc).results ++ [(w.req.id, r)] ∧
    (t.pcSt s.input.pc).selfRef = (b.pcSt s.input.pc).selfRef ∧
    (sget {} t.mem.bdies (s.input.pc / 64)).dlmiss =
      lateCount s.now (sget {} s.mem.bdies (s.input.pc / 64)).dlmiss (pcClass w.req.src))

/-- The event `e` of state `s` serves what `b`'s queue has to be picked, where it is of unversioned memory and passes no
number. -/
def Serves (e : Instr) (s b : State) : Prop :=
  (pickedPc s b = none → exec e s = .next b) ∧
  ∀ w, pickedPc s b = some w → w.req.ver = none → w.req.num = 0 ∨ 512 ≤ w.req.core →
    (∀ n, w.req.act = .read n → s.mem.poisoned w.req.off n = false →
      ServesAs e s b w s.mem (.data (s.mem.bytes w.req.off n))) ∧
    (∀ n, w.req.act = .read n → s.mem.poisoned w.req.off n = true → ServesAs e s b w s.mem .poison) ∧
    (∀ bs, w.req.act = .write bs → ServesAs e s b w (s.mem.write w.req.off bs) .done) ∧
    (∀ op v u, w.req.act = .atomic op v u → s.mem.poisoned w.req.off (amoSize op) = false →
      let old := fromBytes (s.mem.bytes w.req.off (amoSize op))
      ServesAs e s b w (s.mem.write w.req.off (toBytes (amoSize op) (amoNew op old v.toNat u.toNat)))
        (.data (toBytes (amoSize op) old))) ∧
    (w.req.act = .arrive → s.mem.poisoned w.req.off 12 = false →
      let old := fromBytes (s.mem.bytes w.req.off 12)
      ServesAs e s b w (s.mem.write w.req.off (toBytes 12 (arriveWord old))) (.data (toBytes 4 (old / 2 ^ 64 % 2 ^ 32))))

section
variable {e : Instr} {s b : State} (frame : ∃ pcs, b = s.withPcs pcs) (runs : exec e s = .next (servedPc s b))
include frame runs

/-- A request whose performance is known from the cells as they stand is served as it says. -/
theorem servesAs_of_performs {w : PcWaiting} {m : MemSt} {r : PcResult} (picked : pickedPc s b = some w)
    (plain : w.req.ver = none) (num : w.req.num = 0 ∨ 512 ≤ w.req.core) (performs : Performs s w.req m r) :
    ServesAs e s b w m r := by
  obtain ⟨pcs, rfl⟩ := frame
  obtain ⟨n, there, hbm, poison⟩ := performs.sameCells (t := s.withPcs pcs) ⟨rfl, rfl, rfl, rfl⟩
  have served := serve_serves picked plain num there
  refine ⟨_, runs, served.hbm.trans hbm, served.poison.trans poison,
    ⟨served.cores, served.host, served.fab, served.sched⟩, congrArg PcSt.queue served.channel,
    congrArg PcSt.idleFrom served.channel, congrArg PcSt.results served.channel, (congrArg PcSt.selfRef served.channel :),
    served.dlmiss⟩

theorem serves_of_runs : Serves e s b := by
  refine ⟨fun none => runs.trans (congrArg _ (serve_idle none)), fun w picked plain num => ?_⟩
  have served {m : MemSt} {r : PcResult} (performs : Performs s w.req m r) : ServesAs e s b w m r :=
    servesAs_of_performs frame runs picked plain num performs
  exact ⟨fun n act clean => served (.read act clean), fun n act bad => served (.poison act bad),
    fun bs act => served (.write act), fun op v u act clean => served (.atomic act clean),
    fun act clean => served (.arrive act clean)⟩

end

theorem pcSelect_serves {s : State} (awake : ((arrivedPc s).pcSt s.input.pc).selfRef = false) :
    Serves .pcSelect s (arrivedPc s) := by
  refine serves_of_runs (arrivedPc_frame s) ?_
  rw [exec_pcSelect_eq, awake]
  rfl

theorem pcSelect_asleep {s : State} (asleep : ((arrivedPc s).pcSt s.input.pc).selfRef = true) :
    exec .pcSelect s = .next (arrivedPc s) := by
  rw [exec_pcSelect_eq, asleep]
  rfl

/-! ### Self-refresh (R78) -/

/-- The event changes what the pseudo-channel holds to `f`, and no cell. -/
def ChannelBecomes (e : Instr) (s : State) (f : PcSt) : Prop :=
  Answers e s (fun t => t.pcSt s.input.pc = f ∧ (∀ k, k ≠ s.input.pc → t.pcSt k = s.pcSt k) ∧
    (t.mem.hbm = s.mem.hbm ∧ t.mem.poison = s.mem.poison) ∧ RestStands s t)

theorem channelBecomes_modPc {e : Instr} {s b : State} {f : PcSt → PcSt} (only : ChannelOnly s.input.pc s b)
    (runs : exec e s = .next (b.modPc s.input.pc f)) : ChannelBecomes e s (f (b.pcSt s.input.pc)) := by
  obtain ⟨⟨pcs, rfl⟩, others⟩ := only
  exact ⟨_, runs, pcSt_modPc .., fun k ne => (pcSt_modPc_ne _ f ne).trans (others k ne), ⟨rfl, rfl⟩, rfl, rfl, rfl, rfl⟩

/-- Whether the stack enters self-refresh once its pseudo-channel has been idle so long. -/
def IdleLong (s : State) : Prop :=
  (sget ({} : StackSt) s.mem.bdies (s.input.pc / 64)).srcEn = true ∧ ((arrivedPc s).pcSt s.input.pc).idleFrom +
    1000 * max 1 (sget ({} : StackSt) s.mem.bdies (s.input.pc / 64)).srcIdle ≤ s.now

/-- The guard of SELF_REFRESH_ENTRY reads no part that an arrival changes. -/
theorem entryGuard_iff (s : State) : ((sget ({} : StackSt) (arrivedPc s).mem.bdies (s.input.pc / 64)).srcEn &&
    decide (((arrivedPc s).pcSt s.input.pc).idleFrom +
      1000 * max 1 (sget ({} : StackSt) (arrivedPc s).mem.bdies (s.input.pc / 64)).srcIdle ≤ (arrivedPc s).now)) = true ↔
    IdleLong s := by
  obtain ⟨pcs, frame⟩ := arrivedPc_frame s
  have bdies : (arrivedPc s).mem.bdies = s.mem.bdies := by rw [frame]; rfl
  have now : (arrivedPc s).now = s.now := by rw [frame]; rfl
  rw [bdies, now, Bool.and_eq_true, decide_eq_true_eq]
  rfl

section
variable {s : State}

theorem selfRefreshEntry_serves (waits : ((arrivedPc s).pcSt s.input.pc).queue ≠ []) :
    Serves .selfRefreshEntry s (arrivedPc s) := by
  refine serves_of_runs (arrivedPc_frame s) ?_
  rw [exec_selfRefreshEntry_eq]
  exact if_neg (by simpa using waits)

theorem selfRefreshEntry_enters (empty : ((arrivedPc s).pcSt s.input.pc).queue = []) (idle : IdleLong s) :
    ChannelBecomes .selfRefreshEntry s { (arrivedPc s).pcSt s.input.pc with selfRef := true } := by
  refine channelBecomes_modPc (f := fun p => { p with selfRef := true }) (arrivePc_arrives ..).1 ?_
  rw [exec_selfRefreshEntry_eq]
  exact (if_pos (by rw [empty]; rfl)).trans (when_of _ _ ((entryGuard_iff s).mpr idle))

theorem selfRefreshEntry_stays (empty : ((arrivedPc s).pcSt s.input.pc).queue = []) (busy : ¬ IdleLong s) :
    exec .selfRefreshEntry s = .next (arrivedPc s) := by
  rw [exec_selfRefreshEntry_eq]
  exact (if_pos (by rw [empty]; rfl)).trans (when_not _ _ (Bool.eq_false_iff.mpr fun guard => busy ((entryGuard_iff s).mp guard)))

theorem selfRefreshExit_serves (asleep : ((arrivedPc s).pcSt s.input.pc).selfRef = true)
    (waits : ((arrivedPc s).pcSt s.input.pc).queue ≠ []) :
    Serves .selfRefreshExit s ((arrivedPc s).modPc s.input.pc (fun p => { p with selfRef := false })) := by
  refine serves_of_runs ((arrivePc_arrives s.input.pc s.input.arr s).1.modPc _).1 ?_
  rw [exec_selfRefreshExit_eq]
  exact when_of _ _ (by simp [asleep, waits])

theorem selfRefreshExit_stays (idle : ((arrivedPc s).pcSt s.input.pc).selfRef = false ∨
    ((arrivedPc s).pcSt s.input.pc).queue = []) : exec .selfRefreshExit s = .next (arrivedPc s) := by
  rw [exec_selfRefreshExit_eq]
  refine when_not _ _ ?_
  rcases idle with awake | empty
  · simp [awake]
  · simp [empty]

/-! ### Refreshes (R77) -/

/-- Whether a refresh that falls due is postponed. -/
def Postpones (s : State) : Prop := s.input.flag = true ∧ (s.pcSt s.input.pc).deadline = true ∧
  (s.pcSt s.input.pc).postponed < min 8 (sget ({} : StackSt) s.mem.bdies (s.input.pc / 64)).rfpost

/-- What a pseudo-channel holds once a refresh has fallen due. -/
def PcSt.refreshed (postpones : Bool) (p : PcSt) : PcSt :=
  if postpones then { p with due := p.due + 1, postponed := p.postponed + 1 }
  else { p with due := p.due + 1, refreshes := p.refreshes + p.postponed + 1, postponed := 0 }

theorem exec_refreshDue_eq (s : State) : exec .refreshDue s = when (!(s.pcSt s.input.pc).selfRef)
    (fun s' => s'.modPc s.input.pc (fun p => p.refreshed (s.input.flag && p.deadline && decide (p.postponed <
      min 8 (sget ({} : StackSt) s.mem.bdies (s.input.pc / 64)).rfpost)))) s := exec_refreshDue s

theorem refreshDue_asleep (asleep : (s.pcSt s.input.pc).selfRef = true) : exec .refreshDue s = .next s := by
  rw [exec_refreshDue_eq]
  exact when_not _ _ (by rw [asleep]; rfl)

theorem refreshDue_awake (awake : (s.pcSt s.input.pc).selfRef = false) {postpones : Bool}
    (guard : postpones = true ↔ Postpones s) : ChannelBecomes .refreshDue s ((s.pcSt s.input.pc).refreshed postpones) := by
  have cond : (s.input.flag && (s.pcSt s.input.pc).deadline && decide ((s.pcSt s.input.pc).postponed <
      min 8 (sget ({} : StackSt) s.mem.bdies (s.input.pc / 64)).rfpost)) = postpones := by
    rw [Bool.eq_iff_iff, guard]
    simp only [Bool.and_eq_true, decide_eq_true_eq, and_assoc, Postpones]
  rw [← cond]
  refine channelBecomes_modPc (f := fun p => p.refreshed (s.input.flag && p.deadline && decide (p.postponed <
    min 8 (sget ({} : StackSt) s.mem.bdies (s.input.pc / 64)).rfpost))) (.refl _ s) ?_
  rw [exec_refreshDue_eq]
  exact when_of _ _ (by rw [awake]; rfl)

end

end Sys2Proof.Machine
end

section
/-! SUPPORT. Cache lines by their bytes: what a line holds after a byte is stored or dropped, and what the runs of its dirty
bytes say (R250, R256, R258). -/

namespace Sys2Proof.Machine

/-! ### A byte of a line replaced -/

/-- Byte `j` of a number whose byte at place `i` was replaced. -/
theorem byte_replaced {x b i j : Nat} (hb : b < 256) :
    (x - x / 2 ^ (8 * i) % 256 * 2 ^ (8 * i) + b * 2 ^ (8 * i)) / 2 ^ (8 * j) % 256 =
      if j = i then b else x / 2 ^ (8 * j) % 256 := by
  have split : x = (x / 2 ^ (8 * i) / 256 * 256 + x / 2 ^ (8 * i) % 256) * 2 ^ (8 * i) + x % 2 ^ (8 * i) := by
    rw [Nat.div_add_mod', Nat.div_add_mod']
  have pos : 0 < 2 ^ (8 * i) := Nat.two_pow_pos _
  have lt := Nat.mod_lt x pos
  have old := Nat.mod_lt (x / 2 ^ (8 * i)) (show 0 < 256 by decide)
  generalize x / 2 ^ (8 * i) / 256 = hi, x / 2 ^ (8 * i) % 256 = o, x % 2 ^ (8 * i) = lo at split lt old ⊢
  have new : x - o * 2 ^ (8 * i) + b * 2 ^ (8 * i) = (hi * 256 + b) * 2 ^ (8 * i) + lo := by
    rw [split, Nat.add_mul, Nat.add_mul]
    omega
  rw [new, split]
  have place (y : Nat) : (y * 2 ^ (8 * i) + lo) / 2 ^ (8 * i) = y := by
    rw [Nat.mul_comm, Nat.mul_add_div pos, Nat.div_eq_of_lt lt, Nat.add_zero]
  rcases Nat.lt_trichotomy j i with below | rfl | above
  · have cut : 2 ^ (8 * i) = 2 ^ (8 * j) * (256 * 2 ^ (8 * (i - j - 1))) := by
      rw [show 256 = 2 ^ 8 from rfl, ← Nat.pow_add, ← Nat.pow_add]
      congr 1
      omega
    rw [if_neg (by omega), cut]
    have low (y : Nat) : (y * (2 ^ (8 * j) * (256 * 2 ^ (8 * (i - j - 1)))) + lo) / 2 ^ (8 * j) % 256 =
        lo / 2 ^ (8 * j) % 256 := by
      rw [show y * (2 ^ (8 * j) * (256 * 2 ^ (8 * (i - j - 1)))) = 2 ^ (8 * j) * (256 * (2 ^ (8 * (i - j - 1)) * y)) by ring,
        Nat.mul_add_div (Nat.two_pow_pos _), Nat.mul_add_mod]
    rw [low, low]
  · rw [if_pos rfl, place]
    omega
  · have cut : 2 ^ (8 * j) = 2 ^ (8 * i) * (256 * 2 ^ (8 * (j - i - 1))) := by
      rw [show 256 = 2 ^ 8 from rfl, ← Nat.pow_add, ← Nat.pow_add]
      congr 1
      omega
    rw [if_neg (by omega), cut, ← Nat.div_div_eq_div_mul, ← Nat.div_div_eq_div_mul, place, ← Nat.div_div_eq_div_mul,
      ← Nat.div_div_eq_div_mul, place]
    congr 2
    omega

theorem byte_mod (x : Nat) {j n : Nat} (hj : 8 * j + 8 ≤ n) : x % 2 ^ n / 2 ^ (8 * j) % 256 = x / 2 ^ (8 * j) % 256 := by
  have cut : 2 ^ n = 2 ^ (8 * j) * (2 ^ 8 * 2 ^ (n - 8 * j - 8)) := by
    rw [← Nat.pow_add, ← Nat.pow_add]
    congr 1
    omega
  rw [cut, Nat.mod_mul_right_div_self]
  exact Nat.mod_mod_of_dvd _ ⟨_, rfl⟩

theorem byte_ofNat {j n : Nat} (hj : 8 * j + 8 ≤ n) (x : Nat) :
    (BitVec.ofNat n x).toNat / 2 ^ (8 * j) % 256 = x / 2 ^ (8 * j) % 256 := by
  rw [BitVec.toNat_ofNat, byte_mod _ hj]

theorem Line.byte_toNat (l : Line) (j : Nat) : (l.byte j).toNat = l.data.toNat / 2 ^ (8 * j) % 256 := BitVec.toNat_ofNat ..

theorem Line.byte_of_data {l l' : Line} {i j : Nat} (b : Byte) (hj : j < 128) (data : l'.data = l.withByte i b) :
    l'.byte j = if j = i then b else l.byte j := by
  apply BitVec.eq_of_toNat_eq
  rw [Line.byte_toNat, data]
  unfold Line.withByte
  rw [byte_ofNat (by omega), Line.byte_toNat, byte_replaced b.isLt]
  split
  · rfl
  · rw [Line.byte_toNat]

theorem getLsbD_bitAt (i j : Nat) : (BitVec.ofNat 128 (2 ^ i)).getLsbD j = (decide (j < 128) && decide (i = j)) := by
  rw [BitVec.getLsbD_ofNat, Nat.testBit_two_pow]

/-! ### Bytes held -/

/-- The byte that a line holds at a place. -/
def Line.get (l : Line) (j : Nat) : Option Byte := if l.has j then some (l.byte j) else none

theorem Line.get_eq_none {l : Line} {j : Nat} : l.get j = none ↔ l.has j = false := by
  unfold Line.get
  cases l.has j <;> simp

@[simp] theorem Line.get_empty (j : Nat) : Line.empty.get j = none := by
  have empty : Line.empty.has j = false := BitVec.getLsbD_zero
  simp [Line.get, empty]

theorem Line.get_store (l : Line) (scope : Nat) {i j : Nat} (b : Byte) (hj : j < 128) :
    (l.store scope i b).get j = if j = i then some b else l.get j := by
  have has : (l.store scope i b).has j = (l.has j || decide (i = j)) := by
    change (l.valid ||| BitVec.ofNat 128 (2 ^ i)).getLsbD j = _
    rw [BitVec.getLsbD_or, getLsbD_bitAt, decide_eq_true hj, Bool.true_and]
    rfl
  unfold Line.get
  rw [has, Line.byte_of_data (l' := l.store scope i b) b hj rfl]
  by_cases e : j = i
  · simp [e]
  · simp [e, Ne.symm e]

/-- A dropped byte is held no longer. -/
theorem Line.get_drop_self (l : Line) (i : Nat) : (l.drop i).get i = none := by
  unfold Line.drop
  dsimp only
  split
  · exact Line.get_empty i
  · have has : (l.valid &&& ~~~(BitVec.ofNat 128 (2 ^ i))).getLsbD i = false := by
      rw [BitVec.getLsbD_and, BitVec.getLsbD_not, getLsbD_bitAt]
      simp
    exact Line.get_eq_none.mpr has

/-- A byte not held is not held once another is dropped. -/
theorem Line.get_drop_none {l : Line} {j : Nat} (h : l.get j = none) (i : Nat) : (l.drop i).get j = none := by
  have away : l.valid.getLsbD j = false := Line.get_eq_none.mp h
  unfold Line.drop
  dsimp only
  split
  · exact Line.get_empty j
  · rw [Line.get_eq_none, Line.has, BitVec.getLsbD_and, away, Bool.false_and]

theorem Line.get_drops {l : Line} {is : List Nat} {j : Nat} (h : j ∈ is ∨ l.get j = none) :
    (is.foldl Line.drop l).get j = none := by
  induction is generalizing l with
  | nil => exact h.elim (fun h => absurd h List.not_mem_nil) id
  | cons i is ih =>
    refine ih ?_
    rcases h with here | away
    · rcases List.mem_cons.mp here with rfl | later
      · exact .inr (l.get_drop_self j)
      · exact .inl later
    · exact .inr (Line.get_drop_none away i)

/-- The byte that a cache holds of an address. -/
def cacheByte (m : Sparse Line) (a : Nat) : Option Byte := (sget Line.empty m (a / 128)).get (a % 128)

theorem putLines_cons (f : Line → Nat → Byte → Line) (m : Sparse Line) (a : Nat) (b : Byte) (bs : List Byte) :
    putLines f m a (b :: bs) =
      putLines f (sset Line.empty m (a / 128) (f (sget Line.empty m (a / 128)) (a % 128) b)) (a + 1) bs := rfl

/-- Bytes stored from an address on are held there; every other byte is held as before. -/
theorem cacheByte_stored (scope : Nat) (m : Sparse Line) (a o : Nat) (bs : List Byte) :
    cacheByte (putLines (Line.store scope) m a bs) o =
      if a ≤ o then (bs[o - a]?).or (cacheByte m o) else cacheByte m o := by
  induction bs generalizing m a with
  | nil => simp [putLines]
  | cons b bs ih =>
    have one : cacheByte (sset Line.empty m (a / 128) ((sget Line.empty m (a / 128)).store scope (a % 128) b)) o =
        if o = a then some b else cacheByte m o := by
      unfold cacheByte
      rw [sget_sset]
      by_cases line : o / 128 = a / 128
      · rw [if_pos line, Line.get_store _ _ _ (Nat.mod_lt _ (by decide)), line]
        exact if_congr (by omega) rfl rfl
      · rw [if_neg line, if_neg (by rintro rfl; exact line rfl)]
    rw [putLines_cons, ih, one]
    rcases Nat.lt_trichotomy o a with lt | rfl | gt
    · rw [if_neg (by omega), if_neg (by omega), if_neg (by omega)]
    · simp
    · obtain ⟨k, rfl⟩ : ∃ k, o = a + 1 + k := ⟨o - a - 1, by omega⟩
      have here : a + 1 + k - a = k + 1 := by omega
      have next : a + 1 + k - (a + 1) = k := by omega
      rw [if_pos (by omega), if_neg (by omega), if_pos (by omega), here, next, List.getElem?_cons_succ]

/-! ### Runs of dirty bytes (R258) -/

/-- A run of a line: some dirty bytes of one granule from a place on. -/
structure Line.IsRun (l : Line) (r : Nat × List Byte) : Prop where
  some  : r.2 ≠ []
  dirty : ∀ k b, r.2[k]? = Option.some b → l.dirty.getLsbD (r.1 + k) = true ∧ b = l.byte (r.1 + k)
  part  : (r.1 + r.2.length - 1) / 32 = r.1 / 32
  inside : r.1 + r.2.length ≤ 128

/-- The runs with the next byte taken up. -/
def Line.runStep (l : Line) (a : List (Nat × List Byte)) (i : Nat) : List (Nat × List Byte) :=
  if l.dirty.getLsbD i then
    match a.getLast? with
    | some (p, bs) => if p + bs.length = i ∧ i % 32 ≠ 0 then a.dropLast ++ [(p, bs ++ [l.byte i])] else a ++ [(i, [l.byte i])]
    | none => [(i, [l.byte i])]
  else a

theorem Line.runs_eq (l : Line) : l.runs = (List.range 128).foldl l.runStep [] := rfl

/-- A list of runs that are all the dirty bytes below `n`. -/
structure Line.RunsTo (l : Line) (n : Nat) (a : List (Nat × List Byte)) : Prop where
  each   : ∀ r ∈ a, l.IsRun r
  covers : ∀ i, i < n → l.dirty.getLsbD i = true → ∃ r ∈ a, r.1 ≤ i ∧ i < r.1 + r.2.length

/-- A dirty byte alone is a run. -/
theorem Line.isRun_single {l : Line} {n : Nat} (hn : n < 128) (dirty : l.dirty.getLsbD n = true) :
    l.IsRun (n, [l.byte n]) := by
  refine ⟨by simp, fun k b hb => ?_, by simp, by simp; omega⟩
  obtain ⟨lt, rfl⟩ := List.getElem?_eq_some_iff.mp hb
  obtain rfl : k = 0 := by simpa using lt
  exact ⟨dirty, rfl⟩

/-- A run goes on with the next byte where that is dirty and of the same granule. -/
theorem Line.IsRun.concat {l : Line} {n p : Nat} {bs : List Byte} (h : l.IsRun (p, bs)) (hn : n < 128)
    (dirty : l.dirty.getLsbD n = true) (meets : p + bs.length = n) (inner : n % 32 ≠ 0) :
    l.IsRun (p, bs ++ [l.byte n]) := by
  obtain ⟨ne, bytes, part, inside⟩ := h
  have pos : 0 < bs.length := List.length_pos_iff.mpr ne
  refine ⟨by simp, fun k b hb => ?_, ?_, ?_⟩
  · by_cases lt : k < bs.length
    · exact bytes k b (by rwa [List.getElem?_append_left lt] at hb)
    · rw [List.getElem?_append_right (Nat.le_of_not_lt lt)] at hb
      obtain ⟨one, rfl⟩ := List.getElem?_eq_some_iff.mp hb
      obtain rfl : k = bs.length := by simp at one; omega
      dsimp only
      rw [meets]
      exact ⟨dirty, by simp⟩
  · simp only [List.length_append, List.length_singleton] at part ⊢
    omega
  · simp only [List.length_append, List.length_singleton] at inside ⊢
    omega

/-- One run more, that of byte `n`. -/
theorem Line.RunsTo.snoc {l : Line} {n : Nat} {a b : List (Nat × List Byte)} {r : Nat × List Byte} (h : l.RunsTo n a)
    (run : l.IsRun r) (fewer : ∀ q ∈ b, q ∈ a) (last : r.1 ≤ n ∧ n < r.1 + r.2.length)
    (rest : ∀ q ∈ a, q ∈ b ∨ r.1 ≤ q.1 ∧ q.1 + q.2.length ≤ r.1 + r.2.length) : l.RunsTo (n + 1) (b ++ [r]) := by
  refine ⟨fun q hq => ?_, fun i hi dirty => ?_⟩
  · rcases List.mem_append.mp hq with old | new
    · exact h.each q (fewer q old)
    · rw [List.mem_singleton.mp new]
      exact run
  · have here : r ∈ b ++ [r] := List.mem_append_right _ (List.mem_singleton_self r)
    rcases Nat.lt_succ_iff_lt_or_eq.mp hi with lt | rfl
    · obtain ⟨q, hq, low, high⟩ := h.covers i lt dirty
      rcases rest q hq with kept | within
      · exact ⟨q, List.mem_append_left _ kept, low, high⟩
      · exact ⟨r, here, by omega, by omega⟩
    · exact ⟨r, here, last⟩

theorem Line.runsTo_step {l : Line} {n : Nat} {a : List (Nat × List Byte)} (h : l.RunsTo n a) (hn : n < 128) :
    l.RunsTo (n + 1) (l.runStep a n) := by
  unfold Line.runStep
  split
  case isFalse clean =>
    refine ⟨h.each, fun i hi dirty => ?_⟩
    rcases Nat.lt_succ_iff_lt_or_eq.mp hi with lt | rfl
    · exact h.covers i lt dirty
    · exact absurd dirty clean
  case isTrue dirty =>
    have added : l.RunsTo (n + 1) (a ++ [(n, [l.byte n])]) :=
      h.snoc (Line.isRun_single hn dirty) (fun _ hq => hq) ⟨Nat.le_refl n, by simp⟩ fun _ hq => .inl hq
    split
    · rename_i p bs last
      split
      · rename_i next
        obtain ⟨meets, inner⟩ := next
        obtain ⟨init, rfl⟩ := List.getLast?_eq_some_iff.mp last
        rw [List.dropLast_concat]
        have longer := (h.each (p, bs) (by simp)).concat hn dirty meets inner
        refine h.snoc longer (fun q hq => List.mem_append_left _ hq) ⟨by dsimp only; omega, by simp; omega⟩ fun q hq => ?_
        rcases List.mem_append.mp hq with old | new
        · exact .inl old
        · rw [List.mem_singleton.mp new]
          exact .inr ⟨Nat.le_refl _, by simp⟩
      · exact added
    · rename_i none
      rw [List.getLast?_eq_none_iff] at none
      rw [none] at added
      exact added

theorem Line.runsTo_runs (l : Line) : l.RunsTo 128 l.runs := by
  have upTo (n : Nat) (hn : n ≤ 128) : l.RunsTo n ((List.range n).foldl l.runStep []) := by
    induction n with
    | zero => exact ⟨fun _ h => absurd h List.not_mem_nil, fun _ h => absurd h (Nat.not_lt_zero _)⟩
    | succ n ih =>
      rw [List.range_succ, List.foldl_append]
      exact Line.runsTo_step (ih (by omega)) hn
  exact upTo 128 (Nat.le_refl _)

end Sys2Proof.Machine
end

section
/-! SUPPORT. ECC errors (R91, R323): what an uncorrectable error does where it is found. -/

namespace Sys2Proof.Machine

/-! ### Flags raised (R129) -/

theorem corr_raiseTag {t : Nat} (live : t ≠ 0) (s : State) :
    (sget 0 (raiseTag t flCORR s).arb.hwFlags t).getLsbD 8 = true := by
  unfold raiseTag
  rw [if_neg live]
  dsimp only
  rw [sget_smod_self, BitVec.getLsbD_or, Bool.or_eq_true]
  exact .inr (by decide)

theorem corr_raiseTag_mono {g : Nat} {s : State} (h : (sget 0 s.arb.hwFlags g).getLsbD 8 = true) (t : Nat) :
    (sget 0 (raiseTag t flCORR s).arb.hwFlags g).getLsbD 8 = true := by
  by_cases same : g = t
  · by_cases live : t = 0
    · unfold raiseTag
      rw [if_pos live]
      exact h
    · rw [same]
      exact corr_raiseTag live s
  · unfold raiseTag
    split
    · exact h
    · dsimp only
      rw [sget_smod_ne 0 s.arb.hwFlags _ same]
      exact h

theorem corr_raised_mono {g : Nat} (l : List Nat) {s : State} (h : (sget 0 s.arb.hwFlags g).getLsbD 8 = true) :
    (sget 0 (l.foldl (fun s t => raiseTag t flCORR s) s).arb.hwFlags g).getLsbD 8 = true :=
  List.foldlRecOn (motive := fun u : State => (sget 0 u.arb.hwFlags g).getLsbD 8 = true) _ _ h
    fun _ h t _ => corr_raiseTag_mono h t

theorem corr_raised {l : List Nat} {g : Nat} (here : g ∈ l) (live : g ≠ 0) (s : State) :
    (sget 0 (l.foldl (fun s t => raiseTag t flCORR s) s).arb.hwFlags g).getLsbD 8 = true := by
  induction l generalizing s with
  | nil => cases here
  | cons t l ih =>
    rw [List.foldl_cons]
    rcases List.mem_cons.mp here with rfl | later
    · exact corr_raised_mono l (corr_raiseTag live s)
    · exact ih later _

theorem mem_liveTags {s : State} {g : Nat} (low : 1 ≤ g) (high : g < 64) (active : sget .free s.mem.master g = .active) :
    g ∈ liveTags s := by
  refine List.mem_filter.mpr ⟨List.mem_range.mpr high, ?_⟩
  rw [decide_eq_true active, decide_eq_true (by omega)]
  rfl

theorem raiseTag_cores (t : Nat) (f : BitVec 16) (s : State) : (raiseTag t f s).cores = s.cores := by
  unfold raiseTag
  split <;> rfl

/-! ### A dirty line whose granules fail (R323) -/

/-- The core whose way to the home a cache's lines take. -/
def lineCore : CacheKind → Nat
  | .l1 core => core
  | .l2 quad => 4 * quad
  | .msc _ => 0

/-- The runs of a line that lie in granules that have not failed. -/
def keptRuns (granules : List Nat) (l : Line) : List (Nat × List Byte) :=
  l.runs.filter (fun r => !granules.contains (r.1 / 32))

/-- The bytes of granules. -/
def granuleBytes (granules : List Nat) : List Nat := granules.flatMap (fun g => (List.range 32).map (fun i => 32 * g + i))

/-- The runs of a line put into the L2 of a core's quad. -/
def runsPut (scope key : Nat) (runs : List (Nat × List Byte)) (m : Sparse Line) : Sparse Line :=
  runs.foldl (fun m r => putLines (Line.store scope) m (key * 128 + r.1) r.2) m

/-- A line with failing granules leaves its cache, with what the others keep. -/
def lineLeaves (c : CacheKind) (key : Nat) (granules : List Nat) (s : State) : State :=
  let l := lineAt s c key
  match c with
  | .l1 core =>
    let s := if (keptRuns granules l).isEmpty then s else roomL2 core key s
    modL1 core (fun m => m.filter (fun p => p.1 != key))
      (modL2 core (runsPut l.scope key (keptRuns granules l))
        (modL2 core (fun m => smod Line.empty m key (fun l => (granuleBytes granules).foldl Line.drop l)) s))
  | .l2 quad =>
    modL2 (4 * quad) (fun m => m.filter (fun p => p.1 != key))
      ((keptRuns granules l).foldl (fun s r => writeHome (4 * quad) (key * 128 + r.1) r.2 s) s)
  | .msc _ => s

/-- A failing granule at its home: poisoned there, or by a request. -/
def poisonGranule (core pa : Nat) (s : State) (g : Nat) : State :=
  let a := pa / 128 * 128 + 32 * g
  if 4 ≤ g then s
  else if localPa pa then s.withMem (s.mem.setPoison a true)
  else
    let (id, s) := s.fresh
    sendRequest core (.ack core) 0 ⟨s.self, id, .poison, a, 32, [], false, s.now⟩ s

theorem poisonLine_eq (c : CacheKind) (pa : Nat) (gs : List Nat) (s : State) :
    poisonLine c pa gs s = gs.foldl (poisonGranule (lineCore c) pa) (lineLeaves c (pa / 128) gs s) := by
  cases c <;> rfl

theorem accessed_poisonLine (c : CacheKind) (pa : Nat) (gs : List Nat) (s : State) :
    Accessed s (poisonLine c pa gs s) := by
  have leaves : Accessed s (lineLeaves c (pa / 128) gs s) := by
    cases c with
    | l1 core =>
      have room : Accessed s (if (keptRuns gs (lineAt s (.l1 core) (pa / 128))).isEmpty then s
          else roomL2 core (pa / 128) s) := by
        split
        · exact .refl s
        · exact accessed_roomL2 ..
      exact ((room.trans (accessed_modL2 ..)).trans (accessed_modL2 ..)).trans (accessed_modL1 ..)
    | l2 quad =>
      have written := Accessed.foldl (fun s (r : Nat × List Byte) =>
        accessed_writeHome (4 * quad) (pa / 128 * 128 + r.1) r.2 s) (keptRuns gs (lineAt s (.l2 quad) (pa / 128))) s
      exact written.trans (accessed_modL2 ..)
    | msc => exact .refl s
  rw [poisonLine_eq]
  refine leaves.trans (.foldl (fun s g => ?_) _ _)
  unfold poisonGranule
  split_ifs
  · exact .refl s
  · exact accessed_withMem (MemSt.accessed_setPoison ..)
  · exact (accessed_fresh s).trans (accessed_sendRequest ..)

/-- Failing granules of a local line: their poison is set, and nothing else changes. -/
theorem poisonGranules_local {pa : Nat} (here : localPa pa = true) (core : Nat) (gs : List Nat) (s : State) :
    (∃ poison, gs.foldl (poisonGranule core pa) s = s.withMem { s.mem with poison := poison }) ∧
    ∀ g ∈ gs, g < 4 → ∀ b, b / 32 = (pa / 128 * 128 + 32 * g) / 32 →
      (gs.foldl (poisonGranule core pa) s).mem.poisoned b 1 = true := by
  have step (s : State) (g : Nat) : poisonGranule core pa s g =
      if 4 ≤ g then s else s.withMem (s.mem.setPoison (pa / 128 * 128 + 32 * g) true) := by
    unfold poisonGranule
    rw [here]
    rfl
  have mono (l : List Nat) (s : State) {b : Nat} (h : s.mem.poisoned b 1 = true) :
      (l.foldl (poisonGranule core pa) s).mem.poisoned b 1 = true :=
    List.foldlRecOn (motive := fun u : State => u.mem.poisoned b 1 = true) _ _ h fun u h g _ => by
      rw [step]
      split
      · exact h
      · exact MemSt.poisoned_setPoison_mono h _
  induction gs generalizing s with
  | nil => exact ⟨⟨s.mem.poison, rfl⟩, fun _ h => absurd h List.not_mem_nil⟩
  | cons g gs ih =>
    obtain ⟨⟨poison, only⟩, later⟩ := ih (poisonGranule core pa s g)
    refine ⟨⟨poison, ?_⟩, fun h hh lt b hb => ?_⟩
    · rw [List.foldl_cons, only, step]
      split <;> rfl
    · rcases List.mem_cons.mp hh with rfl | there
      · refine mono gs _ ?_
        rw [step, if_neg (by omega)]
        exact MemSt.poisoned_setPoison _ hb
      · exact later h there lt b hb

/-- What a quad sees of a byte below its L1s: what its L2 holds, else the home. -/
theorem belowL1_eq (s : State) (core a : Nat) :
    belowL1 s core a = (cacheByte (l2Of s core) a).or (homeByte s a) := by
  unfold belowL1 cacheByte Line.get homeByte
  dsimp only
  split
  · rfl
  · rfl

/-- Runs put leave every byte outside them as it is held. -/
theorem cacheByte_runsPut_outside (scope key : Nat) {runs : List (Nat × List Byte)} {o : Nat}
    (away : ∀ r ∈ runs, o < key * 128 + r.1 ∨ key * 128 + r.1 + r.2.length ≤ o) (m : Sparse Line) :
    cacheByte (runsPut scope key runs m) o = cacheByte m o := by
  induction runs generalizing m with
  | nil => rfl
  | cons r runs ih =>
    refine (ih (fun q hq => away q (List.mem_cons_of_mem _ hq)) _).trans ?_
    rw [cacheByte_stored]
    rcases away r List.mem_cons_self with below | above
    · rw [if_neg (by omega)]
    · rw [List.getElem?_eq_none (by omega)]
      simp

/-- No byte of a failing granule is held by the quad's L2 once the line has left an L1. -/
theorem cacheByte_lineLeaves {core key : Nat} {gs : List Nat} {g i : Nat} (hg : g ∈ gs) (lt : g < 4) (hi : i < 32)
    (s : State) : cacheByte (l2Of (lineLeaves (.l1 core) key gs s) core) (key * 128 + 32 * g + i) = none := by
  generalize hl : lineAt s (.l1 core) key = l
  have away : ∀ r ∈ keptRuns gs l, key * 128 + 32 * g + i < key * 128 + r.1 ∨
      key * 128 + r.1 + r.2.length ≤ key * 128 + 32 * g + i := by
    intro r hr
    obtain ⟨run, kept⟩ := List.mem_filter.mp hr
    have isRun := l.runsTo_runs.each r run
    have part := isRun.part
    have pos := List.length_pos_iff.mpr isRun.some
    have other : r.1 / 32 ≠ g := by
      rintro rfl
      simp [hg] at kept
    omega
  have dropped (m : Sparse Line) : cacheByte (smod Line.empty m key (fun l => (granuleBytes gs).foldl Line.drop l))
      (key * 128 + 32 * g + i) = none := by
    have line : (key * 128 + 32 * g + i) / 128 = key := by omega
    have place : (key * 128 + 32 * g + i) % 128 = 32 * g + i := by omega
    unfold cacheByte
    rw [line, place, sget_smod_self]
    refine Line.get_drops (.inl ?_)
    exact List.mem_flatMap.mpr ⟨g, hg, List.mem_map.mpr ⟨i, List.mem_range.mpr hi, rfl⟩⟩
  unfold lineLeaves
  dsimp only
  rw [hl]
  generalize (if (keptRuns gs l).isEmpty then s else roomL2 core key s) = u
  have l2 (f : Sparse Line → Sparse Line) (u : State) : l2Of (modL2 core f u) core = f (l2Of u core) := sget_smod_self ..
  refine (congrArg (fun m => cacheByte m _) ((l2 _ _).trans (congrArg _ (l2 _ _)))).trans ?_
  rw [cacheByte_runsPut_outside _ _ away]
  exact dropped _

end Sys2Proof.Machine
end

section
/-! SUPPORT. ECC_ERROR by the place where the error is found (R91, R323). -/

namespace Sys2Proof.Machine

/-- The state in which an uncorrectable error has been counted. -/
def ueCounted (s : State) : State :=
  { s with dbg := { s.dbg with ue := if s.dbg.ue < 2 ^ 32 - 1 then s.dbg.ue + 1 else s.dbg.ue } }

/-- ECC_ERROR counts an uncorrectable error, and its effect is as `P` says. -/
def EccActs (s : State) (P : State → Prop) : Prop := Answers .eccError s (fun t => t.dbg = (ueCounted s).dbg ∧ P t)

theorem accessed_dropClean (c : CacheKind) (key : Nat) (s : State) : Accessed s (dropClean c key s) := by
  cases c with
  | l1 core => exact accessed_modL1 ..
  | l2 quad => exact accessed_modL2 ..
  | msc => exact .refl s

theorem accessed_tentativePoison (block cell : Nat) (s : State) : Accessed s (tentativePoison block cell s) := by
  unfold tentativePoison
  dsimp only
  split
  · exact (accessed_withMem (MemSt.accessed_setPoison ..)).trans (accessed_raiseTag ..)
  · exact .refl s

theorem accessed_eccEffect (c : CacheKind) (site : EccSite) (s : State) : Accessed s (eccEffect c site s) := by
  unfold eccEffect
  split
  · exact accessed_dropClean ..
  · exact accessed_poisonLine ..
  · split
    · exact accessed_poisonBlock ..
    · exact .refl s
  · split
    · exact .refl s
    · exact accessed_tentativePoison ..
  · exact accessed_metaError ..
  · exact accessed_modCore _ _ _ rfl
  · exact accessed_modCore _ _ _ rfl
  · exact accessed_modCore _ _ _ rfl
  · exact accessed_modCore _ _ _ rfl
  · split
    · exact accessed_withMem (MemSt.accessed_setPoison ..)
    · split
      · exact accessed_poisonBlock ..
      · exact accessed_tentativePoison ..

section
variable {s : State}

theorem eccError_corrected (corrected : s.input.flag = true) : exec .eccError s =
    .next { s with dbg := { s.dbg with ce := if s.dbg.ce < 2 ^ 32 - 1 then s.dbg.ce + 1 else s.dbg.ce } } := by
  rw [exec_eccError]
  exact if_pos corrected

/-- An uncorrectable error acts where it is found. -/
theorem eccActs_of_effect {site : EccSite} {P : State → Prop} (bad : s.input.flag = false) (found : s.input.site = site)
    (effect : P (eccEffect s.input.cache site (ueCounted s))) : EccActs s P := by
  refine ⟨_, ?_, (accessed_eccEffect s.input.cache site (ueCounted s)).dbg, effect⟩
  rw [exec_eccError, ← found]
  exact if_neg (by rw [bad]; decide)

/-! ### Cells (R91) -/

/-- A granule that a tag is writing is poisoned, and CORR raised for the tag. -/
theorem tentativePoison_active {block : Nat} (tag : (s.mem.metaAt block).tag ≠ 0)
    (active : s.mem.status (s.mem.stackOf block) (s.mem.metaAt block).tag = .active) (cell : Nat) :
    (tentativePoison block cell s).mem.poisoned cell 1 = true ∧
    (sget 0 (tentativePoison block cell s).arb.hwFlags (s.mem.metaAt block).tag).getLsbD 8 = true := by
  unfold tentativePoison
  dsimp only
  rw [if_pos ⟨tag, active⟩, raiseTag_mem]
  exact ⟨MemSt.poisoned_setPoison _ rfl, corr_raiseTag tag _⟩

theorem tentativePoison_cores (block cell : Nat) (s : State) : (tentativePoison block cell s).cores = s.cores := by
  unfold tentativePoison
  dsimp only
  split
  · exact raiseTag_cores ..
  · rfl

theorem poisonBlock_cores (a : Nat) (s : State) : (poisonBlock a s).cores = s.cores := State.withMem_cores ..

/-- A block poisoned: its metadata word says so. -/
theorem metaAt_poisonBlock (a : Nat) (s : State) :
    (poisonBlock a s).mem.metaAt a = { s.mem.metaAt a with poison := true } := by
  obtain ⟨cur, tag, owner, rsv⟩ := s.mem.metaAt_fits a
  have fits : Meta.Fits { s.mem.metaAt a with poison := true } := ⟨cur, tag, owner, rsv⟩
  exact MemSt.metaAt_putMeta fits a

/-- What an error at a cell of the stacks does. -/
structure CellFails (s : State) (off : Nat) (t : State) : Prop where
  cores     : t.cores = s.cores
  plain     : versionedCell (versionedPages s) off = none → t.mem = s.mem.setPoison off true
  committed : ∀ a, versionedCell (versionedPages s) off =
      some (a, committedSlot s.mem (s.mem.stackOf a) (s.mem.metaAt a)) →
    t.mem.metaAt a = { s.mem.metaAt a with poison := true }
  tentative : ∀ a slot, versionedCell (versionedPages s) off = some (a, slot) →
    slot ≠ committedSlot s.mem (s.mem.stackOf a) (s.mem.metaAt a) → (s.mem.metaAt a).tag ≠ 0 →
    s.mem.status (s.mem.stackOf a) (s.mem.metaAt a).tag = .active →
    t.mem.poisoned off 1 = true ∧ (sget 0 t.arb.hwFlags (s.mem.metaAt a).tag).getLsbD 8 = true

theorem eccEffect_hbm (c : CacheKind) (off : Nat) (s : State) : CellFails s off (eccEffect c (.hbm off) s) := by
  cases found : versionedCell (versionedPages s) off with
  | none =>
    have effect : eccEffect c (.hbm off) s = s.withMem (s.mem.setPoison off true) := by
      unfold eccEffect
      dsimp only
      rw [found]
    rw [effect]
    refine ⟨rfl, fun _ => rfl, fun a h => ?_, fun a slot h => ?_⟩
    · rw [found] at h; cases h
    · rw [found] at h; cases h
  | some p =>
    obtain ⟨a, slot⟩ := p
    have effect : eccEffect c (.hbm off) s = if slot = committedSlot s.mem (s.mem.stackOf a) (s.mem.metaAt a) then
        poisonBlock a s else tentativePoison a off s := by
      unfold eccEffect
      dsimp only
      rw [found]
    rw [effect]
    refine ⟨?_, fun h => ?_, fun b h => ?_, fun b k h => ?_⟩
    · split
      · exact poisonBlock_cores ..
      · exact tentativePoison_cores ..
    · rw [found] at h; cases h
    · rw [found] at h
      cases h
      rw [if_pos rfl]
      exact metaAt_poisonBlock ..
    · rw [found] at h
      cases h
      intro other tag active
      rw [if_neg other]
      exact tentativePoison_active tag active off

theorem eccEffect_committedSlot {off : Nat} (versioned : (versionedAt s off).isSome = true) (c : CacheKind) :
    (eccEffect c (.committedSlot off) s).mem.metaAt off = { s.mem.metaAt off with poison := true } ∧
    (eccEffect c (.committedSlot off) s).cores = s.cores := by
  have effect : eccEffect c (.committedSlot off) s = poisonBlock off s := if_pos versioned
  rw [effect]
  exact ⟨metaAt_poisonBlock .., poisonBlock_cores ..⟩

theorem eccEffect_tentativeSlot {off b n : Nat} (versioned : versionedAt s off = some (b, n)) (c : CacheKind)
    (tag : (s.mem.metaAt off).tag ≠ 0)
    (active : s.mem.status (s.mem.stackOf off) (s.mem.metaAt off).tag = .active) :
    (eccEffect c (.tentativeSlot off) s).mem.poisoned (slotOff off n (s.mem.metaAt off).cur) 1 = true ∧
    (sget 0 (eccEffect c (.tentativeSlot off) s).arb.hwFlags (s.mem.metaAt off).tag).getLsbD 8 = true := by
  have effect : eccEffect c (.tentativeSlot off) s = tentativePoison off (slotOff off n (s.mem.metaAt off).cur) s := by
    unfold eccEffect
    dsimp only
    rw [versioned]
  rw [effect]
  exact tentativePoison_active tag active _

theorem eccEffect_metadata (c : CacheKind) (off : Nat) (s : State) :
    (eccEffect c (.metadata off) s).mem.metaAt off = ⟨0, 0, 0, (s.mem.metaAt off).acc, true, 0⟩ ∧
    ∀ g, 1 ≤ g → g < 64 → sget .free s.mem.master g = .active →
      (sget 0 (eccEffect c (.metadata off) s).arb.hwFlags g).getLsbD 8 = true := by
  have effect : eccEffect c (.metadata off) s = metaError off s := rfl
  rw [effect]
  refine ⟨?_, fun g low high active => ?_⟩
  · obtain ⟨flags, h⟩ := metaError_eq off s
    rw [h]
    exact MemSt.metaAt_putMeta ⟨Nat.two_pos, Nat.succ_pos _, Nat.succ_pos _, Nat.two_pow_pos _⟩ off
  · unfold metaError
    exact corr_raised (mem_liveTags low high active) (by omega) _

/-! ### Queues (R323) -/

/-- An entry of a queue poisoned. -/
def poisonEntry (k i : Nat) (c : CoreSt) : CoreSt :=
  { c with
    queues := c.queues.map (fun p =>
      if p.1 = k then (p.1, p.2.zipIdx.map (fun e => if e.2 = i then { e.1 with poison := true } else e.1)) else p) }

theorem queue_poisonEntry {c : CoreSt} {k i : Nat} {e : QEntry} (h : (c.queue k)[i]? = some e) :
    ((poisonEntry k i c).queue k)[i]? = some { e with poison := true } := by
  have queue : (poisonEntry k i c).queue k =
      (c.queue k).zipIdx.map (fun e => if e.2 = i then { e.1 with poison := true } else e.1) := by
    unfold CoreSt.queue poisonEntry
    generalize c.queues = queues
    induction queues with
    | nil => rfl
    | cons p queues ih =>
      obtain ⟨j, l⟩ := p
      by_cases here : j = k
      · simp [sget, here]
      · simpa [sget, here, Ne.symm here] using ih
  rw [queue, List.getElem?_map, List.getElem?_zipIdx, h]
  simp

/-! ### Dirty lines (R323) -/

theorem l1_modL1 (core : Nat) (f : Sparse Line → Sparse Line) (s : State) :
    ((modL1 core f s).core core).l1 = f (s.core core).l1 := congrArg CoreSt.l1 (State.core_modCore ..)

/-- The line has left the L1. -/
theorem l1_lineLeaves {core key : Nat} {gs : List Nat} {e : Nat × Line}
    (h : e ∈ ((lineLeaves (.l1 core) key gs s).core core).l1) : e.1 ≠ key := by
  unfold lineLeaves at h
  dsimp only at h
  rw [l1_modL1] at h
  simpa using (List.mem_filter.mp h).2

theorem eccEffect_dirtyLine {pa : Nat} (here : pa < 2 ^ 39) (c : CacheKind) (gs : List Nat) (s : State) :
    (∀ k, c = .l1 k → (∀ e ∈ ((eccEffect c (.dirtyLine pa gs) s).core k).l1, e.1 ≠ pa / 128) ∧
      ∀ g ∈ gs, g < 4 → ∀ i, i < 32 →
        belowL1 (eccEffect c (.dirtyLine pa gs) s) k (pa / 128 * 128 + 32 * g + i) = none) ∧
    ∀ g ∈ gs, g < 4 → (eccEffect c (.dirtyLine pa gs) s).mem.poisoned (pa / 128 * 128 + 32 * g) 1 = true := by
  have effect : eccEffect c (.dirtyLine pa gs) s = gs.foldl (poisonGranule (lineCore c) pa) (lineLeaves c (pa / 128) gs s) :=
    poisonLine_eq ..
  have near : localPa pa = true := decide_eq_true (by omega)
  rw [effect]
  have left (k : Nat) (hk : c = .l1 k) : (∀ e ∈ ((lineLeaves c (pa / 128) gs s).core k).l1, e.1 ≠ pa / 128) ∧
      ∀ g ∈ gs, g < 4 → ∀ i, i < 32 →
        cacheByte (l2Of (lineLeaves c (pa / 128) gs s) k) (pa / 128 * 128 + 32 * g + i) = none := by
    subst hk
    exact ⟨fun e he => l1_lineLeaves he, fun g hg lt i hi => cacheByte_lineLeaves hg lt hi s⟩
  generalize lineLeaves c (pa / 128) gs s = u at left ⊢
  obtain ⟨⟨poison, only⟩, poisoned⟩ := poisonGranules_local near (lineCore c) gs u
  refine ⟨fun k hk => ?_, fun g hg lt => poisoned g hg lt _ rfl⟩
  obtain ⟨gone, dropped⟩ := left k hk
  refine ⟨?_, fun g hg lt i hi => ?_⟩
  · rw [only]
    exact gone
  · have bad := poisoned g hg lt (pa / 128 * 128 + 32 * g + i) (by omega)
    have l2 : l2Of (gs.foldl (poisonGranule (lineCore c) pa) u) k = l2Of u k := by rw [only]; rfl
    rw [belowL1_eq, l2, dropped g hg lt i hi, Option.none_or, homeByte, bad]
    simp

end

end Sys2Proof.Machine
end

section
/-! SUPPORT. Lines written back (R256 to R258): a line of an L1 into the L2, a line of an L2 into the stacks. -/

namespace Sys2Proof.Machine

/-- Runs put into a cache are held there: the dirty bytes of the line, and every other byte as before. -/
theorem cacheByte_runsPut {l : Line} {key i : Nat} (hi : i < 128) (dirty : l.dirty.getLsbD i = true) (scope : Nat)
    (m : Sparse Line) : cacheByte (runsPut scope key l.runs m) (key * 128 + i) = some (l.byte i) := by
  have each := l.runsTo_runs.each
  obtain ⟨r, hr, range⟩ := l.runsTo_runs.covers i hi dirty
  have put {r : Nat × List Byte} (run : l.IsRun r) (range : r.1 ≤ i ∧ i < r.1 + r.2.length) (m : Sparse Line) :
      cacheByte (putLines (Line.store scope) m (key * 128 + r.1) r.2) (key * 128 + i) = some (l.byte i) := by
    obtain ⟨low, high⟩ := range
    have place : key * 128 + i - (key * 128 + r.1) = i - r.1 := by omega
    have byte := (run.dirty (i - r.1) _ (List.getElem?_eq_getElem (by omega))).2
    rw [cacheByte_stored, if_pos (by omega), place, List.getElem?_eq_getElem (by omega), byte, Nat.add_sub_cancel' low]
    rfl
  have keep {runs : List (Nat × List Byte)} (each : ∀ r ∈ runs, l.IsRun r) {m : Sparse Line}
      (h : cacheByte m (key * 128 + i) = some (l.byte i)) :
      cacheByte (runsPut scope key runs m) (key * 128 + i) = some (l.byte i) := by
    induction runs generalizing m with
    | nil => exact h
    | cons r runs ih =>
      refine ih (fun q hq => each q (List.mem_cons_of_mem _ hq)) ?_
      by_cases range : r.1 ≤ i ∧ i < r.1 + r.2.length
      · exact put (each r List.mem_cons_self) range m
      · rw [cacheByte_stored]
        split
        · rw [List.getElem?_eq_none (by omega), Option.none_or, h]
        · exact h
  generalize l.runs = runs at each hr
  induction runs generalizing m with
  | nil => cases hr
  | cons q runs ih =>
    rcases List.mem_cons.mp hr with rfl | later
    · exact keep (fun q hq => each q (List.mem_cons_of_mem _ hq)) (put (each r List.mem_cons_self) range m)
    · exact ih _ (fun q hq => each q (List.mem_cons_of_mem _ hq)) later

/-! ### A line of an L1 (R256) -/

theorem l2Of_modL2 (core : Nat) (f : Sparse Line → Sparse Line) (s : State) :
    l2Of (modL2 core f s) core = f (l2Of s core) := sget_smod_self ..

/-- A line that an L1 keeps, or drops where it is clean, as the event says. -/
def keptOrDropped (drop : Bool) (key : Nat) (m : Sparse Line) : Sparse Line :=
  if drop then m.filter (fun p => !(p.1 == key && p.2.dirty == 0)) else m

section
variable {core key : Nat} {s : State}

/-- A line written back where the L2 has room: its dirty bytes go there, and the L1 holds it clean. -/
theorem backL1_room (room : (l2Of s core).length < 32768) : backL1 core key s =
    modL1 core (fun m => smod Line.empty m key Line.clean) (modL2 core
      (runsPut (sget Line.empty (s.core core).l1 key).scope key (sget Line.empty (s.core core).l1 key).runs) s) := by
  have here : roomL2 core key s = s := by
    unfold roomL2
    dsimp only
    exact if_pos (by rw [decide_eq_true room, Bool.or_true])
  unfold backL1
  dsimp only
  rw [here, ite_self]
  rfl

end

/-- What a write-back from an L1 leaves. -/
structure WrittenBack (core key : Nat) (drop : Bool) (s t : State) : Prop where
  others  : ∀ k, k ≠ key → sget Line.empty (t.core core).l1 k = sget Line.empty (s.core core).l1 k
  dropped : drop = true → ∀ e ∈ (t.core core).l1, e.1 = key → e.2.dirty ≠ 0
  clean   : drop = false → sget Line.empty (t.core core).l1 key = (sget Line.empty (s.core core).l1 key).clean
  cells   : t.mem.hbm = s.mem.hbm ∧ t.mem.poison = s.mem.poison
  below   : ∀ i, i < 128 → (sget Line.empty (s.core core).l1 key).dirty.getLsbD i = true →
    belowL1 t core (128 * key + i) = some ((sget Line.empty (s.core core).l1 key).byte i)

theorem sget_filterLine {m : Sparse Line} {key k : Nat} (other : k ≠ key) :
    sget Line.empty (m.filter (fun p => !(p.1 == key && p.2.dirty == 0))) k = sget Line.empty m k := by
  induction m with
  | nil => rfl
  | cons p m ih =>
    obtain ⟨j, l⟩ := p
    rw [List.filter_cons]
    by_cases here : k = j
    · have kept : (!(j == key && l.dirty == 0)) = true := by
        rw [beq_eq_false_iff_ne.mpr (here ▸ other)]
        rfl
      rw [if_pos kept]
      simp [sget, here]
    · split
      · simpa [sget, here] using ih
      · simpa [sget, here] using ih

theorem writtenBack_of_room {core key : Nat} {s : State} (room : (l2Of s core).length < 32768) (drop : Bool) :
    WrittenBack core key drop s
      (if drop then dropClean (.l1 core) key (backL1 core key s) else backL1 core key s) := by
  rw [backL1_room room]
  generalize hl : sget Line.empty (s.core core).l1 key = l
  generalize hb : modL2 core (runsPut l.scope key l.runs) s = u
  have l1 : (u.core core).l1 = (s.core core).l1 := by rw [← hb]; rfl
  have cells : u.mem.hbm = s.mem.hbm ∧ u.mem.poison = s.mem.poison := by rw [← hb]; exact ⟨rfl, rfl⟩
  have l2 : l2Of u core = runsPut l.scope key l.runs (l2Of s core) := by rw [← hb]; exact l2Of_modL2 ..
  have clean (k : Nat) : sget Line.empty (smod Line.empty (u.core core).l1 key Line.clean) k =
      if k = key then l.clean else sget Line.empty (s.core core).l1 k := by
    rw [l1]
    split
    · rename_i here
      rw [here, sget_smod_self, hl]
    · rename_i other
      exact sget_smod_ne _ _ _ other
  have below (t : State) (same : l2Of t core = l2Of u core) (i : Nat) (hi : i < 128) (dirty : l.dirty.getLsbD i = true) :
      belowL1 t core (128 * key + i) = some (l.byte i) := by
    rw [belowL1_eq, same, l2, Nat.mul_comm, cacheByte_runsPut hi dirty]
    rfl
  cases drop with
  | false =>
    refine ⟨fun k other => ?_, fun h => Bool.noConfusion h, fun _ => ?_, cells, fun i hi dirty => ?_⟩
    · rw [if_neg (by decide), l1_modL1, clean, if_neg other]
    · rw [if_neg (by decide), l1_modL1, clean, if_pos rfl, hl]
    · rw [hl] at dirty ⊢
      exact below _ rfl i hi dirty
  | true =>
    have filtered : ((dropClean (.l1 core) key (modL1 core (fun m => smod Line.empty m key Line.clean) u)).core core).l1 =
        (smod Line.empty (u.core core).l1 key Line.clean).filter (fun p => !(p.1 == key && p.2.dirty == 0)) := by
      unfold dropClean
      dsimp only
      rw [l1_modL1, l1_modL1]
    refine ⟨fun k other => ?_, fun _ e he here => ?_, fun h => Bool.noConfusion h, cells, fun i hi dirty => ?_⟩
    · rw [if_pos rfl, filtered, sget_filterLine other, clean, if_neg other]
    · rw [if_pos rfl, filtered] at he
      have kept := (List.mem_filter.mp he).2
      simpa [here] using kept
    · rw [hl] at dirty ⊢
      exact below _ rfl i hi dirty

/-! ### A line of an L2 (R258) -/

/-- `t` is `s` but for cells, poison and what the arrival of requests changes; no request waits. -/
structure Written (s t : State) : Prop where
  only  : ∃ pcs hbm poison, t = s.withMem { s.mem with pcs := pcs, hbm := hbm, poison := poison }
  quiet : t.quiet

theorem Written.trans {s t u : State} (h : Written s t) (g : Written t u) : Written s u := by
  obtain ⟨⟨_, _, _, rfl⟩, -⟩ := h
  obtain ⟨⟨_, _, _, rfl⟩, quiet⟩ := g
  exact ⟨⟨_, _, _, rfl⟩, quiet⟩

theorem Written.cell {s t : State} (h : Written s t) (a : Nat) : t.mem.cell a = s.mem.cell a := by
  obtain ⟨⟨_, _, _, rfl⟩, -⟩ := h
  rfl

theorem quiet_modPc {s : State} (quiet : s.quiet) (pc : Nat) {f : PcSt → PcSt}
    (none : (f (s.pcSt pc)).queue = []) : (s.modPc pc f).quiet := by
  refine ⟨fun k => ?_, quiet.2⟩
  by_cases here : k = pc
  · rw [here, pcSt_modPc]
    exact none
  · rw [pcSt_modPc_ne _ _ here]
    exact quiet.1 k

section
variable {s : State} (quiet : s.quiet)
include quiet

theorem reachCell_stays (core off : Nat) : ∃ pcs, reachCell core off s = s.withPcs pcs ∧ (s.withPcs pcs).quiet := by
  have free : (if heldFrom s (channelOf s off) (directReq core off) then s.waitTurn else s) = s := by
    rw [heldFrom_quiet quiet]; rfl
  have alone : (s.pcSt (channelOf s off)).queue = [] := quiet.1 _
  have turn : ((s.pcSt (channelOf s off)).queue.isEmpty && pcClass .other == .normal) = true := by rw [alone]; rfl
  have reached : reachCell core off s = s.modPc (channelOf s off) fun p => { p with idleFrom := s.now, selfRef := false } := by
    unfold reachCell takeTurn
    dsimp only [directReq_off]
    rw [free]
    exact if_pos turn
  have after := quiet_modPc quiet (channelOf s off) (f := fun p => { p with idleFrom := s.now, selfRef := false }) alone
  exact ⟨_, reached, after⟩

theorem reachRange_stays (core off n : Nat) : ∃ pcs, reachRange core off n s = s.withPcs pcs ∧ (s.withPcs pcs).quiet := by
  unfold reachRange
  generalize pieces 256 off n = l
  induction l generalizing s with
  | nil => exact ⟨s.mem.pcs, rfl, quiet⟩
  | cons p l ih =>
    obtain ⟨pcs, reached, after⟩ := reachCell_stays quiet core p.1
    obtain ⟨pcs', later, last⟩ := ih after
    exact ⟨pcs', by rw [List.foldl_cons, reached, later]; rfl, last⟩

/-- Bytes written to plain cells in their turn. -/
theorem plainWrite_writes (core off : Nat) (bs : List Byte) : ∃ pcs,
    plainWrite core off bs s = (s.withPcs pcs).withMem ((s.withPcs pcs).mem.write off bs) ∧ (s.withPcs pcs).quiet := by
  obtain ⟨pcs, reached, after⟩ := reachRange_stays quiet core off bs.length
  refine ⟨pcs, ?_, after⟩
  unfold plainWrite
  dsimp only
  rw [reached]
  exact if_neg (by rw [severed_quiet after]; decide)

theorem written_plainWrite (core off : Nat) (bs : List Byte) : Written s (plainWrite core off bs s) := by
  obtain ⟨pcs, wrote, after⟩ := plainWrite_writes quiet core off bs
  have only := (s.withPcs pcs).mem.cellsOnly_write off bs
  rw [wrote]
  generalize (s.withPcs pcs).mem.write off bs = m at only
  unfold MemSt.CellsOnly at only
  have same : (s.withPcs pcs).withMem m = s.withMem { s.mem with pcs := pcs, hbm := m.hbm, poison := m.poison } := by
    rw [only]; rfl
  refine ⟨⟨pcs, m.hbm, m.poison, same⟩, ?_⟩
  rw [same]
  exact ⟨after.1, after.2⟩

theorem byte_plainWrite {core off o : Nat} {bs : List Byte} (fits : off + bs.length ≤ 2 ^ 39) (ho : o < 2 ^ 39) :
    (plainWrite core off bs s).mem.byte o = if off ≤ o then (bs[o - off]?).getD (s.mem.byte o) else s.mem.byte o := by
  obtain ⟨pcs, wrote, -⟩ := plainWrite_writes quiet core off bs
  have same : (s.withPcs pcs).mem.byte o = s.mem.byte o := rfl
  rw [wrote, ← same]
  exact MemSt.byte_write fits ho

end

/-- Runs of a line written at its home: their bytes stand there, and no other byte changes. -/
theorem runsWritten {l : Line} {key core : Nat} (fits : key * 128 + 128 ≤ 2 ^ 39) {runs : List (Nat × List Byte)}
    (each : ∀ r ∈ runs, l.IsRun r) {s : State} (quiet : s.quiet) :
    let t := runs.foldl (fun s r => writeHome core (key * 128 + r.1) r.2 s) s
    Written s t ∧ ∀ o, o < 2 ^ 39 →
      (((∃ r ∈ runs, key * 128 + r.1 ≤ o ∧ o < key * 128 + r.1 + r.2.length) ∨ s.mem.byte o = l.byte (o - key * 128)) →
        t.mem.byte o = l.byte (o - key * 128)) ∧
      ((∀ r ∈ runs, o < key * 128 + r.1 ∨ key * 128 + r.1 + r.2.length ≤ o) → t.mem.byte o = s.mem.byte o) := by
  induction runs generalizing s with
  | nil =>
    refine ⟨⟨⟨s.mem.pcs, s.mem.hbm, s.mem.poison, rfl⟩, quiet⟩, fun o _ => ⟨?_, fun _ => rfl⟩⟩
    rintro (⟨r, hr, -⟩ | here)
    · cases hr
    · exact here
  | cons r runs ih =>
    have run := each r List.mem_cons_self
    have inside := run.inside
    have near : writeHome core (key * 128 + r.1) r.2 s = plainWrite core (key * 128 + r.1) r.2 s :=
      if_pos (decide_eq_true (by omega))
    have first := written_plainWrite quiet core (key * 128 + r.1) r.2
    have byte {o : Nat} (ho : o < 2 ^ 39) := byte_plainWrite quiet (core := core) (off := key * 128 + r.1) (bs := r.2)
      (by omega) ho
    obtain ⟨later, bytes⟩ := ih (fun q hq => each q (List.mem_cons_of_mem _ hq)) first.quiet
    dsimp only at later bytes ⊢
    rw [List.foldl_cons, near]
    refine ⟨first.trans later, fun o ho => ⟨fun h => (bytes o ho).1 ?_, fun away => ?_⟩⟩
    · by_cases range : key * 128 + r.1 ≤ o ∧ o < key * 128 + r.1 + r.2.length
      · have place : r.1 + (o - (key * 128 + r.1)) = o - key * 128 := by omega
        have value := (run.dirty _ _ (List.getElem?_eq_getElem (show o - (key * 128 + r.1) < r.2.length by omega))).2
        refine .inr ?_
        rw [byte ho, if_pos range.1, List.getElem?_eq_getElem (by omega), Option.getD_some, value, place]
      · have kept : (plainWrite core (key * 128 + r.1) r.2 s).mem.byte o = s.mem.byte o := by
          rw [byte ho]
          split
          · rw [List.getElem?_eq_none (by omega), Option.getD_none]
          · rfl
        rw [kept]
        rcases h with ⟨q, hq, there⟩ | same
        · rcases List.mem_cons.mp hq with rfl | rest
          · exact absurd there range
          · exact .inl ⟨q, rest, there⟩
        · exact .inr same
    · rw [(bytes o ho).2 fun q hq => away q (List.mem_cons_of_mem _ hq), byte ho]
      rcases away r List.mem_cons_self with low | high
      · rw [if_neg (by omega)]
      · rw [List.getElem?_eq_none (by omega), Option.getD_none, ite_self]

/-- What a write-back from an L2 leaves. -/
structure WrittenHome (l : Line) (key : Nat) (s t : State) : Prop where
  cores  : t.cores = s.cores
  home   : ∀ i, i < 128 → l.dirty.getLsbD i = true → t.mem.byte (128 * key + i) = l.byte i
  others : ∀ a, a < 2 ^ 39 → (a / 128 = key → l.dirty.getLsbD (a % 128) = false) → t.mem.byte a = s.mem.byte a

theorem WrittenHome.modL2 {l : Line} {key : Nat} {s t : State} (h : WrittenHome l key s t) (core : Nat)
    (f : Sparse Line → Sparse Line) : WrittenHome l key s (modL2 core f t) := ⟨h.cores, h.home, h.others⟩

theorem writtenHome_backL2 {core key : Nat} {s : State} (quiet : s.quiet) (fits : 128 * key < 2 ^ 39) :
    WrittenHome (sget Line.empty (l2Of s core) key) key s (backL2 core key s) := by
  unfold backL2
  dsimp only
  generalize sget Line.empty (l2Of s core) key = l
  have runs := l.runsTo_runs
  obtain ⟨⟨⟨pcs, hbm, poison, only⟩, -⟩, bytes⟩ := runsWritten (key := key) (core := core) (by omega) runs.each quiet
  refine WrittenHome.modL2 ⟨?_, fun i hi dirty => ?_, fun a ha clean => ?_⟩ core _
  · rw [only]; rfl
  · obtain ⟨r, hr, low, high⟩ := runs.covers i hi dirty
    have place : 128 * key + i - key * 128 = i := by omega
    have byte := (bytes (128 * key + i) (by omega)).1 (.inl ⟨r, hr, by omega, by omega⟩)
    rwa [place] at byte
  · refine (bytes a ha).2 fun r hr => ?_
    by_contra range
    have inside := (runs.each r hr).inside
    have line : a / 128 = key := by omega
    have place : r.1 + (a - (key * 128 + r.1)) = a % 128 := by omega
    have dirty := ((runs.each r hr).dirty _ _ (List.getElem?_eq_getElem
      (show a - (key * 128 + r.1) < r.2.length by omega))).1
    rw [place, clean line] at dirty
    cases dirty

/-! ### LINE_WRITE_BACK -/

section
variable {s : State}

theorem lineWriteBack_empty (empty : lineAt s s.input.cache s.input.n = Line.empty) : exec .lineWriteBack s = .next s := by
  rw [exec_lineWriteBack]
  unfold execLineWriteBack
  exact when_not _ _ (decide_eq_false (not_not.mpr empty))

theorem lineWriteBack_l1 {core : Nat} (cache : s.input.cache = .l1 core)
    (holds : lineAt s s.input.cache s.input.n ≠ Line.empty) : exec .lineWriteBack s =
      .next (if s.input.flag then dropClean (.l1 core) s.input.n (backL1 core s.input.n s) else backL1 core s.input.n s) := by
  rw [exec_lineWriteBack]
  unfold execLineWriteBack
  refine (when_of _ _ (decide_eq_true holds)).trans ?_
  rw [cache]

theorem lineWriteBack_l2 {quad : Nat} (cache : s.input.cache = .l2 quad)
    (holds : lineAt s s.input.cache s.input.n ≠ Line.empty) : exec .lineWriteBack s =
      .next (if s.input.flag then dropClean (.l2 quad) s.input.n (backL2 (4 * quad) s.input.n s)
        else backL2 (4 * quad) s.input.n s) := by
  rw [exec_lineWriteBack]
  unfold execLineWriteBack
  refine (when_of _ _ (decide_eq_true holds)).trans ?_
  rw [cache]

/-- A line of an L2 written back by the event. -/
theorem writtenHome_lineWriteBack {quad : Nat} (cache : s.input.cache = .l2 quad)
    (holds : lineAt s s.input.cache s.input.n ≠ Line.empty) (near : 128 * s.input.n < 2 ^ 39) (quiet : s.quiet) :
    Answers .lineWriteBack s (WrittenHome (lineAt s s.input.cache s.input.n) s.input.n s) := by
  have back := writtenHome_backL2 (core := 4 * quad) quiet near
  refine ⟨_, lineWriteBack_l2 cache holds, ?_⟩
  rw [cache]
  split
  · exact back.modL2 _ _
  · exact back

end

end Sys2Proof.Machine
end

section
/-! SUPPORT. The normaliser's sweep (R92): what a sweep leaves of each metadata word, one after another. -/

namespace Sys2Proof.Machine

/-! ### Metadata words by their keys (R81) -/

theorem metaKeyOf_metaOff {key : Nat} (stack : key / 2 ^ 36 < 8) (region : key / 2 ^ 24 % 64 = 63) :
    metaKeyOf (metaOff key) = key := by
  have fields : key = key / 2 ^ 36 % 8 * 2 ^ 36 + bits key 35 30 * 2 ^ 30 + 63 * 2 ^ 24 + bits key 23 8 * 2 ^ 8 + bits key 7 0 := by
    simp only [bits]
    omega
  have channel := bits_lt key 35 30
  have block := bits_lt key 23 8
  have byte := bits_lt key 7 0
  have die : key / 2 ^ 36 % 8 < 8 := Nat.mod_lt _ (by decide)
  unfold metaOff
  generalize key / 2 ^ 36 % 8 = c, bits key 35 30 = p, bits key 23 8 = b, bits key 7 0 = d at *
  subst fields
  clear stack region
  have place : bits (63 * 2 ^ 33 + b * 2 ^ 17 + p * 2 ^ 11 + c * 2 ^ 8 + d) 10 8 = c ∧
      bits (63 * 2 ^ 33 + b * 2 ^ 17 + p * 2 ^ 11 + c * 2 ^ 8 + d) 16 11 = p ∧
      bits (63 * 2 ^ 33 + b * 2 ^ 17 + p * 2 ^ 11 + c * 2 ^ 8 + d) 38 33 = 63 ∧
      bits (63 * 2 ^ 33 + b * 2 ^ 17 + p * 2 ^ 11 + c * 2 ^ 8 + d) 32 17 = b ∧
      bits (63 * 2 ^ 33 + b * 2 ^ 17 + p * 2 ^ 11 + c * 2 ^ 8 + d) 7 0 = d := by
    simp only [bits]
    refine ⟨?_, ?_, ?_, ?_, ?_⟩ <;> omega
  obtain ⟨hc, hp, hr, hb, hd⟩ := place
  have key_eq (off : Nat) : metaKeyOf off = (bits off 10 8 * 64 + bits off 16 11) * 2 ^ 30 +
      (bits off 38 33 * 2 ^ 24 + bits off 32 17 * 2 ^ 8 + bits off 7 0) := rfl
  rw [key_eq, hc, hp, hr, hb, hd]
  omega

/-- The metadata word at a key. -/
def MemSt.wordAt (m : MemSt) (key : Nat) : Nat := fromBytes (sread memDefault m.hbm key 4)

/-- A metadata word as a sweep leaves it, by the states of the tags (R91, R92). -/
def sweptWord (status : Nat → TagState) (w : Nat) : Nat :=
  let md := metaOf w
  if md.rsv ≠ 0 then (⟨0, 0, 0, md.acc, true, 0⟩ : Meta).word
  else if md.tag = 0 then w
  else match status md.tag with
    | .aborted => { md with cur := 1 - md.cur, tag := 0 }.word
    | .committed => { md with tag := 0 }.word
    | _ => w

/-- A word of tag 0 without reserved bits stays. -/
theorem sweptWord_idle (status : Nat → TagState) {md : Meta} (fits : md.Fits) (rsv : md.rsv = 0) (tag : md.tag = 0) :
    sweptWord status md.word = md.word := by
  unfold sweptWord
  dsimp only
  rw [fits.metaOf_word, if_neg (not_not.mpr rsv), if_pos tag]

/-- A word that was swept is left as it is by a second sweep. -/
theorem sweptWord_sweptWord (status : Nat → TagState) (w : Nat) :
    sweptWord status (sweptWord status w) = sweptWord status w := by
  obtain ⟨cur, tag, owner, rsv⟩ := metaOf_fits w
  by_cases bad : (metaOf w).rsv ≠ 0
  · have is : sweptWord status w = (⟨0, 0, 0, (metaOf w).acc, true, 0⟩ : Meta).word := if_pos bad
    rw [is]
    exact sweptWord_idle status ⟨Nat.two_pos, Nat.succ_pos _, Nat.succ_pos _, Nat.two_pow_pos _⟩ rfl rfl
  · by_cases none : (metaOf w).tag = 0
    · have is : sweptWord status w = w := (if_neg bad).trans (if_pos none)
      rw [is, is]
    · cases state : status (metaOf w).tag with
      | aborted =>
        have is : sweptWord status w = { metaOf w with cur := 1 - (metaOf w).cur, tag := 0 }.word := by
          refine (if_neg bad).trans ((if_neg none).trans ?_)
          rw [state]
        rw [is]
        exact sweptWord_idle status ⟨by dsimp only; omega, Nat.succ_pos _, owner, rsv⟩ (not_not.mp bad) rfl
      | committed =>
        have is : sweptWord status w = { metaOf w with tag := 0 }.word := by
          refine (if_neg bad).trans ((if_neg none).trans ?_)
          rw [state]
        rw [is]
        exact sweptWord_idle status ⟨cur, Nat.succ_pos _, owner, rsv⟩ (not_not.mp bad) rfl
      | _ =>
        have is : sweptWord status w = w := by
          refine (if_neg bad).trans ((if_neg none).trans ?_)
          rw [state]
        rw [is, is]

/-! ### The requests of a sweep (R73, R76) -/

/-- The normaliser's request for the metadata word at an offset. -/
def sweepReq (off : Nat) : PcReq := ⟨0, .normaliser, off, .normalise, none, 512, 0, 0⟩

/-- `t` is `s` but for pseudo-channels and free values; no request waits. -/
structure TurnTaken (s t : State) : Prop where
  only  : ∃ pcs n, t = { s with mem := { s.mem with pcs := pcs }, nextId := n }
  quiet : t.quiet

/-- A sweep's request that waits alone is picked. -/
theorem pickRequest_sweep {m : MemSt} {now slack : Nat} {hit : Nat → Bool} {low : Bool} {w : PcWaiting}
    (sweep : pcClass w.req.src = .sweep) : pickRequest m now slack hit low [w] = some w := by
  have first : PcWaiting.first m [w] w = true := by simp [PcWaiting.first]
  have isSweep : w.isSweep = true := by unfold PcWaiting.isSweep; rw [sweep]
  have td : w.td = none := by unfold PcWaiting.td; rw [sweep]
  simp [pickRequest, first, isSweep, td, leastBy]

theorem sweep_links {s : State} {off i : Nat} (h : i ∈ linksOf (channelOf s off) (sweepReq off)) : internal i = true := by
  have stack := channelOf_div_lt s off
  have is : i = 4 + channelOf s off / 64 := List.mem_singleton.mp h
  rw [internal_iff]
  omega

/-- The queue that holds one request alone loses it as its turn ends. -/
theorem takePc_sweep (pc : Nat) {w : PcWaiting} (sweep : pcClass w.req.src = .sweep) (s : State) :
    takePc pc w s = s.modPc pc (PcSt.left s.now w.arr) := by
  have td : w.td = none := by unfold PcWaiting.td; rw [sweep]
  unfold takePc
  rw [td]
  rfl

/-- A sweep's request that waits alone has its turn. -/
theorem turnUntil_sweep {pc : Nat} {w : PcWaiting} {s : State} (alone : (s.pcSt pc).queue = [w])
    (sweep : pcClass w.req.src = .sweep) : turnUntil pc w.arr 1 s = takePc pc w s.fresh.2 := by
  have filtered : (s.fresh.2.pcSt pc).queue.filter (fun v => v.arr == w.arr || reaches s.fresh.2 pc v) = [w] := by
    change (s.pcSt pc).queue.filter _ = _
    rw [alone]
    simp
  unfold turnUntil
  dsimp only
  rw [filtered, pickRequest_sweep sweep]
  exact if_pos rfl

/-- A sweep's request as it waits at a pseudo-channel. -/
def PcSt.swept (now off : Nat) (p : PcSt) : PcSt := { p.arrive now (sweepReq off) with selfRef := false }

/-- A sweep's request at a pseudo-channel where none waits has its turn at once. -/
theorem takeTurn_sweep {s : State} (quiet : s.quiet) (off : Nat) : TurnTaken s (takeTurn (sweepReq off) s) := by
  have held : heldFrom s (channelOf s off) (sweepReq off) = false := by
    simp only [heldFrom, List.any_eq_false, beq_iff_eq]
    exact fun i hi => (quiet.2 i (sweep_links hi)).1
  have free : (if heldFrom s (channelOf s off) (sweepReq off) then s.waitTurn else s) = s := by rw [held]; rfl
  have turn : takeTurn (sweepReq off) s = turnUntil (channelOf s off) (s.pcSt (channelOf s off)).next
      ((s.pcSt (channelOf s off)).queue.length + 1) (s.modPc (channelOf s off) (PcSt.swept s.now off)) := by
    unfold takeTurn
    dsimp only
    rw [show (sweepReq off).off = off from rfl, free]
    have other : (pcClass (sweepReq off).src == .normal) = false := rfl
    exact if_neg (by rw [other, Bool.and_false]; decide)
  generalize channelOf s off = pc at turn
  have none := quiet.1 pc
  have alone : ((s.modPc pc (PcSt.swept s.now off)).pcSt pc).queue = [⟨sweepReq off, (s.pcSt pc).next⟩] := by
    rw [pcSt_modPc]
    change (s.pcSt pc).queue ++ _ = _
    rw [none]
    rfl
  have after := (turnUntil_sweep alone rfl).trans (takePc_sweep pc rfl _)
  have whole : takeTurn (sweepReq off) s = (s.modPc pc (PcSt.swept s.now off)).fresh.2.modPc pc
      (PcSt.left s.now (s.pcSt pc).next) := by
    rw [turn, none]
    exact after
  rw [whole]
  refine ⟨⟨_, s.nextId + 1, rfl⟩, fun k => ?_, quiet.2⟩
  by_cases here : k = pc
  · rw [here, pcSt_modPc]
    change ((s.modPc pc (PcSt.swept s.now off)).pcSt pc).queue.filter _ = []
    rw [alone]
    simp
  · rw [pcSt_modPc_ne _ _ here]
    exact (congrArg PcSt.queue (pcSt_modPc_ne s (PcSt.swept s.now off) here)).trans (quiet.1 k)

theorem throughPc_sweep {s : State} (quiet : s.quiet) (off : Nat) : ∃ u, TurnTaken s u ∧
    (throughPc (sweepReq off) s).1 = sweepWord (metaKeyOf off) u := by
  have turn := takeTurn_sweep quiet off
  refine ⟨_, turn, ?_⟩
  unfold throughPc
  dsimp only
  generalize takeTurn (sweepReq off) s = u at turn ⊢
  have whole : cutFrom u (channelOf u off) (sweepReq off) = false := by
    simp only [cutFrom, List.any_eq_false, beq_iff_eq]
    exact fun i hi => (turn.quiet.2 i (sweep_links hi)).2
  rw [if_neg (by rw [show (sweepReq off).off = off from rfl, whole]; decide)]
  exact passRequest_none (q := sweepReq off) (.inl rfl) (performPc (sweepReq off) u).2.err (performPc (sweepReq off) u).1

/-! ### One word swept (R91, R92) -/

/-- From `s` to `t` the metadata word at `key` is swept. -/
structure SweepsWord (key : Nat) (s t : State) : Prop where
  only : ∃ hbm flags, t = { s with mem := { s.mem with hbm := hbm }, arb := { s.arb with hwFlags := flags } }
  word : t.mem.wordAt key = sweptWord (s.mem.status (key / 2 ^ 36)) (s.mem.wordAt key)
  others : ∀ j, j < key ∨ key + 4 ≤ j → sget memDefault t.mem.hbm j = sget memDefault s.mem.hbm j
  flags : (metaOf (s.mem.wordAt key)).rsv ≠ 0 → ∀ g, 1 ≤ g → g < 64 → sget .free s.mem.master g = .active →
    (sget 0 t.arb.hwFlags g).getLsbD 8 = true
  kept : ∀ g, (sget 0 s.arb.hwFlags g).getLsbD 8 = true → (sget 0 t.arb.hwFlags g).getLsbD 8 = true

/-- The stacks with a metadata word put at a key. -/
def putWord (key : Nat) (md : Meta) (s : State) : State :=
  s.withMem { s.mem with hbm := swrite memDefault s.mem.hbm key (toBytes 4 md.word) }

theorem putWord_frame (key : Nat) (md : Meta) (s : State) :
    ∃ hbm, putWord key md s = s.withMem { s.mem with hbm := hbm } := ⟨_, rfl⟩

theorem wordAt_putWord {md : Meta} (fits : md.Fits) (key : Nat) (s : State) :
    (putWord key md s).mem.wordAt key = md.word := by
  have read := sread_swrite memDefault s.mem.hbm key (toBytes 4 md.word)
  rw [length_toBytes] at read
  exact (congrArg fromBytes read).trans fits.fromBytes_word

theorem putWord_others {md : Meta} {key j : Nat} (away : j < key ∨ key + 4 ≤ j) (s : State) :
    sget memDefault (putWord key md s).mem.hbm j = sget memDefault s.mem.hbm j :=
  sget_swrite_outside memDefault (by rw [length_toBytes]; exact away)

theorem sweepWord_eq (key : Nat) (s : State) : sweepWord key s =
    if (metaOf (s.mem.wordAt key)).rsv ≠ 0 then (liveTags s).foldl (fun s t => raiseTag t flCORR s)
      (putWord key ⟨0, 0, 0, (metaOf (s.mem.wordAt key)).acc, true, 0⟩ s)
    else if (metaOf (s.mem.wordAt key)).tag ≠ 0 ∧
        (s.mem.status (key / 2 ^ 36) (metaOf (s.mem.wordAt key)).tag = .committed ∨
          s.mem.status (key / 2 ^ 36) (metaOf (s.mem.wordAt key)).tag = .aborted) then
      putWord key (normalise s.mem (key / 2 ^ 36) (metaOf (s.mem.wordAt key))) s
    else s := rfl

theorem sweepsWord_putWord {key : Nat} {md : Meta} {s : State} (fits : md.Fits)
    (is : md.word = sweptWord (s.mem.status (key / 2 ^ 36)) (s.mem.wordAt key))
    (fine : (metaOf (s.mem.wordAt key)).rsv = 0) : SweepsWord key s (putWord key md s) := by
  have word := (wordAt_putWord fits key s).trans is
  have others (j : Nat) (away : j < key ∨ key + 4 ≤ j) := putWord_others (md := md) away s
  obtain ⟨hbm, frame⟩ := putWord_frame key md s
  rw [frame] at word others ⊢
  exact ⟨⟨hbm, s.arb.hwFlags, rfl⟩, word, others, fun bad => absurd fine bad, fun _ h => h⟩

theorem sweepWord_sweeps (key : Nat) (s : State) : SweepsWord key s (sweepWord key s) := by
  rw [sweepWord_eq]
  generalize hw : s.mem.wordAt key = w
  have fits := metaOf_fits w
  by_cases bad : (metaOf w).rsv ≠ 0
  · rw [if_pos bad]
    have is : sweptWord (s.mem.status (key / 2 ^ 36)) (s.mem.wordAt key) =
        (⟨0, 0, 0, (metaOf w).acc, true, 0⟩ : Meta).word := by rw [hw]; exact if_pos bad
    have word := wordAt_putWord (md := ⟨0, 0, 0, (metaOf w).acc, true, 0⟩)
      ⟨Nat.two_pos, Nat.succ_pos _, Nat.succ_pos _, Nat.two_pow_pos _⟩ key s
    have others {j : Nat} := putWord_others (md := ⟨0, 0, 0, (metaOf w).acc, true, 0⟩) (key := key) (j := j) (s := s)
    obtain ⟨hbm, frame⟩ := putWord_frame key ⟨0, 0, 0, (metaOf w).acc, true, 0⟩ s
    rw [frame] at word others ⊢
    have raised {g : Nat} (low : 1 ≤ g) (high : g < 64) (active : sget .free s.mem.master g = .active) :=
      corr_raised (mem_liveTags low high active) (by omega) (s.withMem { s.mem with hbm := hbm })
    have mono {g : Nat} (h : (sget 0 s.arb.hwFlags g).getLsbD 8 = true) :=
      corr_raised_mono (liveTags s) (s := s.withMem { s.mem with hbm := hbm }) h
    obtain ⟨flags, e⟩ := raiseLive_eq (liveTags s) (s.withMem { s.mem with hbm := hbm })
    rw [e] at raised mono ⊢
    exact ⟨⟨hbm, flags, rfl⟩, word.trans is.symm, fun _ away => others away, fun _ _ low high active => raised low high active,
      fun _ h => mono h⟩
  · rw [if_neg bad]
    have fine : (metaOf (s.mem.wordAt key)).rsv = 0 := by rw [hw]; exact not_not.mp bad
    split
    · rename_i settled
      obtain ⟨tag, state⟩ := settled
      refine sweepsWord_putWord (normalise_fits fits _ _) ?_ fine
      rw [hw]
      refine Eq.trans ?_ ((if_neg bad).trans (if_neg tag)).symm
      unfold normalise
      rcases state with state | state
      · rw [state, if_pos ⟨tag, by decide⟩, if_neg (by decide)]
      · rw [state, if_pos ⟨tag, by decide⟩, if_pos rfl]
    · rename_i open'
      refine ⟨⟨s.mem.hbm, s.arb.hwFlags, rfl⟩, ?_, fun _ _ => rfl, fun bad => absurd fine bad, fun _ h => h⟩
      rw [hw]
      refine Eq.symm ((if_neg bad).trans ?_)
      split
      · rfl
      · rename_i tag
        cases state : s.mem.status (key / 2 ^ 36) (metaOf w).tag with
        | committed => exact absurd ⟨tag, .inl state⟩ open'
        | aborted => exact absurd ⟨tag, .inr state⟩ open'
        | _ => rfl

end Sys2Proof.Machine
end

section
/-! SUPPORT. The normaliser's sweep as a whole (R84, R92, R117): every metadata word of the stack, the NBT, and the tags that
become free. -/

namespace Sys2Proof.Machine

/-! ### Words swept one after another -/

/-- From `s` to `t` the metadata words at `keys`, of stack `st`, are swept. -/
structure Sweeps (st : Nat) (keys : List Nat) (s t : State) : Prop where
  only   : ∃ pcs n hbm flags, t = { s with mem := { s.mem with pcs := pcs, hbm := hbm }, nextId := n,
                                           arb := { s.arb with hwFlags := flags } }
  quiet  : t.quiet
  words  : ∀ k, k % 4 = 0 → t.mem.wordAt k =
    if k ∈ keys then sweptWord (s.mem.status st) (s.mem.wordAt k) else s.mem.wordAt k
  others : ∀ j, (∀ k ∈ keys, j < k ∨ k + 4 ≤ j) → sget memDefault t.mem.hbm j = sget memDefault s.mem.hbm j
  flags  : ∀ k ∈ keys, k % 4 = 0 → (metaOf (s.mem.wordAt k)).rsv ≠ 0 → ∀ g, 1 ≤ g → g < 64 →
    sget .free s.mem.master g = .active → (sget 0 t.arb.hwFlags g).getLsbD 8 = true
  kept   : ∀ g, (sget 0 s.arb.hwFlags g).getLsbD 8 = true → (sget 0 t.arb.hwFlags g).getLsbD 8 = true

theorem Sweeps.nil {st : Nat} {s : State} (quiet : s.quiet) : Sweeps st [] s s :=
  ⟨⟨s.mem.pcs, s.nextId, s.mem.hbm, s.arb.hwFlags, rfl⟩, quiet, fun _ _ => rfl, fun _ _ => rfl,
    fun _ h => absurd h List.not_mem_nil, fun _ h => h⟩

theorem Sweeps.cons {st k : Nat} {keys : List Nat} {s t u : State} (h : Sweeps st [k] s t) (g : Sweeps st keys t u) :
    Sweeps st (k :: keys) s u := by
  have status : t.mem.status st = s.mem.status st := by
    obtain ⟨_, _, _, _, e⟩ := h.only
    rw [e]
    rfl
  have master : t.mem.master = s.mem.master := by
    obtain ⟨_, _, _, _, e⟩ := h.only
    rw [e]
  refine ⟨?_, g.quiet, fun j hj => ?_, fun j away => ?_, fun j hj aligned bad tag low high active => ?_,
    fun tag on => g.kept tag (h.kept tag on)⟩
  · obtain ⟨_, _, _, _, e⟩ := h.only
    obtain ⟨pcs, n, hbm, flags, e'⟩ := g.only
    exact ⟨pcs, n, hbm, flags, by rw [e', e]⟩
  · rw [g.words j hj, h.words j hj, status]
    by_cases here : j = k
    · subst here
      simp [sweptWord_sweptWord]
    · simp [here]
  · exact (g.others j fun i hi => away i (List.mem_cons_of_mem _ hi)).trans
      (h.others j fun i hi => away i (List.mem_singleton.mp hi ▸ List.mem_cons_self))
  · by_cases here : j = k
    · subst here
      exact g.kept tag (h.flags j (List.mem_singleton_self j) aligned bad tag low high active)
    · have later : j ∈ keys := (List.mem_cons.mp hj).resolve_left here
      have same : t.mem.wordAt j = s.mem.wordAt j := by
        rw [h.words j aligned, if_neg (by simpa using here)]
      exact g.flags j later aligned (by rw [same]; exact bad) tag low high (by rw [master]; exact active)

/-- A sweep's request sweeps the word of its key. -/
theorem sweeps_throughPc {key : Nat} {s : State} (quiet : s.quiet) (stack : key / 2 ^ 36 < 8)
    (region : key / 2 ^ 24 % 64 = 63) (aligned : key % 4 = 0) :
    Sweeps (key / 2 ^ 36) [key] s (throughPc (sweepReq (metaOff key)) s).1 := by
  obtain ⟨u, turn, swept⟩ := throughPc_sweep quiet (metaOff key)
  rw [swept, metaKeyOf_metaOff stack region]
  have one := sweepWord_sweeps key u
  generalize sweepWord key u = t at one
  obtain ⟨⟨pcs, n, rfl⟩, still⟩ := turn
  obtain ⟨⟨hbm, flags, rfl⟩, word, others, raised, kept⟩ := one
  refine ⟨⟨pcs, n, hbm, flags, rfl⟩, still, fun k hk => ?_, fun j away => others j (away key (List.mem_singleton_self _)),
    fun k hk _ => ?_, kept⟩
  · by_cases here : k = key
    · subst here
      rw [if_pos (List.mem_singleton_self _)]
      exact word
    · rw [if_neg (by simpa using here)]
      exact congrArg fromBytes (sread_congr fun j low high => others j (by omega))
  · rw [List.mem_singleton.mp hk]
    exact raised

/-- The requests of a sweep, one after another. -/
theorem sweeps_foldl {st : Nat} (stack : st < 8) {keys : List Nat}
    (each : ∀ k ∈ keys, k / 2 ^ 36 = st ∧ k / 2 ^ 24 % 64 = 63 ∧ k % 4 = 0) {s : State} (quiet : s.quiet) :
    Sweeps st keys s (keys.foldl (fun s k => (throughPc (sweepReq (metaOff k)) s).1) s) := by
  induction keys generalizing s with
  | nil => exact .nil quiet
  | cons k keys ih =>
    obtain ⟨here, region, aligned⟩ := each k List.mem_cons_self
    have one := sweeps_throughPc quiet (here ▸ stack) region aligned
    rw [here] at one
    exact one.cons (ih (fun j hj => each j (List.mem_cons_of_mem _ hj)) one.quiet)

/-! ### The words that a stack holds (R81) -/

/-- The keys with the word of one more entry. -/
def addKey (l : List Nat) (p : Nat × Byte) : List Nat :=
  if l.getLast? = some (p.1 / 4 * 4) then l else l ++ [p.1 / 4 * 4]

theorem metaKeys_eq (m : MemSt) (st : Nat) : metaKeys m st =
    (m.hbm.filter (fun p => decide (p.1 / 2 ^ 36 = st ∧ p.1 / 2 ^ 24 % 64 = 63))).foldl addKey [] := rfl

theorem mem_addKey {l : List Nat} {p : Nat × Byte} {k : Nat} : k ∈ addKey l p ↔ k ∈ l ∨ k = p.1 / 4 * 4 := by
  unfold addKey
  split
  · rename_i last
    exact ⟨.inl, fun h => h.elim id fun e => e ▸ List.mem_of_getLast? last⟩
  · simp

theorem mem_addKeys {entries : List (Nat × Byte)} {l : List Nat} {k : Nat} :
    k ∈ entries.foldl addKey l ↔ k ∈ l ∨ ∃ p ∈ entries, k = p.1 / 4 * 4 := by
  induction entries generalizing l with
  | nil => simp
  | cons p entries ih => simp [ih, mem_addKey, or_assoc]

theorem mem_metaKeys {m : MemSt} {st k : Nat} : k ∈ metaKeys m st ↔
    ∃ p ∈ m.hbm, (p.1 / 2 ^ 36 = st ∧ p.1 / 2 ^ 24 % 64 = 63) ∧ k = p.1 / 4 * 4 := by
  simp [metaKeys_eq, mem_addKeys, and_assoc]

theorem metaKeys_place {m : MemSt} {st k : Nat} (h : k ∈ metaKeys m st) :
    k / 2 ^ 36 = st ∧ k / 2 ^ 24 % 64 = 63 ∧ k % 4 = 0 := by
  obtain ⟨p, -, ⟨stack, region⟩, rfl⟩ := mem_metaKeys.mp h
  omega

theorem sget_unlisted {α : Type} {d : α} {m : Sparse α} {k : Nat} (h : ∀ p ∈ m, p.1 ≠ k) : sget d m k = d := by
  induction m with
  | nil => rfl
  | cons p m ih =>
    obtain ⟨j, v⟩ := p
    have other : ¬ k = j := fun e => h (j, v) List.mem_cons_self e.symm
    exact (if_neg other).trans (ih fun q hq => h q (List.mem_cons_of_mem _ hq))

/-- A metadata word that no key of its stack names reads 0. -/
theorem wordAt_unlisted {m : MemSt} {st k : Nat} (aligned : k % 4 = 0) (stack : k / 2 ^ 36 = st)
    (region : k / 2 ^ 24 % 64 = 63) (h : k ∉ metaKeys m st) : m.wordAt k = 0 := by
  have unlisted (j : Nat) (low : k ≤ j) (high : j < k + 4) : sget memDefault m.hbm j = sget memDefault [] j :=
    sget_unlisted fun p hp e => h (mem_metaKeys.mpr ⟨p, hp, by omega, by omega⟩)
  exact (congrArg fromBytes (sread_congr unlisted)).trans rfl

/-! ### The tags that become free (R84, R94) -/

theorem statusWrite_frame (t : Nat) (st : TagState) (u : TagUser) (s : State) :
    ∃ m, statusWrite t st u s = s.withMem m ∧ m.hbm = s.mem.hbm ∧ m.poison = s.mem.poison := by
  cases h : tagMove (sget .free s.mem.master t) st with
  | true => exact ⟨_, statusWrite_listed h u, rfl, rfl⟩
  | false =>
    obtain ⟨b, e⟩ := statusWrite_unlisted h u
    exact ⟨_, e, rfl, rfl⟩

theorem freeSettled_frame (s : State) :
    ∃ m, freeSettled s = s.withMem m ∧ m.hbm = s.mem.hbm ∧ m.poison = s.mem.poison := by
  unfold freeSettled
  refine List.foldlRecOn (motive := fun u : State => ∃ m, u = s.withMem m ∧ m.hbm = s.mem.hbm ∧ m.poison = s.mem.poison)
    _ _ ⟨s.mem, rfl, rfl, rfl⟩ fun u h t _ => ?_
  obtain ⟨m, rfl, hbm, poison⟩ := h
  split
  · obtain ⟨n, e, hbm', poison'⟩ := statusWrite_frame t .free .nobody (s.withMem m)
    exact ⟨n, by rw [e]; rfl, hbm'.trans hbm, poison'.trans poison⟩
  · exact ⟨m, rfl, hbm, poison⟩

/-! ### NORMALISER_SWEEP_START and NORMALISER_SWEEP_COMPLETE -/

/-- The state in which the words of the event's stack have been swept. -/
def sweptState (s : State) : State :=
  (metaKeys s.mem s.input.stack).foldl (fun s k => (throughPc (sweepReq (metaOff k)) s).1) s

/-- What a sweep leaves at its completion. -/
structure SweepEnds (s t : State) : Prop where
  cores  : t.cores = s.cores
  poison : t.mem.poison = s.mem.poison
  nbt    : t.perg.nbt = s.perg.nbt.map (fun e => e.normal (s.mem.status s.input.stack))
  words  : ∀ key, key % 4 = 0 → key / 2 ^ 36 = s.input.stack → key / 2 ^ 24 % 64 = 63 →
    t.mem.wordAt key = sweptWord (s.mem.status s.input.stack) (s.mem.wordAt key) ∧
    ((metaOf (s.mem.wordAt key)).rsv ≠ 0 → ∀ g, 1 ≤ g → g < 64 → sget .free s.mem.master g = .active →
      (sget 0 t.arb.hwFlags g).getLsbD 8 = true)
  others : ∀ key, key / 2 ^ 36 ≠ s.input.stack ∨ key / 2 ^ 24 % 64 ≠ 63 →
    sget memDefault t.mem.hbm key = sget memDefault s.mem.hbm key

theorem sweptWord_zero (status : Nat → TagState) : sweptWord status 0 = 0 := by
  have fits : (⟨0, 0, 0, false, false, 0⟩ : Meta).Fits := ⟨by decide, by decide, by decide, by decide⟩
  exact sweptWord_idle status fits rfl rfl

/-- The registers of a stack whose sweep has ended. -/
def StackSt.sweepDone (t : Nat) (b : StackSt) : StackSt := { b with busy := false, lastMs := min (2 ^ 15 - 1) (t / 1000) }

/-- The stack's registers and the NBT once the words are swept. -/
def sweepBooks (x : Input) (s : State) : State :=
  let s := s.withMem (s.mem.modStack x.stack (StackSt.sweepDone x.t))
  { s with perg := { s.perg with nbt := s.perg.nbt.map (fun e => e.normal (s.mem.status x.stack)) } }

/-- The end of a sweep once the words are swept. -/
def sweepEnd (x : Input) (s : State) : State := freeSettled (capture 7 x.stack x.t (sweepBooks x s))

theorem sget_modStack (m : MemSt) (d : Nat) (f : StackSt → StackSt) :
    sget ({} : StackSt) (m.modStack d f).bdies d = f (sget ({} : StackSt) m.bdies d) := sget_smod_self ..

theorem sget_modStack_ne (m : MemSt) {d k : Nat} (f : StackSt → StackSt) (h : k ≠ d) :
    sget ({} : StackSt) (m.modStack d f).bdies k = sget ({} : StackSt) m.bdies k := sget_smod_ne _ _ _ h

/-- The registers of a sweep are beside the mirror. -/
theorem status_modStack (m : MemSt) (d : Nat) {f : StackSt → StackSt} (beside : ∀ b, (f b).mirror = b.mirror) :
    (m.modStack d f).status d = m.status d := by
  funext t
  unfold MemSt.status MemSt.mirror MemSt.modStack
  rw [sget_smod_self, beside]

/-- The NBT normalised by the states of the tags on a stack. -/
def nbtSwept (d : Nat) (s : State) : PergSt :=
  { s.perg with nbt := s.perg.nbt.map (fun e => e.normal (s.mem.status d)) }

theorem sweepBooks_frame (x : Input) (s : State) : ∃ m, m.hbm = s.mem.hbm ∧ m.poison = s.mem.poison ∧
    sweepBooks x s = { s with mem := m, perg := nbtSwept x.stack s } := by
  have status := status_modStack s.mem x.stack (f := StackSt.sweepDone x.t) fun _ => rfl
  have books : sweepBooks x s =
      { s with mem := s.mem.modStack x.stack (StackSt.sweepDone x.t), perg := nbtSwept x.stack s } := by
    unfold sweepBooks nbtSwept
    dsimp only
    rw [State.withMem_mem, status]
    rfl
  exact ⟨s.mem.modStack x.stack (StackSt.sweepDone x.t), rfl, rfl, books⟩

theorem sweepEnd_frame (x : Input) (s : State) : ∃ m pkg, m.hbm = s.mem.hbm ∧ m.poison = s.mem.poison ∧
    sweepEnd x s = { s with mem := m, pkg := pkg, perg := nbtSwept x.stack s } := by
  obtain ⟨n, hbm, poison, books⟩ := sweepBooks_frame x s
  obtain ⟨pkg, captured⟩ := capture_eq 7 x.stack x.t (sweepBooks x s)
  obtain ⟨m, freed, hbm', poison'⟩ := freeSettled_frame (capture 7 x.stack x.t (sweepBooks x s))
  rw [captured, books] at freed hbm' poison'
  exact ⟨m, pkg, hbm'.trans hbm, poison'.trans poison, by rw [sweepEnd, captured, books, freed]; rfl⟩

theorem sweepEnds {s : State} (quiet : s.quiet) (stack : s.input.stack < 8) :
    SweepEnds s (sweepEnd s.input (sweptState s)) := by
  have swept : Sweeps s.input.stack (metaKeys s.mem s.input.stack) s (sweptState s) :=
    sweeps_foldl stack (fun k hk => metaKeys_place hk) quiet
  obtain ⟨m, pkg, hbm, poison, ends⟩ := sweepEnd_frame s.input (sweptState s)
  rw [ends]
  generalize sweptState s = u at *
  have word (k : Nat) : m.wordAt k = u.mem.wordAt k := congrArg (fun h => fromBytes (sread memDefault h k 4)) hbm
  obtain ⟨⟨_, _, _, flags, rfl⟩, -, words, others, raised, -⟩ := swept
  refine ⟨rfl, poison, rfl, fun key aligned here region => ⟨?_, fun bad => ?_⟩, fun key away => ?_⟩
  · refine (word key).trans ((words key aligned).trans ?_)
    split
    · rfl
    · rename_i unlisted
      rw [wordAt_unlisted aligned here region unlisted, sweptWord_zero]
  · by_cases listed : key ∈ metaKeys s.mem s.input.stack
    · exact raised key listed aligned bad
    · rw [wordAt_unlisted aligned here region listed] at bad
      exact absurd rfl bad
  · refine (congrArg (fun h => sget memDefault h key) hbm).trans (others key fun k hk => ?_)
    obtain ⟨here, region, aligned⟩ := metaKeys_place hk
    omega

section
variable {s : State}

theorem sweepStart_stays (stays : (sget ({} : StackSt) s.mem.bdies s.input.stack).busy = true ∨ anySettled s = false) :
    exec .normaliserSweepStart s = .next s := by
  rw [exec_normaliserSweepStart]
  unfold execNormaliserSweepStart
  refine when_not _ _ ?_
  rcases stays with busy | none
  · rw [busy]; rfl
  · rw [none, Bool.and_false]

/-- The registers of a stack whose sweep starts. -/
def StackSt.sweepStarted (b : StackSt) : StackSt := { b with busy := true, started := (b.started + 1) % 2 ^ 32 }

theorem sweepStart_starts (idle : (sget ({} : StackSt) s.mem.bdies s.input.stack).busy = false)
    (settled : anySettled s = true) : exec .normaliserSweepStart s = .next (s.withMem (s.mem.modStack s.input.stack
      StackSt.sweepStarted)) := by
  rw [exec_normaliserSweepStart]
  unfold execNormaliserSweepStart
  exact when_of _ _ (by rw [idle, settled]; rfl)

theorem sweepComplete_idle (idle : (sget ({} : StackSt) s.mem.bdies s.input.stack).busy = false) :
    exec .normaliserSweepComplete s = .next s := by
  rw [exec_normaliserSweepComplete]
  unfold execNormaliserSweepComplete
  exact when_not _ _ idle

theorem sweepComplete_busy (busy : (sget ({} : StackSt) s.mem.bdies s.input.stack).busy = true) :
    exec .normaliserSweepComplete s = .next (sweepEnd s.input (sweptState s)) := by
  rw [exec_normaliserSweepComplete]
  unfold execNormaliserSweepComplete
  exact when_of _ _ busy

end

end Sys2Proof.Machine
end

section
/-! SUPPORT. The events of the stacks together (R73 to R78, R91, R92, R117, R258, R323). -/

namespace Sys2Proof.Machine

/-- The pick by the order of R76: a late request first, else one that is not of a sweep, a hit of an open row before the
others, the earliest last. -/
theorem pickRequest_order {m : MemSt} {now slack : Nat} {hit : Nat → Bool} {low : Bool} {l : List PcWaiting} {w : PcWaiting}
    (picked : pickRequest m now slack hit low l = some w) :
    w ∈ l ∧ (∀ v ∈ l, pcBlock m v.req = pcBlock m w.req → w.arr ≤ v.arr) ∧
    ((∃ v ∈ l, v.late m l (now + slack)) → w.late m l (now + slack)) ∧
    ((∀ v ∈ l, ¬ v.late m l (now + slack)) → low = false → (∃ v ∈ l, v.isSweep = false) → w.isSweep = false ∧
      (hit w.req.id = false → ∀ v ∈ l, v.first m l = true → v.isSweep = false →
        hit v.req.id = false ∧ w.arr ≤ v.arr)) := by
  obtain ⟨here, first, order⟩ := pickRequest_cases picked
  refine ⟨here, fun v hv => PcWaiting.first_least first hv, fun ⟨v, hv, late⟩ => ?_, fun early high plain => ?_⟩
  · exact order.elim id fun rest => absurd late (rest.1 v hv)
  · rcases order with late | ⟨-, sweeps | pick⟩
    · exact absurd late (early w here)
    · obtain ⟨v, hv, plain⟩ := plain
      rcases sweeps with short | all
      · rw [high] at short
        cases short
      · rw [List.all_eq_true.mp all v hv] at plain
        cases plain
    · exact pick

section
variable {s : State}

/-- A granule of an array of a core poisoned, or an entry of its queue: the stacks stand. -/
theorem spadPois_eccEffect (cache : CacheKind) (c off : Nat) (s : State) :
    (eccEffect cache (.scratchpad c off) s).mem = s.mem ∧
    sget false ((eccEffect cache (.scratchpad c off) s).core c).spadPois (off / 8) = true ∧
    ((eccEffect cache (.scratchpad c off) s).core c).spad = (s.core c).spad := by
  unfold eccEffect
  dsimp only
  rw [State.core_modCore]
  exact ⟨rfl, by rw [sget_sset, if_pos rfl], rfl⟩

theorem vecPois_eccEffect (cache : CacheKind) (c off : Nat) (s : State) :
    (eccEffect cache (.vector c off) s).mem = s.mem ∧
    sget false ((eccEffect cache (.vector c off) s).core c).vecPois (off / 8) = true ∧
    ((eccEffect cache (.vector c off) s).core c).vec = (s.core c).vec := by
  unfold eccEffect
  dsimp only
  rw [State.core_modCore]
  exact ⟨rfl, by rw [sget_sset, if_pos rfl], rfl⟩

theorem tilePois_eccEffect (cache : CacheKind) (c off : Nat) (s : State) :
    (eccEffect cache (.tile c off) s).mem = s.mem ∧
    sget false ((eccEffect cache (.tile c off) s).core c).tilePois (off / 8) = true ∧
    ((eccEffect cache (.tile c off) s).core c).full = (s.core c).full := by
  unfold eccEffect
  dsimp only
  rw [State.core_modCore]
  exact ⟨rfl, by rw [sget_sset, if_pos rfl], rfl⟩

theorem queue_eccEffect {c k i : Nat} {e : QEntry} (entry : ((s.core c).queue k)[i]? = some e) (cache : CacheKind) :
    (eccEffect cache (.queue c k i) s).mem = s.mem ∧
    (((eccEffect cache (.queue c k i) s).core c).queue k)[i]? = some { e with poison := true } := by
  have effect : eccEffect cache (.queue c k i) s = s.modCore c (poisonEntry k i) := rfl
  rw [effect, State.core_modCore]
  exact ⟨rfl, queue_poisonEntry entry⟩

theorem l1_eccEffect_cleanLine {cache : CacheKind} {c : Nat} (is : cache = .l1 c) (pa : Nat) :
    (eccEffect cache (.cleanLine pa) s).mem = s.mem ∧ ((eccEffect cache (.cleanLine pa) s).core c).l1 =
      (s.core c).l1.filter (fun p => !(p.1 == pa / 128 && p.2.dirty == 0)) := by
  subst is
  exact ⟨rfl, l1_modL1 ..⟩

end

/-- Settles O45: the pick of a pseudo-channel by cases of R76, each event by the lemmas about it. -/
theorem stackEventResults : Obligations.StackEventResults := by
  unfold Obligations.StackEventResults
  refine ⟨fun m now slack hit low l w picked => pickRequest_order picked, fun t => ⟨rfl, rfl, rfl, rfl⟩, fun s => ?_⟩
  extract_lets x a q here die rest cells picked serves p pc' idle wait up dbg err l b
  refine ⟨(arrivePc_arrives x.pc x.arr s).2, pcSelect_asleep, pcSelect_serves, selfRefreshEntry_serves,
    selfRefreshEntry_enters, selfRefreshEntry_stays, selfRefreshExit_serves, selfRefreshExit_stays, refreshDue_asleep,
    fun awake => ⟨fun wait => ?_, fun stays => ?_⟩, ?ecc, ?line, ?sweep⟩
  · exact refreshDue_awake awake (iff_of_true rfl wait)
  · exact refreshDue_awake awake (iff_of_false Bool.false_ne_true stays)
  case ecc =>
    refine ⟨fun corrected => ⟨_, eccError_corrected corrected, rfl⟩, fun off bad found => ?hbm, fun c off bad found => ?spad,
      fun c off bad found => ?vector, fun c off bad found => ?tile, fun c k i e bad found entry => ?queue,
      fun pa c bad found cache => ?cleanLine, fun pa gs bad found near _ => ?dirtyLine,
      fun off bad found versioned => ?committed, fun off b n bad found versioned => ?tentative, fun off bad found => ?metadata⟩
    case hbm =>
      have fails := eccEffect_hbm x.cache off (ueCounted s)
      refine eccActs_of_effect bad found ⟨fails.cores, fails.plain, fun a slot there => ⟨fun committed => ?_, ?_⟩⟩
      · exact fails.committed a (committed ▸ there)
      · exact fails.tentative a slot there
    case spad => exact eccActs_of_effect bad found (spadPois_eccEffect x.cache c off (ueCounted s))
    case vector => exact eccActs_of_effect bad found (vecPois_eccEffect x.cache c off (ueCounted s))
    case tile => exact eccActs_of_effect bad found (tilePois_eccEffect x.cache c off (ueCounted s))
    case queue => exact eccActs_of_effect bad found (queue_eccEffect (s := ueCounted s) entry x.cache)
    case cleanLine => exact eccActs_of_effect bad found (l1_eccEffect_cleanLine (s := ueCounted s) cache pa)
    case dirtyLine => exact eccActs_of_effect bad found (eccEffect_dirtyLine near x.cache gs (ueCounted s))
    case committed => exact eccActs_of_effect bad found (eccEffect_committedSlot (s := ueCounted s) versioned x.cache)
    case tentative =>
      intro md tag active
      exact eccActs_of_effect bad found (eccEffect_tentativeSlot (s := ueCounted s) versioned x.cache tag active)
    case metadata => exact eccActs_of_effect bad found (eccEffect_metadata x.cache off (ueCounted s))
  case line =>
    refine ⟨lineWriteBack_empty, fun c cache holds => ?_, fun q cache holds near quiet => ?_⟩
    · have line : l = sget Line.empty (s.core c).l1 x.n := congrArg (fun cache => lineAt s cache x.n) cache
      refine ⟨_, lineWriteBack_l1 cache holds, fun room => ?_⟩
      have back := writtenBack_of_room room (key := x.n) x.flag
      rw [line]
      exact ⟨back.others, back.dropped, back.clean, back.cells, back.below⟩
    · obtain ⟨t, runs, written⟩ := writtenHome_lineWriteBack cache holds near quiet
      exact ⟨t, runs, written.cores, written.home, written.others⟩
  case sweep =>
    refine ⟨sweepStart_stays, fun idle settled => ⟨_, sweepStart_starts idle settled, ?_⟩, sweepComplete_idle,
      fun busy stack quiet => ⟨_, sweepComplete_busy busy, ?_⟩⟩
    · exact ⟨⟨rfl, rfl⟩, ⟨rfl, rfl, rfl, rfl⟩, sget_modStack s.mem x.stack _, fun d other =>
        sget_modStack_ne s.mem _ other⟩
    · have ends := sweepEnds quiet stack
      exact ⟨ends.cores, ends.poison, ends.nbt, ends.words, ends.others⟩

end Sys2Proof.Machine
end

section
/-! SUPPORT. Collective words, T.SIG and T.WAITEV in their turn at their executor (R118, R120, R196, R268, R469, R470): what an
executor's translation, release and acquire leave standing, how a word that its executor performs itself ends, and the turn
of each word. -/

namespace Sys2Proof.Machine

/-! ### Accesses of an executor (R251, R262, R263) -/

theorem accessed_putTlb (core : Nat) (e : TlbEntry) (s : State) : Accessed s (putTlb core e s) := by
  unfold putTlb
  split
  · exact accessed_modCore s core _ rfl
  · exact (accessed_fresh s).trans (accessed_modCore _ core _ rfl)

theorem accessed_putL2Tlb (core : Nat) (e : TlbEntry) (s : State) : Accessed s (putL2Tlb core e s) := by
  have put (m : Sparse (List TlbEntry)) (u : State) : Accessed u (u.withMem { u.mem with l2tlb := m }) :=
    accessed_withMem ⟨rfl, rfl, rfl, rfl, rfl, rfl, rfl, id⟩
  unfold putL2Tlb
  dsimp only
  split
  · exact put ..
  · split
    · exact (accessed_fresh s).trans (put ..)
    · exact (accessed_fresh s).trans (put ..)

theorem accessed_tlbXlat (core root va : Nat) (write : Bool) (s : State) : Accessed s (tlbXlat core root va write s).1 := by
  unfold tlbXlat
  dsimp only
  split
  · split
    · exact .refl s
    · split
      · exact accessed_putTlb ..
      · have walked := accessed_reachWalk core root va s
        split
        · exact walked
        · exact (walked.trans (accessed_putL2Tlb ..)).trans (accessed_putTlb ..)
  · exact .refl s

theorem accessed_agentXlat (g : Agent) (write : Bool) (va : Nat) (s : State) :
    Accessed s (agentXlat g write va s).1 := by
  unfold agentXlat
  split
  · exact accessed_tlbXlat ..
  · exact accessed_xlatAt ..

theorem accessed_barFault (j : TileJob) (align : Nat) (write : Bool) (s : State) :
    Accessed s (barFault j align write s).1 := by
  have walked := accessed_agentXlat j.agent write j.tw.bar.toNat s
  unfold barFault
  dsimp only
  split
  · exact .refl s
  · split
    all_goals
      rename_i h
      rw [h] at walked
      exact walked

theorem accessed_acquire (core scope : Nat) (s : State) : Accessed s (acquire core scope s) := by
  unfold acquire acquireLines
  split
  · exact .refl s
  · extract_lets inL1 u v inL2 w
    have first : Accessed s u := .foldl (fun s k => accessed_backL1 core k s) _ s
    have second : Accessed s v := first.trans (accessed_modL1 ..)
    split
    · exact second
    · have third : Accessed v w := .foldl (fun s k => accessed_backL2 core k s) _ v
      exact (second.trans third).trans (accessed_modL2 ..)

theorem accessed_releaseUnit (u : TileUnit) (s : State) : Accessed s (releaseUnit u s).1 := by
  unfold releaseUnit
  exact List.foldlRecOn (motive := fun (a : State × Bool) => Accessed s a.1) _ _ (.refl s)
    fun (a : State × Bool) h k _ => h.trans (accessed_release k 4 a.1)

/-! ### Jobs -/

theorem State.job?_id {s : State} {id : Nat} {j : TileJob} (found : s.job? id = some j) : j.id = id := by
  simpa using List.find?_some found

theorem State.job?_of_tiles {s t : State} (tiles : t.tiles = s.tiles) (id : Nat) : t.job? id = s.job? id := by
  unfold State.job?
  rw [tiles]

theorem State.job?_modJob {s : State} {id : Nat} {j : TileJob} (found : s.job? id = some j) {f : TileJob → TileJob}
    (kept : ∀ k, (f k).id = k.id) : (s.modJob id f).job? id = some (f j) := by
  have h : (s.modJob id f).job? id = (s.job? id).map f := find?_updateFirst (fun k h => by rw [kept]; exact h) _
  rw [h, found]
  rfl

/-! ### A word that its executor performs itself (R130, R221) -/

theorem satAdd_eq_min (top n k : Nat) : satAdd top n k = min top (n + k) := by
  unfold satAdd
  split <;> omega

theorem raiseCorr_eq (tag : Nat) (cause : BitVec 8) (sub : Nat) (s : State) :
    ∃ arb, raiseCorr tag cause sub s = { s with arb := arb } := by
  unfold raiseCorr
  split
  · exact raiseTag_eq ..
  · exact ⟨s.arb, rfl⟩

/-- The parts of the package that a word's own fault does not touch. -/
theorem performed_frame (id : Nat) (addr : Word) (e : Option MemErr) (s : State) :
    (performed id addr e s).mem = s.mem ∧ (performed id addr e s).cores = s.cores ∧
      (performed id addr e s).host = s.host := by
  cases e with
  | none => exact ⟨rfl, rfl, rfl⟩
  | some e =>
    unfold performed ownFault
    dsimp only
    split
    · exact ⟨rfl, rfl, rfl⟩
    · rename_i j _
      obtain ⟨arb, raised⟩ := raiseCorr_eq j.tag e.cause e.sub (s.modJob id fun j => { j with executed := true })
      rw [raised]
      exact ⟨rfl, rfl, rfl⟩

/-- From `s` to `t` the word of job `id` is over: with its executor's own fault where `e` is one, which is its first where
it had none. -/
def ServiceEnds (s t : State) (id : Nat) (w : TileWord) (e : Option MemErr) : Prop :=
  ∃ x y, s.job? id = some x ∧ t.job? id = some y ∧ y.executed = true ∧ y.word = x.word ∧
    (e = none → y.fault = x.fault ∧ y.count = x.count) ∧
    ∀ err, e = some err → y.count = min 65535 (x.count + 1) ∧ (x.fault = none → ∃ f, y.fault = some f ∧
      f.cause = err.cause ∧ f.sub = err.sub ∧ f.addr = w.bar ∧ f.level = (if x.member then 4 else w.level))

/-- The fields that the executor's own fault leaves in a job (R221). -/
theorem ownFault_job {s : State} {j : TileJob} (found : s.job? j.id = some j) (cause : BitVec 8) (sub : Nat) (addr : Word) :
    ∃ y, (ownFault j.id cause sub 0xFFFF addr s).job? j.id = some y ∧ y.executed = j.executed ∧ y.word = j.word ∧
      y.count = min 65535 (j.count + 1) ∧ (j.fault = none → ∃ f, y.fault = some f ∧ f.cause = cause ∧ f.sub = sub ∧
        f.addr = addr ∧ f.level = j.levelHere) := by
  obtain ⟨arb, raised⟩ := raiseCorr_eq j.tag cause sub s
  unfold ownFault
  simp only [found, raised]
  refine ⟨_, State.job?_modJob (s := { s with arb := arb }) found fun _ => rfl, rfl, rfl, satAdd_eq_min .., fun none => ?_⟩
  exact ⟨_, by rw [none]; rfl, rfl, rfl, rfl, rfl⟩

section
variable {s t : State} {j : TileJob} (found : s.job? j.id = some j) (tiles : t.tiles = s.tiles)
include found tiles

theorem serviceEnds_over (addr : Word) : ServiceEnds s (performed j.id addr none t) j.id j.tw none := by
  have here : t.job? j.id = some j := by rw [State.job?_of_tiles tiles, found]
  exact ⟨j, _, found, State.job?_modJob here fun _ => rfl, rfl, rfl, fun _ => ⟨rfl, rfl⟩, nofun⟩

theorem serviceEnds_faults (e : MemErr) :
    ServiceEnds s (performed j.id j.tw.bar (some e) t) j.id j.tw (some e) := by
  have here : t.job? j.id = some j := by rw [State.job?_of_tiles tiles, found]
  obtain ⟨y, job, executed, word, count, fault⟩ :=
    ownFault_job (j := { j with executed := true })
      (State.job?_modJob (f := fun k => { k with executed := true }) here fun _ => rfl) e.cause e.sub j.tw.bar
  exact ⟨j, y, found, job, executed, word, nofun, fun _ same => Option.some.inj same ▸ ⟨count, fault⟩⟩

end

/-! ### The scratchpad window (R370) -/

/-- A word's BAR lies in the window of its core, whole. -/
def TileJob.inOwnWindow (j : TileJob) : Prop :=
  (inWindow j.tw.bar.toNat = true ∧ j.tw.level ≤ 1) ∧ j.tw.bar.toNat + 8 ≤ 2 ^ 64

section
variable {j : TileJob} (window : j.inOwnWindow)
include window

theorem window_guard : (inWindow j.tw.bar.toNat && decide (j.tw.level ≤ 1)) = true := by
  obtain ⟨⟨inside, level⟩, -⟩ := window
  simp [inside, level]

/-- In the window nothing is translated, and BAR faults on its alignment alone. -/
theorem barFault_window {write : Bool} {s b : State} (sound : barFault j 8 write s = (b, none)) :
    b = s ∧ j.tw.bar.toNat % 8 = 0 := by
  simp only [barFault, window_guard window, if_true, Prod.mk.injEq] at sound
  obtain ⟨same, aligned⟩ := sound
  refine ⟨same.symm, ?_⟩
  by_contra odd
  simp [odd] at aligned

theorem agentTarget_window (aligned : j.tw.bar.toNat % 8 = 0) (write : Bool) (s : State) :
    agentTarget j.agent j.tw.bar.toNat 8 write s = (s, .ok (.window (j.tw.bar.toNat % 2 ^ 21))) := by
  obtain ⟨⟨inside, level⟩, fits⟩ := window
  have own : (j.agent.own && inWindow j.tw.bar.toNat && decide (j.tw.bar.toNat + 8 - 1 < 2 ^ 64)) = true := by
    simp only [TileJob.agent, inside, level, decide_true, Bool.true_and, decide_eq_true_eq]
    omega
  simp only [agentTarget, targetWith, own, if_true, alignFault, Nat.min_def]
  simp [aligned]

theorem sigWrite_window (aligned : j.tw.bar.toNat % 8 = 0) (plain : j.tw.mode.getLsbD 5 = false) (s : State) :
    sigWrite j s = (s.modCore j.core (fun c => c.spadWrite (j.tw.bar.toNat % 2 ^ 21)
      (toBytes 8 (j.tw.p1.toNat * 2 ^ 32 + j.tw.p0.toNat))), .ok ()) := by
  have add : md j.tw 5 5 = 0 := by
    have bit : j.tw.mode.toNat.testBit 5 = false := by rw [← BitVec.getLsbD, plain]
    rw [Nat.testBit_eq_decide_div_mod_eq] at bit
    have := of_decide_eq_false bit
    simp only [md, bits]
    omega
  simp only [sigWrite, window_guard window, add, if_true, agentWrite, length_toBytes, agentTarget_window window aligned]
  rfl

theorem eventRead_window (aligned : j.tw.bar.toNat % 8 = 0) {s : State}
    (clean : (s.core j.core).spadBad (j.tw.bar.toNat % 2 ^ 21) 8 = none) :
    eventRead j s = (s, .ok ((s.core j.core).spadBytes (j.tw.bar.toNat % 2 ^ 21) 8)) := by
  have bad : ((s.core j.agent.core).spadBad (j.tw.bar.toNat % 2 ^ 21) 8).isSome = false := by
    simp only [TileJob.agent, clean, Option.isSome_none]
  simp only [eventRead, window_guard window, if_true, agentRead, agentTarget_window window aligned, bad]
  rfl

end

/-! ### T.SIG (R469) -/

section
variable {s : State} {j : TileJob} (found : s.job? s.focus.tile = some j) (w : TileWord)
include found

theorem exec_tSig_executed (executed : j.executed = true) : exec (.tSig w) s = .next s := by
  change execTSig w s = .next s
  simp [execTSig, found, executed]

theorem exec_tSig_faults (waits : j.executed = false) {b : State} {e : MemErr} (fault : barFault j 8 true s = (b, some e)) :
    exec (.tSig w) s = .next (performed j.id j.tw.bar (some e) b) := by
  change execTSig w s = _
  simp [execTSig, found, waits, fault]

variable (waits : j.executed = false) {b : State} (sound : barFault j 8 true s = (b, none))
include waits sound

theorem exec_tSig_waits (more : (releaseUnit j.unit b).2 = false) :
    exec (.tSig w) s = .next (releaseUnit j.unit b).1 := by
  change execTSig w s = _
  simp [execTSig, found, waits, sound, more]

theorem exec_tSig_writes (ready : (releaseUnit j.unit b).2 = true) {t : State}
    (wrote : sigWrite j (releaseUnit j.unit b).1 = (t, .ok ())) : exec (.tSig w) s = .next (performed j.id 0 none t) := by
  change execTSig w s = _
  simp [execTSig, found, waits, sound, ready, wrote]

theorem exec_tSig_refused (ready : (releaseUnit j.unit b).2 = true) {t : State} {e : MemErr}
    (refused : sigWrite j (releaseUnit j.unit b).1 = (t, .error e)) :
    exec (.tSig w) s = .next (performed j.id j.tw.bar (some e) t) := by
  change execTSig w s = _
  simp [execTSig, found, waits, sound, ready, refused]

end

/-- An executor of levels 2 to 5 writes no versioned page (R80; DESIGN CHOICE, log 89). -/
theorem sigWrite_versioned {s t : State} {j : TileJob} {x : Xlat} {l : Loc} (level : 2 ≤ j.tw.level)
    (found : agentXlat j.agent true j.tw.bar.toNat s = (t, .ok x)) (phys : x.phys = .hbm l) (ver : l.ver.isSome = true) :
    sigWrite j s = (t, .error .owner) := by
  have outside : (inWindow j.tw.bar.toNat && decide (j.tw.level ≤ 1)) = false := by
    simp only [Bool.and_eq_false_iff, decide_eq_false_iff_not]
    exact .inr (by omega)
  have barred : j.barred x = true := by simp [TileJob.barred, level, phys, ver]
  simp [sigWrite, outside, found, barred]

theorem signalWord : Claim.SignalWord := by
  intro s j w va p0 p1 window spad done found word
  subst word
  have here : s.job? j.id = some j := by rw [State.job?_id found, found]
  refine ⟨exec_tSig_executed found _, fun b e waits fault => ?_, fun b waits sound => ?_⟩
  · have accessed := accessed_barFault j 8 true s
    rw [fault] at accessed
    obtain ⟨mem, cores, -⟩ := performed_frame j.id j.tw.bar (some e) b
    exact ⟨_, exec_tSig_faults found _ waits fault, serviceEnds_faults here accessed.tiles e, mem, cores⟩
  · have accessed := accessed_barFault j 8 true s
    rw [sound] at accessed
    have released := (accessed.trans (accessed_releaseUnit j.unit b)).tiles
    intro r
    refine ⟨exec_tSig_waits found _ waits sound, fun ready inside fits plain => ?_, fun t ready wrote tiles => ?_,
      fun t e ready refused tiles => ?_, fun t x l level walked phys ver => sigWrite_versioned level walked phys ver⟩
    · obtain ⟨-, aligned⟩ := barFault_window ⟨inside, fits⟩ sound
      have wrote := sigWrite_window ⟨inside, fits⟩ aligned plain r.1
      exact ⟨_, exec_tSig_writes found _ waits sound ready wrote, serviceEnds_over here released 0,
        State.core_modCore r.1 j.core (fun c => c.spadWrite _ _), rfl⟩
    · exact ⟨_, exec_tSig_writes found _ waits sound ready wrote, serviceEnds_over here tiles 0,
        performed_frame j.id 0 none t⟩
    · exact ⟨_, exec_tSig_refused found _ waits sound ready refused, serviceEnds_faults here tiles e,
        performed_frame j.id j.tw.bar (some e) t⟩

/-! ### T.WAITEV (R470) -/

/-- The condition of a T.WAITEV on the value of its event word (R470). -/
def TileJob.awaited (j : TileJob) (v : Nat) : Prop :=
  v / 2 ^ 63 % 2 = 1 ∨ (v % 2 ^ 32 + 2 ^ 32 - j.tw.p0.toNat) % 2 ^ 32 < 2 ^ 31

/-- Every core of a unit acquires at sys. -/
def acquireUnit (u : TileUnit) (s : State) : State := (unitCoreList u).foldl (fun s k => acquire k 4 s) s

theorem accessed_acquireUnit (u : TileUnit) (s : State) : Accessed s (acquireUnit u s) :=
  .foldl (fun s k => accessed_acquire k 4 s) _ s

section
variable {s : State} {j : TileJob} (found : s.job? s.focus.tile = some j) (w : TileWord) (op : j.op = 0x1A)
  (started : j.started = true) (waits : j.executed = false)
include found op started waits

theorem exec_tWaitev_faults {b : State} {e : MemErr} (fault : barFault j 8 false s = (b, some e)) :
    exec (.tWaitev w) s = .next (performed j.id j.tw.bar (some e) b) := by
  change Host.Outcome.next (waitevRead s.focus.tile s) = _
  simp [waitevRead, found, op, started, waits, fault, State.job?_id found]

variable {b : State} (sound : barFault j 8 false s = (b, none))
include sound

theorem exec_tWaitev_unread {t : State} {e : MemErr} (refused : eventRead j b = (t, .error e)) :
    exec (.tWaitev w) s = .next (performed j.id j.tw.bar (some e) t) := by
  change Host.Outcome.next (waitevRead s.focus.tile s) = _
  simp [waitevRead, found, op, started, waits, sound, refused, State.job?_id found]

theorem exec_tWaitev_read {t : State} {bs : List Byte} (read : eventRead j b = (t, .ok bs)) :
    (j.awaited (fromBytes bs) → exec (.tWaitev w) s = .next (performed j.id 0 none (acquireUnit j.unit t))) ∧
    (¬ j.awaited (fromBytes bs) → exec (.tWaitev w) s = .next t) := by
  have turn : exec (.tWaitev w) s = .next (if bit (fromBytes bs) 63 = true ∨
      (fromBytes bs % 2 ^ 32 + 2 ^ 32 - j.tw.p0.toNat) % 2 ^ 32 < 2 ^ 31 then
        performed j.id 0 none (acquireUnit j.unit t) else t) := by
    change Host.Outcome.next (waitevRead s.focus.tile s) = _
    simp only [waitevRead, found, op, started, waits, sound, read, State.job?_id found, and_self, if_true]
    rfl
  have cond : (bit (fromBytes bs) 63 = true ∨ (fromBytes bs % 2 ^ 32 + 2 ^ 32 - j.tw.p0.toNat) % 2 ^ 32 < 2 ^ 31) ↔
      j.awaited (fromBytes bs) := by simp only [bit, beq_iff_eq, TileJob.awaited]
  rw [turn]
  exact ⟨fun holds => by rw [if_pos (cond.2 holds)], fun behind => by rw [if_neg (mt cond.1 behind)]⟩

end

theorem waitWord : Claim.WaitWord := by
  intro s j w va p0 window spad done v acquired holds found word op started waits
  subst word
  have here : s.job? j.id = some j := by rw [State.job?_id found, found]
  refine ⟨fun b e fault => ?_, fun b sound inside fits clean => ?_, fun b t bs sound read tiles => ?_,
    fun b t e sound refused tiles => ?_⟩
  · have accessed := accessed_barFault j 8 false s
    rw [fault] at accessed
    obtain ⟨mem, cores, -⟩ := performed_frame j.id j.tw.bar (some e) b
    exact ⟨_, exec_tWaitev_faults found _ op started waits fault, serviceEnds_faults here accessed.tiles e, mem, cores⟩
  · obtain ⟨rfl, aligned⟩ := barFault_window ⟨inside, fits⟩ sound
    obtain ⟨ends, behind⟩ := exec_tWaitev_read found (op := op) (w := j.tw) started waits sound
      (eventRead_window ⟨inside, fits⟩ aligned clean)
    exact ⟨fun now => ⟨_, ends now, serviceEnds_over here (accessed_acquireUnit j.unit b).tiles 0, rfl⟩, behind⟩
  · obtain ⟨ends, behind⟩ := exec_tWaitev_read found (op := op) (w := j.tw) started waits sound read
    exact ⟨fun now => ⟨_, ends now, serviceEnds_over here ((accessed_acquireUnit j.unit t).tiles.trans tiles) 0⟩, behind⟩
  · exact ⟨_, exec_tWaitev_unread found _ op started waits sound refused, serviceEnds_faults here tiles e⟩

/-! ### Collective words (R118, R120) -/

/-- Every word on the name of `j` that started earlier has given its collective to the Pergola (R118; log 113). -/
def EarlierIssued (s : State) (j : TileJob) : Prop :=
  ∀ k ∈ s.tiles.jobs, 0x10 ≤ k.op → k.op ≤ 0x13 → k.started = true → k.executed = false →
    k.tw.p0.toNat % 2 ^ 16 = j.tw.p0.toNat % 2 ^ 16 → k.begun < j.begun → s.perg.colls.any (fun c => c.word == k.id) = true

theorem earlierIssued_iff (s : State) (j : TileJob) : s.tiles.jobs.all (fun k =>
    !(0x10 ≤ k.op && k.op ≤ 0x13 && k.started && !k.executed && (tmP0 k.tw) % 2 ^ 16 == (tmP0 j.tw) % 2 ^ 16 &&
      decide (k.begun < j.begun) && !s.perg.colls.any (fun c => c.word == k.id))) = true ↔ EarlierIssued s j := by
  rw [List.all_eq_true]
  refine forall₂_congr fun k _ => ?_
  simp only [Bool.not_eq_true', Bool.and_eq_false_imp, Bool.and_eq_true, decide_eq_true_eq, Bool.not_eq_false',
    beq_iff_eq, and_imp, tmP0]

section
variable {s : State} {j : TileJob} (found : s.job? s.focus.tile = some j) (kind : Nat)
include found

theorem collTurn_stays (given : j.executed = true ∨ s.perg.colls.any (fun c => c.word == j.id) = true ∨
    ¬ EarlierIssued s j) : collTurn kind s = .next s := by
  rw [← earlierIssued_iff, Bool.not_eq_true] at given
  unfold collTurn
  rw [found]
  refine if_pos ?_
  rcases given with h | h | h <;> simp only [h, Bool.true_or, Bool.or_true, Bool.not_false]

/-- The collective that a word gives to the Pergola (R118, R120). -/
def TileJob.collective (j : TileJob) (kind id : Nat) : CollSt :=
  let hist := md j.tw 5 5 == 1
  { id := id, word := j.id, name := tmP0 j.tw % 2 ^ 16, kind := kind, op := md j.tw 2 0, count := tmP1 j.tw,
    root := bits (tmP0 j.tw) 21 16, hist := hist, hidx := if hist then j.tw.hc else 0,
    hbase := (j.hbase.getD 0).toNat, bar := j.tw.bar, core := j.core, tag := j.tag, att := j.att,
    issued := false, seq := 0, time := 0, planes := [] }

theorem collTurn_gives (waits : j.executed = false) (new : s.perg.colls.any (fun c => c.word == j.id) = false)
    (first : EarlierIssued s j) : collTurn kind s = .next { s with
      nextId := s.nextId + 1, perg := { s.perg with colls := s.perg.colls ++ [j.collective kind (s.nextId + 1)] } } := by
  rw [← earlierIssued_iff] at first
  unfold collTurn
  rw [found]
  refine (if_neg ?_).trans rfl
  simp only [waits, new, first, Bool.false_or, Bool.not_true, Bool.false_eq_true, not_false_eq_true]

end

theorem md_5_5 (w : TileWord) : (md w 5 5 == 1) = w.mode.getLsbD 5 := by
  rw [BitVec.getLsbD, Nat.testBit_eq_decide_div_mod_eq]
  rfl

theorem md_2_0 (w : TileWord) : md w 2 0 = w.mode.toNat % 8 := congrArg (· % 8) (Nat.div_one _)

theorem collectiveWords : Claim.CollectiveWords := by
  intro s j w p0 p1 first coll found word
  subst word
  have turn {i : Instr} {kind : Nat} (runs : exec i s = collTurn kind s) : coll i kind := by
    unfold coll
    simp only [Answers, runs]
    exact ⟨collTurn_stays found kind, fun waits new first => ⟨_, collTurn_gives found kind waits new first, _, rfl, rfl,
      rfl, rfl, md_2_0 j.tw, rfl, rfl, rfl, rfl, rfl, md_5_5 j.tw, rfl, rfl, rfl⟩⟩
  exact ⟨rfl, turn rfl, turn rfl, turn rfl, turn rfl⟩

/-- Settles O44: each word's turn by the outcome of its steps, on the rule that an executor's accesses leave its jobs as they
stand. -/
theorem tileServiceWordResults : Obligations.TileServiceWordResults := ⟨collectiveWords, signalWord, waitWord⟩

end Sys2Proof.Machine
end

section
/-! SUPPORT. No access to memory and no request of a core changes the Pergola's state (R73, R76, R86, R87, R100, R111). -/

namespace Sys2Proof.Machine

/-! ### Versioned memory and cells (R72, R86, R87, R91) -/

@[simp] theorem State.withMem_perg (s : State) (m : MemSt) : (s.withMem m).perg = s.perg := (rfl)

@[simp] theorem raiseTag_perg (t : Nat) (f : BitVec 16) (s : State) : (raiseTag t f s).perg = s.perg := by
  obtain ⟨arb, raised⟩ := raiseTag_eq t f s
  rw [raised]

theorem raiseLive_perg (l : List Nat) (s : State) : (l.foldl (fun s t => raiseTag t flCORR s) s).perg = s.perg := by
  obtain ⟨flags, raised⟩ := raiseLive_eq l s
  rw [raised]

@[simp] theorem checkMeta_perg (a : Nat) (s : State) : (checkMeta a s).1.perg = s.perg := by
  obtain ⟨flags, checked⟩ := checkMeta_eq a s
  rw [checked]

@[simp] theorem poisonBlock_perg (a : Nat) (s : State) : (poisonBlock a s).perg = s.perg := State.withMem_perg ..

@[simp] theorem versionedLoad_perg (l p n : Nat) (c : Ctx) (s : State) : (versionedLoad l p n c s).1.perg = s.perg := by
  unfold versionedLoad
  dsimp only
  split_ifs <;> simp only [poisonBlock_perg, checkMeta_perg]

@[simp] theorem versionedSlot_perg (l p : Nat) (c : Ctx) (k : WKind) (s : State) :
    (versionedSlot l p c k s).1.perg = s.perg := by
  unfold versionedSlot
  dsimp only
  split_ifs <;> simp only [State.withMem_perg, checkMeta_perg]

@[simp] theorem cellLoad_perg (l : Loc) (n : Nat) (c : Ctx) (s : State) : (cellLoad l n c s).1.perg = s.perg := by
  unfold cellLoad
  split
  · exact versionedLoad_perg ..
  · split <;> rfl

@[simp] theorem cellStore_perg (l : Loc) (bs : List Byte) (c : Ctx) (k : WKind) (s : State) :
    (cellStore l bs c k s).1.perg = s.perg := by
  unfold cellStore
  split
  · rename_i p _
    have slot := versionedSlot_perg l.off p c k s
    split
    all_goals
      rename_i h
      rw [h] at slot
      exact slot
  · rfl

@[simp] theorem cellModify_perg (l : Loc) (n : Nat) (f : Nat → Nat) (c : Ctx) (k : WKind) (s : State) :
    (cellModify l n f c k s).1.perg = s.perg := by
  unfold cellModify
  dsimp only
  split
  · rename_i p _
    have slot := versionedSlot_perg l.off p c k s
    split
    · rename_i s' a h
      rw [h] at slot
      split
      · rename_i h'
        split at h' <;> cases h'
        rw [State.withMem_perg, slot]
      · split
        · rfl
        · exact poisonBlock_perg ..
    · rename_i h
      rw [h] at slot
      exact slot
  · split
    · rfl
    · exact State.withMem_perg ..

@[simp] theorem sweepWord_perg (key : Nat) (s : State) : (sweepWord key s).perg = s.perg := by
  unfold sweepWord
  dsimp only
  split
  · rw [raiseLive_perg, State.withMem_perg]
  · split
    · exact State.withMem_perg ..
    · rfl

@[simp] theorem performPc_perg (q : PcReq) (s : State) : (performPc q s).1.perg = s.perg := by
  unfold performPc
  split
  · exact cellLoad_perg ..
  · exact cellStore_perg ..
  · exact cellModify_perg ..
  · exact cellModify_perg ..
  · exact sweepWord_perg ..

/-! ### Requests at their pseudo-channels (R73, R75, R76) -/

@[simp] theorem completeTl_perg (core n num tag : Nat) (err : Option Rec) (s : State) :
    (completeTl core n num tag err s).perg = s.perg := by
  obtain ⟨d, arb, completed, -⟩ := completeTl_eq core n num tag err s
  rw [completed]
  rfl

@[simp] theorem passRequest_perg (q : PcReq) (err : Option MemErr) (s : State) : (passRequest q err s).perg = s.perg := by
  unfold passRequest
  dsimp only
  split
  · rfl
  · exact completeTl_perg ..

@[simp] theorem modPc_perg (s : State) (pc : Nat) (f : PcSt → PcSt) : (s.modPc pc f).perg = s.perg := rfl

@[simp] theorem takePc_perg (pc : Nat) (w : PcWaiting) (s : State) : (takePc pc w s).perg = s.perg := by
  obtain ⟨pcs, bdies, taken, -⟩ := takePc_taken pc w s
  rw [taken]
  rfl

@[simp] theorem finishPc_perg (pc : Nat) (w : PcWaiting) (s : State) : (finishPc pc w s).1.perg = s.perg := by
  simp only [finishPc, passRequest_perg, performPc_perg, takePc_perg]

@[simp] theorem turnUntil_perg (pc arr n : Nat) (s : State) : (turnUntil pc arr n s).perg = s.perg := by
  induction n generalizing s with
  | zero => rfl
  | succ n ih =>
    unfold turnUntil
    dsimp only
    split
    · rfl
    · split
      · rw [takePc_perg]
        rfl
      · rw [ih, keepResult, modPc_perg, finishPc_perg]
        rfl

@[simp] theorem takeTurn_perg (q : PcReq) (s : State) : (takeTurn q s).perg = s.perg := by
  unfold takeTurn
  extract_lets pc u p
  have held : u.perg = s.perg := by
    unfold u
    split <;> rfl
  split
  · exact held
  · rw [turnUntil_perg, modPc_perg, held]

@[simp] theorem throughPc_perg (q : PcReq) (s : State) : (throughPc q s).1.perg = s.perg := by
  unfold throughPc
  dsimp only
  split <;> simp

theorem accessed_throughPc (q : PcReq) (s : State) : Accessed s (throughPc q s).1 := by
  unfold throughPc
  dsimp only
  split
  · exact accessed_takeTurn ..
  · exact ((accessed_takeTurn ..).trans (accessed_performPc ..)).trans (accessed_passRequest ..)

/-! ### Walks and requests in flight (R47 to R50, R251, R255) -/

theorem reachFrom_perg (core va lvl table : Nat) (s : State) : (reachFrom core va lvl table s).perg = s.perg := by
  induction lvl generalizing table s with
  | zero => rfl
  | succ lvl ih =>
    have reached : (reachCell core (table + 8 * tableIndex lvl va) s).perg = s.perg := takeTurn_perg ..
    unfold reachFrom
    dsimp only
    split
    · rfl
    · split
      · exact reached
      · exact (ih _ _).trans reached

@[simp] theorem xlatAt_perg (core root va : Nat) (write : Bool) (s : State) :
    (xlatAt core root va write s).1.perg = s.perg := by
  unfold xlatAt reachWalk
  dsimp only
  split
  · exact reachFrom_perg ..
  · rfl

theorem completeFlight_perg (f : Flight) (r : RemoteResult) (s : State) : (completeFlight f r s).perg = s.perg := by
  unfold completeFlight
  extract_lets fab u
  split
  · rfl
  · unfold passTl2
    split
    · split <;> rfl
    · exact completeTl_perg ..
  · rfl

@[simp] theorem sendAlong_perg (q : RemoteReq) (r : List Nat) (s : State) : (sendAlong q r s).perg = s.perg := by
  have detour : (keepDetour q r s).perg = s.perg := by
    unfold keepDetour
    split <;> rfl
  unfold sendAlong
  dsimp only
  split <;> exact detour

@[simp] theorem sendRequest_perg (core : Nat) (user : ReqUser) (va : Word) (q : RemoteReq) (s : State) :
    (sendRequest core user va q s).perg = s.perg := by
  have waits : (hubWait core s).perg = s.perg := by
    unfold hubWait
    split <;> rfl
  unfold sendRequest
  extract_lets u fab flight
  split
  · split
    · exact waits
    · exact (completeFlight_perg ..).trans waits
  · split
    · exact waits
    · exact (sendAlong_perg ..).trans waits

end Sys2Proof.Machine
end
section
/-! SUPPORT. Named buffers and one step of a ring (R101, R102, R108 to R110, R125): what a record says, how REGISTER, DEREGISTER
and QUERY end, and what a reduce chunk leaves in its slot or sends on. -/

namespace Sys2Proof.Machine

/-! ### Planes and their slots -/

@[simp] theorem State.plane_modPlane (s : State) (k : Nat) (f : PlaneSt → PlaneSt) :
    (s.modPlane k f).plane k = f (s.plane k) := sget_smod_self ..

theorem State.plane_modPlane_ne (s : State) {k j : Nat} (f : PlaneSt → PlaneSt) (h : j ≠ k) :
    (s.modPlane k f).plane j = s.plane j := sget_smod_ne _ _ _ h

theorem State.slotP_modSlotP (s : State) (k i : Nat) (f : SlotP → SlotP) :
    (s.modSlotP k i f).slotP k i = (s.slotP k i).map f := by
  simp only [State.slotP, State.modSlotP, State.plane_modPlane, sget_smod_self]

theorem State.slotP_modSlotP_some {s : State} {k i : Nat} {x : SlotP} (here : s.slotP k i = some x) (f : SlotP → SlotP) :
    (s.modSlotP k i f).slotP k i = some (f x) := by
  rw [State.slotP_modSlotP, here]
  rfl

/-! ### A record (R101, R102) -/

theorem bufferRecord : Claim.BufferRecord := by
  intro s v e parsed
  unfold parseRecord at parsed
  extract_lets f at parsed
  split at parsed
  · rename_i fields
    obtain ⟨r18, -, -, -, r288, type, least, most, cap, xo, yo, base⟩ := fields
    obtain rfl := Option.some.inj parsed
    refine ⟨?_, type, least, most, cap, base, xo, yo, r18, r288⟩
    simp only [f, bits, pow_zero, Nat.div_one]
  · cases parsed

/-! ### A step of a ring (R108 to R110) -/

/-- Reading after values are written at successive positions from `lo` on. -/
theorem sget_putValues {α β : Type} (d : β) (f : α → β) (vs : List α) (lo : Nat) (m : Sparse β) (i : Nat) :
    sget d ((vs.zipIdx lo).foldl (fun m e => sput m e.2 (f e.1)) m) i =
      if lo ≤ i then ((vs[i - lo]?).map f).getD (sget d m i) else sget d m i := by
  induction vs generalizing lo m with
  | nil => simp
  | cons v vs ih =>
    rw [List.zipIdx_cons, List.foldl_cons, ih]
    by_cases here : i = lo
    · subst here
      simp [sget_sput_self]
    · rw [sget_sput_ne _ _ _ here]
      by_cases above : lo ≤ i
      · have next : i - lo = (i - (lo + 1)) + 1 := by omega
        rw [if_pos above, if_pos (by omega), next, List.getElem?_cons_succ]
      · rw [if_neg above, if_neg (by omega)]

/-- The values that a reduce chunk forms at its positions (R108). -/
def ringValues (p : Endpoint) (r : Nat × Nat) (vals : List (BitVec 32)) (x : SlotP) : List Nat :=
  (List.range (r.2 - r.1)).map (fun i => pergCombine p.e.type p.c.op
    (fromWire p.e.type p.c.op ((vals.map BitVec.toNat).getD i 0)) (sget 0 x.vals (r.1 + i)).toNat)

section
variable {p : Endpoint} {idx phase : Nat} {x : SlotP} {s : State} (reduce : phase ≤ 1)
  (here : s.slotP p.plane idx = some x) (r : Nat × Nat) (vals : List (BitVec 32))
include reduce here

theorem takeChunk_last : (takeChunk p idx phase r true vals s).slotP p.plane idx = some { x with
    vals := ((ringValues p r vals x).zipIdx r.1).foldl (fun m e => sput m e.2 (BitVec.ofNat 32 e.1)) x.vals } := by
  unfold takeChunk
  simp only [reduces, reduce, decide_true, if_true, here]
  exact State.slotP_modSlotP_some (s := capture 3 p.plane _ s) here _

theorem takeChunk_sends : ∃ j pos, ((takeChunk p idx phase r false vals s).plane p.plane) = { s.plane p.plane with
    sent := (s.plane p.plane).sent ++
      [(j, x.sig, pos, (ringValues p r vals x).map (fun v => BitVec.ofNat 32 (toWire p.e.type p.c.op v)))] } := by
  unfold takeChunk
  simp only [reduces, reduce, decide_true, if_true, here, sendRing]
  exact ⟨_, _, State.plane_modPlane (capture 3 p.plane _ s) p.plane _⟩

end

theorem ringStep : Claim.RingStep := by
  intro p idx phase lo hi k vals x s reduce here inside value
  have formed : (ringValues p (lo, hi) vals x)[k]? = some value := by
    simp only [ringValues, List.getElem?_map, List.getElem?_range inside, Option.map_some]
    rfl
  have count : (ringValues p (lo, hi) vals x).length = hi - lo := by simp [ringValues]
  obtain ⟨j, pos, sent⟩ := takeChunk_sends reduce here (lo, hi) vals
  refine ⟨⟨_, takeChunk_last reduce here (lo, hi) vals, ?_, fun i out => ?_, rfl, rfl⟩, j, pos, _,
    congrArg PlaneSt.sent sent, ?_, ?_, ?_⟩
  · dsimp only
    rw [sget_putValues, if_pos (by omega), Nat.add_sub_cancel_left, formed]
    rfl
  · dsimp only
    rw [sget_putValues]
    split
    · rw [List.getElem?_eq_none (by omega)]
      rfl
    · rfl
  · rw [List.length_map, count]
  · rw [List.getElem?_map, formed]
    rfl
  · rw [State.slotP, sent]
    exact here

/-! ### The record of a command (R125) -/

section
variable {s : State} (quiet : s.quiet)
include quiet

theorem plainRead_reads (core off n : Nat) : ∃ pcs, plainRead core off n s =
    (s.withPcs pcs, if s.mem.poisoned off n then .error .poison else .ok (s.mem.bytes off n)) := by
  obtain ⟨pcs, reached, after⟩ := reachRange_stays quiet core off n
  refine ⟨pcs, ?_⟩
  simp only [plainRead, reached, severed_quiet after, Bool.false_or]
  rfl

theorem recordAt_turned : ∃ pcs, (recordAt s).1 = s.withPcs pcs := by
  unfold recordAt
  split
  · rename_i l _
    obtain ⟨pcs, read⟩ := plainRead_reads quiet 512 l.off 64
    refine ⟨pcs, ?_⟩
    rw [read]
    split
    all_goals
      rename_i h
      exact (congrArg Prod.fst h).symm
  · exact ⟨s.mem.pcs, rfl⟩
  · exact ⟨s.mem.pcs, rfl⟩

theorem recordAt_hbm {l : Loc} (phys : physOf s s.perg.recAddr = some (.hbm l)) :
    (recordAt s).2 = if s.mem.poisoned l.off 64 then none else some (s.mem.bytes l.off 64) := by
  obtain ⟨pcs, read⟩ := plainRead_reads quiet 512 l.off 64
  simp only [recordAt, phys, read]
  cases s.mem.poisoned l.off 64 <;> rfl

end

/-! ### REGISTER, DEREGISTER and QUERY (R102, R125) -/

/-- A command ends with `result` and the entries `nbt`; an access of the record restarts its pseudo-channel's idle time
(R78). -/
def NbEnds (i : Instr) (s : State) (result : Nat) (nbt : List NbEntry) : Prop :=
  Answers i s (fun t => t.perg = { s.perg with go := false, result := result, nbt := nbt } ∧
    t.mem = { s.mem with pcs := t.mem.pcs } ∧ t.cores = s.cores ∧ t.host = s.host)

/-- The entry that the record at NBREC gives. -/
def recordEntry (s : State) : Option NbEntry := (recordAt s).2.bind (fun bs => parseRecord s (fromBytes bs))

theorem command_idle {s : State} {n : Nat} (idle : ¬ (s.perg.go = true ∧ s.perg.op = n)) (f : State → State) :
    when (s.perg.go && decide (s.perg.op = n)) f s = .next s := by
  refine when_not f s ?_
  rw [Bool.and_eq_false_imp]
  exact fun go => decide_eq_false fun op => idle ⟨go, op⟩

theorem command_runs {s : State} {n : Nat} (asked : s.perg.go = true ∧ s.perg.op = n) (f : State → State) :
    when (s.perg.go && decide (s.perg.op = n)) f s = .next (f s) := by
  refine when_of f s ?_
  rw [asked.1, asked.2, decide_eq_true rfl]
  rfl

theorem exec_register_idle {s : State} (idle : ¬ (s.perg.go = true ∧ s.perg.op = 1)) : exec .register s = .next s :=
  show execRegister s = _ from command_idle idle _

/-- The checks of REGISTER on a record that reads as an entry, in their order, and the entry. -/
def registerEntry (e : NbEntry) (s : State) : State :=
  if (s.nbEntry e.name).isSome then nbEnd 2 s
  else if !inStripe s e then nbEnd 3 s
  else if 256 ≤ s.perg.nbt.length then nbEnd 4 s
  else nbEnd 0 { s with perg := { s.perg with nbt := s.perg.nbt ++ [e] } }

section
variable {s : State} (quiet : s.quiet) (asked : s.perg.go = true ∧ s.perg.op = 1)
include quiet asked

theorem exec_register_reads : ∃ pcs, exec .register s =
    .next ((recordEntry s).elim (nbEnd 1 (s.withPcs pcs)) (fun e => registerEntry e (s.withPcs pcs))) := by
  obtain ⟨pcs, turned⟩ := recordAt_turned quiet
  refine ⟨pcs, (show execRegister s = _ from command_runs asked _).trans ?_⟩
  have same (v : Nat) : parseRecord (s.withPcs pcs) v = parseRecord s v := rfl
  dsimp only
  simp only [turned, same]
  rw [recordEntry]
  cases (recordAt s).2.bind (fun bs => parseRecord s (fromBytes bs)) <;> rfl

theorem register_illegal (bad : recordEntry s = none) : NbEnds .register s 1 s.perg.nbt := by
  obtain ⟨pcs, runs⟩ := exec_register_reads quiet asked
  rw [bad] at runs
  exact ⟨_, runs, rfl, rfl, rfl, rfl⟩

theorem register_results {e : NbEntry} (read : recordEntry s = some e) :
    ((s.nbEntry e.name).isSome = true → NbEnds .register s 2 s.perg.nbt) ∧
    (s.nbEntry e.name = none → inStripe s e = false → NbEnds .register s 3 s.perg.nbt) ∧
    (s.nbEntry e.name = none → inStripe s e = true → 256 ≤ s.perg.nbt.length → NbEnds .register s 4 s.perg.nbt) ∧
    (s.nbEntry e.name = none → inStripe s e = true → s.perg.nbt.length < 256 →
      NbEnds .register s 0 (s.perg.nbt ++ [e])) := by
  obtain ⟨pcs, runs⟩ := exec_register_reads quiet asked
  rw [read, Option.elim_some] at runs
  have ends {n : Nat} {u : State} (u_eq : registerEntry e (s.withPcs pcs) = nbEnd n u) (nbt : List NbEntry)
      (kept : u = { s.withPcs pcs with perg := { s.perg with nbt := nbt } }) : NbEnds .register s n nbt := by
    subst kept
    exact ⟨_, runs.trans (congrArg _ u_eq), rfl, rfl, rfl, rfl⟩
  have named : (s.withPcs pcs).nbEntry e.name = s.nbEntry e.name := rfl
  have stripe : inStripe (s.withPcs pcs) e = inStripe s e := rfl
  refine ⟨fun taken => ends (if_pos taken) _ rfl, fun new out => ends (u := s.withPcs pcs) ?_ _ rfl,
    fun new inside full => ends (u := s.withPcs pcs) ?_ _ rfl, fun new inside room => ends ?_ _ rfl⟩
  · simp [registerEntry, named, stripe, new, out]
  · have more : 256 ≤ (s.withPcs pcs).perg.nbt.length := full
    simp [registerEntry, named, stripe, new, inside, more]
  · have more : ¬ 256 ≤ (s.withPcs pcs).perg.nbt.length := Nat.not_le_of_lt room
    simp only [registerEntry, named, stripe, new, inside, more]
    rfl

end

theorem State.nbEntry_name {s : State} {n : Nat} {e : NbEntry} (found : s.nbEntry n = some e) : e.name = n := by
  simpa using List.find?_some found

theorem exec_deregister_idle {s : State} (idle : ¬ (s.perg.go = true ∧ s.perg.op = 2)) :
    exec .deregister s = .next s := show execDeregister s = _ from command_idle idle _

/-- An entry that DEREGISTER leaves: a collective on its name is outstanding, or its tag is ACTIVE (R102). -/
def EntryBusy (s : State) (e : NbEntry) : Prop :=
  outstanding s e.name = true ∨ (e.tag ≠ 0 ∧ sget .free s.mem.master e.tag = .active)

section
variable {s : State} (asked : s.perg.go = true ∧ s.perg.op = 2)
include asked

theorem deregister_unknown (unknown : s.nbEntry s.perg.name = none) : NbEnds .deregister s 6 s.perg.nbt := by
  refine ⟨nbEnd 6 s, (show execDeregister s = _ from command_runs asked _).trans ?_, rfl, rfl, rfl, rfl⟩
  simp only [unknown]

theorem deregister_results {e : NbEntry} (found : s.nbEntry s.perg.name = some e) :
    (EntryBusy s e → NbEnds .deregister s 5 s.perg.nbt) ∧
    (¬ EntryBusy s e → NbEnds .deregister s 0 (s.perg.nbt.filter (fun x => x.name != s.perg.name))) := by
  have busy : (outstanding s e.name || (decide (e.tag ≠ 0) && decide (tagState s e.tag = .active))) = true ↔
      EntryBusy s e := by
    rw [Bool.or_eq_true, Bool.and_eq_true, decide_eq_true_eq, decide_eq_true_eq]
    rfl
  have runs : exec .deregister s = .next (
      if outstanding s e.name || (decide (e.tag ≠ 0) && decide (tagState s e.tag = .active)) then nbEnd 5 s
      else nbEnd 0 { s with perg := { s.perg with nbt := s.perg.nbt.filter (fun x => x.name != e.name) } }) := by
    refine (show execDeregister s = _ from command_runs asked _).trans ?_
    simp only [found]
  rw [← State.nbEntry_name found]
  exact ⟨fun h => ⟨_, runs.trans (congrArg _ (if_pos (busy.2 h))), rfl, rfl, rfl, rfl⟩,
    fun h => ⟨_, runs.trans (congrArg _ (if_neg (mt busy.1 h))), rfl, rfl, rfl, rfl⟩⟩

end

theorem exec_query_idle {s : State} (idle : ¬ (s.perg.go = true ∧ s.perg.op = 3)) : exec .query s = .next s :=
  show execQuery s = _ from command_idle idle _

section
variable {s : State} (asked : s.perg.go = true ∧ s.perg.op = 3)
include asked

theorem query_unknown (unknown : s.nbEntry s.perg.name = none) : NbEnds .query s 6 s.perg.nbt := by
  refine ⟨nbEnd 6 s, (show execQuery s = _ from command_runs asked _).trans ?_, rfl, rfl, rfl, rfl⟩
  simp only [unknown]

theorem query_gives (quiet : s.quiet) {e : NbEntry} {l : Loc} (found : s.nbEntry s.perg.name = some e)
    (phys : physOf s s.perg.recAddr = some (.hbm l)) : Answers .query s (fun t =>
      t.perg = { s.perg with go := false, result := 0 } ∧ t.cores = s.cores ∧
      t.mem = { s.mem.write l.off (toBytes 64 (e.recordOf (e.seqRead s))) with pcs := t.mem.pcs }) := by
  obtain ⟨pcs, wrote, -⟩ := plainWrite_writes quiet 512 l.off (toBytes 64 (e.recordOf (e.seqRead s)))
  refine ⟨nbEnd 0 (plainWrite 512 l.off (toBytes 64 (e.recordOf (e.seqRead s))) s),
    (show execQuery s = _ from command_runs asked _).trans ?_, ?_⟩
  · simp only [found, phys]
  · rw [wrote, State.withPcs_write]
    exact ⟨rfl, rfl, rfl⟩

end

end Sys2Proof.Machine
end

section
/-! SUPPORT. Work of the Pergola on one plane (R109 to R116, R121 to R123): it leaves the named buffers, the other planes and
what a collective is as they stand, and of a collective's statuses it gives that plane's alone. -/

namespace Sys2Proof.Machine

/-! ### What work on some planes leaves standing -/

/-- From `s` to `t` only the planes that `P` holds of, and the collectives' statuses on them, have changed of the Pergola; the
interleave of the stacks stands. -/
structure OnPlanes (P : Nat → Prop) (s t : State) : Prop where
  nbt     : t.perg.nbt = s.perg.nbt
  planes  : ∀ j, ¬ P j → t.plane j = s.plane j
  colls   : ∀ id c, s.coll? id = some c → ∃ l, t.coll? id = some { c with planes := l } ∧
    ∀ j, ¬ P j → sget none l j = sget none c.planes j
  irtCode : t.mem.irtCode = s.mem.irtCode
  irtPs7  : t.mem.irtPs7 = s.mem.irtPs7

namespace OnPlanes

theorem refl (P : Nat → Prop) (s : State) : OnPlanes P s s :=
  ⟨rfl, fun _ _ => rfl, fun _ c h => ⟨c.planes, h, fun _ _ => rfl⟩, rfl, rfl⟩

theorem trans {P : Nat → Prop} {s t u : State} (h : OnPlanes P s t) (g : OnPlanes P t u) : OnPlanes P s u where
  nbt := g.nbt.trans h.nbt
  planes j other := (g.planes j other).trans (h.planes j other)
  colls id c found := by
    obtain ⟨l, there, same⟩ := h.colls id c found
    obtain ⟨l', there', same'⟩ := g.colls id _ there
    exact ⟨l', there', fun j other => (same' j other).trans (same j other)⟩
  irtCode := g.irtCode.trans h.irtCode
  irtPs7 := g.irtPs7.trans h.irtPs7

theorem mono {P Q : Nat → Prop} (sub : ∀ j, P j → Q j) {s t : State} (h : OnPlanes P s t) : OnPlanes Q s t where
  nbt := h.nbt
  planes j other := h.planes j (mt (sub j) other)
  colls id c found := by
    obtain ⟨l, there, same⟩ := h.colls id c found
    exact ⟨l, there, fun j other => same j (mt (sub j) other)⟩
  irtCode := h.irtCode
  irtPs7 := h.irtPs7

theorem foldl {P : Nat → Prop} {α : Type} {f : State → α → State} (step : ∀ s a, OnPlanes P s (f s a)) (l : List α)
    (s : State) : OnPlanes P s (l.foldl f s) :=
  List.foldlRecOn _ _ (.refl P s) fun t h a _ => h.trans (step t a)

theorem nbEntry {P : Nat → Prop} {s t : State} (h : OnPlanes P s t) (n : Nat) : t.nbEntry n = s.nbEntry n := by
  unfold State.nbEntry
  rw [h.nbt]

theorem stackOf {P : Nat → Prop} {s t : State} (h : OnPlanes P s t) (a : Nat) : t.mem.stackOf a = s.mem.stackOf a := by
  simp only [MemSt.stackOf, MemSt.cell, h.irtCode, h.irtPs7]

end OnPlanes

/-- Work on plane `k` alone, and work on the others. -/
abbrev OnPlane (k : Nat) (s t : State) : Prop := OnPlanes (· = k) s t
abbrev OffPlane (k : Nat) (s t : State) : Prop := OnPlanes (· ≠ k) s t

theorem OffPlane.plane {k : Nat} {s t : State} (h : OffPlane k s t) : t.plane k = s.plane k := h.planes k (not_not.2 rfl)

theorem OffPlane.slotP {k : Nat} {s t : State} (h : OffPlane k s t) (i : Nat) : t.slotP k i = s.slotP k i := by
  rw [State.slotP, State.slotP, h.plane]

/-- Each of several planes worked on once: the others' work comes before and after. -/
theorem planes_foldl {f : State → Nat → State} (step : ∀ s i, OnPlane i s (f s i)) {l : List Nat} (once : l.Nodup)
    {k : Nat} (here : k ∈ l) (s : State) : ∃ u, OffPlane k s u ∧ OffPlane k (f u k) (l.foldl f s) := by
  induction l generalizing s with
  | nil => cases here
  | cons i l ih =>
    obtain ⟨new, once⟩ := List.nodup_cons.1 once
    have away (l : List Nat) (out : k ∉ l) (s : State) : OffPlane k s (l.foldl f s) :=
      List.foldlRecOn _ _ (.refl _ s) fun t h j hj =>
        h.trans ((step t j).mono fun m (same : m = j) (e : m = k) => out (e ▸ same ▸ hj))
    by_cases first : k = i
    · subst first
      exact ⟨s, .refl _ s, away l new _⟩
    · obtain ⟨u, before, after⟩ := ih once ((List.mem_cons.1 here).resolve_left first) (f s i)
      exact ⟨u, ((step s i).mono fun m (same : m = i) (e : m = k) => first (e ▸ same)).trans before, after⟩

/-! ### Single parts changed -/

theorem State.coll?_id {s : State} {id : Nat} {c : CollSt} (found : s.coll? id = some c) : c.id = id := by
  simpa using List.find?_some found

theorem State.coll?_modColl (s : State) (id : Nat) {f : CollSt → CollSt} (kept : ∀ c, (f c).id = c.id) :
    (s.modColl id f).coll? id = (s.coll? id).map f := find?_updateFirst (fun c h => by rw [kept]; exact h) _

theorem State.coll?_modColl_some {s : State} {id : Nat} {c : CollSt} (found : s.coll? id = some c) {f : CollSt → CollSt}
    (kept : ∀ c, (f c).id = c.id) : (s.modColl id f).coll? id = some (f c) := by
  rw [State.coll?_modColl s id kept, found]
  rfl

theorem State.coll?_modColl_ne (s : State) {id j : Nat} (ne : j ≠ id) {f : CollSt → CollSt}
    (kept : ∀ c, (f c).id = c.id) : (s.modColl id f).coll? j = s.coll? j := by
  refine find?_updateFirst_other (fun c h => ?_) (fun c h => ?_) _
  · have e : c.id = id := by simpa using h
    simp [e, Ne.symm ne]
  · have e : c.id = id := by simpa using h
    simp [kept, e, Ne.symm ne]

theorem onPlanes_of_perg {P : Nat → Prop} {s t : State} (perg : t.perg = s.perg) (irtCode : t.mem.irtCode = s.mem.irtCode)
    (irtPs7 : t.mem.irtPs7 = s.mem.irtPs7) : OnPlanes P s t where
  nbt := by rw [perg]
  planes j _ := by rw [State.plane, State.plane, perg]
  colls id c found := ⟨c.planes, by rw [State.coll?, perg]; exact found, fun _ _ => rfl⟩
  irtCode := irtCode
  irtPs7 := irtPs7

theorem onPlanes_of_accessed {P : Nat → Prop} {s t : State} (perg : t.perg = s.perg) (accessed : Accessed s t) :
    OnPlanes P s t := onPlanes_of_perg perg accessed.mem.irtCode accessed.mem.irtPs7

theorem onPlane_modPlane (k : Nat) (f : PlaneSt → PlaneSt) (s : State) : OnPlane k s (s.modPlane k f) :=
  ⟨rfl, fun _ other => s.plane_modPlane_ne f other, fun _ c found => ⟨c.planes, found, fun _ _ => rfl⟩, rfl, rfl⟩

theorem onPlane_modSlotP (k i : Nat) (f : SlotP → SlotP) (s : State) : OnPlane k s (s.modSlotP k i f) :=
  onPlane_modPlane ..

theorem onPlane_status (k id : Nat) (z : PlaneStatus) (s : State) :
    OnPlane k s (s.modColl id (fun c => { c with planes := sput c.planes k (some z) })) := by
  refine ⟨rfl, fun _ _ => rfl, fun j c found => ?_, rfl, rfl⟩
  by_cases same : j = id
  · subst same
    exact ⟨_, State.coll?_modColl_some found fun _ => rfl, fun i other => sget_sput_ne _ _ _ other⟩
  · have kept := State.coll?_modColl_ne s same (f := fun c => { c with planes := sput c.planes k (some z) }) fun _ => rfl
    exact ⟨c.planes, kept.trans found, fun _ _ => rfl⟩

/-! ### Writes and arrivals of an endpoint (R103, R121, R122) -/

theorem onPlane_request (k : Nat) (p : Endpoint) (l : Loc) (a : PcAction) (s : State) : OnPlane k s (p.request l a s).1 :=
  onPlanes_of_accessed (throughPc_perg ..) (accessed_throughPc ..)

theorem onPlane_xlatAt (k core root va : Nat) (write : Bool) (s : State) : OnPlane k s (xlatAt core root va write s).1 :=
  onPlanes_of_accessed (xlatAt_perg ..) (accessed_xlatAt ..)

theorem onPlane_noteRefusal {p : Endpoint} {s : State} {r : State × Except MemErr Unit} (h : OnPlane p.plane s r.1)
    (idx : Nat) : OnPlane p.plane s (noteRefusal p idx r) := by
  unfold noteRefusal
  split
  · exact h
  · exact h.trans (onPlane_modSlotP ..)

theorem onPlane_pergStore (k : Nat) (p : Endpoint) (va : Nat) (bs : List Byte) (s : State) :
    OnPlane k s (pergStore p va bs s).1 := by
  have walked := onPlane_xlatAt k 512 (p.root s) va true s
  unfold pergStore
  split
  · rename_i h
    rw [h] at walked
    exact walked
  · rename_i h
    rw [h] at walked
    split
    · exact walked.trans (onPlane_request ..)
    · exact walked

theorem onPlane_writePos (p : Endpoint) (idx pos v : Nat) (final : Bool) (s : State) :
    OnPlane p.plane s (writePos p idx pos v final s) := by
  unfold writePos
  extract_lets u off w
  have marked : OnPlane p.plane s u := onPlane_modSlotP ..
  have wrote : OnPlane p.plane s w := marked.trans (onPlane_noteRefusal (onPlane_request ..) idx)
  split
  · exact wrote.trans (onPlane_noteRefusal (onPlane_pergStore ..) idx)
  · exact wrote

theorem onPlane_pergArrive (k : Nat) (p : Endpoint) (s : State) : OnPlane k s (pergArrive p s).1 := by
  have walked := onPlane_xlatAt k 512 (p.root s) p.c.bar.toNat true s
  unfold pergArrive
  split
  · exact .refl _ s
  · split
    · rename_i h
      rw [h] at walked
      exact walked
    · rename_i h
      rw [h] at walked
      split
      · exact walked.trans (onPlane_request ..)
      · dsimp only [State.fresh]
        refine walked.trans (onPlanes_of_accessed (sendRequest_perg ..) ?_)
        exact (accessed_fresh _).trans (accessed_sendRequest ..)
      · exact walked

/-! ### The end on a plane (R114 to R116, R122, R123) -/

/-- The arrival that a plane makes as it ends with `st`, and the status that this leaves (R122; log 33). -/
def arrivalOf (p : Endpoint) (st : PlaneStatus) (s : State) : State × PlaneStatus :=
  if decide (st ≠ .mismatch ∧ st ≠ .cancel) then
    match pergArrive p s with
    | (s, .ok ()) => (s, st)
    | (s, .error .owner) => (s, .owner)
    | (s, .error .poison) => (s, .poison)
    | (s, .error .closed) => (s, .cancel)
    | (s, .error _) => (s, st)
  else (s, st)

/-- A plane's counters once it has ended with `z` (R125). -/
def PlaneSt.ended (z : PlaneStatus) (x : PlaneSt) : PlaneSt :=
  match z with
  | .timeout | .link => { x with timeouts := satInc 65535 x.timeouts }
  | .mismatch => { x with mismatch := satInc 65535 x.mismatch }
  | .cancel => { x with cancels := satInc 65535 x.cancels }
  | _ => x

@[simp] theorem PlaneSt.ended_slots (z : PlaneStatus) (x : PlaneSt) : (x.ended z).slots = x.slots := by cases z <;> rfl
@[simp] theorem PlaneSt.ended_sent (z : PlaneStatus) (x : PlaneSt) : (x.ended z).sent = x.sent := by cases z <;> rfl

/-- A plane that gave up the slot of an ended collective, where it has one. -/
def freeOptional (plane : Nat) (idx : Option Nat) (s : State) : State := idx.elim s (fun i => freeSlotP plane i s)

/-- A plane's end with the status `z`: its slot is free, it is counted, and the collective has the status. -/
def closePlane (p : Endpoint) (idx : Option Nat) (z : PlaneStatus) (s : State) : State :=
  ((freeOptional p.plane idx s).modPlane p.plane (PlaneSt.ended z)).modColl p.c.id
    (fun c => { c with planes := sput c.planes p.plane (some z) })

theorem endPlane_eq (p : Endpoint) (idx : Option Nat) (st : PlaneStatus) (s : State) :
    endPlane p idx st s = closePlane p idx (arrivalOf p st s).2 (arrivalOf p st s).1 := by
  cases idx <;> rfl

theorem onPlane_arrivalOf (p : Endpoint) (st : PlaneStatus) (s : State) : OnPlane p.plane s (arrivalOf p st s).1 := by
  have arrived := onPlane_pergArrive p.plane p s
  unfold arrivalOf
  split
  · split
    all_goals
      rename_i h
      rw [h] at arrived
      exact arrived
  · exact .refl _ s

theorem onPlane_closePlane (p : Endpoint) (idx : Option Nat) (z : PlaneStatus) (s : State) :
    OnPlane p.plane s (closePlane p idx z s) := by
  have freed : OnPlane p.plane s (freeOptional p.plane idx s) := by
    cases idx with
    | none => exact .refl _ s
    | some i => exact onPlane_modPlane ..
  exact (freed.trans (onPlane_modPlane ..)).trans (onPlane_status ..)

theorem onPlane_endPlane (p : Endpoint) (idx : Option Nat) (st : PlaneStatus) (s : State) :
    OnPlane p.plane s (endPlane p idx st s) := by
  rw [endPlane_eq]
  exact (onPlane_arrivalOf p st s).trans (onPlane_closePlane ..)

theorem onPlane_fillPlane (p : Endpoint) (idx : Nat) (st : PlaneStatus) (s : State) :
    OnPlane p.plane s (fillPlane p idx st s) := by
  unfold fillPlane
  split
  · exact .refl _ s
  · exact (OnPlanes.foldl (fun s i => onPlane_writePos p idx i _ false s) _ s).trans (onPlane_endPlane ..)

/-! ### Chunks and MARKs that leave (R99, R110, R113, R114) -/

theorem onPlane_sendRing (k j : Nat) (sig pos : Word) (vals : List (BitVec 32)) (s : State) :
    OnPlane k s (sendRing k j sig pos vals s) := onPlane_modPlane ..

theorem onPlane_sendRange (p : Endpoint) (idx phase : Nat) (row : Bool) (r : Nat × Nat) (s : State) :
    OnPlane p.plane s (sendRange p idx phase row r s) := by
  unfold sendRange
  split
  · exact .refl _ s
  · exact .foldl (fun s c => onPlane_sendRing ..) _ s

theorem onPlane_sendMarks (k : Nat) (sig pos : Word) (s : State) : OnPlane k s (sendMarks k sig pos s) := by
  unfold sendMarks
  refine .foldl (fun s j => ?_) _ s
  split
  · exact onPlane_modPlane ..
  · exact .refl _ s

theorem onPlane_mismatchSlot (k idx : Nat) (s : State) : OnPlane k s (mismatchSlot k idx s) := by
  unfold mismatchSlot
  split
  · exact .refl _ s
  · extract_lets u v
    have marked : OnPlane k s v := (onPlane_modSlotP ..).trans (onPlane_sendMarks ..)
    split
    · exact marked
    · split
      · exact marked.trans (onPlane_endPlane (endpoint v k _ _) ..)
      · exact marked

/-! ### Progress and issue (R109 to R111, R118) -/

theorem onPlane_openPhase (p : Endpoint) (idx phase : Nat) (s : State) :
    OnPlane p.plane s (openPhase p idx phase s) := by
  unfold openPhase
  split
  · exact onPlane_sendRange ..
  · exact onPlane_sendRange ..
  · exact onPlane_sendRange ..
  · exact onPlane_sendRange ..
  · split
    · extract_lets u
      have row : OnPlane p.plane s u := by
        unfold u
        split
        · exact onPlane_sendRange ..
        · exact .refl _ s
      split
      · exact row.trans (onPlane_sendRange ..)
      · exact row
    · exact .refl _ s

theorem onPlane_finishPart (p : Endpoint) (idx : Nat) (s : State) : OnPlane p.plane s (finishPart p idx s) := by
  unfold finishPart
  exact .foldl (fun s i => (onPlane_modSlotP ..).trans (onPlane_writePos ..)) _ s

theorem onPlane_takeChunk (p : Endpoint) (idx phase : Nat) (r : Nat × Nat) (last : Bool) (vals : List (BitVec 32))
    (s : State) : OnPlane p.plane s (takeChunk p idx phase r last vals s) := by
  unfold takeChunk
  extract_lets vs u w v
  have captured : OnPlane p.plane s u := onPlanes_of_perg rfl rfl rfl
  have written : OnPlane p.plane s w := .foldl (fun s e => (onPlane_modSlotP ..).trans (onPlane_writePos ..)) _ s
  have row : OnPlane p.plane s v := by
    unfold v
    split
    · exact written.trans (onPlane_sendRange ..)
    · exact written
  split
  · split
    · exact .refl _ s
    · split
      · exact captured.trans (onPlane_modSlotP ..)
      · exact captured.trans (onPlane_sendRing ..)
  · split
    · split
      · exact written
      · exact written.trans (onPlane_sendRange ..)
    · split
      · exact written
      · exact written.trans (onPlane_sendRange ..)
    · split
      · split
        · exact row.trans (onPlane_sendRange ..)
        · exact row
      · split
        · exact written.trans (onPlane_sendRange ..)
        · exact written

theorem onPlane_advanceSlot (p : Endpoint) (idx fuel : Nat) (s : State) :
    OnPlane p.plane s (advanceSlot p idx fuel s) := by
  induction fuel generalizing s with
  | zero => exact .refl _ s
  | succ fuel ih =>
    unfold advanceSlot
    split
    · exact .refl _ s
    · split
      · exact onPlane_endPlane ..
      · split
        · split
          · exact onPlane_mismatchSlot ..
          · extract_lets next u v
            have counted : OnPlane p.plane s u := onPlane_modSlotP ..
            have finished : OnPlane p.plane s v := by
              unfold v
              split
              · exact counted.trans (onPlane_finishPart ..)
              · exact counted
            refine OnPlanes.trans ?_ (ih _)
            clear_value v next
            cases next with
            | none => exact finished
            | some f => exact finished.trans (onPlane_openPhase ..)
        · split
          · exact .refl _ s
          · split
            · exact onPlane_mismatchSlot ..
            · exact ((onPlane_modSlotP ..).trans (onPlane_takeChunk ..)).trans (ih _)

theorem onPlane_readOwn (p : Endpoint) (idx : Nat) (s : State) : OnPlane p.plane s (readOwn p idx s) := by
  unfold readOwn
  dsimp only
  refine .foldl (fun s i => ?_) _ s
  have read (l : Loc) := onPlane_request p.plane p l (.read p.e.width) s
  split
  · exact (read _).trans (onPlane_modSlotP ..)
  · exact ((read _).trans (onPlane_modSlotP ..)).trans (onPlane_modSlotP ..)

/-- The slot that a collective takes on a plane as it is issued (R115), as the model writes it: the one of its key, or a free
one. -/
def issueSlot (k : Nat) (c : CollSt) (sig : Word) (s : State) : Option Nat × State :=
  match slotOf (s.plane k) c.name c.seq c.att with
  | some i => (some i, s.modSlotP k i (fun x => { x with issued := some c.id }))
  | none =>
    match slotFor (s.plane k) c.name c.seq with
    | some i => (some i, takeSlot k i (freshSlot c.name c.seq c.att sig s.now (some c.id)) s)
    | none => (none, s)

/-- A collective that has taken slot `i` begins there (R99, R109 to R111, R114). -/
def beginPlane (p : Endpoint) (sig : Word) (rings : List Nat) (s : State) (i : Nat) : State :=
  let old := (s.slotP p.plane i).getD (freshSlot p.c.name p.c.seq p.c.att sig s.now none)
  let s := s.modSlotP p.plane i (fun x => { x with sig := sig })
  if old.marked ∨ old.sig ≠ sig then mismatchSlot p.plane i s
  else if ringsDown s p rings then fillPlane p i .link s
  else
    let s := readOwn p i s
    let s := match p.phases with
      | [] => if p.c.kind ≤ 1 then finishPart p i s else s
      | f :: _ => openPhase p i f s
    advanceSlot p i p.turns s

theorem issuePlane_stripe {k : Nat} {c : CollSt} {e : NbEntry} {s : State} (stripe : (endpoint s k c e).m ≠ 0)
    (rings : List Nat) : issuePlane k c e rings s = (issueSlot k c (sigOf c e) s).1.elim (issueSlot k c (sigOf c e) s).2
      (beginPlane (endpoint s k c e) (sigOf c e) rings (issueSlot k c (sigOf c e) s).2) := by
  refine (if_neg stripe).trans ?_
  unfold issueSlot
  cases slotOf (s.plane k) c.name c.seq c.att with
  | some i => rfl
  | none => cases slotFor (s.plane k) c.name c.seq <;> rfl

theorem onPlane_issueSlot (k : Nat) (c : CollSt) (sig : Word) (s : State) : OnPlane k s (issueSlot k c sig s).2 := by
  unfold issueSlot
  split
  · exact onPlane_modSlotP ..
  · split
    · exact onPlane_modPlane ..
    · exact .refl _ s

theorem onPlane_beginPlane (p : Endpoint) (sig : Word) (rings : List Nat) (s : State) (i : Nat) :
    OnPlane p.plane s (beginPlane p sig rings s i) := by
  unfold beginPlane
  extract_lets old u v w
  have signed : OnPlane p.plane s u := onPlane_modSlotP ..
  have read : OnPlane p.plane s v := signed.trans (onPlane_readOwn ..)
  have opened : OnPlane p.plane s w := by
    unfold w
    split
    · split
      · exact read.trans (onPlane_finishPart ..)
      · exact read
    · exact read.trans (onPlane_openPhase ..)
  split
  · exact signed.trans (onPlane_mismatchSlot ..)
  · split
    · exact signed.trans (onPlane_fillPlane ..)
    · exact opened.trans (onPlane_advanceSlot ..)

theorem onPlane_issuePlane (k : Nat) (c : CollSt) (e : NbEntry) (rings : List Nat) (s : State) :
    OnPlane k s (issuePlane k c e rings s) := by
  by_cases stripe : (endpoint s k c e).m = 0
  · unfold issuePlane
    rw [if_pos stripe]
    split
    · exact (onPlane_modSlotP ..).trans (onPlane_mismatchSlot ..)
    · exact onPlane_endPlane (endpoint s k c e) ..
  · have slot := onPlane_issueSlot k c (sigOf c e) s
    rw [issuePlane_stripe stripe]
    cases (issueSlot k c (sigOf c e) s).1 with
    | none => exact slot
    | some i => exact slot.trans (onPlane_beginPlane (endpoint s k c e) ..)

end Sys2Proof.Machine
end

section
/-! SUPPORT. How a collective ends on a plane (R99, R114 to R116, R122, R123): the slot is free and the plane has a status, with
MARKs where it mismatches. -/

namespace Sys2Proof.Machine

/-! ### The status given (R122, R123) -/

/-- The status that a plane ends with, where `z` was its own: a refused arrival on the barrier `bar` gives its own (log 33). -/
def Given (bar : Word) (z : PlaneStatus) (o : Option PlaneStatus) : Prop :=
  o = some z ∨ (bar ≠ 0 ∧ (o = some .owner ∨ o = some .poison ∨ o = some .cancel))

theorem Given.of_no_bar {bar : Word} {z : PlaneStatus} {o : Option PlaneStatus} (h : Given bar z o) (none : bar = 0) :
    o = some z := h.resolve_right fun refused => refused.1 none

theorem Given.isSome {bar : Word} {z : PlaneStatus} {o : Option PlaneStatus} (h : Given bar z o) : o.isSome = true := by
  rcases h with rfl | ⟨-, rfl | rfl | rfl⟩ <;> rfl

/-- A plane that ends with MISMATCH or CANCEL arrives on no barrier. -/
theorem arrivalOf_silent {st : PlaneStatus} (silent : st = .mismatch ∨ st = .cancel) (p : Endpoint) (s : State) :
    arrivalOf p st s = (s, st) := by
  unfold arrivalOf
  refine if_neg ?_
  rcases silent with rfl | rfl <;> decide

theorem pergArrive_no_bar {p : Endpoint} (none : p.c.bar = 0) (s : State) : pergArrive p s = (s, .ok ()) := by
  unfold pergArrive
  exact if_pos (.inr none)

theorem arrivalOf_given (p : Endpoint) (st : PlaneStatus) (s : State) :
    Given p.c.bar st (some (arrivalOf p st s).2) := by
  by_cases none : p.c.bar = 0
  · left
    unfold arrivalOf
    rw [pergArrive_no_bar none]
    split <;> rfl
  · unfold arrivalOf
    split
    · split
      · exact .inl rfl
      · exact .inr ⟨none, .inl rfl⟩
      · exact .inr ⟨none, .inr (.inl rfl)⟩
      · exact .inr ⟨none, .inr (.inr rfl)⟩
      · exact .inl rfl
    · exact .inl rfl

/-! ### A plane closed (R115, R125) -/

theorem freeSlotP_slotP (k i : Nat) (s : State) : (freeSlotP k i s).slotP k i = none := by
  rw [State.slotP, freeSlotP, State.plane_modPlane, sget_sset, if_pos rfl]

theorem closePlane_frame (p : Endpoint) (idx : Option Nat) (z : PlaneStatus) (s : State) :
    (closePlane p idx z s).mem = s.mem ∧ (closePlane p idx z s).cores = s.cores := by
  cases idx <;> exact ⟨rfl, rfl⟩

theorem closePlane_plane (p : Endpoint) (idx : Option Nat) (z : PlaneStatus) (s : State) :
    (closePlane p idx z s).plane p.plane = ((freeOptional p.plane idx s).plane p.plane).ended z :=
  State.plane_modPlane ..

theorem closePlane_freed (p : Endpoint) (i : Nat) (z : PlaneStatus) (s : State) :
    (closePlane p (some i) z s).slotP p.plane i = none := by
  rw [State.slotP, closePlane_plane, PlaneSt.ended_slots]
  exact freeSlotP_slotP ..

theorem closePlane_coll {p : Endpoint} {s : State} {c : CollSt} (found : s.coll? p.c.id = some c) (idx : Option Nat)
    (z : PlaneStatus) : (closePlane p idx z s).coll? p.c.id = some { c with planes := sput c.planes p.plane (some z) } := by
  refine State.coll?_modColl_some (f := fun c => { c with planes := sput c.planes p.plane (some z) }) ?_ fun _ => rfl
  cases idx <;> exact found

/-! ### A plane ended (R116, R122) -/

theorem endPlane_freed (p : Endpoint) (i : Nat) (st : PlaneStatus) (s : State) :
    (endPlane p (some i) st s).slotP p.plane i = none := by
  rw [endPlane_eq]
  exact closePlane_freed ..

theorem endPlane_given {p : Endpoint} {s : State} {c : CollSt} (found : s.coll? p.c.id = some c) (idx : Option Nat)
    (st : PlaneStatus) : ∃ l, (endPlane p idx st s).coll? p.c.id = some { c with planes := l } ∧
      Given p.c.bar st (sget none l p.plane) := by
  obtain ⟨l, there, -⟩ := (onPlane_arrivalOf p st s).colls _ _ found
  rw [endPlane_eq]
  refine ⟨_, closePlane_coll there idx _, ?_⟩
  rw [sget_sput_self]
  exact arrivalOf_given p st s

/-- A plane that ends without an arrival. -/
theorem endPlane_silent {st : PlaneStatus} (silent : st = .mismatch ∨ st = .cancel) (p : Endpoint) (idx : Option Nat)
    (s : State) : endPlane p idx st s = closePlane p idx st s := by
  rw [endPlane_eq, arrivalOf_silent silent]

/-- A plane that ends with TIMEOUT or LINK (R99, R116). -/
theorem fillPlane_ends {p : Endpoint} {idx : Nat} {x : SlotP} {s : State} (here : s.slotP p.plane idx = some x) {c : CollSt}
    (found : s.coll? p.c.id = some c) (st : PlaneStatus) : (fillPlane p idx st s).slotP p.plane idx = none ∧
      ∃ l, (fillPlane p idx st s).coll? p.c.id = some { c with planes := l } ∧
        Given p.c.bar st (sget none l p.plane) := by
  unfold fillPlane
  rw [here]
  dsimp only
  have filled (l : List Nat) : OnPlane p.plane s (l.foldl (fun s i => writePos p idx i (nanElem p.e.type) false s) s) :=
    .foldl (fun s i => onPlane_writePos p idx i _ false s) l s
  obtain ⟨l, there, -⟩ := (filled (p.takes.filter fun i => !sget false x.written i)).colls _ _ found
  obtain ⟨l', given⟩ := endPlane_given there (some idx) st
  exact ⟨endPlane_freed .., l', given⟩

/-! ### MARKs and mismatches (R114) -/

theorem sendMarks_frame (k : Nat) (sig pos : Word) (s : State) :
    ∃ planes, sendMarks k sig pos s = { s with perg := { s.perg with planes := planes } } := by
  unfold sendMarks
  refine List.foldlRecOn (motive := fun (t : State) => ∃ planes, t = { s with perg := { s.perg with planes := planes } }) _ _
    ⟨s.perg.planes, rfl⟩ fun t h j _ => ?_
  obtain ⟨planes, rfl⟩ := h
  split
  · exact ⟨_, rfl⟩
  · exact ⟨planes, rfl⟩

theorem ringPartner_of_fab {s t : State} (same : t.fab = s.fab) (j : Nat) : ringPartner t j = ringPartner s j := by
  unfold ringPartner State.isMember
  rw [same]

/-- The MARKs that leave stand in `sent`; the slots stand as they were. -/
theorem sendMarks_plane (k : Nat) (sig pos : Word) (s : State) :
    ∃ out, (sendMarks k sig pos s).plane k = { s.plane k with sent := (s.plane k).sent ++ out } ∧
      ∀ j, j < 4 → (ringPartner s j).isSome = true → (j, sig, pos, []) ∈ out := by
  have sends (l : List Nat) (t : State) (same : t.fab = s.fab) : ∃ out,
      (l.foldl (fun s j => if (ringPartner s j).isSome then
        s.modPlane k (fun p => { p with sent := p.sent ++ [(j, sig, pos, [])] }) else s) t).plane k =
          { t.plane k with sent := (t.plane k).sent ++ out } ∧
      ∀ j ∈ l, (ringPartner s j).isSome = true → (j, sig, pos, []) ∈ out := by
    induction l generalizing t with
    | nil => exact ⟨[], by rw [List.foldl_nil, List.append_nil], nofun⟩
    | cons i l ih =>
      rw [List.foldl_cons, ringPartner_of_fab same]
      split
      · obtain ⟨out, sent, all⟩ := ih (t.modPlane k _) same
        refine ⟨(i, sig, pos, []) :: out, ?_, fun j hj leads => ?_⟩
        · rw [sent, State.plane_modPlane, List.append_assoc]
          rfl
        · rcases List.mem_cons.1 hj with rfl | later
          · exact List.mem_cons_self
          · exact List.mem_cons_of_mem _ (all j later leads)
      · rename_i nowhere
        obtain ⟨out, sent, all⟩ := ih t same
        refine ⟨out, sent, fun j hj leads => ?_⟩
        rcases List.mem_cons.1 hj with rfl | later
        · exact absurd leads nowhere
        · exact all j later leads
  obtain ⟨out, sent, all⟩ := sends (List.range 4) s rfl
  exact ⟨out, sent, fun j lt => all j (List.mem_range.2 lt)⟩

/-- A slot marked, with its MARKs on their way. -/
def markSlotP (k i : Nat) (x : SlotP) (s : State) : State :=
  sendMarks k x.sig (posOf x.seq x.att 0 0 true) (s.modSlotP k i (fun x => { x with marked := true }))

theorem markSlotP_frame (k i : Nat) (x : SlotP) (s : State) :
    ∃ planes, markSlotP k i x s = { s with perg := { s.perg with planes := planes } } := sendMarks_frame ..

/-- The MARKs of a signature that leave a plane. -/
def MarksSent (k : Nat) (sig : Word) (s t : State) : Prop := ∀ j, j < 4 → (ringPartner s j).isSome = true →
  ∃ pos, (j, sig, pos, ([] : List (BitVec 32))) ∈ (t.plane k).sent

theorem markSlotP_marks (k i : Nat) (x : SlotP) (s : State) : MarksSent k x.sig s (markSlotP k i x s) := by
  obtain ⟨out, sent, all⟩ := sendMarks_plane k x.sig (posOf x.seq x.att 0 0 true)
    (s.modSlotP k i (fun x => { x with marked := true }))
  intro j lt leads
  refine ⟨posOf x.seq x.att 0 0 true, ?_⟩
  rw [markSlotP, sent]
  exact List.mem_append_right _ (all j lt leads)

theorem markSlotP_slotP {k i : Nat} {x : SlotP} {s : State} (here : s.slotP k i = some x) :
    (markSlotP k i x s).slotP k i = some { x with marked := true } := by
  obtain ⟨out, sent, -⟩ := sendMarks_plane k x.sig (posOf x.seq x.att 0 0 true)
    (s.modSlotP k i (fun x => { x with marked := true }))
  rw [State.slotP, markSlotP, sent]
  exact State.slotP_modSlotP_some here _

section
variable {k i : Nat} {x : SlotP} {s : State} (here : s.slotP k i = some x)
include here

theorem mismatchSlot_eq : mismatchSlot k i s = (x.issued.bind (markSlotP k i x s).coll?).elim (markSlotP k i x s)
    (fun c => ((markSlotP k i x s).nbEntry c.name).elim (markSlotP k i x s)
      (fun e => endPlane (endpoint (markSlotP k i x s) k c e) (some i) .mismatch (markSlotP k i x s))) := by
  unfold mismatchSlot
  rw [here]
  dsimp only
  rw [show sendMarks k x.sig (posOf x.seq x.att 0 0 true) (s.modSlotP k i (fun x => { x with marked := true })) =
    markSlotP k i x s from rfl]
  generalize markSlotP k i x s = u
  cases x.issued.bind u.coll? with
  | none => rfl
  | some c =>
    dsimp only [Option.elim_some]
    cases u.nbEntry c.name <;> rfl

theorem mismatchSlot_of_slot_frame : (mismatchSlot k i s).mem = s.mem ∧ (mismatchSlot k i s).cores = s.cores := by
  obtain ⟨planes, marked⟩ := markSlotP_frame k i x s
  have mem : (markSlotP k i x s).mem = s.mem := by rw [marked]
  have cores : (markSlotP k i x s).cores = s.cores := by rw [marked]
  rw [mismatchSlot_eq here]
  generalize markSlotP k i x s = u at mem cores
  cases x.issued.bind u.coll? with
  | none => exact ⟨mem, cores⟩
  | some c =>
    dsimp only [Option.elim_some]
    cases u.nbEntry c.name with
    | none => exact ⟨mem, cores⟩
    | some e =>
      obtain ⟨mem', cores'⟩ := closePlane_frame (endpoint u k c e) (some i) .mismatch u
      rw [Option.elim_some, endPlane_silent (.inl rfl)]
      exact ⟨mem'.trans mem, cores'.trans cores⟩

theorem mismatchSlot_unissued (alone : x.issued.bind s.coll? = none) : mismatchSlot k i s = markSlotP k i x s := by
  obtain ⟨planes, marked⟩ := markSlotP_frame k i x s
  have same : x.issued.bind (markSlotP k i x s).coll? = none := by rw [marked]; exact alone
  rw [mismatchSlot_eq here, same, Option.elim_none]

variable {c : CollSt} {e : NbEntry} (issued : x.issued.bind s.coll? = some c) (entry : s.nbEntry c.name = some e)
include issued entry

theorem mismatchSlot_issued : mismatchSlot k i s =
    closePlane (endpoint (markSlotP k i x s) k c e) (some i) .mismatch (markSlotP k i x s) := by
  obtain ⟨planes, marked⟩ := markSlotP_frame k i x s
  have same : x.issued.bind (markSlotP k i x s).coll? = some c := by rw [marked]; exact issued
  have named : (markSlotP k i x s).nbEntry c.name = some e := by rw [marked]; exact entry
  rw [mismatchSlot_eq here, same, Option.elim_some, named, Option.elim_some, endPlane_silent (.inl rfl)]

theorem mismatchSlot_freed : (mismatchSlot k i s).slotP k i = none := by
  rw [mismatchSlot_issued here issued entry]
  exact closePlane_freed (endpoint (markSlotP k i x s) k c e) i _ _

theorem mismatchSlot_marks : MarksSent k x.sig s (mismatchSlot k i s) := by
  intro j lt leads
  obtain ⟨pos, sent⟩ := markSlotP_marks k i x s j lt leads
  refine ⟨pos, ?_⟩
  rw [mismatchSlot_issued here issued entry]
  change _ ∈ ((closePlane (endpoint (markSlotP k i x s) k c e) _ _ _).plane
    (endpoint (markSlotP k i x s) k c e).plane).sent
  rw [closePlane_plane, PlaneSt.ended_sent, freeOptional, Option.elim_some, freeSlotP, State.plane_modPlane]
  exact sent

theorem mismatchSlot_coll : ∃ l, (mismatchSlot k i s).coll? c.id = some { c with planes := l } ∧
    sget none l k = some .mismatch := by
  obtain ⟨planes, marked⟩ := markSlotP_frame k i x s
  obtain ⟨id, -, found⟩ := Option.bind_eq_some_iff.1 issued
  have there : (markSlotP k i x s).coll? c.id = some c := by
    rw [marked, State.coll?_id found]
    exact found
  rw [mismatchSlot_issued here issued entry]
  exact ⟨_, closePlane_coll (p := endpoint (markSlotP k i x s) k c e) there (some i) .mismatch, sget_sput_self ..⟩

end

theorem mismatchSlot_frame (k i : Nat) (s : State) :
    (mismatchSlot k i s).mem = s.mem ∧ (mismatchSlot k i s).cores = s.cores := by
  cases here : s.slotP k i with
  | none =>
    unfold mismatchSlot
    rw [here]
    exact ⟨rfl, rfl⟩
  | some x => exact mismatchSlot_of_slot_frame here

end Sys2Proof.Machine
end

section
/-! SUPPORT. Chunks and MARKs that arrive, slots that expire, and collectives that time out (R99, R114 to R116, R125). -/

namespace Sys2Proof.Machine

/-- The other planes, the stacks and the cores stand. -/
def BesidePlane (k : Nat) (s t : State) : Prop :=
  (∀ j, j ≠ k → t.plane j = s.plane j) ∧ t.mem = s.mem ∧ t.cores = s.cores

theorem besidePlane_modPlane (k : Nat) (f : PlaneSt → PlaneSt) (s : State) : BesidePlane k s (s.modPlane k f) :=
  ⟨fun _ other => s.plane_modPlane_ne f other, rfl, rfl⟩

theorem besidePlane_mismatchSlot (k i : Nat) (s : State) : BesidePlane k s (mismatchSlot k i s) :=
  ⟨(onPlane_mismatchSlot k i s).planes, mismatchSlot_frame k i s⟩

/-! ### The place of an arrival (R113, R115) -/

/-- The name, the sequence and the attempt that a chunk's words carry. -/
def chunkName (x : Input) : Nat := x.v.toNat / 2 ^ 36 % 2 ^ 16
def chunkSeq (x : Input) : Nat := x.u.toNat % 2 ^ 32
def chunkAtt (x : Input) : Nat := x.u.toNat / 2 ^ 32 % 2 ^ 4

theorem bits_chunkName (x : Input) : bits x.v.toNat 51 36 = chunkName x := rfl
theorem bits_chunkSeq (x : Input) : bits x.u.toNat 31 0 = chunkSeq x := congrArg (· % 2 ^ 32) (Nat.div_one _)
theorem bits_chunkAtt (x : Input) : bits x.u.toNat 35 32 = chunkAtt x := rfl

/-- The slot that the key of an arrival names on its plane. -/
def arrivalSlot (s : State) : Option Nat :=
  slotOf (s.plane s.input.stack) (chunkName s.input) (chunkSeq s.input) (chunkAtt s.input)

/-- A slot just taken by the key of an arrival. -/
def FreshArrival (s : State) (early : List (Word × Word × List (BitVec 32))) (marked : Bool) (y : SlotP) : Prop :=
  y.name = chunkName s.input ∧ y.seq = chunkSeq s.input ∧ y.att = chunkAtt s.input ∧ y.sig = s.input.v ∧
    y.marked = marked ∧ y.early = early ∧ y.issued = none ∧ y.taken = s.now

theorem takeSlot_slotP (k i : Nat) (x : SlotP) (s : State) : (takeSlot k i x s).slotP k i = some x := by
  rw [State.slotP, takeSlot, State.plane_modPlane]
  exact sget_sput_self ..

theorem slotEndpoint_unissued {y : SlotP} (alone : y.issued = none) (s : State) (k : Nat) : slotEndpoint s k y = none := by
  rw [slotEndpoint, alone]
  rfl

/-- An arrival that is counted alone (R115, R125). -/
def CountsStale (i : Instr) (s : State) : Prop := Answers i s (fun t => BesidePlane s.input.stack s t ∧
  t.plane s.input.stack = { s.plane s.input.stack with stale := min 65535 ((s.plane s.input.stack).stale + 1) })

theorem staleChunks_plane (k n : Nat) (s : State) :
    (staleChunks k n s).plane k = { s.plane k with stale := min 65535 ((s.plane k).stale + n) } := by
  rw [staleChunks, State.plane_modPlane, satAdd_eq_min]

theorem countsStale_of_exec {i : Instr} {s : State} (h : exec i s = .next (staleChunks s.input.stack 1 s)) :
    CountsStale i s := ⟨_, h, besidePlane_modPlane .., staleChunks_plane ..⟩

/-! ### A chunk (R99, R114, R115) -/

theorem chunkArrival_early {s : State} (early : s.pkg.stage ≠ 7) : exec .chunkArrival s = .next s :=
  show execChunkArrival s = _ from if_pos early

section
variable {s : State} (ready : s.pkg.stage = 7)
include ready

theorem chunkArrival_passes (passes : passesBy s s.input.stack s.input.link = true) :
    Answers .chunkArrival s (fun t => BesidePlane s.input.stack s t ∧ t.plane s.input.stack = { s.plane s.input.stack with
      sent := (s.plane s.input.stack).sent ++ [(s.input.link + 1, s.input.v, s.input.u, s.input.vals)] }) := by
  refine ⟨s.modPlane s.input.stack (fun p => { p with
    sent := p.sent ++ [(s.input.link + 1, s.input.v, s.input.u, s.input.vals)] }), (?_ : execChunkArrival s = _),
    besidePlane_modPlane .., State.plane_modPlane ..⟩
  exact (if_neg (not_not.2 ready)).trans (if_pos passes)

variable (own : passesBy s s.input.stack s.input.link = false)
include own

theorem chunkArrival_unknown (unknown : s.nbEntry (chunkName s.input) = none) : CountsStale .chunkArrival s := by
  refine countsStale_of_exec (show execChunkArrival s = _ from ?_)
  simp only [execChunkArrival, ready, own, bits_chunkName, unknown]
  rfl

variable (known : (s.nbEntry (chunkName s.input)).isSome = true)
include known

/-- The turn of a chunk whose key holds no slot. -/
theorem exec_chunkArrival_new (new : arrivalSlot s = none) : exec .chunkArrival s =
    (slotFor (s.plane s.input.stack) (chunkName s.input) (chunkSeq s.input)).elim (.next s) (fun i => .next
      (takeSlot s.input.stack i { freshSlot (chunkName s.input) (chunkSeq s.input) (chunkAtt s.input) s.input.v s.now none with
        early := [(s.input.v, s.input.u, s.input.vals)] } s)) := by
  obtain ⟨e, entry⟩ := Option.isSome_iff_exists.1 known
  unfold arrivalSlot at new
  change execChunkArrival s = _
  simp only [execChunkArrival, ready, own, bits_chunkName, bits_chunkSeq, bits_chunkAtt, entry, new]
  cases slotFor (s.plane s.input.stack) (chunkName s.input) (chunkSeq s.input) <;> rfl

theorem chunkArrival_takes {i : Nat} (new : arrivalSlot s = none)
    (free : slotFor (s.plane s.input.stack) (chunkName s.input) (chunkSeq s.input) = some i) :
    Answers .chunkArrival s (fun t => BesidePlane s.input.stack s t ∧ ∃ y, t.slotP s.input.stack i = some y ∧
      FreshArrival s [(s.input.v, s.input.u, s.input.vals)] false y) := by
  have runs := exec_chunkArrival_new ready own known new
  rw [free] at runs
  exact ⟨_, runs, besidePlane_modPlane .., _, takeSlot_slotP .., rfl, rfl, rfl, rfl, rfl, rfl, rfl, rfl⟩

theorem chunkArrival_full (new : arrivalSlot s = none)
    (full : slotFor (s.plane s.input.stack) (chunkName s.input) (chunkSeq s.input) = none) :
    exec .chunkArrival s = .next s := by
  rw [exec_chunkArrival_new ready own known new, full]
  rfl

variable {i : Nat} {y : SlotP} (held : arrivalSlot s = some i) (here : s.slotP s.input.stack i = some y)
  (alone : y.issued = none)
include held here alone

/-- The turn of a chunk whose slot's collective is not issued here. -/
theorem exec_chunkArrival_waits : exec .chunkArrival s =
    if s.input.v ≠ y.sig ∧ y.marked = false then .next (mismatchSlot s.input.stack i s)
    else when (decide (y.early.length < 2)) (fun s => s.modSlotP s.input.stack i (fun y => { y with
      early := y.early ++ [(s.input.v, s.input.u, s.input.vals)] })) s := by
  obtain ⟨e, entry⟩ := Option.isSome_iff_exists.1 known
  unfold arrivalSlot at held
  change execChunkArrival s = _
  simp only [execChunkArrival, ready, own, bits_chunkName, bits_chunkSeq, bits_chunkAtt, entry, held, here,
    slotEndpoint_unissued alone]
  rfl

theorem chunkArrival_mismatches (other : s.input.v ≠ y.sig) (unmarked : y.marked = false) :
    Answers .chunkArrival s (fun t => BesidePlane s.input.stack s t ∧
      t.slotP s.input.stack i = some { y with marked := true } ∧ MarksSent s.input.stack y.sig s t) := by
  have marks := mismatchSlot_unissued here (by rw [alone]; rfl)
  have runs := (exec_chunkArrival_waits ready own known held here alone).trans (if_pos ⟨other, unmarked⟩)
  refine ⟨_, runs, besidePlane_mismatchSlot .., ?_⟩
  rw [marks]
  exact ⟨markSlotP_slotP here, markSlotP_marks _ i y s⟩

variable (fits : s.input.v = y.sig ∨ y.marked = true)
include fits

theorem exec_chunkArrival_fits : exec .chunkArrival s =
    when (decide (y.early.length < 2)) (fun s => s.modSlotP s.input.stack i (fun y => { y with
      early := y.early ++ [(s.input.v, s.input.u, s.input.vals)] })) s := by
  refine (exec_chunkArrival_waits ready own known held here alone).trans (if_neg ?_)
  rintro ⟨other, unmarked⟩
  rcases fits with same | marked
  · exact other same
  · exact Bool.noConfusion (marked.symm.trans unmarked)

theorem chunkArrival_waits (room : y.early.length < 2) : Answers .chunkArrival s (fun t =>
    BesidePlane s.input.stack s t ∧ t.slotP s.input.stack i = some { y with
      early := y.early ++ [(s.input.v, s.input.u, s.input.vals)] }) :=
  ⟨_, (exec_chunkArrival_fits ready own known held here alone fits).trans (when_of _ s (decide_eq_true room)),
    besidePlane_modPlane .., State.slotP_modSlotP_some here _⟩

theorem chunkArrival_held (more : 2 ≤ y.early.length) : exec .chunkArrival s = .next s :=
  (exec_chunkArrival_fits ready own known held here alone fits).trans
    (when_not _ s (decide_eq_false (Nat.not_lt.2 more)))

end

/-! ### A MARK (R114, R115) -/

theorem markArrival_early {s : State} (early : s.pkg.stage ≠ 7) : exec .markArrival s = .next s :=
  show execMarkArrival s = _ from if_pos early

section
variable {s : State} (ready : s.pkg.stage = 7)
include ready

theorem markArrival_unknown (unknown : s.nbEntry (chunkName s.input) = none) : CountsStale .markArrival s := by
  refine countsStale_of_exec (show execMarkArrival s = _ from ?_)
  simp only [execMarkArrival, ready, bits_chunkName, unknown]
  rfl

variable (known : (s.nbEntry (chunkName s.input)).isSome = true)
include known

theorem markArrival_takes {i : Nat} (new : arrivalSlot s = none)
    (free : slotFor (s.plane s.input.stack) (chunkName s.input) (chunkSeq s.input) = some i) :
    Answers .markArrival s (fun t => BesidePlane s.input.stack s t ∧ ∃ y, t.slotP s.input.stack i = some y ∧
      FreshArrival s [] true y) := by
  obtain ⟨e, entry⟩ := Option.isSome_iff_exists.1 known
  unfold arrivalSlot at new
  refine ⟨takeSlot s.input.stack i
    { freshSlot (chunkName s.input) (chunkSeq s.input) (chunkAtt s.input) s.input.v s.now none with marked := true } s, (?_ : execMarkArrival s = _), besidePlane_modPlane .., _, takeSlot_slotP ..,
    rfl, rfl, rfl, rfl, rfl, rfl, rfl, rfl⟩
  simp only [execMarkArrival, ready, bits_chunkName, bits_chunkSeq, bits_chunkAtt, entry, new, free]
  rfl

variable {i : Nat} {y : SlotP} (held : arrivalSlot s = some i) (here : s.slotP s.input.stack i = some y)
include held here

/-- The turn of a MARK whose key holds a slot. -/
theorem exec_markArrival_held : exec .markArrival s = .next (if y.marked then s
    else if y.issued.isSome then mismatchSlot s.input.stack i s
    else s.modSlotP s.input.stack i (fun y => { y with marked := true })) := by
  obtain ⟨e, entry⟩ := Option.isSome_iff_exists.1 known
  unfold arrivalSlot at held
  change execMarkArrival s = _
  simp only [execMarkArrival, ready, bits_chunkName, bits_chunkSeq, bits_chunkAtt, entry, held, here]
  cases y.marked <;> cases y.issued <;> rfl

theorem markArrival_again (marked : y.marked = true) : exec .markArrival s = .next s := by
  rw [exec_markArrival_held ready known held here, if_pos marked]

variable (unmarked : y.marked = false)
include unmarked

theorem markArrival_marks (alone : y.issued = none) : Answers .markArrival s (fun t => BesidePlane s.input.stack s t ∧
    t.slotP s.input.stack i = some { y with marked := true }) := by
  have runs := exec_markArrival_held ready known held here
  rw [unmarked, alone] at runs
  exact ⟨_, runs, besidePlane_modPlane .., State.slotP_modSlotP_some here _⟩

theorem markArrival_ends {c : CollSt} (issued : y.issued.bind s.coll? = some c) (entry : (s.nbEntry c.name).isSome = true) :
    Answers .markArrival s (fun t => BesidePlane s.input.stack s t ∧ t.slotP s.input.stack i = none ∧
      MarksSent s.input.stack y.sig s t ∧
      ∃ d, t.coll? c.id = some d ∧ sget none d.planes s.input.stack = some .mismatch) := by
  obtain ⟨e, entry⟩ := Option.isSome_iff_exists.1 entry
  obtain ⟨id, some, -⟩ := Option.bind_eq_some_iff.1 issued
  obtain ⟨l, coll, status⟩ := mismatchSlot_coll here issued entry
  have runs := exec_markArrival_held ready known held here
  rw [unmarked, some] at runs
  exact ⟨_, runs, besidePlane_mismatchSlot .., mismatchSlot_freed here issued entry, mismatchSlot_marks here issued entry,
    _, coll, status⟩

end

/-! ### Slots that expire, and collectives that time out (R99, R115, R116) -/

section
variable {s : State} {y : SlotP} (here : s.slotP s.input.stack s.input.slot = some y)
include here

/-- The time, in microseconds, that a slot of a name is held for its issue (R115). -/
def slotTmo (s : State) (y : SlotP) : Nat := match s.nbEntry y.name with | some e => e.tmo | none => 0

/-- A slot's time is over: no collective is issued there, and TMO has passed. -/
def SlotDue (s : State) (y : SlotP) : Prop := y.issued = none ∧ y.taken + slotTmo s y * 1000 ≤ s.now

theorem exec_slotTmoExpiry_eq : exec .slotTmoExpiry s =
    when (y.issued.isNone && decide (y.taken + slotTmo s y * 1000 ≤ s.now)) (fun s =>
      staleChunks s.input.stack (y.early.length + y.marked.toNat) (freeSlotP s.input.stack s.input.slot s)) s := by
  change execSlotTmoExpiry s = _
  simp only [execSlotTmoExpiry, here]
  rfl

theorem slotTmoExpiry_frees (due : SlotDue s y) : Answers .slotTmoExpiry s (fun t => BesidePlane s.input.stack s t ∧
    t.slotP s.input.stack s.input.slot = none ∧ (t.plane s.input.stack).stale =
      min 65535 ((s.plane s.input.stack).stale + (y.early.length + y.marked.toNat))) := by
  obtain ⟨alone, passed⟩ := due
  have runs := (exec_slotTmoExpiry_eq here).trans (when_of _ s (by rw [alone, decide_eq_true passed]; rfl))
  refine ⟨_, runs, ⟨fun j other => ?_, rfl, rfl⟩, ?_, ?_⟩
  · exact (State.plane_modPlane_ne _ _ other).trans (State.plane_modPlane_ne _ _ other)
  · rw [State.slotP, staleChunks_plane]
    exact freeSlotP_slotP ..
  · rw [staleChunks_plane, freeSlotP, State.plane_modPlane]

theorem slotTmoExpiry_stays (early : ¬ SlotDue s y) : exec .slotTmoExpiry s = .next s := by
  refine (exec_slotTmoExpiry_eq here).trans (when_not _ s ?_)
  rw [Bool.and_eq_false_imp]
  exact fun alone => decide_eq_false fun passed => early ⟨Option.isNone_iff_eq_none.1 alone, passed⟩

variable {c : CollSt} {e : NbEntry} (issued : y.issued.bind s.coll? = some c) (entry : s.nbEntry c.name = some e)
include issued entry

theorem exec_collectiveTimeout_eq : exec .collectiveTimeout s =
    if ringsDown s (endpoint s s.input.stack c e) s.input.nats = true then
      .next (fillPlane (endpoint s s.input.stack c e) s.input.slot .link s)
    else when (decide (c.time + e.tmo * 1000 ≤ s.now))
      (fillPlane (endpoint s s.input.stack c e) s.input.slot .timeout) s := by
  change execCollectiveTimeout s = _
  simp only [execCollectiveTimeout, here, issued, entry]

omit entry in
/-- The collective of a slot ends on its plane with `z`. -/
theorem timedOut {z : PlaneStatus} (runs : exec .collectiveTimeout s =
    .next (fillPlane (endpoint s s.input.stack c e) s.input.slot z s)) :
    Answers .collectiveTimeout s (fun t => t.slotP s.input.stack s.input.slot = none ∧
      ∃ d, t.coll? c.id = some d ∧ Given c.bar z (sget none d.planes s.input.stack)) := by
  obtain ⟨id, -, found⟩ := Option.bind_eq_some_iff.1 issued
  have there : s.coll? c.id = some c := by rw [State.coll?_id found, found]
  obtain ⟨freed, l, coll, given⟩ := fillPlane_ends (p := endpoint s s.input.stack c e) here there z
  exact ⟨_, runs, freed, _, coll, given⟩

end

theorem ringsDown_up {s : State} {k : Nat} (up : ∀ j, j < 4 → ringUp s k j = true) (c : CollSt) (e : NbEntry) :
    ringsDown s (endpoint s k c e) [] = false := by
  have plane : (endpoint s k c e).plane = k := rfl
  simp only [ringsDown, plane, up 0 (by decide), up 2 (by decide), List.contains_nil, Bool.not_true, Bool.false_and,
    Bool.or_false, Bool.and_false]

theorem ringsDown_row {s : State} {k : Nat} {c : CollSt} (e : NbEntry) (rings : List Nat) (kind : c.kind = 0)
    (row : 0 < s.fab.ncm1) (pos : ringUp s k 0 = false) (neg : ringUp s k 1 = false) :
    ringsDown s (endpoint s k c e) rings = true := by
  have plane : (endpoint s k c e).plane = k := rfl
  have more : 1 < (endpoint s k c e).nc := Nat.succ_lt_succ row
  have reduce : 0 ∈ (endpoint s k c e).phases := by
    have kind' : (endpoint s k c e).c.kind = 0 := kind
    simp [Endpoint.phases, kind', more]
  have any : (endpoint s k c e).phases.any (fun f => f == 0 || f == 3 || (f == 4 && (endpoint s k c e).dy == 0)) = true :=
    List.any_eq_true.2 ⟨0, reduce, rfl⟩
  simp only [ringsDown, any, more, plane, pos, neg, decide_true, Bool.not_false, Bool.and_true, Bool.or_true, Bool.true_or]

end Sys2Proof.Machine
end

section
/-! SUPPORT. The issue of a collective (R105, R114, R115, R117, R118): its turn, its sequence on its name, and what each plane
has once it is over. -/

namespace Sys2Proof.Machine

/-! ### The order of a name (R117) -/

/-- A tag in whose transaction another collective on the name runs, by the Pavilion's state or by some die's mirror: the
issue meets OWNER (R117; log 28). -/
def TakenByTag (s : State) (e : NbEntry) (tag : Nat) : Prop :=
  e.tag ≠ 0 ∧ e.tag ≠ tag ∧
    (sget .free s.mem.master e.tag = .active ∨ ∃ k, k < 8 ∧ s.mem.status k e.tag = .active)

theorem seqIssue_isNone (e : NbEntry) (tag : Nat) (status : Nat → TagState) :
    (seqIssue e tag status).isNone = true ↔ e.tag ≠ 0 ∧ status e.tag = .active ∧ e.tag ≠ tag := by
  unfold seqIssue
  split
  · rename_i owner
    exact ⟨fun _ => owner, fun _ => rfl⟩
  · rename_i free
    dsimp only
    refine ⟨fun none => ?_, fun owner => absurd owner free⟩
    split at none <;> cases none

theorem seqIssueAll_taken {s : State} {e : NbEntry} {tag : Nat} (taken : TakenByTag s e tag) : seqIssueAll s e tag = none := by
  obtain ⟨tagged, other, master | ⟨k, lt, mirror⟩⟩ := taken
  · unfold seqIssueAll
    split
    · rfl
    · exact Option.isNone_iff_eq_none.1 ((seqIssue_isNone ..).2 ⟨tagged, master, other⟩)
  · unfold seqIssueAll
    refine if_pos (List.any_eq_true.2 ⟨k, List.mem_range.2 lt, ?_⟩)
    exact (seqIssue_isNone ..).2 ⟨tagged, mirror, other⟩

theorem seqIssueAll_free {s : State} {e : NbEntry} {tag : Nat} (free : ¬ TakenByTag s e tag) :
    seqIssueAll s e tag = seqIssue e tag (tagState s) := by
  unfold seqIssueAll
  refine if_neg fun any => free ?_
  obtain ⟨k, lt, none⟩ := List.any_eq_true.1 any
  obtain ⟨tagged, mirror, other⟩ := (seqIssue_isNone ..).1 none
  exact ⟨tagged, other, .inr ⟨k, List.mem_range.1 lt, mirror⟩⟩

/-- What an issue leaves of an entry: its name and its buffer. -/
structure NbEntry.SameBuffer (e e' : NbEntry) : Prop where
  name : e'.name = e.name
  type : e'.type = e.type
  base : e'.base = e.base

theorem NbEntry.sameBuffer_normal (e : NbEntry) (status : Nat → TagState) : e.SameBuffer (e.normal status) := by
  unfold NbEntry.normal
  split <;> exact ⟨rfl, rfl, rfl⟩

theorem seqIssue_sameBuffer {e e' : NbEntry} {tag seq : Nat} {status : Nat → TagState}
    (issued : seqIssue e tag status = some (seq, e')) : e.SameBuffer e' := by
  obtain ⟨name, type, base⟩ := e.sameBuffer_normal status
  unfold seqIssue at issued
  split at issued
  · cases issued
  · split at issued
    · obtain ⟨-, rfl⟩ := Prod.mk.inj (Option.some.inj issued)
      exact ⟨name, type, base⟩
    · obtain ⟨-, rfl⟩ := Prod.mk.inj (Option.some.inj issued)
      split <;> exact ⟨name, type, base⟩

theorem seqIssue_untagged {e : NbEntry} (none : e.tag = 0) (status : Nat → TagState) :
    seqIssue e 0 status = some (e.seqc, { e with seqc := (e.seqc + 1) % 2 ^ 32 }) ∧
    ∀ tag, tag ≠ 0 → seqIssue e tag status = some (e.seqc, { e with tag := tag, seqt := (e.seqc + 1) % 2 ^ 32 }) := by
  have normal : e.normal status = e := if_neg fun tagged => tagged.1 none
  refine ⟨?_, fun tag named => ?_⟩
  · simp only [seqIssue, none, normal, ne_eq, not_true, false_and, if_false, if_true]
  · simp only [seqIssue, none, normal, named, ne_eq, not_true, false_and, if_false, if_true]

/-! ### One plane of an issue (R105, R114, R115) -/

theorem slotOf_here {pl : PlaneSt} {name seq att i : Nat} (held : slotOf pl name seq att = some i) :
    ∃ x, sget none pl.slots i = some x := by
  have here := List.find?_some held
  cases h : sget none pl.slots i with
  | none => rw [h] at here; cases here
  | some x => exact ⟨x, rfl⟩

/-- The stripe of an endpoint is that of its entry's buffer and its count. -/
theorem endpoint_m {P : Nat → Prop} {s t : State} (work : OnPlanes P s t) {c d : CollSt} (count : d.count = c.count)
    {e e' : NbEntry} (buffer : e.SameBuffer e') (k : Nat) : (endpoint t k d e').m = (endpoint s k c e).m := by
  simp only [Endpoint.m, endpoint, work.stackOf, count, buffer.base, NbEntry.width, buffer.type]

section
variable {s : State} {k : Nat} {c d : CollSt} {e : NbEntry} (empty : (endpoint s k c e).m = 0)
  (found : s.coll? c.id = some d)
include empty found

/-- An empty stripe whose key has taken a slot mismatches it. -/
theorem issuePlane_mismatches (entry : s.nbEntry d.name = some e) {i : Nat}
    (held : slotOf (s.plane k) c.name c.seq c.att = some i) (rings : List Nat) :
    ∃ l, (issuePlane k c e rings s).coll? c.id = some { d with planes := l } ∧ sget none l k = some .mismatch := by
  obtain ⟨x, here⟩ := slotOf_here held
  have runs : issuePlane k c e rings s =
      mismatchSlot k i (s.modSlotP k i (fun x => { x with issued := some c.id, sig := sigOf c e })) := by
    refine (if_pos empty).trans ?_
    rw [held]
  rw [runs]
  have slot := State.slotP_modSlotP_some (s := s) here (fun x => { x with issued := some c.id, sig := sigOf c e })
  obtain ⟨l, coll, status⟩ := mismatchSlot_coll slot (c := d) found entry
  exact ⟨l, by simpa only [State.coll?_id found] using coll, status⟩

/-- An empty stripe that has no slot is complete. -/
theorem issuePlane_completes (free : slotOf (s.plane k) c.name c.seq c.att = none) (rings : List Nat) :
    ∃ l, (issuePlane k c e rings s).coll? c.id = some { d with planes := l } ∧ Given c.bar .ok (sget none l k) := by
  have runs : issuePlane k c e rings s = endPlane (endpoint s k c e) none .ok s := by
    refine (if_pos empty).trans ?_
    rw [free]
  rw [runs]
  exact endPlane_given (p := endpoint s k c e) found none .ok

end

/-! ### COLLECTIVE_ISSUE (R117, R118) -/

/-- The planes of a collective all with one status. -/
theorem sget_allPlanes (z : PlaneStatus) {k : Nat} (lt : k < 8) :
    sget none ((List.range 8).map (fun i => (i, some z))) k = some z := by
  interval_cases k <;> rfl

theorem nbEntry_replaced {s : State} {n : Nat} {e e' : NbEntry} (found : s.nbEntry n = some e) (name : e'.name = e.name) :
    (s.perg.nbt.map (fun m => if m.name = e.name then e' else m)).find? (fun m => m.name == n) = some e' := by
  have same (m : NbEntry) : ((if m.name = e.name then e' else m).name == n) = (m.name == n) := by
    split
    · rename_i h
      rw [name, h]
    · rfl
  rw [List.find?_map]
  simp only [Function.comp_def, same]
  unfold State.nbEntry at found
  rw [found]
  exact congrArg some (if_pos rfl)

/-- A collective whose turn on its name has come (R118). -/
structure IssueTurn (s : State) (c : CollSt) (e : NbEntry) : Prop where
  found : s.coll? s.input.id = some c
  entry : s.nbEntry c.name = some e
  waits : c.issued = false
  left  : c.open ≠ []
  first : (s.perg.colls.find? (fun d => d.name == c.name)).map (fun d => d.id) = some c.id

/-- A collective as it is issued, and the state with its entry. -/
def CollSt.issuedAs (c : CollSt) (seq now : Nat) : CollSt := { c with issued := true, seq := seq, time := now }

def beginIssue (c : CollSt) (e e' : NbEntry) (seq : Nat) (s : State) : State :=
  let s := s.modColl c.id (fun _ => c.issuedAs seq s.now)
  { s with perg := { s.perg with nbt := s.perg.nbt.map (fun n => if n.name = e.name then e' else n) } }

section
variable {s : State} {c : CollSt} {e : NbEntry} (turn : IssueTurn s c e)
include turn

theorem IssueTurn.there : s.coll? c.id = some c := by rw [State.coll?_id turn.found, turn.found]

/-- The turn, by what the name's sequence answers. -/
theorem exec_collectiveIssue_turn : exec .collectiveIssue s = (seqIssueAll s e c.tag).elim
    (.next (s.modColl c.id (fun c =>
      { c with issued := true, time := s.now, planes := (List.range 8).map (fun i => (i, some .owner)) })))
    (fun q => if (!slotsFree s c.name q.1 c.att) = true then .next s
      else .next ((List.range 8).foldl (fun s' i => issuePlane i (c.issuedAs q.1 s.now) q.2 s.input.nats s')
        (beginIssue c e q.2 q.1 s))) := by
  obtain ⟨found, entry, waits, left, first⟩ := turn
  change execCollectiveIssue s = _
  simp only [execCollectiveIssue, found, entry]
  refine (if_neg ?_).trans ?_
  · rintro (issued | none | other)
    · exact Bool.noConfusion (issued.symm.trans waits)
    · exact left none
    · exact other first
  · cases seqIssueAll s e c.tag <;> rfl

theorem collectiveIssue_owner (taken : TakenByTag s e c.tag) : Answers .collectiveIssue s (fun t => t.mem = s.mem ∧
    t.perg.nbt = s.perg.nbt ∧ ∃ d, t.coll? c.id = some d ∧ d.issued = true ∧ d.time = s.now ∧
      ∀ k, k < 8 → sget none d.planes k = some .owner) := by
  have runs := exec_collectiveIssue_turn turn
  rw [seqIssueAll_taken taken] at runs
  have coll := State.coll?_modColl_some turn.there (f := fun c =>
    { c with issued := true, time := s.now, planes := (List.range 8).map (fun i => (i, some .owner)) }) fun _ => rfl
  exact ⟨_, runs, rfl, rfl, _, coll, rfl, rfl, fun k lt => sget_allPlanes .owner lt⟩

theorem beginIssue_coll (seq : Nat) (e' : NbEntry) :
    (beginIssue c e e' seq s).coll? c.id = some (c.issuedAs seq s.now) := by
  have kept := find?_updateFirst (p := fun d : CollSt => d.id == c.id) (f := fun _ => c.issuedAs seq s.now)
    (fun _ _ => beq_self_eq_true c.id) s.perg.colls
  exact kept.trans (congrArg (Option.map _) turn.there)

variable (free : ¬ TakenByTag s e c.tag) {seq : Nat} {e' : NbEntry} (given : seqIssue e c.tag (tagState s) = some (seq, e'))
include free given

theorem collectiveIssue_waits (full : slotsFree s c.name seq c.att = false) : exec .collectiveIssue s = .next s := by
  rw [exec_collectiveIssue_turn turn, seqIssueAll_free free, given, Option.elim_some]
  exact if_pos (by rw [full]; rfl)

omit free in
/-- What one plane has after the issue, where its stripe is empty. -/
theorem collectiveIssue_plane {t : State} (issued : t = (List.range 8).foldl (fun s' i =>
    issuePlane i (c.issuedAs seq s.now) e' s.input.nats s') (beginIssue c e e' seq s)) {k : Nat} (lt : k < 8)
    (empty : (endpoint s k c e).m = 0) : ∃ l, t.coll? c.id = some { c.issuedAs seq s.now with planes := l } ∧
      (∀ i, slotOf (s.plane k) c.name seq c.att = some i → sget none l k = some .mismatch) ∧
      (slotOf (s.plane k) c.name seq c.att = none → Given c.bar .ok (sget none l k)) := by
  have buffer := seqIssue_sameBuffer given
  obtain ⟨u, before, after⟩ := planes_foldl
    (f := fun s' i => issuePlane i (c.issuedAs seq s.now) e' s.input.nats s')
    (fun s' i => onPlane_issuePlane i (c.issuedAs seq s.now) e' s.input.nats s')
    List.nodup_range (List.mem_range.2 lt) (beginIssue c e e' seq s)
  obtain ⟨l₀, found, -⟩ := before.colls _ _ (beginIssue_coll turn seq e')
  have stripe : (endpoint u k (c.issuedAs seq s.now) e').m = 0 := by
    exact (endpoint_m before (c := c) (d := c.issuedAs seq s.now) rfl buffer k).trans empty
  have entry : u.nbEntry c.name = some e' := by
    rw [before.nbEntry]
    exact nbEntry_replaced turn.entry buffer.name
  have plane : u.plane k = s.plane k := before.plane
  have last {P : Option PlaneStatus → Prop} (h : ∃ l, (issuePlane k (c.issuedAs seq s.now) e' s.input.nats u).coll? c.id =
      some { c.issuedAs seq s.now with planes := l } ∧ P (sget none l k)) :
      ∃ l, t.coll? c.id = some { c.issuedAs seq s.now with planes := l } ∧ P (sget none l k) := by
    obtain ⟨l, coll, status⟩ := h
    obtain ⟨l', coll', same⟩ := after.colls _ _ coll
    rw [issued]
    exact ⟨l', coll', (same k (not_not.2 rfl)).symm ▸ status⟩
  cases held : slotOf (s.plane k) c.name seq c.att with
  | none =>
    have free : slotOf (u.plane k) (c.issuedAs seq s.now).name (c.issuedAs seq s.now).seq (c.issuedAs seq s.now).att =
      none := by rw [plane]; exact held
    obtain ⟨l, coll, status⟩ := last (P := Given c.bar .ok)
      (issuePlane_completes (c := c.issuedAs seq s.now) stripe found free s.input.nats)
    exact ⟨l, coll, nofun, fun _ => status⟩
  | some i =>
    have mine : slotOf (u.plane k) (c.issuedAs seq s.now).name (c.issuedAs seq s.now).seq (c.issuedAs seq s.now).att =
      some i := by rw [plane]; exact held
    obtain ⟨l, coll, status⟩ := last (P := fun o => o = some .mismatch)
      (issuePlane_mismatches (c := c.issuedAs seq s.now) stripe found entry mine s.input.nats)
    exact ⟨l, coll, fun _ _ => status, nofun⟩

theorem collectiveIssue_issues (room : slotsFree s c.name seq c.att = true) : Answers .collectiveIssue s (fun t =>
    t.perg.nbt = s.perg.nbt.map (fun n => if n.name = e.name then e' else n) ∧
    ∃ d, t.coll? c.id = some d ∧ d.issued = true ∧ d.seq = seq ∧ d.time = s.now ∧
      ∀ k, k < 8 → (endpoint s k c e).m = 0 → (sget none d.planes k).isSome = true ∧
        (∀ i, slotOf (s.plane k) c.name seq c.att = some i → sget none d.planes k = some .mismatch) ∧
        (slotOf (s.plane k) c.name seq c.att = none → c.bar = 0 → sget none d.planes k = some .ok)) := by
  have runs := exec_collectiveIssue_turn turn
  rw [seqIssueAll_free free, given, Option.elim_some] at runs
  have plane := @collectiveIssue_plane s c e turn seq e' given _ rfl
  have work : OnPlanes (fun _ => True) (beginIssue c e e' seq s) ((List.range 8).foldl
      (fun s' i => issuePlane i (c.issuedAs seq s.now) e' s.input.nats s') (beginIssue c e e' seq s)) :=
    .foldl (fun s' i => (onPlane_issuePlane i (c.issuedAs seq s.now) e' s.input.nats s').mono fun _ _ => trivial) _ _
  have start := beginIssue_coll turn seq e'
  obtain ⟨l, coll, -⟩ := work.colls _ _ start
  refine ⟨_, runs.trans (if_neg (by rw [room]; decide)), work.nbt, _, coll, rfl, rfl, rfl, fun k lt empty => ?_⟩
  obtain ⟨l', coll', mismatch, complete⟩ := plane lt empty
  obtain rfl : l = l' := by
    have same := Option.some.inj (coll.symm.trans coll')
    exact congrArg CollSt.planes same
  refine ⟨?_, mismatch, fun free none => (complete free).of_no_bar none⟩
  cases held : slotOf (s.plane k) c.name seq c.att with
  | none => exact (complete held).isSome
  | some i => rw [mismatch i held]; rfl

end

end Sys2Proof.Machine
end

section
/-! SUPPORT. A collective's end on all its planes at once (R114, R116, R119), and the outcome that its word takes (R123). -/

namespace Sys2Proof.Machine

/-! ### PLANE_CANCEL (R114, R116) -/

/-- A plane of the collective has the status `z`. -/
def CollSt.has (c : CollSt) (z : PlaneStatus) : Prop := ∃ i, i < 8 ∧ sget none c.planes i = some z

theorem CollSt.has_iff (c : CollSt) (z : PlaneStatus) :
    (List.range 8).any (fun i => sget none c.planes i == some z) = true ↔ c.has z := by
  simp only [CollSt.has, List.any_eq_true, List.mem_range, beq_iff_eq]

theorem slotOfColl_here {s : State} {k i : Nat} {c : CollSt} (held : slotOfColl s k c = some i) :
    ∃ x, s.slotP k i = some x ∧ x.issued = some c.id := by
  unfold slotOfColl at held
  split at held
  · split at held
    · rename_i mine
      obtain rfl := Option.some.inj held
      obtain ⟨x, here, issued⟩ := (Option.any_eq_true _ _).1 mine
      exact ⟨x, here, eq_of_beq issued⟩
    · cases held
  · cases held

theorem slotOfColl_offPlane {s t : State} {k : Nat} (away : OffPlane k s t) (c : CollSt) :
    slotOfColl t k c = slotOfColl s k c := by
  simp only [slotOfColl, away.plane, away.slotP]

/-- One plane's part of PLANE_CANCEL: it ends as the plane that went before did. -/
def cancelPlane (mismatched : Bool) (c : CollSt) (e : NbEntry) (s : State) (i : Nat) : State :=
  match slotOfColl s i c with
  | none => s
  | some k => if mismatched then mismatchSlot i k s else fillPlane (endpoint s i c e) k .timeout s

theorem onPlane_cancelPlane (mismatched : Bool) (c : CollSt) (e : NbEntry) (s : State) (i : Nat) :
    OnPlane i s (cancelPlane mismatched c e s i) := by
  unfold cancelPlane
  split
  · exact .refl _ s
  · rename_i k _
    split
    · exact onPlane_mismatchSlot ..
    · exact onPlane_fillPlane (endpoint s i c e) k .timeout s

/-- What a plane that ended has: its slot is free, and its status is one that `P` allows. -/
def PlaneEnds (P : Option PlaneStatus → Prop) (c : CollSt) (i k : Nat) (t : State) : Prop :=
  t.slotP i k = none ∧ ∃ l, t.coll? c.id = some { c with planes := l } ∧ P (sget none l i)

section
variable {s : State} {c : CollSt} {e : NbEntry} {l : Sparse (Option PlaneStatus)}
  (found : s.coll? c.id = some { c with planes := l }) {i k : Nat} (held : slotOfColl s i c = some k)
include found held

theorem cancelPlane_mismatches (entry : s.nbEntry c.name = some e) :
    PlaneEnds (· = some .mismatch) c i k (cancelPlane true c e s i) := by
  obtain ⟨x, here, mine⟩ := slotOfColl_here held
  have issued : x.issued.bind s.coll? = some { c with planes := l } := by rw [mine]; exact found
  unfold cancelPlane
  rw [held]
  exact ⟨mismatchSlot_freed here issued entry, mismatchSlot_coll (c := { c with planes := l }) here issued entry⟩

theorem cancelPlane_timesOut : PlaneEnds (Given c.bar .timeout) c i k (cancelPlane false c e s i) := by
  obtain ⟨x, here, -⟩ := slotOfColl_here held
  unfold cancelPlane
  rw [held]
  exact fillPlane_ends (p := endpoint s i c e) here found .timeout

end

section
variable {s : State} {c : CollSt} {e : NbEntry} (found : s.coll? s.input.id = some c) (entry : s.nbEntry c.name = some e)
include found entry

theorem exec_planeCancel_eq : exec .planeCancel s =
    when (c.issued && ((List.range 8).any (fun i => sget none c.planes i == some .mismatch) ||
      (List.range 8).any (fun i => sget none c.planes i == some .timeout)))
      (fun s => c.open.foldl (cancelPlane ((List.range 8).any (fun i => sget none c.planes i == some .mismatch)) c e) s) s := by
  change execPlaneCancel s = _
  simp only [execPlaneCancel, found, entry]
  rfl

theorem planeCancel_stays (stays : (¬ c.has .mismatch ∧ ¬ c.has .timeout) ∨ c.issued = false) :
    exec .planeCancel s = .next s := by
  refine (exec_planeCancel_eq found entry).trans (when_not _ s ?_)
  rcases stays with ⟨mismatch, timeout⟩ | unissued
  · rw [Bool.eq_false_iff.2 (mt (c.has_iff _).1 mismatch), Bool.eq_false_iff.2 (mt (c.has_iff _).1 timeout)]
    exact Bool.and_false _
  · rw [unissued]
    rfl

theorem exec_planeCancel_mismatched (mismatch : c.has .mismatch) (issued : c.issued = true) :
    exec .planeCancel s = .next (c.open.foldl (cancelPlane true c e) s) := by
  rw [exec_planeCancel_eq found entry, (c.has_iff _).2 mismatch, issued]
  exact when_of _ s rfl

theorem exec_planeCancel_timedOut (mismatch : ¬ c.has .mismatch) (timeout : c.has .timeout) (issued : c.issued = true) :
    exec .planeCancel s = .next (c.open.foldl (cancelPlane false c e) s) := by
  rw [exec_planeCancel_eq found entry, Bool.eq_false_iff.2 (mt (c.has_iff _).1 mismatch), (c.has_iff _).2 timeout, issued]
  exact when_of _ s rfl

/-- Every plane still open ends as one of them does by itself. -/
theorem cancelPlane_all {mismatched : Bool} {P : Option PlaneStatus → Prop}
    (each : ∀ (u : State) (l : Sparse (Option PlaneStatus)) (i k : Nat), u.coll? c.id = some { c with planes := l } →
      u.nbEntry c.name = some e → slotOfColl u i c = some k → PlaneEnds P c i k (cancelPlane mismatched c e u i)) :
    ∃ d, (c.open.foldl (cancelPlane mismatched c e) s).coll? c.id = some d ∧ ∀ i k, i ∈ c.open →
      slotOfColl s i c = some k →
        (c.open.foldl (cancelPlane mismatched c e) s).slotP i k = none ∧ P (sget none d.planes i) := by
  have step := onPlane_cancelPlane mismatched c e
  have there : s.coll? c.id = some c := by rw [State.coll?_id found, found]
  have work : OnPlanes (fun _ => True) s (c.open.foldl (cancelPlane mismatched c e) s) :=
    .foldl (fun s i => (step s i).mono fun _ _ => trivial) _ s
  obtain ⟨l, coll, -⟩ := work.colls _ _ there
  refine ⟨_, coll, fun i k still held => ?_⟩
  obtain ⟨u, before, after⟩ := planes_foldl step (List.nodup_range.filter _) still s
  obtain ⟨l₀, found', -⟩ := before.colls _ _ there
  obtain ⟨freed, l₁, ended, status⟩ := each u l₀ i k found' (by rw [before.nbEntry, entry])
    (by rw [slotOfColl_offPlane before, held])
  obtain ⟨l₂, coll', same⟩ := after.colls _ _ ended
  have lists : l = l₂ := congrArg CollSt.planes (Option.some.inj (coll.symm.trans coll'))
  refine ⟨(after.slotP k).trans freed, ?_⟩
  have kept : sget none l₂ i = sget none l₁ i := same i (not_not.2 rfl)
  change P (sget none l i)
  rw [lists, kept]
  exact status

theorem planeCancel_mismatches (mismatch : c.has .mismatch) (issued : c.issued = true) :
    Answers .planeCancel s (fun t => t.mem = s.mem ∧ ∃ d, t.coll? c.id = some d ∧
      ∀ i k, i ∈ c.open → slotOfColl s i c = some k →
        sget none d.planes i = some .mismatch ∧ t.slotP i k = none) := by
  obtain ⟨d, coll, ends⟩ := cancelPlane_all found entry fun u l i k there named held =>
    cancelPlane_mismatches (e := e) there held named
  refine ⟨_, exec_planeCancel_mismatched found entry mismatch issued, ?_, d, coll,
    fun i k still held => (ends i k still held).symm⟩
  refine List.foldlRecOn (motive := fun t : State => t.mem = s.mem) _ _ rfl fun t same i _ => ?_
  unfold cancelPlane
  split
  · exact same
  · exact (mismatchSlot_frame ..).1.trans same

theorem planeCancel_timesOut (mismatch : ¬ c.has .mismatch) (timeout : c.has .timeout) (issued : c.issued = true) :
    Answers .planeCancel s (fun t => ∃ d, t.coll? c.id = some d ∧ ∀ i k, i ∈ c.open → slotOfColl s i c = some k →
      t.slotP i k = none ∧ Given c.bar .timeout (sget none d.planes i)) :=
  ⟨_, exec_planeCancel_timedOut found entry mismatch timeout issued,
    cancelPlane_all found entry fun _ _ _ _ there _ held => cancelPlane_timesOut there held⟩

end

/-! ### COLLECTIVE_CANCEL (R119) -/

/-- Every plane of a collective is cancelled. -/
def CollSt.cancelled (c : CollSt) : Prop := ∀ i, i < 8 → sget none c.planes i = some .cancel

/-- From `s` to `t` collectives are only cancelled: memory and cores stand, none is lost, and one that is cancelled stays so. -/
structure Cancels (s t : State) : Prop where
  mem   : t.mem = s.mem
  cores : t.cores = s.cores
  kept  : ∀ id c, s.coll? id = some c → ∃ d, t.coll? id = some d ∧ (c.cancelled → d.cancelled)

theorem Cancels.refl (s : State) : Cancels s s := ⟨rfl, rfl, fun _ c found => ⟨c, found, fun h => h⟩⟩

theorem Cancels.trans {s t u : State} (h : Cancels s t) (g : Cancels t u) : Cancels s u where
  mem := g.mem.trans h.mem
  cores := g.cores.trans h.cores
  kept id c found := by
    obtain ⟨d, there, stays⟩ := h.kept id c found
    obtain ⟨d', there', stays'⟩ := g.kept id d there
    exact ⟨d', there', stays' ∘ stays⟩

theorem Cancels.foldl {α : Type} {f : State → α → State} (step : ∀ s a, Cancels s (f s a)) (l : List α) (s : State) :
    Cancels s (l.foldl f s) :=
  List.foldlRecOn _ _ (.refl s) fun t h a _ => h.trans (step t a)

/-- A change of one collective that cancels whatever it changes. -/
theorem cancels_modColl (id : Nat) {f : CollSt → CollSt} (same : ∀ c, (f c).id = c.id)
    (cancels : ∀ c : CollSt, c.cancelled → (f c).cancelled) (s : State) : Cancels s (s.modColl id f) where
  mem := rfl
  cores := rfl
  kept j c found := by
    by_cases e : j = id
    · subst e
      exact ⟨f c, State.coll?_modColl_some found same, cancels c⟩
    · exact ⟨c, by rw [State.coll?_modColl_ne s e same, found], fun h => h⟩

theorem cancels_of_colls {s t : State} (colls : t.perg.colls = s.perg.colls) (mem : t.mem = s.mem)
    (cores : t.cores = s.cores) : Cancels s t :=
  ⟨mem, cores, fun id c found => ⟨c, by rw [State.coll?, colls]; exact found, fun h => h⟩⟩

theorem cancels_closePlane (p : Endpoint) (i : Nat) (s : State) : Cancels s (closePlane p (some i) .cancel s) := by
  have freed : Cancels s ((freeOptional p.plane (some i) s).modPlane p.plane (PlaneSt.ended .cancel)) :=
    cancels_of_colls rfl rfl rfl
  refine freed.trans (cancels_modColl p.c.id (f := fun c => { c with planes := sput c.planes p.plane (some .cancel) })
    (fun _ => rfl) (fun c all j lt => ?_) _)
  by_cases e : j = p.plane
  · subst e
    exact sget_sput_self ..
  · exact (sget_sput_ne _ _ _ e).trans (all j lt)

/-- A collective not yet issued, all of whose planes are cancelled. -/
def CollSt.dropped (c : CollSt) : CollSt := { c with planes := (List.range 8).map (fun i => (i, some .cancel)) }

theorem CollSt.dropped_cancelled (c : CollSt) : c.dropped.cancelled := fun _ lt => sget_allPlanes .cancel lt

theorem cancelColl_unissued {c : CollSt} (waits : c.issued = false) (s : State) :
    cancelColl c s = s.modColl c.id CollSt.dropped := if_neg (by rw [waits]; decide)

theorem cancels_cancelColl (s : State) (c : CollSt) : Cancels s (cancelColl c s) := by
  cases issued : c.issued with
  | false =>
    rw [cancelColl_unissued issued]
    exact cancels_modColl c.id (f := CollSt.dropped) (fun _ => rfl) (fun c _ => c.dropped_cancelled) s
  | true =>
    unfold cancelColl
    rw [if_pos issued]
    split
    · exact .refl s
    · refine .foldl (fun t i => ?_) _ s
      split
      · rw [endPlane_silent (.inr rfl)]
        exact cancels_closePlane ..
      · exact .refl t

theorem cancelColls_reaches {c : CollSt} (waits : c.issued = false) {l : List CollSt} (here : c ∈ l) (s : State) {d : CollSt}
    (found : s.coll? c.id = some d) :
    ∃ d', (l.foldl (fun s c => cancelColl c s) s).coll? c.id = some d' ∧ d'.cancelled := by
  induction l generalizing s d with
  | nil => cases here
  | cons a l ih =>
    rw [List.foldl_cons]
    rcases List.mem_cons.1 here with rfl | later
    · have dropped : (cancelColl c s).coll? c.id = some d.dropped := by
        rw [cancelColl_unissued waits]
        exact State.coll?_modColl_some found (f := CollSt.dropped) fun _ => rfl
      obtain ⟨d', there, stays⟩ := (Cancels.foldl cancels_cancelColl l _).kept _ _ dropped
      exact ⟨d', there, stays d.dropped_cancelled⟩
    · obtain ⟨d', there, -⟩ := (cancels_cancelColl s a).kept _ _ found
      exact ih later _ there

/-- The status write ABORTED of the tag is complete (R119). -/
def AbortComplete (s : State) (t : Nat) : Prop :=
  t ≠ 0 ∧ sget .free s.mem.master t = .aborted ∧ ∀ w ∈ s.mem.writes, w.tag ≠ t

theorem abortComplete_iff (s : State) (t : Nat) : (decide (t ≠ 0) && decide (tagState s t = .aborted) &&
    s.mem.writes.all (fun w => w.tag != t)) = true ↔ AbortComplete s t := by
  simp only [AbortComplete, Bool.and_eq_true, decide_eq_true_eq, List.all_eq_true, bne_iff_ne, and_assoc]
  rfl

theorem exec_collectiveCancel_eq (s : State) : exec .collectiveCancel s = when (decide (s.input.tag ≠ 0) &&
    decide (tagState s s.input.tag = .aborted) && s.mem.writes.all (fun w => w.tag != s.input.tag))
    (fun t => (t.perg.colls.filter (fun c => c.tag == s.input.tag)).foldl (fun s c => cancelColl c s) t) s := rfl

theorem collectiveCancel_waits {s : State} (early : ¬ AbortComplete s s.input.tag) : exec .collectiveCancel s = .next s :=
  (exec_collectiveCancel_eq s).trans (when_not _ s <| Bool.eq_false_iff.2 (mt (abortComplete_iff ..).1 early))

theorem collectiveCancel_cancels {s : State} (now : AbortComplete s s.input.tag) :
    Answers .collectiveCancel s (fun u => u.mem = s.mem ∧ u.cores = s.cores ∧
      ∀ c, c ∈ s.perg.colls → c.tag = s.input.tag →
      s.coll? c.id = some c → ∃ d, u.coll? c.id = some d ∧
        (c.issued = false → ∀ i, i < 8 → sget none d.planes i = some .cancel)) := by
  have work := Cancels.foldl cancels_cancelColl (s.perg.colls.filter (fun c => c.tag == s.input.tag)) s
  have runs := (exec_collectiveCancel_eq s).trans (when_of _ s ((abortComplete_iff ..).2 now))
  refine ⟨_, runs, work.mem, work.cores, fun c listed tagged found => ?_⟩
  have member : c ∈ s.perg.colls.filter (fun c => c.tag == s.input.tag) := List.mem_filter.2 ⟨listed, beq_iff_eq.2 tagged⟩
  cases waits : c.issued with
  | true =>
    obtain ⟨d, there, -⟩ := work.kept _ _ found
    exact ⟨d, there, nofun⟩
  | false =>
    obtain ⟨d, there, cancelled⟩ := cancelColls_reaches waits member s found
    exact ⟨d, there, fun _ => cancelled⟩

/-! ### COLLECTIVE_COMPLETE (R123) -/

/-- The status of a plane, OK where it has none. -/
def CollSt.status (c : CollSt) (i : Nat) : PlaneStatus := (sget none c.planes i).getD .ok

/-- The worst status of the planes (R123). -/
def CollSt.worst (c : CollSt) : PlaneStatus := (List.range 8).foldl (fun a i => a.worse (c.status i)) .ok

/-- The rank is the place in the order that the statuses are listed in. -/
theorem PlaneStatus.rank_injective : Function.Injective PlaneStatus.rank := by
  have place : PlaneStatus.rank = PlaneStatus.ctorIdx := funext fun z => by cases z <;> rfl
  rw [place]
  exact Function.LeftInverse.injective PlaneStatus.ofNat_ctorIdx

theorem PlaneStatus.rank_worse (a b : PlaneStatus) : (a.worse b).rank = min a.rank b.rank := by
  unfold PlaneStatus.worse
  split <;> omega

theorem PlaneStatus.worse_or (a b : PlaneStatus) : a.worse b = a ∨ a.worse b = b := ite_eq_or_eq ..

/-- The worst of several statuses is one of them, and none is worse. -/
theorem foldl_worse (f : Nat → PlaneStatus) (l : List Nat) (a : PlaneStatus) :
    let z := l.foldl (fun a i => a.worse (f i)) a
    z.rank ≤ a.rank ∧ (∀ i ∈ l, z.rank ≤ (f i).rank) ∧ (z = a ∨ ∃ i ∈ l, z = f i) := by
  induction l generalizing a with
  | nil => exact ⟨le_rfl, nofun, .inl rfl⟩
  | cons i l ih =>
    obtain ⟨start, rest, among⟩ := ih (a.worse (f i))
    rw [PlaneStatus.rank_worse] at start
    refine ⟨start.trans (min_le_left ..), fun k listed => ?_, ?_⟩
    · rcases List.mem_cons.1 listed with rfl | later
      · exact start.trans (min_le_right ..)
      · exact rest k later
    · rcases among with first | ⟨k, listed, same⟩
      · rcases PlaneStatus.worse_or a (f i) with left | right
        · exact .inl (first.trans left)
        · exact .inr ⟨i, List.mem_cons_self, first.trans right⟩
      · exact .inr ⟨k, List.mem_cons_of_mem i listed, same⟩

theorem CollSt.worst_of_ok {c : CollSt} (all : ∀ i, i < 8 → c.status i = .ok) : c.worst = .ok := by
  obtain ⟨-, -, first | ⟨k, lt, same⟩⟩ := foldl_worse c.status (List.range 8) .ok
  · exact first
  · exact same.trans (all k (List.mem_range.1 lt))

theorem CollSt.worst_of_least {c : CollSt} {i : Nat} (lt : i < 8)
    (least : ∀ k, k < 8 → (c.status i).rank ≤ (c.status k).rank) : c.worst = c.status i := by
  obtain ⟨-, below, among⟩ := foldl_worse c.status (List.range 8) .ok
  refine PlaneStatus.rank_injective (le_antisymm (below i (List.mem_range.2 lt)) ?_)
  rcases among with first | ⟨k, listed, same⟩
  · have top (z : PlaneStatus) : z.rank ≤ PlaneStatus.ok.rank := by cases z <;> decide
    exact (top (c.status i)).trans_eq (congrArg PlaneStatus.rank first).symm
  · exact (least k (List.mem_range.1 listed)).trans_eq (congrArg PlaneStatus.rank same).symm

/-! #### Flags and the fault of a part (R123, R130, R208) -/

theorem hwFlags_raiseTag_self {t : Nat} (named : t ≠ 0) (f : BitVec 16) (s : State) :
    sget 0 (raiseTag t f s).arb.hwFlags t = sget 0 s.arb.hwFlags t ||| f := by
  unfold raiseTag
  rw [if_neg named]
  exact sget_smod_self 0 s.arb.hwFlags t (· ||| f)

theorem hwFlags_raiseTag_ne {t k : Nat} (other : k ≠ t) (f : BitVec 16) (s : State) :
    sget 0 (raiseTag t f s).arb.hwFlags k = sget 0 s.arb.hwFlags k := by
  unfold raiseTag
  split
  · rfl
  · exact sget_smod_ne 0 s.arb.hwFlags (· ||| f) other

/-- A flag that a tag already has is raised to no effect. -/
theorem hwFlags_raiseTag_held {k : Nat} {f : BitVec 16} {s : State} (t : Nat)
    (held : sget 0 s.arb.hwFlags k ||| f = sget 0 s.arb.hwFlags k) :
    sget 0 (raiseTag t f s).arb.hwFlags k = sget 0 s.arb.hwFlags k := by
  by_cases e : k = t
  · subst e
    by_cases none : k = 0
    · rw [raiseTag, if_pos none]
    · exact (hwFlags_raiseTag_self none f s).trans held
  · exact hwFlags_raiseTag_ne e f s

theorem PlaneStatus.veto_of_poison {z : PlaneStatus} : isPoison z.cause 0 = true → z.veto = flCORR := by
  cases z <;> decide

/-- A part's fault for POISON raises no flag that the collective's status has not raised. -/
theorem hwFlags_raiseCorr (z : PlaneStatus) {k : Nat} {s : State} (t : Nat)
    (raised : sget 0 s.arb.hwFlags k ||| z.veto = sget 0 s.arb.hwFlags k) :
    sget 0 (raiseCorr t z.cause 0 s).arb.hwFlags k = sget 0 s.arb.hwFlags k := by
  unfold raiseCorr
  split
  · rename_i poison
    rw [PlaneStatus.veto_of_poison poison] at raised
    exact hwFlags_raiseTag_held t raised
  · rfl

theorem partFault_job {s : State} {id : Nat} {j : TileJob} (found : s.job? id = some j) (cause : BitVec 8) (addr : Word) :
    ∃ y, (partFault id cause addr s).job? id = some y ∧ y.executed = j.executed ∧ y.member = j.member ∧
      (j.fault = none → ∃ f, y.fault = some f ∧ f.cause = cause) := by
  obtain ⟨arb, raised⟩ := raiseCorr_eq j.tag cause 0 s
  unfold partFault
  simp only [found, raised]
  refine ⟨_, State.job?_modJob (s := { s with arb := arb }) found fun _ => rfl, rfl, rfl, fun none => ?_⟩
  exact ⟨_, by rw [none]; rfl, rfl⟩

theorem partFault_frame {s : State} {id : Nat} {j : TileJob} (found : s.job? id = some j) (cause : BitVec 8) (addr : Word) :
    let t := partFault id cause addr s
    t.perg = s.perg ∧ t.mem = s.mem ∧ t.cores = s.cores ∧ t.arb = (raiseCorr j.tag cause 0 s).arb := by
  obtain ⟨arb, raised⟩ := raiseCorr_eq j.tag cause 0 s
  unfold partFault
  simp only [found, raised]
  exact ⟨rfl, rfl, rfl, rfl⟩

/-! #### The turn -/

/-- The state in which a collective is over and its word executed. -/
def closeColl (c : CollSt) (s : State) : State :=
  (raiseTag c.tag c.worst.veto { s with perg := { s.perg with colls := s.perg.colls.filter (fun d => d.id != c.id) } }).modJob
    c.word (fun j => { j with executed := true })

/-- The address that the fault of a collective names (R123, R306). -/
def CollSt.faultAddr (c : CollSt) : Word :=
  match c.worst with
  | .owner | .poison => Config.collectiveAddr c.word
  | _ => 0

/-- The same state with the part's fault, where the collective ends with one. -/
def endColl (c : CollSt) (s : State) : State :=
  if c.worst = .ok then closeColl c s else partFault c.word c.worst.cause c.faultAddr (closeColl c s)

section
variable {s : State} {c : CollSt} (found : s.coll? s.input.id = some c)
include found

theorem exec_collectiveComplete_eq : exec .collectiveComplete s = when c.open.isEmpty (fun s =>
    match (endColl c s).job? c.word with
    | some j => if j.member then memberReport (tileCtx (endColl c s) j) (endColl c s) else endColl c s
    | none => endColl c s) s := by
  change execCollectiveComplete s = _
  simp only [execCollectiveComplete, found]
  rfl

theorem collectiveComplete_waits (more : c.open ≠ []) : exec .collectiveComplete s = .next s :=
  (exec_collectiveComplete_eq found).trans (when_not _ s (Bool.eq_false_iff.2 (mt List.isEmpty_iff.1 more)))

theorem exec_collectiveComplete_ends (done : c.open = []) {y : TileJob} (job : (endColl c s).job? c.word = some y)
    (alone : y.member = false) : exec .collectiveComplete s = .next (endColl c s) := by
  refine (exec_collectiveComplete_eq found).trans ((when_of _ s (List.isEmpty_iff.2 done)).trans ?_)
  simp only [job, alone, Bool.false_eq_true, if_false]

end

theorem closeColl_frame (c : CollSt) (s : State) :
    (closeColl c s).perg.colls = s.perg.colls.filter (fun d => d.id != c.id) ∧ (closeColl c s).mem = s.mem ∧
      (closeColl c s).cores = s.cores := by
  obtain ⟨arb, raised⟩ := raiseTag_eq c.tag c.worst.veto
    { s with perg := { s.perg with colls := s.perg.colls.filter (fun d => d.id != c.id) } }
  unfold closeColl
  rw [raised]
  exact ⟨rfl, rfl, rfl⟩

theorem closeColl_job {s : State} {c : CollSt} {j : TileJob} (found : s.job? c.word = some j) :
    (closeColl c s).job? c.word = some { j with executed := true } := by
  obtain ⟨arb, raised⟩ := raiseTag_eq c.tag c.worst.veto
    { s with perg := { s.perg with colls := s.perg.colls.filter (fun d => d.id != c.id) } }
  unfold closeColl
  rw [raised]
  exact State.job?_modJob (f := fun j => { j with executed := true }) found fun _ => rfl

theorem closeColl_flags_ok {c : CollSt} (ok : c.worst = .ok) (s : State) (k : Nat) :
    sget 0 (closeColl c s).arb.hwFlags k = sget 0 s.arb.hwFlags k := by
  refine hwFlags_raiseTag_held c.tag ?_
  rw [ok]
  exact BitVec.or_zero

theorem closeColl_flags {c : CollSt} (named : c.tag ≠ 0) (s : State) :
    sget 0 (closeColl c s).arb.hwFlags c.tag = sget 0 s.arb.hwFlags c.tag ||| c.worst.veto :=
  hwFlags_raiseTag_self named _ _

theorem endColl_frame {s : State} {c : CollSt} {j : TileJob} (found : s.job? c.word = some j) :
    (endColl c s).perg.colls = s.perg.colls.filter (fun d => d.id != c.id) ∧ (endColl c s).mem = s.mem ∧
      (endColl c s).cores = s.cores := by
  obtain ⟨colls, mem, cores⟩ := closeColl_frame c s
  unfold endColl
  split
  · exact ⟨colls, mem, cores⟩
  · obtain ⟨perg', mem', cores', -⟩ := partFault_frame (closeColl_job found) c.worst.cause c.faultAddr
    exact ⟨(congrArg PergSt.colls perg').trans colls, mem'.trans mem, cores'.trans cores⟩

theorem endColl_ok {c : CollSt} (ok : c.worst = .ok) (s : State) : endColl c s = closeColl c s := if_pos ok

theorem endColl_faults {c : CollSt} (bad : c.worst ≠ .ok) (s : State) :
    endColl c s = partFault c.word c.worst.cause c.faultAddr (closeColl c s) := if_neg bad

/-- What the word of an ended collective takes of it. -/
theorem endColl_job {s : State} {c : CollSt} {j : TileJob} (found : s.job? c.word = some j) :
    ∃ y, (endColl c s).job? c.word = some y ∧ y.executed = true ∧ y.member = j.member ∧
      (c.worst = .ok → y.fault = j.fault) ∧
      (c.worst ≠ .ok → j.fault = none → ∃ f, y.fault = some f ∧ f.cause = c.worst.cause) := by
  have closed := closeColl_job found
  by_cases ok : c.worst = .ok
  · rw [endColl_ok ok]
    exact ⟨_, closed, rfl, rfl, fun _ => rfl, fun bad => absurd ok bad⟩
  · rw [endColl_faults ok]
    obtain ⟨y, job, executed, member, fault⟩ := partFault_job closed c.worst.cause c.faultAddr
    exact ⟨y, job, executed, member, fun good => absurd good ok, fun _ => fault⟩

theorem endColl_flags {s : State} {c : CollSt} {j : TileJob} (found : s.job? c.word = some j) (bad : c.worst ≠ .ok)
    (named : c.tag ≠ 0) : sget 0 (endColl c s).arb.hwFlags c.tag = sget 0 s.arb.hwFlags c.tag ||| c.worst.veto := by
  obtain ⟨-, -, -, arb⟩ := partFault_frame (closeColl_job found) c.worst.cause c.faultAddr
  have closed := closeColl_flags named s
  rw [endColl_faults bad, arb, hwFlags_raiseCorr c.worst _ ?_, closed]
  rw [closed, BitVec.or_assoc, BitVec.or_self]

theorem collectiveComplete_ends {s : State} {c : CollSt} (found : s.coll? s.input.id = some c) (done : c.open = [])
    {j : TileJob} (job : s.job? c.word = some j) (alone : j.member = false) : Answers .collectiveComplete s (fun t =>
      t.perg.colls = s.perg.colls.filter (fun d => d.id != c.id) ∧ t.mem = s.mem ∧ t.cores = s.cores ∧
      ∃ y, t.job? c.word = some y ∧ y.executed = true ∧
        ((∀ i, i < 8 → c.status i = .ok) → y.fault = j.fault ∧
          ∀ k, sget 0 t.arb.hwFlags k = sget 0 s.arb.hwFlags k) ∧
        (∀ i, i < 8 → c.status i ≠ .ok → (∀ k, k < 8 → (c.status i).rank ≤ (c.status k).rank) → j.fault = none →
          ∃ f, y.fault = some f ∧ f.cause = (c.status i).cause ∧
          (c.tag ≠ 0 → sget 0 t.arb.hwFlags c.tag = sget 0 s.arb.hwFlags c.tag ||| (c.status i).veto))) := by
  obtain ⟨y, there, executed, member, sound, faulty⟩ := endColl_job job
  obtain ⟨colls, mem, cores⟩ := endColl_frame job
  refine ⟨_, exec_collectiveComplete_ends found done there (member.trans alone), colls, mem, cores, y, there, executed,
    fun all => ?_, fun i lt bad least new => ?_⟩
  · have ok := CollSt.worst_of_ok all
    exact ⟨sound ok, fun k => by rw [endColl_ok ok]; exact closeColl_flags_ok ok s k⟩
  · have worst := CollSt.worst_of_least lt least
    rw [← worst] at bad ⊢
    obtain ⟨f, fault, cause⟩ := faulty bad new
    exact ⟨f, fault, cause, endColl_flags job bad⟩

/-! ### The statement -/

/-- What COLLECTIVE_TIMEOUT does at a slot, by the rings that lost two links and the time passed (log 92). -/
theorem collectiveTimeout_ends {s : State} {y : SlotP} {c : CollSt} {e : NbEntry}
    (here : s.slotP s.input.stack s.input.slot = some y) (issued : y.issued.bind s.coll? = some c)
    (entry : s.nbEntry c.name = some e) :
    let ends (z : PlaneStatus) : Prop := Answers .collectiveTimeout s (fun t => t.slotP s.input.stack s.input.slot = none ∧
      ∃ d, t.coll? c.id = some d ∧ Given c.bar z (sget none d.planes s.input.stack))
    let down := ringsDown s (endpoint s s.input.stack c e) s.input.nats
    (down = true → ends .link) ∧
    (down = false → c.time + e.tmo * 1000 ≤ s.now → ends .timeout) ∧
    (down = false → s.now < c.time + e.tmo * 1000 → exec .collectiveTimeout s = .next s) := by
  have runs := exec_collectiveTimeout_eq here issued entry
  refine ⟨fun down => timedOut here issued (runs.trans (if_pos down)), fun up passed => ?_, fun up early => ?_⟩
  · exact timedOut here issued (runs.trans ((if_neg (Bool.eq_false_iff.1 up)).trans (when_of _ s (decide_eq_true passed))))
  · exact runs.trans ((if_neg (Bool.eq_false_iff.1 up)).trans (when_not _ s (decide_eq_false (Nat.not_le.2 early))))

theorem collectiveEvents : Claim.CollectiveEvents := by
  intro s
  refine ⟨exec_register_idle, fun l quiet phys => recordAt_hbm quiet phys,
    fun quiet asked bad => register_illegal quiet asked bad,
    fun e quiet asked read => register_results quiet asked read, exec_deregister_idle, deregister_unknown,
    fun e asked found => deregister_results asked found, exec_query_idle, query_unknown,
    fun e l quiet asked found phys => query_gives asked quiet found phys,
    fun c e found entry waits left first => ?issue, fun e tag none => ?untagged, ⟨?early, ?ready, ?expiry, ?timeout⟩,
    fun c e found entry => ⟨planeCancel_stays found entry,
      planeCancel_mismatches found entry, planeCancel_timesOut found entry⟩,
    ⟨collectiveCancel_waits, collectiveCancel_cancels⟩,
    fun c j found => ⟨collectiveComplete_waits found,
      fun done job alone => collectiveComplete_ends found done job alone⟩, ⟨rfl, rfl, rfl, rfl, rfl, rfl⟩⟩
  case issue =>
    have turn : IssueTurn s c e := ⟨found, entry, waits, left, first⟩
    exact ⟨collectiveIssue_owner turn, fun seq e' free given full => collectiveIssue_waits turn free given full,
      fun seq e' free given room => collectiveIssue_issues turn free given room⟩
  case untagged => exact ⟨(seqIssue_untagged none _).1, (seqIssue_untagged none _).2 tag⟩
  case early => exact fun early => ⟨chunkArrival_early early, markArrival_early early⟩
  case ready =>
    intro ready
    refine ⟨chunkArrival_passes ready, chunkArrival_unknown ready,
      fun i own new known free => chunkArrival_takes ready own known new free,
      fun own new known full => chunkArrival_full ready own known new full,
      fun i y own known held here alone => ⟨chunkArrival_mismatches ready own known held here alone,
        chunkArrival_waits ready own known held here alone, chunkArrival_held ready own known held here alone⟩,
      markArrival_unknown ready, fun i new known free => markArrival_takes ready known new free,
      fun i y known held here marked => markArrival_again ready known held here marked,
      fun i y known held here unmarked alone => markArrival_marks ready known held here unmarked alone,
      fun i y c known held here unmarked same issued entry => ?_⟩
    have ends := markArrival_ends ready known held here unmarked issued entry
    rw [same] at ends
    exact ends
  case expiry => exact fun y here => ⟨slotTmoExpiry_frees here, slotTmoExpiry_stays here⟩
  case timeout =>
    intro y c e here issued entry
    obtain ⟨link, timeout, stays⟩ := collectiveTimeout_ends here issued entry
    refine ⟨link, timeout, stays, fun none up => ?_, ringsDown_row e s.input.nats⟩
    rw [none]
    exact ringsDown_up up c e

/-- Settles O48: the named buffers' records and the ring's step by their definitions; each event by its turn's equation, and
the work on several planes by what each plane's own work leaves of the others (`planes_foldl`). -/
theorem collectiveEventResults : Obligations.CollectiveEventResults := ⟨bufferRecord, ringStep, collectiveEvents⟩

end Sys2Proof.Machine
end
